-- ==== Sys2Proof/Word.lean ====
section
/-! DEFINITION. The word types of the Ceryen W1: an unqualified word is 64 bits (R8), and the 256-bit
track word, command word and sector are named in full. -/

namespace Sys2Proof

/-- An unqualified word: 64 bits (R8). -/
abbrev Word := BitVec 64

/-- A 256-bit track word, sector or vector register (R8, R75, R222). -/
abbrev Wide := BitVec 256

/-- One byte of a memory. -/
abbrev Byte := BitVec 8

/-- A scalar register name x0–x31 (R33). -/
abbrev Reg := BitVec 5

end Sys2Proof
end

