-- ==== Sys2Proof/Config.lean ====
section
/-! DEFINITION. What an implementation fixes, and the free values of the model: every value the spec leaves
open is an `opaque` constant without a body, so that nothing in Lean can evaluate it. -/

namespace Sys2Proof.Config

/-- The free byte number `n`: leftover data under a discarded key, which reads as noise (R406), and the
unspecified bits of unoccupied tracks of a migration target (R389). Log entry 8. -/
opaque freeByte : Nat → Byte

/-- The free word number `n`: timing values the spec does not fix (MSGLAT.CYCLES), and the Zholos
records whose contents it does not fix. Log entry 8. -/
opaque freeWord : Nat → Word

/-- Which value a source element has when the copy that reads it also writes it (R212): true when the
element is read before the write. Log entry 8. -/
opaque readsOld : Nat → Bool

/-- A 256-bit sector that was stored under one key, read under another (R328, R406): the number of the key of its store, of
the key of the read, the number of the sector, and its bits. Log entry 10. -/
opaque reseal : (stored read sector : Nat) → Wide → Wide

/-- Which of the free pages that PGALLOC may give it gives, by the core and the number of choices it has had (R183).
Log entry 8. -/
opaque freePage : (core n : Nat) → Nat

/-- The derivation of KCAP from the owner key, which the spec does not give (R318, R406). Log entry 10. -/
opaque kcapOf : BitVec 256 → BitVec 256

/-- Whether byte 0 of an AES block is the most significant byte of the 128-bit number of R318; the spec does
not say. Log entry 10. -/
opaque aesBigEndian : Bool

/-- Estimated power in milliwatts of a quad at an operating point in a temperature band (R379). Log entry 12. -/
opaque estPower : (quad point band : Nat) → Nat

/-- Admission current in milliamperes of a quad at an operating point of its table number `plan` (R381, R393). Log entry 12. -/
opaque admission : (quad plan point : Nat) → Nat

/-- What the supply voltage of Zholos's operating-point table number `plan` adds to 550 mV, modulo 301 (R376, R393). Log
entry 12. -/
opaque voltage : (quad plan point band : Nat) → Nat

/-- The reading of a die's reference sensor, °C + 40, at a fabric cycle (R387, R391). Log entry 12. -/
opaque reference : (die now : Nat) → BitVec 8

/-- The energy a die has drawn since module reset at a later fabric cycle (R391). Log entry 12. -/
opaque heat : (die now : Nat) → Word

/-- The number under which an event record names check `n` of R387 (0 plausibility, 1 rate, 2 stuck, 3 neighbour); the
spec gives none. Log entry 8. -/
opaque checkCode : Nat → BitVec 8

/-- The type in a format register of a peer partition's quad, by the physical bit of the cabinet in the model's numbering
(R59, R71): the peer's registers are not of this module. Log entry 8. -/
opaque peerFormat : Nat → BitVec 5

/-- The module's serial number (R407, R410). Log entry 68. -/
opaque serial : Word

/-- The SHAKE256 digest of the ROM (R407). Log entry 68. -/
opaque romDigest : BitVec 256

/-- The SHAKE256 digest of a harvest map (R407). Log entry 68. -/
opaque harvestDigest : List (Nat × List Nat) → BitVec 256

/-- The ML-KEM-1024 encapsulation key number `n`, made afresh, as a number (R407). Log entry 68. -/
opaque encapKey : Nat → Nat

/-- The signature under the module's device key of what a report holds, as a number (R407). Log entry 68. -/
opaque signature : List Nat → Nat

/-- A word of a colophon's quad sections under dump key number `key`, by its byte offset in the slot (R410). Log entry 68. -/
opaque dumpWord : (key offset : Nat) → Word → Word

/-- Dump key number `key` wrapped to encapsulation key number `encap` (R410). Log entry 68. -/
opaque wrapKey : (key encap : Nat) → Nat

/-- What the self-test of the cold boot after a fatal error finds: the failed quads of physical clusters (R408, R409). Log
entry 68. -/
opaque selfTest : Nat → List (Nat × List (Fin 20))

/-- Whether a path between a partition and the rim of the module, whose routers the spec does not place, crosses a link or a
router (R409). Log entry 68. -/
opaque rimCrosses : (ident place : Nat) → Bool

/-- The operating frequencies of points 0–7 in MHz (R376). -/
def frequency : List Nat := [400, 500, 600, 700, 850, 950, 1000, 1100]

/-- Bytes of HBM: 24 stacks of 64 GiB (R22). -/
def hbmBytes : Nat := 24 * 2 ^ 36

/-- A module carries 24 HBM stacks (R22). -/
def hbmStacks : Nat := 24

end Sys2Proof.Config
end

