-- ==== Sys2Proof/Syntax.lean ====
section
/-! DEFINITION. The syntax of every row of the opcode table: the scalar instructions (R138–R191, R305–R322),
the 256-bit commands (R192–R278) and the device's own steps (the events of the table). One constructor of
`Instr` per row; register numbers, widths and fields are operands. -/

namespace Sys2Proof

/-- The eight width codes of R144, in the order of their codes. -/
inductive Width where
  | b1 | b3 | b4 | b6 | b8 | b16 | b32 | b64
  deriving DecidableEq, Repr

/-- FENCE scopes (R169). -/
inductive Scope where
  | quad | cluster | die | module | system
  deriving DecidableEq, Repr

/-- AWAIT's comparison (R167). -/
inductive AwaitCmp where
  | eq | ne | geu | ges
  deriving DecidableEq, Repr

/-- The ordering bits of an atomic: AQ, RL and SYS (R159). -/
structure Order where
  aq : Bool
  rl : Bool
  sys : Bool
  deriving DecidableEq, Repr

/-- The patch descriptor of CMD and CMDR: P1 and P2 (R170). -/
structure Patch where
  p1 : BitVec 2
  p2 : BitVec 2
  deriving DecidableEq, Repr

/-- The address slots of a command word (R192); `ua` and `ub` are the unresolved marks of slots A and B
(R171). -/
structure Slots where
  a : Word
  b : Word
  c : Word
  ua : Bool
  ub : Bool
  deriving DecidableEq, Repr

/-- FIELDS of a track-port command (R204). -/
structure TrackF where
  track : BitVec 7
  head : BitVec 10
  step : BitVec 3
  four : Bool
  seg : BitVec 2
  vreg : BitVec 5
  npos : BitVec 10
  low : BitVec 10
  deriving DecidableEq, Repr

/-- FIELDS of a vector command (R225). -/
structure VecF where
  vd : BitVec 5
  va : BitVec 5
  vb : BitVec 5
  vc : BitVec 5
  gc : BitVec 2
  men : Bool
  mreg : BitVec 3
  mz : Bool
  rt : BitVec 5
  fn : BitVec 5
  rtz : Bool
  xt : BitVec 5
  aux : BitVec 5
  deriving DecidableEq, Repr

/-- FIELDS of a press command (R251). -/
structure PressF where
  sa : BitVec 4
  sb : BitVec 4
  sm : BitVec 4
  acc : BitVec 2
  acc2 : BitVec 2
  ty : BitVec 5
  rtz : Bool
  tr : Bool
  dk : Bool
  rs : Bool
  nrow : BitVec 5
  sp8 : Bool
  cwput : Bool
  rmt : Bool
  mreg : BitVec 3
  low : BitVec 12
  deriving DecidableEq, Repr

/-- FIELDS of a copy-engine command (R209). -/
structure CopyF where
  cwput : Bool
  rb : Bool
  subid : BitVec 3
  ns : BitVec 4
  low : BitVec 39
  deriving DecidableEq, Repr

/-- FIELDS of a queue-control command (R201). -/
structure QueueF where
  n : BitVec 12
  m : BitVec 3
  stagger : BitVec 5
  low : BitVec 28
  deriving DecidableEq, Repr

/-- A register bank of a core: the place of a resident strand. Cores are numbered 1,024·y + x by their logical
coordinates (R17). -/
structure Place where
  core : Nat
  bank : Fin 4
  deriving DecidableEq, Repr

/-- What an access asks its home to do (R146, R147, R159–R167). -/
inductive MemOp where
  | load (signed : Bool)
  | store
  | amoAdd | amoAnd | amoOr | amoXor | amoMin | amoMax | amoMinn | amoMaxn | amoSwap | amoFadd
  | cas
  | take
  | takeNb
  | put
  | festat
  | await (cmp : AwaitCmp)
  deriving DecidableEq, Repr

/-- One part of an access: `width` bits from physical bit `key` up (R62). -/
structure Part where
  key : Nat
  width : Nat
  deriving DecidableEq, Repr

/-- An access message on its way to its home (R279): the issuing place, its strand (by save-frame pointer) and
sequence tag (R289), the operation, the resolved parts, the address as issued, the data, the registers that
take the reply, and whether it executes in the issuing cluster's cache (R371). -/
structure Msg where
  src : Place
  sfp : Word
  tag : Nat
  op : MemOp
  parts : List Part
  addr : Word
  data : Word
  expect : Word
  rd : Reg
  rt : Reg
  cached : Bool
  deriving DecidableEq, Repr

/-- The answer of a home to an access: a value and a status bit, put-on-full, or a fault returned by a peer
(R59, R164, R165). -/
inductive Answer where
  | value (v : Word) (status : Bool)
  | putOnFull
  | peerFault
  deriving DecidableEq, Repr

/-- A command sent by CMDR (R220, R221): its sender, the sender's mode and coordinates, and the command word with
its unresolved marks. -/
structure Remote where
  src : Place
  sfp : Word
  priv : Bool
  word : BitVec 256
  ua : Bool
  ub : Bool
  deriving DecidableEq, Repr

/-- What a steal answer carries (R107). -/
inductive StealWork where
  | task (record : BitVec 512)
  | parked (record : Nat)
  | refusal
  deriving DecidableEq, Repr

/-- The kind of an access, for translation (R330, R334). -/
inductive Access where
  | fetch | load | store | atomic
  deriving DecidableEq, Repr

/-- Why an instruction fetch cannot deliver a word (R136, R330, R332): the PC is misaligned or outside
space 001, the page is denied or bad, or the page is absent. -/
inductive FetchFailure where
  | badPc
  | denied
  | absent
  deriving DecidableEq, Repr

/-- A static route as its .route declaration and the loader fix it (R44, R47, R112). -/
structure RouteDecl where
  id : BitVec 8
  ch : BitVec 4
  slot : Nat
  src : Nat
  dst : Nat
  beats : Nat
  land : Nat
  deriving DecidableEq, Repr

/-- The sections of an image that stand in virtual space (R45). -/
inductive SectionKind where
  | text | rodata | rwdata | zero | launch
  deriving DecidableEq, Repr

/-- A section in virtual space: its first space-001 bit address, its size in bytes, and its contents by byte offset (R45). -/
structure Section where
  kind : SectionKind
  base : Word
  size : Nat
  bytes : List (Nat × Byte)
  deriving DecidableEq, Repr

/-- Where an image holds a field to relocate: at a bit of a section, by the section's number in the image; at a bit of layer 0; or
at a bit of a track. -/
inductive FieldAt where
  | inSection (n off : Nat)
  | inCabinets (off : Nat)
  | inTrack (t : BitVec 7) (off : Nat)
  deriving DecidableEq, Repr

/-- The kinds of relocation (R40). -/
inductive RelocKind where
  | abs64 | hi20 | lo12i | lo12s | pchi20 | pclo12i | br13 | jal21
  deriving DecidableEq, Repr

/-- A relocation record (R40): its kind, where its field stands, its symbol as a section's number and a bit offset in it, or an
absolute bit address, its addend, its scale, and for PCLO12I where the paired AUIPC stands. -/
structure Reloc where
  kind : RelocKind
  field : FieldAt
  symbol : Option Nat
  offset : Int
  addend : Int
  scale : Nat
  pair : Nat
  deriving DecidableEq, Repr

/-- A strand entry: its section's number and bit offset, and whether it is declared sys (R44). -/
structure Entry where
  sect : Nat
  off : Nat
  sys : Bool
  deriving DecidableEq, Repr

/-- An image as the loader writes it (R40, R44, R45, R47): cabinet formats, cabinet contents by layer-0 byte offset, track
contents by track, position and word, its routes, the sections in virtual space, the relocation records and the strand
entries. -/
structure Image where
  formats : List (Fin 7 × BitVec 5)
  cabinets : List (Nat × Byte)
  tracks : List (BitVec 7 × Nat × Wide)
  routes : List RouteDecl
  sections : List Section
  relocs : List Reloc
  entries : List Entry
  deriving DecidableEq, Repr

/-- An override entry of a router (R357): a rectangle of destination routers, the arriving channel, the output port
(0 north, 1 east, 2 south, 3 west) and the leaving channel. -/
structure Override where
  px0 : Nat
  px1 : Nat
  py0 : Nat
  py1 : Nat
  vc : Nat
  port : Nat
  out : Nat
  deriving DecidableEq, Repr

/-- A Zholos image in flash: the SHAKE256 digest and the security version that it holds, and whether its signature verifies
under Kamiolum's key (R407). -/
structure Firmware where
  digest : BitVec 256
  version : Nat
  signed : Bool
  deriving DecidableEq, Repr

/-- What a cold boot finds (R408): the version in fuses and the firmware images in flash, the newest first; the quads whose
columns failed the self-test, by physical cluster; the override entries for dead routers, by router; and the first
step after the firmware's that fails, if one does. -/
structure Boot where
  fuses : Nat
  images : List Firmware
  failed : List (Nat × List (Fin 20))
  overrides : List (Nat × List Override)
  stops : Option Nat
  deriving DecidableEq, Repr

/-- What Zholos fixes at partition creation (R325, R365, R366): `share` has the 1 GiB blocks and `hostKeys` their host key
selections, 0 owner, 1 plain and 2 shared, owner for a block it does not list. -/
structure PartSpec where
  ident : BitVec 16
  originX : Nat
  originY : Nat
  width : Nat
  height : Nat
  owner : Nat
  share : List Nat
  hostKeys : List (Nat × Nat)
  link : Nat
  function : Nat
  grant : BitVec 16
  l2pBase : Word
  deriving DecidableEq, Repr

/-- A peer binding (R372): the module number, its link, and the peer partition's size and share. -/
structure Peer where
  num : BitVec 12
  link : Nat
  width : Nat
  height : Nat
  share : List Nat
  deriving DecidableEq, Repr

/-- What a host atomic asks for (R371). -/
inductive HostOp where
  | fetchAdd | swap | cas (expect : Word)
  deriving DecidableEq, Repr

/-- What a peer's request asks for (R59, R372): its operation, the value that a CAS expects, the peer's number, who issued it
there, and its sequence tag. -/
structure PeerOp where
  op : MemOp
  expect : Word
  link : Nat
  num : BitVec 12
  src : Place
  tag : Nat
  deriving DecidableEq, Repr

/-- Causes of a fatal error (R409): control state lost, of the partition or of the module as FATAL_ERROR says; a link or a router
dead; a region shut down; an HBM stack lost; and the watchdog. -/
inductive FatalCause where
  | controlState
  | deadLink (link : Nat)
  | deadRouter (router : Nat)
  | shutdown (region : Nat)
  | hbmLost (stack : Nat)
  | watchdog
  deriving DecidableEq, Repr

/-- Soft errors and permanent faults (R76, R88, R90, R402–R404), which come from outside the strands. A correctable error of a
quad's storage, of a cluster cache, or of HBM for requests from a die; a group of memory that becomes uncorrectable; an
access that finds an uncorrectable group of a scalar register, of a vector register, of a slot or an accumulator, or
of a cache line, clean or not; an entry dropped for its parity; a shift that leaves a track a number of positions
away, and how many realignments of it fail; a spine wire that fails. -/
inductive Upset where
  | correctedQuad (quad : Nat)
  | correctedCache (cluster : Nat)
  | correctedHbm (die : Nat)
  | group (g : Nat)
  | scalarRegister (p : Place) (r : Reg)
  | vectorRegister (p : Place) (v : Fin 32) (g : Fin 4)
  | slotGroup (quad : Nat) (slot : Fin 16) (g : Nat)
  | accGroup (quad : Nat) (acc : Fin 4) (g : Nat)
  | cleanLine (cluster : Nat)
  | dirtyGroup (core : Nat) (sfp : Word) (g : Nat)
  | parity (cluster : Nat) (core : Option Nat) (va : Nat)
  | slip (core : Nat) (t : BitVec 7) (by_ : Int) (fails : Nat)
  | spineWire (core : Nat) (g : Fin 4)
  deriving DecidableEq, Repr

/-- The core whose block holds a register that is written, and the core that stores to it (R308, R405). -/
structure RegCore where
  issuer : Nat
  core : Nat
  deriving DecidableEq, Repr

/-- A reading of a temperature sensor in hundredths of a degree Celsius (R387). -/
abbrev Reading := Int

/-- One constructor per row of the opcode table. -/
inductive Instr where
  -- the integer subset (R140–R143)
  | addi (rd rs1 : Reg) (imm : BitVec 12)
  | slti (rd rs1 : Reg) (imm : BitVec 12)
  | sltiu (rd rs1 : Reg) (imm : BitVec 12)
  | xori (rd rs1 : Reg) (imm : BitVec 12)
  | ori (rd rs1 : Reg) (imm : BitVec 12)
  | andi (rd rs1 : Reg) (imm : BitVec 12)
  | slli (rd rs1 : Reg) (sh : BitVec 6)
  | srli (rd rs1 : Reg) (sh : BitVec 6)
  | srai (rd rs1 : Reg) (sh : BitVec 6)
  | add (rd rs1 rs2 : Reg)
  | sub (rd rs1 rs2 : Reg)
  | mul (rd rs1 rs2 : Reg)
  | sll (rd rs1 rs2 : Reg)
  | mulh (rd rs1 rs2 : Reg)
  | slt (rd rs1 rs2 : Reg)
  | mulhsu (rd rs1 rs2 : Reg)
  | sltu (rd rs1 rs2 : Reg)
  | mulhu (rd rs1 rs2 : Reg)
  | xor (rd rs1 rs2 : Reg)
  | div (rd rs1 rs2 : Reg)
  | srl (rd rs1 rs2 : Reg)
  | sra (rd rs1 rs2 : Reg)
  | divu (rd rs1 rs2 : Reg)
  | or (rd rs1 rs2 : Reg)
  | rem (rd rs1 rs2 : Reg)
  | and (rd rs1 rs2 : Reg)
  | remu (rd rs1 rs2 : Reg)
  | addw (rd rs1 rs2 : Reg)
  | subw (rd rs1 rs2 : Reg)
  | mulw (rd rs1 rs2 : Reg)
  | sllw (rd rs1 rs2 : Reg)
  | divw (rd rs1 rs2 : Reg)
  | srlw (rd rs1 rs2 : Reg)
  | sraw (rd rs1 rs2 : Reg)
  | divuw (rd rs1 rs2 : Reg)
  | remw (rd rs1 rs2 : Reg)
  | remuw (rd rs1 rs2 : Reg)
  | addiw (rd rs1 : Reg) (imm : BitVec 12)
  | slliw (rd rs1 : Reg) (sh : BitVec 5)
  | srliw (rd rs1 : Reg) (sh : BitVec 5)
  | sraiw (rd rs1 : Reg) (sh : BitVec 5)
  | lui (rd : Reg) (imm : BitVec 20)
  | auipc (rd : Reg) (imm : BitVec 20)
  | beq (rs1 rs2 : Reg) (imm : BitVec 12)
  | bne (rs1 rs2 : Reg) (imm : BitVec 12)
  | blt (rs1 rs2 : Reg) (imm : BitVec 12)
  | bge (rs1 rs2 : Reg) (imm : BitVec 12)
  | bltu (rs1 rs2 : Reg) (imm : BitVec 12)
  | bgeu (rs1 rs2 : Reg) (imm : BitVec 12)
  | jal (rd : Reg) (imm : BitVec 20)
  | jalr (rd rs1 : Reg) (imm : BitVec 12)
  -- loads, stores and pointers (R144–R158)
  | ld (w : Width) (rd rs1 : Reg) (imm : BitVec 12)
  | lds (w : Width) (rd rs1 : Reg) (imm : BitVec 12)
  | st (w : Width) (rs2 rs1 : Reg) (imm : BitVec 12)
  | ldx (w : Width) (rd rs1 rs2 : Reg)
  | ldxs (w : Width) (rd rs1 rs2 : Reg)
  | stx (w : Width) (rd rs1 rs2 : Reg)
  | padd (w : Width) (rd rs1 rs2 : Reg)
  | pdiff (w : Width) (rd rs1 rs2 : Reg)
  | paln (w : Width) (rd rs1 : Reg) (c : BitVec 2)
  | pxy (rd rs1 : Reg)
  | psetxy (rd rs1 rs2 : Reg)
  | play (rd rs1 : Reg)
  | playS (rd rs1 rs2 : Reg)
  | prelA (rd rs1 : Reg)
  | prelR (rd rs1 : Reg)
  -- atomics and full/empty words (R159–R168)
  | amoAdd (o : Order) (w : Width) (rd rs2 rs1 : Reg)
  | amoAnd (o : Order) (w : Width) (rd rs2 rs1 : Reg)
  | amoOr (o : Order) (w : Width) (rd rs2 rs1 : Reg)
  | amoXor (o : Order) (w : Width) (rd rs2 rs1 : Reg)
  | amoMin (o : Order) (w : Width) (rd rs2 rs1 : Reg)
  | amoMax (o : Order) (w : Width) (rd rs2 rs1 : Reg)
  | amoMinn (o : Order) (w : Width) (rd rs2 rs1 : Reg)
  | amoMaxn (o : Order) (w : Width) (rd rs2 rs1 : Reg)
  | amoSwap (o : Order) (w : Width) (rd rs2 rs1 : Reg)
  | amoFadd (o : Order) (w : Width) (rd rs2 rs1 : Reg)
  | cas (o : Order) (w : Width) (rd rs2 rs1 : Reg)
  | take (o : Order) (w : Width) (rd rs1 : Reg)
  | put (o : Order) (w : Width) (rs2 rs1 : Reg)
  | festat (rd rs1 : Reg)
  | await (cmp : AwaitCmp) (aq : Bool) (w : Width) (rd rs2 rs1 : Reg)
  | takeNb (o : Order) (w : Width) (rd rt rs1 : Reg)
  | deferredRetry (m : Msg) (k : Nat)
  | atomicResend (m : Msg)
  | fenceAcq (sc : Scope)
  | fenceRel (sc : Scope)
  | fenceAr (sc : Scope)
  | fenceSc (sc : Scope)
  -- the engine interface (R170–R173)
  | cmd (p : Patch) (rs1 rs2 : Reg)
  | cmdr (p : Patch) (rs1 rs2 : Reg)
  | qwait (rs1 : Reg)
  -- strands, tasks, barriers and routes (R174–R180)
  | spawn (rs1 : Reg)
  | spawnW (rd rs1 : Reg)
  | spawnAt (rs1 rs2 : Reg)
  | spawnAtW (rd rs1 rs2 : Reg)
  | popt (rd : Reg)
  | rnext (rd re : Reg)
  | suspend
  | yield
  | exit
  | barrNone (ch : BitVec 4)
  | barrNamed (ch : BitVec 4)
  | barrAll (ch : BitVec 4)
  | bwait (ch : BitVec 4)
  | barrierRelease (ch : BitVec 4)
  | sxmit (route : BitVec 8) (rs1 rs2 : Reg)
  | sxwait (route : BitVec 8) (rs1 : Reg)
  | routeSlotInject (route : BitVec 8)
  | routeLand (route : BitVec 8)
  -- tracks and pages (R181–R186)
  | tbind (t : BitVec 7) (rs1 : Reg)
  | tfree (t : BitVec 7)
  | thead (rd : Reg) (t : BitVec 7)
  | pgalloc (rd : Reg)
  | poolBorrowReply (p : Place) (lender : Nat)
  | pgfree (rs1 : Reg)
  | kvmap (rd rs1 rs2 : Reg)
  | kvmapW (rd rs1 rs2 : Reg)
  -- the system opcode (R187–R190, R312–R322)
  | ecall
  | ebreak
  | sleep (rs1 : Reg)
  | sleepTimeout (p : Place) (tag : Nat)
  | csrrw (rd rs1 : Reg) (csr : BitVec 12)
  | csrrs (rd rs1 : Reg) (csr : BitVec 12)
  | csrrc (rd rs1 : Reg) (csr : BitVec 12)
  | csrrwi (rd : Reg) (u : BitVec 5) (csr : BitVec 12)
  | csrrsi (rd : Reg) (u : BitVec 5) (csr : BitVec 12)
  | csrrci (rd : Reg) (u : BitVec 5) (csr : BitVec 12)
  | tret
  | l2pset (rd rs1 : Reg)
  | tlbinvPage (rs1 : Reg)
  | tlbinvAll
  | capmint (rd rs1 : Reg)
  | preempt (rd rs1 : Reg)
  | preemptForcedSave (p : Place)
  | qdrain (rs1 : Reg)
  -- queue-control commands (R201–R203)
  | qnop (tagged : Bool) (f : QueueF) (sl : Slots)
  | qtag (tagged : Bool) (f : QueueF) (sl : Slots)
  | qtagAdvance (core : Nat)
  | qord (tagged : Bool) (f : QueueF) (sl : Slots)
  | rep (tagged : Bool) (f : QueueF) (sl : Slots)
  | repInstance (core : Nat)
  -- track-port commands (R204–R208)
  | tseek (tagged : Bool) (f : TrackF) (sl : Slots)
  | trew (tagged : Bool) (f : TrackF) (sl : Slots)
  | trackShiftDone (core : Nat) (t : BitVec 7)
  | trd (tagged : Bool) (f : TrackF) (sl : Slots)
  | twr (tagged : Bool) (f : TrackF) (sl : Slots)
  | tblk (tagged : Bool) (f : TrackF) (sl : Slots)
  | tblkw (tagged : Bool) (f : TrackF) (sl : Slots)
  | trackAccess (m : Msg)
  -- vector commands (R222–R247)
  | vld (tagged : Bool) (f : VecF) (sl : Slots)
  | vlds (tagged : Bool) (f : VecF) (sl : Slots)
  | vgath (tagged : Bool) (f : VecF) (sl : Slots)
  | vst (tagged : Bool) (f : VecF) (sl : Slots)
  | vsts (tagged : Bool) (f : VecF) (sl : Slots)
  | vscat (tagged : Bool) (f : VecF) (sl : Slots)
  | vbcast (tagged : Bool) (f : VecF) (sl : Slots)
  | vmovxBc (tagged : Bool) (f : VecF) (sl : Slots)
  | vmovxIns (tagged : Bool) (f : VecF) (sl : Slots)
  | vop (tagged : Bool) (f : VecF) (sl : Slots)
  | vfma (tagged : Bool) (f : VecF) (sl : Slots)
  | vcmp (tagged : Bool) (f : VecF) (sl : Slots)
  | vsel (tagged : Bool) (f : VecF) (sl : Slots)
  | vcvt (tagged : Bool) (f : VecF) (sl : Slots)
  | vred (tagged : Bool) (f : VecF) (sl : Slots)
  | vexp (tagged : Bool) (f : VecF) (sl : Slots)
  | vrcp (tagged : Bool) (f : VecF) (sl : Slots)
  | vrsq (tagged : Bool) (f : VecF) (sl : Slots)
  | vperm (tagged : Bool) (f : VecF) (sl : Slots)
  | vdot (tagged : Bool) (f : VecF) (sl : Slots)
  | vectorArbiterCycle (quad : Nat)
  -- press commands (R248–R278)
  | mclaim (tagged : Bool) (f : PressF) (sl : Slots)
  | mfree (tagged : Bool) (f : PressF) (sl : Slots)
  | mload (tagged : Bool) (f : PressF) (sl : Slots)
  | mloadAcc (tagged : Bool) (f : PressF) (sl : Slots)
  | mzero (tagged : Bool) (f : PressF) (sl : Slots)
  | mma (tagged : Bool) (f : PressF) (sl : Slots)
  | mmaSp (tagged : Bool) (f : PressF) (sl : Slots)
  | msoft (tagged : Bool) (f : PressF) (sl : Slots)
  | mmerge (tagged : Bool) (f : PressF) (sl : Slots)
  | mnorm (tagged : Bool) (f : PressF) (sl : Slots)
  | mdrain (tagged : Bool) (f : PressF) (sl : Slots)
  | mstat (tagged : Bool) (f : PressF) (sl : Slots)
  | pressAccept (quad : Nat)
  | copyEngineAccept (quad : Nat)
  -- copy-engine commands, loaders and storers (R209–R218)
  | cpy (tagged : Bool) (f : CopyF) (sl : Slots)
  | cpyRb (tagged : Bool) (f : CopyF) (sl : Slots)
  | cfill (tagged : Bool) (f : CopyF) (sl : Slots)
  | cfillRb (tagged : Bool) (f : CopyF) (sl : Slots)
  | copyCompletionWord (quad id : Nat)
  | subCommand (tagged comb : Bool) (f : CopyF) (sl : Slots)
  | subCombine (cluster : Nat) (members : List (Nat × Fin 8))
  | unsub (tagged : Bool) (f : CopyF) (sl : Slots)
  | retn (tagged : Bool) (f : CopyF) (sl : Slots)
  | loaderTileStart (quad : Nat) (id : Fin 8)
  | loaderTileComplete (quad : Nat) (id : Fin 8)
  | storerSlotRead (quad : Nat) (id : Fin 8) (slot : Nat)
  | retnStoreComplete (quad : Nat) (id : Fin 8) (slot : Nat)
  | remoteCommand (quad : Nat) (r : Remote)
  | remoteBusyRetry (quad : Nat) (r : Remote) (k : Nat)
  -- accesses, banks, records and stealing
  | memRequest (m : Msg)
  | memReply (m : Msg) (ans : Answer)
  | issueGuardExpiry (core : Nat)
  | bankFill (core : Nat)
  | recordLoadDone (p : Place)
  | recordWriteback (p : Place)
  | waitWritebackTimeout (p : Place)
  | stealRequest (thief : Nat)
  | stealAnswer (thief victim : Nat)
  | splitJoinReply (thief victim : Nat) (record : BitVec 512)
  | stealReply (thief : Nat) (work : StealWork)
  | stealRoundTimer (core : Nat)
  -- translation and faults
  | translationWalk (core : Nat) (va : Word) (acc : Access) (user : Bool)
  | faultPostRetry (p : Place)
  | faultSlotOutcome (cluster slot : Nat)
  | pageWaitWriteback (p : Place)
  -- register stores with a behaviour of their own
  | fpheadWrite (core : RegCore) (addr v : Word)
  | pgasnWrite (core : RegCore) (hi : Bool) (addr v : Word)
  | toccWrite (core : Nat) (hi : Bool) (v : Word)
  | fqbaseWrite (cluster : Nat) (v : Word)
  | lwcfgWrite (v : Word)
  | msixtrigWrite (v : Word)
  | opreqWrite (core : Nat) (v : Word)
  | atomodeWrite (v : Word)
  | registerWrite (core : RegCore) (block : BitVec 4) (off : BitVec 37) (v : Word)
  -- host, peers and links
  | peerFaultReturn (p : Place) (sfp : Word)
  -- L2P, power, sensing, migration, gating
  | l2pSwapComplete (quad : Nat) (pq : BitVec 5)
  | failsafeBudget (region : Nat)
  | startAdmission (region : Nat)
  | oppVoltageSettled (quad : Nat)
  | droopCheck (region : Nat) (below : Bool)
  | migrationBoundary (quad : Nat)
  | migrationForce (quad : Nat)
  | migrationTransferDone (quad : Nat)
  | migrationResume (quad : Nat)
  | gateCommit (quad : Nat)
  | quadWake (quad : Nat)
  -- Zholos
  | fatalError (cause : FatalCause) (ofModule : Bool)
  -- fetch, completion and the rest
  | illegalInstruction (word : BitVec 32)
  | fetchFault (addr : Word) (why : FetchFailure)
  | commandCompletion (core id : Nat)
  | replayFilterAck (quad : Nat) (src : Place) (tag : Nat)
  -- steps that begin outside the strands: host, peers, links, environment and Zholos
  | coldBoot (b : Boot)
  | hostPutAliasWrite (n : Nat) (v : Word)
  | hostAtomic (op : HostOp) (byte width : Nat) (v : Word)
  | hostBar2Access (write : Bool) (byte len : Nat) (v : Word)
  | gateRequest (quad : Nat)
  | peerRequest (op : PeerOp) (addr : Word) (width : Width) (v : Word)
  | peerBindingRemove (num : BitVec 12)
  | linkBeatRetry (link fails : Nat)
  | packageGrant (watts : List Nat)
  | sensorSample (quad : Nat) (diode ring : Reading)
  | analogueTrip (region : Nat)
  | droopAlarm (region : Nat)
  | patrolScrub (group : Nat)
  | ageingReplan (quad : Nat) (present : BitVec 8)
  | imageLoad (img : Image)
  | partitionCreate (p : PartSpec)
  | partitionStart
  | partitionTeardown
  | attestationReport (nonce : Word)
  | peerBindingSetup (p : Peer) (own : BitVec 12)
  | zholosWatchdog
  | colophonRead (slot : Fin 8)
  | hostCxlMemAccess (write : Bool) (byte len : Nat) (v : Word)
  | hostCxlSnoop (line : Nat)
  | cxlCacheEnable (on : Bool)
  | msixVectorUnmask (vec : Fin 32)
  | ownerKeyDelivery (owner shared : BitVec 256)
  | l2pSwapBegin (quad : Nat)
  -- the hang trap and the change of ATOMODE, which come of themselves
  | hangTrap
  | atomodeSwitch
  deriving DecidableEq, Repr

/-- What the step does next when the agenda is not empty: an event, the head of a core's engine queue offered to
its engine, the head issued, the first remote entry of a quad issued (R195, R221), a command that goes on after its wait
on a page (R337), a partition trap of a kind signalled for a bank (R314), the run-ahead of a strand that met an absent page
(R332, R333); and from outside an error of the hardware, an access to BAR0 that is no put-alias write, and the host's
request for the report of the share (R367). -/
inductive Activity where
  | event (i : Instr)
  | offer (core : Nat)
  | issue (core : Nat)
  | issueRemote (quad : Nat)
  | resume (quad id : Nat)
  | partitionTrap (kind : Nat) (p : Place)
  | runAhead (p : Place)
  | upset (u : Upset)
  | bar0 (write : Bool)
  | shareReport
  deriving DecidableEq, Repr

end Sys2Proof
end

