-- ==== Sys2Proof/Decode.lean ====
section
/-! DEFINITION. Decoding of the 32-bit scalar words (R138–R191, R315) and of the 256-bit command words
(R192–R194, R201, R204, R209, R225, R226, R251, R252, R270), the field checks that make a word illegal or a
command undefined, and the two encoders, written from the same tables. -/

namespace Sys2Proof

/-! ## The fields of a scalar word -/

/-- The six fields of the R format, out of which every other format is read (R138). -/
structure Fields where
  f7 : BitVec 7
  rs2 : BitVec 5
  rs1 : BitVec 5
  f3 : BitVec 3
  rd : BitVec 5
  op : BitVec 7
  deriving DecidableEq, Repr

/-- The fields of a word (R138). -/
def Fields.split (w : BitVec 32) : Fields :=
  ⟨w.extractLsb' 25 7, w.extractLsb' 20 5, w.extractLsb' 15 5, w.extractLsb' 12 3, w.extractLsb' 7 5,
    w.extractLsb' 0 7⟩

/-- The word of given fields (R138). -/
def Fields.join (f : Fields) : BitVec 32 := f.f7 ++ f.rs2 ++ f.rs1 ++ f.f3 ++ f.rd ++ f.op

/-- The I immediate, bits 31:20. -/
def Fields.immI (f : Fields) : BitVec 12 := f.f7 ++ f.rs2

/-- The S immediate, bits 31:25 and 11:7. -/
def Fields.immS (f : Fields) : BitVec 12 := f.f7 ++ f.rd

/-- Bits 12:1 of the B immediate. -/
def Fields.immB (f : Fields) : BitVec 12 :=
  f.f7.extractLsb' 6 1 ++ f.rd.extractLsb' 0 1 ++ f.f7.extractLsb' 0 6 ++ f.rd.extractLsb' 1 4

/-- Bits 31:12, the U immediate. -/
def Fields.immU (f : Fields) : BitVec 20 := f.f7 ++ f.rs2 ++ f.rs1 ++ f.f3

/-- Bits 20:1 of the J immediate. -/
def Fields.immJ (f : Fields) : BitVec 20 :=
  f.immU.extractLsb' 19 1 ++ f.immU.extractLsb' 0 8 ++ f.immU.extractLsb' 8 1 ++ f.immU.extractLsb' 9 10

/-- Fields of an R-format word. -/
def Fields.r (op : BitVec 7) (f3 : BitVec 3) (f7 : BitVec 7) (rd rs1 rs2 : BitVec 5) : Fields :=
  ⟨f7, rs2, rs1, f3, rd, op⟩

/-- Fields of an I-format word. -/
def Fields.i (op : BitVec 7) (f3 : BitVec 3) (rd rs1 : BitVec 5) (imm : BitVec 12) : Fields :=
  ⟨imm.extractLsb' 5 7, imm.extractLsb' 0 5, rs1, f3, rd, op⟩

/-- Fields of an S-format word. -/
def Fields.s (op : BitVec 7) (f3 : BitVec 3) (rs1 rs2 : BitVec 5) (imm : BitVec 12) : Fields :=
  ⟨imm.extractLsb' 5 7, rs2, rs1, f3, imm.extractLsb' 0 5, op⟩

/-- Fields of a B-format word; `imm` is the immediate's bits 12:1. -/
def Fields.b (op : BitVec 7) (f3 : BitVec 3) (rs1 rs2 : BitVec 5) (imm : BitVec 12) : Fields :=
  ⟨imm.extractLsb' 11 1 ++ imm.extractLsb' 4 6, rs2, rs1, f3,
    imm.extractLsb' 0 4 ++ imm.extractLsb' 10 1, op⟩

/-- Fields of a U-format word. -/
def Fields.u (op : BitVec 7) (rd : BitVec 5) (imm : BitVec 20) : Fields :=
  ⟨imm.extractLsb' 13 7, imm.extractLsb' 8 5, imm.extractLsb' 3 5, imm.extractLsb' 0 3, rd, op⟩

/-- Fields of a J-format word; `imm` is the immediate's bits 20:1. -/
def Fields.j (op : BitVec 7) (rd : BitVec 5) (imm : BitVec 20) : Fields :=
  Fields.u op rd
    (imm.extractLsb' 19 1 ++ imm.extractLsb' 0 10 ++ imm.extractLsb' 10 1 ++ imm.extractLsb' 11 8)

/-! ## Small codes -/

/-- Width codes (R144). -/
def Width.ofCode (c : BitVec 3) : Width :=
  match c.toNat with
  | 0 => .b1 | 1 => .b3 | 2 => .b4 | 3 => .b6 | 4 => .b8 | 5 => .b16 | 6 => .b32 | _ => .b64

/-- The code of a width (R144). -/
def Width.code : Width → BitVec 3
  | .b1 => 0 | .b3 => 1 | .b4 => 2 | .b6 => 3 | .b8 => 4 | .b16 => 5 | .b32 => 6 | .b64 => 7

/-- FENCE scope codes (R169). -/
def Scope.code : Scope → BitVec 3
  | .quad => 0 | .cluster => 1 | .die => 2 | .module => 3 | .system => 4

/-- The comparison of AWAIT by its code (R167). -/
def AwaitCmp.ofCode (c : BitVec 2) : AwaitCmp :=
  match c.toNat with
  | 0 => .eq | 1 => .ne | 2 => .geu | _ => .ges

/-- The code of AWAIT's comparison (R167). -/
def AwaitCmp.code : AwaitCmp → BitVec 2
  | .eq => 0 | .ne => 1 | .geu => 2 | .ges => 3

/-- A bit as a one-bit field. -/
def bit1 (b : Bool) : BitVec 1 := BitVec.ofBool b

/-- The ordering bits of bits 27:25 of an atomic: AQ, RL, SYS (R159). -/
def Order.ofBits (b : BitVec 3) : Order := ⟨b.getLsbD 2, b.getLsbD 1, b.getLsbD 0⟩

/-- Bits 27:25 of an atomic (R159). -/
def Order.bits (o : Order) : BitVec 3 := bit1 o.aq ++ bit1 o.rl ++ bit1 o.sys

/-- Registers that survive a suspension point: x0 and a0–a3 (R97). -/
def Reg.survives (r : Reg) : Bool := r.toNat == 0 || (10 ≤ r.toNat && r.toNat ≤ 13)

/-! ## The checks on field values -/

/-- A queue-control command other than REP: every field zero (R201). -/
def QueueF.plain (f : QueueF) : Bool := f.n == 0 && f.m == 0 && f.stagger == 0 && f.low == 0

/-- The fields a track command may use: HEAD, the access fields, NPOS (R204). -/
def TrackF.only (f : TrackF) (head access vreg npos : Bool) : Bool :=
  (head || f.head == 0) && (access || (f.step == 0 && !f.four && f.seg == 0)) &&
  (vreg || f.vreg == 0) && (npos || f.npos == 0) && f.low == 0 && (!f.four || f.seg == 0)

/-- The fields a vector command may use, in the order of R226's column: VD, VA, VB, VC, M (MEN, MREG and MZ),
RTZ, FN, XT, AUX; MZ must be 0 when MEN is 0 (R224). -/
def VecF.only (f : VecF) (vd va vb vc m rtz fn xt aux : Bool) : Bool :=
  (vd || f.vd == 0) && (va || f.va == 0) && (vb || f.vb == 0) && (vc || f.vc == 0) &&
  (m || (!f.men && f.mreg == 0)) && (f.men || !f.mz) && (rtz || !f.rtz) && (fn || f.fn == 0) &&
  (xt || f.xt == 0) && (aux || f.aux == 0)

/-- The fields a press command may use, in the order of R251: SA, SB, SM, ACC, ACC2, TY, RTZ, TR, DK, RS, NROW,
SP8, CWPUT, RMT, MREG. -/
def PressF.only (f : PressF) (sa sb sm acc acc2 ty rtz tr dk rs nrow sp8 cwput rmt mreg : Bool) : Bool :=
  (sa || f.sa == 0) && (sb || f.sb == 0) && (sm || f.sm == 0) && (acc || f.acc == 0) &&
  (acc2 || f.acc2 == 0) && (ty || f.ty == 0) && (rtz || !f.rtz) && (tr || !f.tr) && (dk || !f.dk) &&
  (rs || !f.rs) && (nrow || f.nrow == 0) && (sp8 || !f.sp8) && (cwput || !f.cwput) && (rmt || !f.rmt) &&
  (mreg || f.mreg == 0) && f.low == 0

/-- The fields a copy-engine command may use: CWPUT, RB, SUBID, NS (R209). -/
def CopyF.only (f : CopyF) (cwput rb subid ns : Bool) : Bool :=
  (cwput || !f.cwput) && (f.rb == rb) && (subid || f.subid == 0) && (ns || f.ns == 0) && f.low == 0

/-- The conditions on an atomic's width: not b3 or b6 (R66, R159). -/
def Width.atomic (w : Width) : Bool := w != .b3 && w != .b6

/-- The patch descriptors that are legal (R170). -/
def Patch.ok (p : Patch) (rs1 rs2 : Reg) : Bool :=
  !(p.p1 == 0 && p.p2 != 0) && !(p.p1 != 0 && p.p2 != 0 && p.p2.ule p.p1) &&
  (p.p1 != 0 || rs1 == 0) && (p.p2 != 0 || rs2 == 0)

/-- The functions VOP takes: 0–15, with VB zero and SC 0 for abs, neg and not, VB zero when SC is 1, and AUX only
in its bit 0 (R226, R238, R239). -/
def VecF.vopOk (f : VecF) : Bool :=
  f.only true true true false true true true false true && f.fn.ult 16 && f.aux.ule 1 &&
  (!(f.fn == 8 || f.fn == 9 || f.fn == 13) || (f.vb == 0 && f.aux == 0)) && (f.aux == 0 || f.vb == 0)

/-- Whether an instruction's field values are those its encoding admits: a scalar word that breaks this raises an
illegal-instruction fault (R139, R159, R170, R174), a command that breaks it is undefined (R194). -/
def Instr.fieldsOk : Instr → Bool
  | .amoAdd _ w _ _ _ | .amoAnd _ w _ _ _ | .amoOr _ w _ _ _ | .amoXor _ w _ _ _ | .amoMin _ w _ _ _
  | .amoMax _ w _ _ _ | .amoMinn _ w _ _ _ | .amoMaxn _ w _ _ _ | .amoSwap _ w _ _ _ | .cas _ w _ _ _
  | .put _ w _ _ | .takeNb _ w _ _ _ => w.atomic
  | .amoFadd _ w _ _ _ => w == .b32 || w == .b16
  | .take _ w rd _ => w.atomic && rd.survives
  | .await _ _ w rd _ _ => w.atomic && rd.survives
  | .cmd p rs1 rs2 | .cmdr p rs1 rs2 => p.ok rs1 rs2
  | .spawnW rd _ | .spawnAtW rd _ _ => rd.survives
  | .qnop _ f _ | .qtag _ f _ | .qord _ f _ => f.plain
  | .rep tagged f _ => !tagged && f.low == 0
  | .tseek _ f _ => f.only true false false false
  | .trew _ f _ => f.only false false false false
  | .trd _ f _ | .twr _ f _ => f.only false true true false
  | .tblk _ f _ | .tblkw _ f _ => f.only false true false true
  | .vld _ f _ | .vst _ f _ | .vbcast _ f _ => f.only true false false false true true false true false
  | .vlds _ f _ | .vsts _ f _ => f.only true false false false true true false true true
  | .vgath _ f _ | .vscat _ f _ => f.only true false true false true true false true false
  | .vmovxBc _ f _ => f.only true false false false true false true false false && f.fn == 0
  | .vmovxIns _ f _ => f.only true false false false true false true false false && f.fn == 1
  | .vop _ f _ => f.vopOk
  | .vfma _ f _ => f.only true true true true true true true false false && f.fn.ult 4
  | .vcmp _ f _ =>
      f.only true true true false true false true false true && f.fn.ult 7 && f.aux.ule 1 &&
        (f.aux == 0 || f.vb == 0)
  | .vsel _ f _ =>
      { f with mreg := 0 }.only true true true false false false false false false && !f.men
  | .vcvt _ f _ => f.only true true false true true true false true true
  | .vred _ f _ => f.only true true false false true true true false false && f.fn.ult 6 && !f.mz
  | .vexp _ f _ | .vrcp _ f _ | .vrsq _ f _ =>
      f.only true true false false true false false false false
  | .vperm _ f _ => f.only true true true false true false false false false
  | .vdot _ f _ => f.only true true true true true false true true false && f.fn.ult 2
  | .mclaim _ f _ =>
      f.only false false false false false false false false false false false false true true false
  | .mfree _ f _ =>
      f.only false false false false false false false false false false false false false false false
  | .mload _ f _ =>
      f.only true false false false false true false true false false true false false false false
  | .mloadAcc _ f _ =>
      f.only false false false true false true false true true true true false false false false && f.dk
  | .mzero _ f _ | .mnorm _ f _ =>
      f.only false false false true false false false false false false false false false false false
  | .mma _ f _ =>
      f.only true true false true false false false false false false false false false false false
  | .mmaSp _ f _ =>
      f.only true true true true false false false false false false false true false false false
  | .msoft _ f _ =>
      f.only true false false true true false false false false false false false false false true
  | .mmerge _ f _ =>
      f.only false false false true true false false false false false false false false false false
  | .mdrain _ f _ =>
      f.only false false false true false true true false false true true false false false false
  | .mstat _ f _ =>
      f.only false false false true false false false false false false false false true false false
  | .cpy _ f _ | .cfill _ f _ => f.only true false false false
  | .cpyRb _ f _ | .cfillRb _ f _ => f.only true true false false
  | .subCommand _ _ f _ => f.only false false true true
  | .unsub _ f _ => f.only false false true false
  | .retn _ f _ => f.only true false true true
  | _ => true

/-! ## Decoding a scalar word -/

/-- OP-IMM, opcode 0010011 (R140). -/
def decodeOpImm (f : Fields) : Option Instr :=
  match f.f3.toNat with
  | 0 => some (.addi f.rd f.rs1 f.immI)
  | 2 => some (.slti f.rd f.rs1 f.immI)
  | 3 => some (.sltiu f.rd f.rs1 f.immI)
  | 4 => some (.xori f.rd f.rs1 f.immI)
  | 6 => some (.ori f.rd f.rs1 f.immI)
  | 7 => some (.andi f.rd f.rs1 f.immI)
  | 1 => if f.f7.extractLsb' 1 6 = 0 then some (.slli f.rd f.rs1 (f.immI.extractLsb' 0 6)) else none
  | _ =>
    if f.f7.extractLsb' 1 6 = 0 then some (.srli f.rd f.rs1 (f.immI.extractLsb' 0 6))
    else if f.f7.extractLsb' 1 6 = 16 then some (.srai f.rd f.rs1 (f.immI.extractLsb' 0 6)) else none

/-- OP, opcode 0110011 (R140). -/
def decodeOp (f : Fields) : Option Instr :=
  match f.f7.toNat, f.f3.toNat with
  | 0, 0 => some (.add f.rd f.rs1 f.rs2)
  | 32, 0 => some (.sub f.rd f.rs1 f.rs2)
  | 1, 0 => some (.mul f.rd f.rs1 f.rs2)
  | 0, 1 => some (.sll f.rd f.rs1 f.rs2)
  | 1, 1 => some (.mulh f.rd f.rs1 f.rs2)
  | 0, 2 => some (.slt f.rd f.rs1 f.rs2)
  | 1, 2 => some (.mulhsu f.rd f.rs1 f.rs2)
  | 0, 3 => some (.sltu f.rd f.rs1 f.rs2)
  | 1, 3 => some (.mulhu f.rd f.rs1 f.rs2)
  | 0, 4 => some (.xor f.rd f.rs1 f.rs2)
  | 1, 4 => some (.div f.rd f.rs1 f.rs2)
  | 0, 5 => some (.srl f.rd f.rs1 f.rs2)
  | 32, 5 => some (.sra f.rd f.rs1 f.rs2)
  | 1, 5 => some (.divu f.rd f.rs1 f.rs2)
  | 0, 6 => some (.or f.rd f.rs1 f.rs2)
  | 1, 6 => some (.rem f.rd f.rs1 f.rs2)
  | 0, 7 => some (.and f.rd f.rs1 f.rs2)
  | 1, 7 => some (.remu f.rd f.rs1 f.rs2)
  | _, _ => none

/-- OP-32, opcode 0111011 (R140). -/
def decodeOp32 (f : Fields) : Option Instr :=
  match f.f7.toNat, f.f3.toNat with
  | 0, 0 => some (.addw f.rd f.rs1 f.rs2)
  | 32, 0 => some (.subw f.rd f.rs1 f.rs2)
  | 1, 0 => some (.mulw f.rd f.rs1 f.rs2)
  | 0, 1 => some (.sllw f.rd f.rs1 f.rs2)
  | 1, 4 => some (.divw f.rd f.rs1 f.rs2)
  | 0, 5 => some (.srlw f.rd f.rs1 f.rs2)
  | 32, 5 => some (.sraw f.rd f.rs1 f.rs2)
  | 1, 5 => some (.divuw f.rd f.rs1 f.rs2)
  | 1, 6 => some (.remw f.rd f.rs1 f.rs2)
  | 1, 7 => some (.remuw f.rd f.rs1 f.rs2)
  | _, _ => none

/-- OP-IMM-32, opcode 0011011 (R140). -/
def decodeOpImm32 (f : Fields) : Option Instr :=
  match f.f3.toNat with
  | 0 => some (.addiw f.rd f.rs1 f.immI)
  | 1 => if f.f7 = 0 then some (.slliw f.rd f.rs1 f.rs2) else none
  | 5 =>
    if f.f7 = 0 then some (.srliw f.rd f.rs1 f.rs2)
    else if f.f7 = 32 then some (.sraiw f.rd f.rs1 f.rs2) else none
  | _ => none

/-- Branches, opcode 1100011 (R140, R142). -/
def decodeBranch (f : Fields) : Option Instr :=
  match f.f3.toNat with
  | 0 => some (.beq f.rs1 f.rs2 f.immB)
  | 1 => some (.bne f.rs1 f.rs2 f.immB)
  | 4 => some (.blt f.rs1 f.rs2 f.immB)
  | 5 => some (.bge f.rs1 f.rs2 f.immB)
  | 6 => some (.bltu f.rs1 f.rs2 f.immB)
  | 7 => some (.bgeu f.rs1 f.rs2 f.immB)
  | _ => none

/-- The indexed memory forms, opcode 0100111 (R144). -/
def decodeIndexed (f : Fields) : Option Instr :=
  match f.f7.toNat with
  | 0 => some (.ldx (.ofCode f.f3) f.rd f.rs1 f.rs2)
  | 2 => some (.ldxs (.ofCode f.f3) f.rd f.rs1 f.rs2)
  | 1 => some (.stx (.ofCode f.f3) f.rd f.rs1 f.rs2)
  | _ => none

/-- The pointer opcode, custom-1, 0101011 (R151). -/
def decodePointer (f : Fields) : Option Instr :=
  match f.f7.toNat with
  | 0 => some (.padd (.ofCode f.f3) f.rd f.rs1 f.rs2)
  | 1 => some (.pdiff (.ofCode f.f3) f.rd f.rs1 f.rs2)
  | 2 =>
    if f.rs2.extractLsb' 2 3 = 0 then some (.paln (.ofCode f.f3) f.rd f.rs1 (f.rs2.extractLsb' 0 2))
    else none
  | 3 => if f.f3 = 0 ∧ f.rs2 = 0 then some (.pxy f.rd f.rs1) else none
  | 4 => if f.f3 = 0 then some (.psetxy f.rd f.rs1 f.rs2) else none
  | 5 =>
    if f.f3 = 0 ∧ f.rs2 = 0 then some (.play f.rd f.rs1)
    else if f.f3 = 1 then some (.playS f.rd f.rs1 f.rs2) else none
  | 6 =>
    if f.f3 = 0 ∧ f.rs2 = 0 then some (.prelA f.rd f.rs1)
    else if f.f3 = 1 ∧ f.rs2 = 0 then some (.prelR f.rd f.rs1) else none
  | _ => none

/-- The atomic opcode, 0101111 (R159). -/
def decodeAtomic (f : Fields) : Option Instr :=
  let w := Width.ofCode f.f3
  let o := Order.ofBits (f.f7.extractLsb' 0 3)
  match (f.f7.extractLsb' 3 4).toNat with
  | 0 => some (.amoAdd o w f.rd f.rs2 f.rs1)
  | 1 => some (.amoAnd o w f.rd f.rs2 f.rs1)
  | 2 => some (.amoOr o w f.rd f.rs2 f.rs1)
  | 3 => some (.amoXor o w f.rd f.rs2 f.rs1)
  | 4 => some (.amoMin o w f.rd f.rs2 f.rs1)
  | 5 => some (.amoMax o w f.rd f.rs2 f.rs1)
  | 6 => some (.amoMinn o w f.rd f.rs2 f.rs1)
  | 7 => some (.amoMaxn o w f.rd f.rs2 f.rs1)
  | 8 => some (.amoSwap o w f.rd f.rs2 f.rs1)
  | 9 => some (.amoFadd o w f.rd f.rs2 f.rs1)
  | 10 => some (.cas o w f.rd f.rs2 f.rs1)
  | 11 => if f.rs2 = 0 then some (.take o w f.rd f.rs1) else none
  | 12 => if f.rd = 0 then some (.put o w f.rs2 f.rs1) else none
  | 13 =>
    if f.f7.extractLsb' 0 3 = 0 ∧ f.rs2 = 0 ∧ f.f3 = 7 then some (.festat f.rd f.rs1) else none
  | 14 =>
    some (.await (.ofCode (f.f7.extractLsb' 0 2)) (f.f7.getLsbD 2) w f.rd f.rs2 f.rs1)
  | _ => some (.takeNb o w f.rd f.rs2 f.rs1)

/-- FENCE, opcode 0001111 (R169). -/
def decodeFence (f : Fields) : Option Instr :=
  if f.rs1 = 0 ∧ f.f3 = 0 ∧ f.rd = 0 then
    let sc : Option Scope :=
      match f.immI.toNat / 16 with
      | 0 => some .quad | 1 => some .cluster | 2 => some .die | 3 => some .module | 4 => some .system
      | _ => none
    match f.immI.toNat % 16 with
    | 0 => sc.map .fenceAcq
    | 1 => sc.map .fenceRel
    | 2 => sc.map .fenceAr
    | 3 => sc.map .fenceSc
    | _ => none
  else none

/-- custom-0, opcode 0001011 (R170). -/
def decodeEngine (f : Fields) : Option Instr :=
  if f.rd = 0 then
    match f.f3.toNat with
    | 0 =>
      if f.f7.extractLsb' 4 3 = 0 then
        some (.cmd ⟨f.f7.extractLsb' 0 2, f.f7.extractLsb' 2 2⟩ f.rs1 f.rs2) else none
    | 1 =>
      if f.f7.extractLsb' 4 3 = 0 then
        some (.cmdr ⟨f.f7.extractLsb' 0 2, f.f7.extractLsb' 2 2⟩ f.rs1 f.rs2) else none
    | 2 => if f.f7 = 0 ∧ f.rs2 = 0 then some (.qwait f.rs1) else none
    | _ => none
  else none

/-- custom-2, opcode 1011011 (R174). -/
def decodeTask (f : Fields) : Option Instr :=
  match f.f3.toNat with
  | 0 =>
    match f.f7.toNat with
    | 0 => if f.rs2 = 0 ∧ f.rd = 0 then some (.spawn f.rs1) else none
    | 1 => if f.rs2 = 0 then some (.spawnW f.rd f.rs1) else none
    | 2 => if f.rd = 0 then some (.spawnAt f.rs1 f.rs2) else none
    | 3 => some (.spawnAtW f.rd f.rs1 f.rs2)
    | _ => none
  | 1 =>
    match f.f7.toNat with
    | 0 => if f.rs1 = 0 ∧ f.rs2 = 0 then some (.popt f.rd) else none
    | 1 => if f.rs1 = 0 then some (.rnext f.rd f.rs2) else none
    | 2 => if f.rs1 = 0 ∧ f.rs2 = 0 ∧ f.rd = 0 then some .suspend else none
    | 3 => if f.rs1 = 0 ∧ f.rs2 = 0 ∧ f.rd = 0 then some .yield else none
    | 4 => if f.rs1 = 0 ∧ f.rs2 = 0 ∧ f.rd = 0 then some .exit else none
    | _ => none
  | 2 =>
    if f.rs2 = 0 ∧ f.rd = 0 ∧ f.rs1.getLsbD 4 = false then
      match f.f7.toNat with
      | 0 => some (.barrNone (f.rs1.extractLsb' 0 4))
      | 1 => some (.barrNamed (f.rs1.extractLsb' 0 4))
      | 2 => some (.barrAll (f.rs1.extractLsb' 0 4))
      | _ => none
    else none
  | 3 =>
    if f.f7 = 0 ∧ f.rs2 = 0 ∧ f.rd = 0 ∧ f.rs1.getLsbD 4 = false then
      some (.bwait (f.rs1.extractLsb' 0 4)) else none
  | 4 =>
    if f.f7.extractLsb' 3 4 = 0 then some (.sxmit (f.immS.extractLsb' 0 8) f.rs1 f.rs2) else none
  | 5 =>
    if f.f7.extractLsb' 3 4 = 0 ∧ f.rd = 0 then some (.sxwait (f.immI.extractLsb' 0 8) f.rs1) else none
  | _ => none

/-- custom-3, opcode 1111011 (R181). -/
def decodeTrack (f : Fields) : Option Instr :=
  let t : BitVec 7 := f.immI.extractLsb' 0 7
  match f.f3.toNat with
  | 0 => if f.f7.extractLsb' 2 5 = 0 ∧ f.rd = 0 then some (.tbind t f.rs1) else none
  | 1 => if f.f7.extractLsb' 2 5 = 0 ∧ f.rs1 = 0 ∧ f.rd = 0 then some (.tfree t) else none
  | 2 => if f.f7.extractLsb' 2 5 = 0 ∧ f.rs1 = 0 then some (.thead f.rd t) else none
  | 3 => if f.f7 = 0 ∧ f.rs2 = 0 ∧ f.rs1 = 0 then some (.pgalloc f.rd) else none
  | 4 => if f.f7 = 0 ∧ f.rs2 = 0 ∧ f.rd = 0 then some (.pgfree f.rs1) else none
  | 5 =>
    if f.f7 = 0 then some (.kvmap f.rd f.rs1 f.rs2)
    else if f.f7 = 1 then some (.kvmapW f.rd f.rs1 f.rs2) else none
  | _ => none

/-- The system opcode, 1110011 (R187, R315). -/
def decodeSystem (f : Fields) : Option Instr :=
  match f.f3.toNat with
  | 0 =>
    match f.immI.toNat with
    | 0 => if f.rs1 = 0 ∧ f.rd = 0 then some .ecall else none
    | 1 => if f.rs1 = 0 ∧ f.rd = 0 then some .ebreak else none
    | 0x105 => if f.rd = 0 then some (.sleep f.rs1) else none
    | 0x300 => if f.rs1 = 0 ∧ f.rd = 0 then some .tret else none
    | 0x301 => some (.l2pset f.rd f.rs1)
    | 0x302 => if f.rd = 0 then some (.tlbinvPage f.rs1) else none
    | 0x303 => if f.rs1 = 0 ∧ f.rd = 0 then some .tlbinvAll else none
    | 0x304 => some (.capmint f.rd f.rs1)
    | 0x305 => some (.preempt f.rd f.rs1)
    | 0x306 => if f.rd = 0 then some (.qdrain f.rs1) else none
    | _ => none
  | 1 => some (.csrrw f.rd f.rs1 f.immI)
  | 2 => some (.csrrs f.rd f.rs1 f.immI)
  | 3 => some (.csrrc f.rd f.rs1 f.immI)
  | 5 => some (.csrrwi f.rd f.rs1 f.immI)
  | 6 => some (.csrrsi f.rd f.rs1 f.immI)
  | 7 => some (.csrrci f.rd f.rs1 f.immI)
  | _ => none

/-- The instruction of a word's fields, before the checks on field values, by the major opcode map (R139). -/
def decodeFields (f : Fields) : Option Instr :=
  match f.op.toNat with
  | 0x03 => some (.ld (.ofCode f.f3) f.rd f.rs1 f.immI)
  | 0x07 => some (.lds (.ofCode f.f3) f.rd f.rs1 f.immI)
  | 0x0B => decodeEngine f
  | 0x0F => decodeFence f
  | 0x13 => decodeOpImm f
  | 0x17 => some (.auipc f.rd f.immU)
  | 0x1B => decodeOpImm32 f
  | 0x23 => some (.st (.ofCode f.f3) f.rs2 f.rs1 f.immS)
  | 0x27 => decodeIndexed f
  | 0x2B => decodePointer f
  | 0x2F => decodeAtomic f
  | 0x33 => decodeOp f
  | 0x37 => some (.lui f.rd f.immU)
  | 0x3B => decodeOp32 f
  | 0x5B => decodeTask f
  | 0x63 => decodeBranch f
  | 0x67 => if f.f3 = 0 then some (.jalr f.rd f.rs1 f.immI) else none
  | 0x6F => some (.jal f.rd f.immJ)
  | 0x73 => decodeSystem f
  | 0x7B => decodeTrack f
  | _ => none

/-- The instruction of a 32-bit word; `none` where the word raises an illegal-instruction fault (R139, R159, R170,
R174, R181, R187, R315). -/
def decodeWord (w : BitVec 32) : Option Instr :=
  match decodeFields (Fields.split w) with
  | some i => if i.fieldsOk then some i else none
  | none => none

/-! ## Decoding a command word -/

/-- The fields of a command word (R192). -/
structure CmdWord where
  op : BitVec 8
  eng : BitVec 4
  comb : Bool
  tagged : Bool
  mbz : BitVec 2
  fields : BitVec 48
  c : Word
  b : Word
  a : Word
  deriving DecidableEq, Repr

/-- The fields of a command word (R192). -/
def CmdWord.split (w : BitVec 256) : CmdWord :=
  ⟨w.extractLsb' 248 8, w.extractLsb' 244 4, w.getLsbD 243, w.getLsbD 242, w.extractLsb' 240 2,
    w.extractLsb' 192 48, w.extractLsb' 128 64, w.extractLsb' 64 64, w.extractLsb' 0 64⟩

/-- The command word of given fields (R192). -/
def CmdWord.join (x : CmdWord) : BitVec 256 :=
  x.op ++ x.eng ++ bit1 x.comb ++ bit1 x.tagged ++ x.mbz ++ x.fields ++ x.c ++ x.b ++ x.a

/-- FIELDS of a track command (R204). -/
def TrackF.split (w : BitVec 48) : TrackF :=
  ⟨w.extractLsb' 41 7, w.extractLsb' 31 10, w.extractLsb' 28 3, w.getLsbD 27, w.extractLsb' 25 2,
    w.extractLsb' 20 5, w.extractLsb' 10 10, w.extractLsb' 0 10⟩

/-- FIELDS of a track command as bits (R204). -/
def TrackF.join (f : TrackF) : BitVec 48 :=
  f.track ++ f.head ++ f.step ++ bit1 f.four ++ f.seg ++ f.vreg ++ f.npos ++ f.low

/-- FIELDS of a vector command (R225). -/
def VecF.split (w : BitVec 48) : VecF :=
  ⟨w.extractLsb' 43 5, w.extractLsb' 38 5, w.extractLsb' 33 5, w.extractLsb' 28 5, w.extractLsb' 26 2,
    w.getLsbD 25, w.extractLsb' 22 3, w.getLsbD 21, w.extractLsb' 16 5, w.extractLsb' 11 5, w.getLsbD 10,
    w.extractLsb' 5 5, w.extractLsb' 0 5⟩

/-- FIELDS of a vector command as bits (R225). -/
def VecF.join (f : VecF) : BitVec 48 :=
  f.vd ++ f.va ++ f.vb ++ f.vc ++ f.gc ++ bit1 f.men ++ f.mreg ++ bit1 f.mz ++ f.rt ++ f.fn ++
    bit1 f.rtz ++ f.xt ++ f.aux

/-- FIELDS of a press command (R251). -/
def PressF.split (w : BitVec 48) : PressF :=
  ⟨w.extractLsb' 44 4, w.extractLsb' 40 4, w.extractLsb' 36 4, w.extractLsb' 34 2, w.extractLsb' 32 2,
    w.extractLsb' 27 5, w.getLsbD 26, w.getLsbD 25, w.getLsbD 24, w.getLsbD 23, w.extractLsb' 18 5,
    w.getLsbD 17, w.getLsbD 16, w.getLsbD 15, w.extractLsb' 12 3, w.extractLsb' 0 12⟩

/-- FIELDS of a press command as bits (R251). -/
def PressF.join (f : PressF) : BitVec 48 :=
  f.sa ++ f.sb ++ f.sm ++ f.acc ++ f.acc2 ++ f.ty ++ bit1 f.rtz ++ bit1 f.tr ++ bit1 f.dk ++ bit1 f.rs ++
    f.nrow ++ bit1 f.sp8 ++ bit1 f.cwput ++ bit1 f.rmt ++ f.mreg ++ f.low

/-- FIELDS of a copy-engine command (R209). -/
def CopyF.split (w : BitVec 48) : CopyF :=
  ⟨w.getLsbD 47, w.getLsbD 46, w.extractLsb' 43 3, w.extractLsb' 39 4, w.extractLsb' 0 39⟩

/-- FIELDS of a copy-engine command as bits (R209). -/
def CopyF.join (f : CopyF) : BitVec 48 := bit1 f.cwput ++ bit1 f.rb ++ f.subid ++ f.ns ++ f.low

/-- FIELDS of a queue-control command (R201). -/
def QueueF.split (w : BitVec 48) : QueueF :=
  ⟨w.extractLsb' 36 12, w.extractLsb' 33 3, w.extractLsb' 28 5, w.extractLsb' 0 28⟩

/-- FIELDS of a queue-control command as bits (R201). -/
def QueueF.join (f : QueueF) : BitVec 48 := f.n ++ f.m ++ f.stagger ++ f.low

/-- Queue-control commands, ENG 0 (R193). -/
def decodeQueue (op : Nat) (t : Bool) (f : QueueF) (sl : Slots) : Option Instr :=
  match op with
  | 0 => some (.qnop t f sl)
  | 1 => some (.qtag t f sl)
  | 2 => some (.qord t f sl)
  | 3 => some (.rep t f sl)
  | _ => none

/-- Track-port commands, ENG 1 (R193). -/
def decodeTrackPort (op : Nat) (t : Bool) (f : TrackF) (sl : Slots) : Option Instr :=
  match op with
  | 0 => some (.tseek t f sl)
  | 1 => some (.trd t f sl)
  | 2 => some (.twr t f sl)
  | 3 => some (.trew t f sl)
  | 4 => some (.tblk t f sl)
  | 5 => some (.tblkw t f sl)
  | _ => none

/-- Vector commands, ENG 2 (R193, R226). -/
def decodeVector (op : Nat) (t : Bool) (f : VecF) (sl : Slots) : Option Instr :=
  match op with
  | 0x00 => some (.vld t f sl)
  | 0x01 => some (.vlds t f sl)
  | 0x02 => some (.vgath t f sl)
  | 0x03 => some (.vst t f sl)
  | 0x04 => some (.vsts t f sl)
  | 0x05 => some (.vscat t f sl)
  | 0x06 => some (.vbcast t f sl)
  | 0x07 =>
    if f.fn = 0 then some (.vmovxBc t f sl) else if f.fn = 1 then some (.vmovxIns t f sl) else none
  | 0x08 => some (.vop t f sl)
  | 0x09 => some (.vfma t f sl)
  | 0x0A => some (.vcmp t f sl)
  | 0x0B => some (.vsel t f sl)
  | 0x0C => some (.vcvt t f sl)
  | 0x0D => some (.vred t f sl)
  | 0x0E => some (.vexp t f sl)
  | 0x0F => some (.vrcp t f sl)
  | 0x10 => some (.vrsq t f sl)
  | 0x11 => some (.vperm t f sl)
  | 0x12 => some (.vdot t f sl)
  | _ => none

/-- Press commands, ENG 3 (R193, R252). -/
def decodePress (op : Nat) (t : Bool) (f : PressF) (sl : Slots) : Option Instr :=
  match op with
  | 0x00 => some (.mclaim t f sl)
  | 0x01 => some (.mfree t f sl)
  | 0x02 => if f.dk then some (.mloadAcc t f sl) else some (.mload t f sl)
  | 0x03 => some (.mzero t f sl)
  | 0x04 => some (.mma t f sl)
  | 0x05 => some (.mmaSp t f sl)
  | 0x06 => some (.msoft t f sl)
  | 0x07 => some (.mmerge t f sl)
  | 0x08 => some (.mnorm t f sl)
  | 0x09 => some (.mdrain t f sl)
  | 0x0A => some (.mstat t f sl)
  | _ => none

/-- Copy-engine commands, ENG 4 (R193, R209). -/
def decodeCopy (op : Nat) (t comb : Bool) (f : CopyF) (sl : Slots) : Option Instr :=
  match op with
  | 0x00 => if f.rb then some (.cpyRb t f sl) else some (.cpy t f sl)
  | 0x01 => if f.rb then some (.cfillRb t f sl) else some (.cfill t f sl)
  | 0x02 => some (.subCommand t comb f sl)
  | 0x03 => some (.unsub t f sl)
  | 0x04 => some (.retn t f sl)
  | _ => none

/-- The command of a split word with its unresolved marks; `none` where R194 makes the command undefined by its OP,
ENG, bits 241:240 or COMBINE. -/
def decodeCmdWord (x : CmdWord) (ua ub : Bool) : Option Instr :=
  let sl : Slots := ⟨x.a, x.b, x.c, ua, ub⟩
  let op := x.op.toNat
  if x.mbz ≠ 0 then none
  else if x.comb ∧ ¬ (x.eng = 4 ∧ x.op = 2) then none
  else
    match x.eng.toNat with
    | 0 => decodeQueue op x.tagged (.split x.fields) sl
    | 1 => decodeTrackPort op x.tagged (.split x.fields) sl
    | 2 => decodeVector op x.tagged (.split x.fields) sl
    | 3 => decodePress op x.tagged (.split x.fields) sl
    | 4 => decodeCopy op x.tagged x.comb (.split x.fields) sl
    | _ => none

/-- The command of a 256-bit word (R192–R194). -/
def decodeCommand (w : BitVec 256) (ua ub : Bool) : Option Instr := decodeCmdWord (.split w) ua ub

/-! ## The encoders -/

/-- Fields of an atomic (R159). -/
def atomicFields (op : BitVec 4) (o : Order) (w : Width) (rd rs2 rs1 : Reg) : Fields :=
  ⟨op ++ o.bits, rs2, rs1, w.code, rd, 0x2F⟩

/-- Fields of a FENCE (R169). -/
def fenceFields (kind : BitVec 4) (sc : Scope) : Fields :=
  .i 0x0F 0 0 0 ((0 : BitVec 5) ++ sc.code ++ kind)

/-- The fields of a scalar instruction's word, from the tables of R140, R144, R151, R159, R169, R170, R174, R181, R187
and R315; `none` for a command or an event. -/
def encodeFields : Instr → Option Fields
  | .addi rd rs1 imm => some (.i 0x13 0 rd rs1 imm)
  | .slti rd rs1 imm => some (.i 0x13 2 rd rs1 imm)
  | .sltiu rd rs1 imm => some (.i 0x13 3 rd rs1 imm)
  | .xori rd rs1 imm => some (.i 0x13 4 rd rs1 imm)
  | .ori rd rs1 imm => some (.i 0x13 6 rd rs1 imm)
  | .andi rd rs1 imm => some (.i 0x13 7 rd rs1 imm)
  | .slli rd rs1 sh => some (.i 0x13 1 rd rs1 ((0 : BitVec 6) ++ sh))
  | .srli rd rs1 sh => some (.i 0x13 5 rd rs1 ((0 : BitVec 6) ++ sh))
  | .srai rd rs1 sh => some (.i 0x13 5 rd rs1 ((16 : BitVec 6) ++ sh))
  | .add rd rs1 rs2 => some (.r 0x33 0 0 rd rs1 rs2)
  | .sub rd rs1 rs2 => some (.r 0x33 0 32 rd rs1 rs2)
  | .mul rd rs1 rs2 => some (.r 0x33 0 1 rd rs1 rs2)
  | .sll rd rs1 rs2 => some (.r 0x33 1 0 rd rs1 rs2)
  | .mulh rd rs1 rs2 => some (.r 0x33 1 1 rd rs1 rs2)
  | .slt rd rs1 rs2 => some (.r 0x33 2 0 rd rs1 rs2)
  | .mulhsu rd rs1 rs2 => some (.r 0x33 2 1 rd rs1 rs2)
  | .sltu rd rs1 rs2 => some (.r 0x33 3 0 rd rs1 rs2)
  | .mulhu rd rs1 rs2 => some (.r 0x33 3 1 rd rs1 rs2)
  | .xor rd rs1 rs2 => some (.r 0x33 4 0 rd rs1 rs2)
  | .div rd rs1 rs2 => some (.r 0x33 4 1 rd rs1 rs2)
  | .srl rd rs1 rs2 => some (.r 0x33 5 0 rd rs1 rs2)
  | .sra rd rs1 rs2 => some (.r 0x33 5 32 rd rs1 rs2)
  | .divu rd rs1 rs2 => some (.r 0x33 5 1 rd rs1 rs2)
  | .or rd rs1 rs2 => some (.r 0x33 6 0 rd rs1 rs2)
  | .rem rd rs1 rs2 => some (.r 0x33 6 1 rd rs1 rs2)
  | .and rd rs1 rs2 => some (.r 0x33 7 0 rd rs1 rs2)
  | .remu rd rs1 rs2 => some (.r 0x33 7 1 rd rs1 rs2)
  | .addw rd rs1 rs2 => some (.r 0x3B 0 0 rd rs1 rs2)
  | .subw rd rs1 rs2 => some (.r 0x3B 0 32 rd rs1 rs2)
  | .mulw rd rs1 rs2 => some (.r 0x3B 0 1 rd rs1 rs2)
  | .sllw rd rs1 rs2 => some (.r 0x3B 1 0 rd rs1 rs2)
  | .divw rd rs1 rs2 => some (.r 0x3B 4 1 rd rs1 rs2)
  | .srlw rd rs1 rs2 => some (.r 0x3B 5 0 rd rs1 rs2)
  | .sraw rd rs1 rs2 => some (.r 0x3B 5 32 rd rs1 rs2)
  | .divuw rd rs1 rs2 => some (.r 0x3B 5 1 rd rs1 rs2)
  | .remw rd rs1 rs2 => some (.r 0x3B 6 1 rd rs1 rs2)
  | .remuw rd rs1 rs2 => some (.r 0x3B 7 1 rd rs1 rs2)
  | .addiw rd rs1 imm => some (.i 0x1B 0 rd rs1 imm)
  | .slliw rd rs1 sh => some (.r 0x1B 1 0 rd rs1 sh)
  | .srliw rd rs1 sh => some (.r 0x1B 5 0 rd rs1 sh)
  | .sraiw rd rs1 sh => some (.r 0x1B 5 32 rd rs1 sh)
  | .lui rd imm => some (.u 0x37 rd imm)
  | .auipc rd imm => some (.u 0x17 rd imm)
  | .beq rs1 rs2 imm => some (.b 0x63 0 rs1 rs2 imm)
  | .bne rs1 rs2 imm => some (.b 0x63 1 rs1 rs2 imm)
  | .blt rs1 rs2 imm => some (.b 0x63 4 rs1 rs2 imm)
  | .bge rs1 rs2 imm => some (.b 0x63 5 rs1 rs2 imm)
  | .bltu rs1 rs2 imm => some (.b 0x63 6 rs1 rs2 imm)
  | .bgeu rs1 rs2 imm => some (.b 0x63 7 rs1 rs2 imm)
  | .jal rd imm => some (.j 0x6F rd imm)
  | .jalr rd rs1 imm => some (.i 0x67 0 rd rs1 imm)
  | .ld w rd rs1 imm => some (.i 0x03 w.code rd rs1 imm)
  | .lds w rd rs1 imm => some (.i 0x07 w.code rd rs1 imm)
  | .st w rs2 rs1 imm => some (.s 0x23 w.code rs1 rs2 imm)
  | .ldx w rd rs1 rs2 => some (.r 0x27 w.code 0 rd rs1 rs2)
  | .ldxs w rd rs1 rs2 => some (.r 0x27 w.code 2 rd rs1 rs2)
  | .stx w rd rs1 rs2 => some (.r 0x27 w.code 1 rd rs1 rs2)
  | .padd w rd rs1 rs2 => some (.r 0x2B w.code 0 rd rs1 rs2)
  | .pdiff w rd rs1 rs2 => some (.r 0x2B w.code 1 rd rs1 rs2)
  | .paln w rd rs1 c => some (.r 0x2B w.code 2 rd rs1 ((0 : BitVec 3) ++ c))
  | .pxy rd rs1 => some (.r 0x2B 0 3 rd rs1 0)
  | .psetxy rd rs1 rs2 => some (.r 0x2B 0 4 rd rs1 rs2)
  | .play rd rs1 => some (.r 0x2B 0 5 rd rs1 0)
  | .playS rd rs1 rs2 => some (.r 0x2B 1 5 rd rs1 rs2)
  | .prelA rd rs1 => some (.r 0x2B 0 6 rd rs1 0)
  | .prelR rd rs1 => some (.r 0x2B 1 6 rd rs1 0)
  | .amoAdd o w rd rs2 rs1 => some (atomicFields 0 o w rd rs2 rs1)
  | .amoAnd o w rd rs2 rs1 => some (atomicFields 1 o w rd rs2 rs1)
  | .amoOr o w rd rs2 rs1 => some (atomicFields 2 o w rd rs2 rs1)
  | .amoXor o w rd rs2 rs1 => some (atomicFields 3 o w rd rs2 rs1)
  | .amoMin o w rd rs2 rs1 => some (atomicFields 4 o w rd rs2 rs1)
  | .amoMax o w rd rs2 rs1 => some (atomicFields 5 o w rd rs2 rs1)
  | .amoMinn o w rd rs2 rs1 => some (atomicFields 6 o w rd rs2 rs1)
  | .amoMaxn o w rd rs2 rs1 => some (atomicFields 7 o w rd rs2 rs1)
  | .amoSwap o w rd rs2 rs1 => some (atomicFields 8 o w rd rs2 rs1)
  | .amoFadd o w rd rs2 rs1 => some (atomicFields 9 o w rd rs2 rs1)
  | .cas o w rd rs2 rs1 => some (atomicFields 10 o w rd rs2 rs1)
  | .take o w rd rs1 => some (atomicFields 11 o w rd 0 rs1)
  | .put o w rs2 rs1 => some (atomicFields 12 o w 0 rs2 rs1)
  | .festat rd rs1 => some (atomicFields 13 ⟨false, false, false⟩ .b64 rd 0 rs1)
  | .await cmp aq w rd rs2 rs1 => some ⟨(14 : BitVec 4) ++ bit1 aq ++ cmp.code, rs2, rs1, w.code, rd, 0x2F⟩
  | .takeNb o w rd rt rs1 => some (atomicFields 15 o w rd rt rs1)
  | .fenceAcq sc => some (fenceFields 0 sc)
  | .fenceRel sc => some (fenceFields 1 sc)
  | .fenceAr sc => some (fenceFields 2 sc)
  | .fenceSc sc => some (fenceFields 3 sc)
  | .cmd p rs1 rs2 => some (.r 0x0B 0 ((0 : BitVec 3) ++ p.p2 ++ p.p1) 0 rs1 rs2)
  | .cmdr p rs1 rs2 => some (.r 0x0B 1 ((0 : BitVec 3) ++ p.p2 ++ p.p1) 0 rs1 rs2)
  | .qwait rs1 => some (.r 0x0B 2 0 0 rs1 0)
  | .spawn rs1 => some (.r 0x5B 0 0 0 rs1 0)
  | .spawnW rd rs1 => some (.r 0x5B 0 1 rd rs1 0)
  | .spawnAt rs1 rs2 => some (.r 0x5B 0 2 0 rs1 rs2)
  | .spawnAtW rd rs1 rs2 => some (.r 0x5B 0 3 rd rs1 rs2)
  | .popt rd => some (.r 0x5B 1 0 rd 0 0)
  | .rnext rd re => some (.r 0x5B 1 1 rd 0 re)
  | .suspend => some (.r 0x5B 1 2 0 0 0)
  | .yield => some (.r 0x5B 1 3 0 0 0)
  | .exit => some (.r 0x5B 1 4 0 0 0)
  | .barrNone c => some (.r 0x5B 2 0 0 ((0 : BitVec 1) ++ c) 0)
  | .barrNamed c => some (.r 0x5B 2 1 0 ((0 : BitVec 1) ++ c) 0)
  | .barrAll c => some (.r 0x5B 2 2 0 ((0 : BitVec 1) ++ c) 0)
  | .bwait c => some (.r 0x5B 3 0 0 ((0 : BitVec 1) ++ c) 0)
  | .sxmit route rs1 rs2 => some (.s 0x5B 4 rs1 rs2 ((0 : BitVec 4) ++ route))
  | .sxwait route rs1 => some (.i 0x5B 5 0 rs1 ((0 : BitVec 4) ++ route))
  | .tbind t rs1 => some (.i 0x7B 0 0 rs1 ((0 : BitVec 5) ++ t))
  | .tfree t => some (.i 0x7B 1 0 0 ((0 : BitVec 5) ++ t))
  | .thead rd t => some (.i 0x7B 2 rd 0 ((0 : BitVec 5) ++ t))
  | .pgalloc rd => some (.r 0x7B 3 0 rd 0 0)
  | .pgfree rs1 => some (.r 0x7B 4 0 0 rs1 0)
  | .kvmap rd rs1 rs2 => some (.r 0x7B 5 0 rd rs1 rs2)
  | .kvmapW rd rs1 rs2 => some (.r 0x7B 5 1 rd rs1 rs2)
  | .ecall => some (.i 0x73 0 0 0 0)
  | .ebreak => some (.i 0x73 0 0 0 1)
  | .sleep rs1 => some (.i 0x73 0 0 rs1 0x105)
  | .csrrw rd rs1 csr => some (.i 0x73 1 rd rs1 csr)
  | .csrrs rd rs1 csr => some (.i 0x73 2 rd rs1 csr)
  | .csrrc rd rs1 csr => some (.i 0x73 3 rd rs1 csr)
  | .csrrwi rd u csr => some (.i 0x73 5 rd u csr)
  | .csrrsi rd u csr => some (.i 0x73 6 rd u csr)
  | .csrrci rd u csr => some (.i 0x73 7 rd u csr)
  | .tret => some (.i 0x73 0 0 0 0x300)
  | .l2pset rd rs1 => some (.i 0x73 0 rd rs1 0x301)
  | .tlbinvPage rs1 => some (.i 0x73 0 0 rs1 0x302)
  | .tlbinvAll => some (.i 0x73 0 0 0 0x303)
  | .capmint rd rs1 => some (.i 0x73 0 rd rs1 0x304)
  | .preempt rd rs1 => some (.i 0x73 0 rd rs1 0x305)
  | .qdrain rs1 => some (.i 0x73 0 0 rs1 0x306)
  | _ => none

/-- The 32-bit word of a scalar instruction. -/
def encode (i : Instr) : Option (BitVec 32) := (encodeFields i).map Fields.join

/-- A command word of given parts. -/
def cmdWord (eng : BitVec 4) (op : BitVec 8) (comb tagged : Bool) (fields : BitVec 48) (sl : Slots) : CmdWord :=
  ⟨op, eng, comb, tagged, 0, fields, sl.c, sl.b, sl.a⟩

/-- The parts of a command's word, from the tables of R193, R201, R204, R209, R226 and R252, with its unresolved
marks beside it; `none` for a scalar instruction or an event. -/
def encodeCmdWord : Instr → Option (CmdWord × Bool × Bool)
  | .qnop t f sl => some (cmdWord 0 0 false t f.join sl, sl.ua, sl.ub)
  | .qtag t f sl => some (cmdWord 0 1 false t f.join sl, sl.ua, sl.ub)
  | .qord t f sl => some (cmdWord 0 2 false t f.join sl, sl.ua, sl.ub)
  | .rep t f sl => some (cmdWord 0 3 false t f.join sl, sl.ua, sl.ub)
  | .tseek t f sl => some (cmdWord 1 0 false t f.join sl, sl.ua, sl.ub)
  | .trd t f sl => some (cmdWord 1 1 false t f.join sl, sl.ua, sl.ub)
  | .twr t f sl => some (cmdWord 1 2 false t f.join sl, sl.ua, sl.ub)
  | .trew t f sl => some (cmdWord 1 3 false t f.join sl, sl.ua, sl.ub)
  | .tblk t f sl => some (cmdWord 1 4 false t f.join sl, sl.ua, sl.ub)
  | .tblkw t f sl => some (cmdWord 1 5 false t f.join sl, sl.ua, sl.ub)
  | .vld t f sl => some (cmdWord 2 0x00 false t f.join sl, sl.ua, sl.ub)
  | .vlds t f sl => some (cmdWord 2 0x01 false t f.join sl, sl.ua, sl.ub)
  | .vgath t f sl => some (cmdWord 2 0x02 false t f.join sl, sl.ua, sl.ub)
  | .vst t f sl => some (cmdWord 2 0x03 false t f.join sl, sl.ua, sl.ub)
  | .vsts t f sl => some (cmdWord 2 0x04 false t f.join sl, sl.ua, sl.ub)
  | .vscat t f sl => some (cmdWord 2 0x05 false t f.join sl, sl.ua, sl.ub)
  | .vbcast t f sl => some (cmdWord 2 0x06 false t f.join sl, sl.ua, sl.ub)
  | .vmovxBc t f sl => some (cmdWord 2 0x07 false t f.join sl, sl.ua, sl.ub)
  | .vmovxIns t f sl => some (cmdWord 2 0x07 false t f.join sl, sl.ua, sl.ub)
  | .vop t f sl => some (cmdWord 2 0x08 false t f.join sl, sl.ua, sl.ub)
  | .vfma t f sl => some (cmdWord 2 0x09 false t f.join sl, sl.ua, sl.ub)
  | .vcmp t f sl => some (cmdWord 2 0x0A false t f.join sl, sl.ua, sl.ub)
  | .vsel t f sl => some (cmdWord 2 0x0B false t f.join sl, sl.ua, sl.ub)
  | .vcvt t f sl => some (cmdWord 2 0x0C false t f.join sl, sl.ua, sl.ub)
  | .vred t f sl => some (cmdWord 2 0x0D false t f.join sl, sl.ua, sl.ub)
  | .vexp t f sl => some (cmdWord 2 0x0E false t f.join sl, sl.ua, sl.ub)
  | .vrcp t f sl => some (cmdWord 2 0x0F false t f.join sl, sl.ua, sl.ub)
  | .vrsq t f sl => some (cmdWord 2 0x10 false t f.join sl, sl.ua, sl.ub)
  | .vperm t f sl => some (cmdWord 2 0x11 false t f.join sl, sl.ua, sl.ub)
  | .vdot t f sl => some (cmdWord 2 0x12 false t f.join sl, sl.ua, sl.ub)
  | .mclaim t f sl => some (cmdWord 3 0x00 false t f.join sl, sl.ua, sl.ub)
  | .mfree t f sl => some (cmdWord 3 0x01 false t f.join sl, sl.ua, sl.ub)
  | .mload t f sl => some (cmdWord 3 0x02 false t f.join sl, sl.ua, sl.ub)
  | .mloadAcc t f sl => some (cmdWord 3 0x02 false t f.join sl, sl.ua, sl.ub)
  | .mzero t f sl => some (cmdWord 3 0x03 false t f.join sl, sl.ua, sl.ub)
  | .mma t f sl => some (cmdWord 3 0x04 false t f.join sl, sl.ua, sl.ub)
  | .mmaSp t f sl => some (cmdWord 3 0x05 false t f.join sl, sl.ua, sl.ub)
  | .msoft t f sl => some (cmdWord 3 0x06 false t f.join sl, sl.ua, sl.ub)
  | .mmerge t f sl => some (cmdWord 3 0x07 false t f.join sl, sl.ua, sl.ub)
  | .mnorm t f sl => some (cmdWord 3 0x08 false t f.join sl, sl.ua, sl.ub)
  | .mdrain t f sl => some (cmdWord 3 0x09 false t f.join sl, sl.ua, sl.ub)
  | .mstat t f sl => some (cmdWord 3 0x0A false t f.join sl, sl.ua, sl.ub)
  | .cpy t f sl => some (cmdWord 4 0 false t f.join sl, sl.ua, sl.ub)
  | .cpyRb t f sl => some (cmdWord 4 0 false t f.join sl, sl.ua, sl.ub)
  | .cfill t f sl => some (cmdWord 4 1 false t f.join sl, sl.ua, sl.ub)
  | .cfillRb t f sl => some (cmdWord 4 1 false t f.join sl, sl.ua, sl.ub)
  | .subCommand t c f sl => some (cmdWord 4 2 c t f.join sl, sl.ua, sl.ub)
  | .unsub t f sl => some (cmdWord 4 3 false t f.join sl, sl.ua, sl.ub)
  | .retn t f sl => some (cmdWord 4 4 false t f.join sl, sl.ua, sl.ub)
  | _ => none

/-- The 256-bit word of a command, without its unresolved marks. -/
def encodeCommand (i : Instr) : Option (BitVec 256) := (encodeCmdWord i).map fun x => x.1.join

/-- The instruction the decoders read from a word of the opcode table: a scalar word, or with more than 32 bits a
command word. -/
def decodeTableWord (nbits w : Nat) : Option Instr :=
  if nbits ≤ 32 then decodeWord (BitVec.ofNat 32 w) else decodeCommand (BitVec.ofNat 256 w) false false

end Sys2Proof
end

