-- ==== Sys2Proof/WellFormed.lean ====
section
/-! DEFINITION. Which instructions are well formed: those whose field values their encoding admits. The check
itself stands in Decode.lean, where the decoder and the machine use the same one. -/

namespace Sys2Proof

/-- A well-formed instruction: its field values are those that its encoding admits (R139, R159, R170, R174, R194).
An event has no encoding and is always well formed. -/
def Instr.wf (i : Instr) : Bool := i.fieldsOk

end Sys2Proof
end

