-- ==== Sys2Proof/Machine/State.lean ====
section
/-! DEFINITION. The state of one Ceryen W1 module carrying one partition, as plain data, and its value after a
cold boot. Numbers that name places: a core is 1,024·y + x by its logical coordinates (R17), a quad 512·(y div 2) +
x div 2, a cluster 128·(y div 8) + x div 8 (R53). -/

namespace Sys2Proof.Machine

/-- A table from numbers to values, sorted by key; an unlisted key has the value its reader names. -/
abbrev Tbl (α : Type) := List (Nat × α)

/-- A memory: addresses and bytes in one canonical form, see Ops.lean (log entry 3). -/
abbrev Memory := List (Nat × Byte)

/-- Why the machine stops: it never does. While a module-wide fatal error or a boot that failed has stopped issue, time
passes and nothing else happens (R408, R409). -/
inductive Fault where
  deriving DecidableEq, Repr

/-- Why an instruction is refused. `notModelled`: raised only by the arms of exec that have no meaning yet. Safe. -/
inductive Refusal where
  | notModelled (mnemonic : String)
  deriving DecidableEq, Repr

/-- The wait kinds of the wait table (R115, R188, R313, R332); `other` is a wait the table does not list. -/
inductive WaitKind where
  | take | await | bwait | sxwait | spawn | sleep | halt | page | other
  deriving DecidableEq, Repr

/-- What a resident strand does: it issues; it waits for the answer with a tag (R99, R168); it executes its
instruction again until that completes, `datum` holding what the instruction remembers (R98, R319); it waits on an
absent page, with the slot of its cluster's fault queue or none yet (R332, R335); it has stopped to be written back, at
a suspension point or by force (R98, R319); or it is halted (R313). -/
inductive Status where
  | running
  | reply (kind : WaitKind) (addr : Word) (tag : Nat)
  | stalled (kind : WaitKind) (addr : Word) (datum : Nat)
  | page (addr : Word) (acc : Access) (slot : Option Nat)
  | stopped (forced : Bool)
  | halted
  deriving DecidableEq, Repr

/-- A strand: the state that its record (R93), its save frame (R94) and its bank (R103) hold; `joined` has the full number of
the phase of each pending BARR, of which BPEND holds the low three bits (R109, log entry 9). -/
structure Strand where
  pc : Word
  x : Vector Word 32
  v : Vector Wide 32
  priv : Bool
  ppriv : Bool
  trap : Bool
  dloss : Bool
  fx : BitVec 5
  hkey : BitVec 15
  share : BitVec 4
  notice : Word
  qerr : Word
  qprog : Word
  sfp : Word
  binds : List (BitVec 7 × BitVec 10)
  bpend : Word
  prio : BitVec 2
  aff : Bool
  haff : Bool
  affx : BitVec 10
  affy : BitVec 10
  fullsave : Bool
  cause : BitVec 8
  link : Word
  claims : BitVec 16
  task : BitVec 512
  next : Word
  hi : Word
  leafEnded : Bool
  order : Nat
  msglat : Word
  joined : Tbl Nat
  deriving DecidableEq, Repr

/-- A strand's reset values: zero but for SHARE, which is 1 (R94, R103); of an empty bank, log entry 2. -/
def Strand.reset : Strand where
  pc := 0
  x := Vector.replicate 32 0
  v := Vector.replicate 32 0
  priv := false
  ppriv := false
  trap := false
  dloss := false
  fx := 0
  hkey := 0
  share := 1
  notice := 0
  qerr := 0
  qprog := 0
  sfp := 0
  binds := []
  bpend := 0
  prio := 0
  aff := false
  haff := false
  affx := 0
  affy := 0
  fullsave := false
  cause := 0
  link := 0
  claims := 0
  task := 0
  next := 0
  hi := 0
  leafEnded := true
  order := 0
  msglat := 0
  joined := []

/-- A register bank of a core (R99): whether a strand is resident, the strand and its status, the bank's CSRs (R306),
the pre-emption mark with its deadline in cycles (R319), and how the last marked strand left. -/
structure Bank where
  live : Bool
  strand : Strand
  status : Status
  tcause : BitVec 8
  tval : Word
  tepc : Word
  tscratch : Word
  mark : Option Nat
  outcome : BitVec 2
  deriving DecidableEq, Repr

/-- An empty bank. -/
def Bank.reset : Bank := ⟨false, .reset, .running, 0, 0, 0, 0, none, 0⟩

/-- An entry of an engine queue (R195): the command word with its unresolved marks (R171), the save-frame pointer of the
strand that pushed it and its mode, and whether it is a REP that a drain found short of its capture (R219). -/
structure QEntry where
  word : BitVec 256
  ua : Bool
  ub : Bool
  sfp : Word
  priv : Bool
  short : Bool
  deriving DecidableEq, Repr

/-- The context in which a command runs: the core whose queue it came from or that sent it, the target quad, the
strand, its mode, how a REP issued it (R199), whether it is remote and its checks were made on arrival (R221, R253); and of a
command that goes on after a wait on a page (R337) its number, how many of its writes are performed, and the types and
the shape record that it read at issue (R72). -/
structure Ctx where
  core : Nat
  quad : Nat
  sfp : Word
  priv : Bool
  inRep : Bool
  iter : Nat
  cidx : Nat
  remote : Bool
  arrived : Bool
  id : Option Nat
  performed : Nat
  types : List (BitVec 5)
  record : List Word
  deriving DecidableEq, Repr

/-- The context of a command of a strand of a core, issued outside a REP. -/
def Ctx.plain (core quad : Nat) (sfp : Word) (priv : Bool) : Ctx := ⟨core, quad, sfp, priv, false, 0, 0, false, false, none, 0, [], []⟩

/-- A REP in progress (R203): its counts, stagger and strides, the captured commands, and the next instance. -/
structure Rep where
  n : Nat
  m : Nat
  stagger : BitVec 5
  da : Word
  db : Word
  sfp : Word
  captured : List QEntry
  i : Nat
  j : Nat
  deriving DecidableEq, Repr

/-- What an issued copy command has still to do: its completion word (physical bit, value, whether by PUT), the QERR of a
fault found then but for its cause, and of a RETN the tile and where it is stored, with its mode, and the type of its slot as it
read it (R72, R213, R216). -/
structure Late where
  word : Option Nat
  value : Nat
  put : Bool
  qerr : Word
  dst : Word
  priv : Bool
  ty : BitVec 5
  deriving DecidableEq, Repr

/-- An issued command that has not completed (R195, R196): its number, its sender, the press and vector units it
reads and writes (vector register k of the strand is k, slot k is 32 + k, accumulator a is 48 + a), its FX flags for completion
(R129), which engine and pipe perform it, what a copy command has still to do, and while it waits on an absent page its
context and its entry (R337); `track` is the track of a track command, 16 · subscription + slot of a RETN,
256 + subscription of a SUB, 512 of another copy command. -/
structure Issued where
  id : Nat
  core : Nat
  sfp : Word
  eng : Nat
  pipe : Nat
  track : Nat
  remote : Bool
  reads : List Nat
  writes : List Nat
  fx : BitVec 5
  late : Option Late
  paused : Option (Ctx × QEntry)
  deriving DecidableEq, Repr

/-- A pending tag of a strand (R173, R202): it takes effect when the commands issued before number `after` of its
strand have completed; `cmd` is the number of the command whose TAGGED flag it is, none for a QTAG's or one of a command that leaves
no work behind it. -/
structure Tag where
  sfp : Word
  after : Nat
  cmd : Option Nat
  deriving DecidableEq, Repr

/-- A parked record a core holds (R101, R341): its pool slot (0–63) or 64 + its slot of the spill area, its strand,
whether it is runnable, what it waits for, and since when it has been runnable. The list of a core is in the order of age. -/
structure Parked where
  place : Nat
  sfp : Word
  runnable : Bool
  status : Status
  since : Nat
  deriving DecidableEq, Repr

/-- What a parked strand keeps beside its record and frame (R103): its running range and its start order, its
last-access measure, and the full numbers of the phases that its BPEND names (R109). Log entry 9. -/
structure Kept where
  task : BitVec 512
  next : Word
  hi : Word
  leafEnded : Bool
  order : Nat
  msglat : Word
  joined : Tbl Nat
  deriving DecidableEq, Repr

/-- An entry of a translation cache (R331): the first virtual bit address, the number of offset bits of its page, and
the leaf. -/
structure TlbEntry where
  va : Nat
  bits : Nat
  leaf : Word
  deriving DecidableEq, Repr

/-- A core (R306, R308): its banks, its registers, its engine queue with the strands whose commands
drain, each with whether only those that write vector registers (R97, R98), its deque and run list, and its tracks: which
strand, by save-frame pointer, each track is bound to (R79), where each stands (R75), and where a shift in progress leads
it (R76). -/
structure Core where
  banks : Vector Bank 4
  cur : Fin 4
  guard : Nat
  tvec : Word
  bmask : Word
  bmaskNew : Word
  shiftct : Word
  shiftac : Word
  tocc : BitVec 128
  fphead : Word
  pgasn : BitVec 128
  spill : Word
  depthFirst : Bool
  spn : BitVec 32
  rln : BitVec 6
  old : BitVec 5
  dqn : BitVec 6
  opreq : BitVec 3
  queue : List QEntry
  rep : Option Rep
  latch : Option QEntry
  draining : List (Word × Bool)
  tags : List Tag
  bound : Tbl Word
  trackPos : Tbl Nat
  shifting : Tbl Nat
  spares : Tbl Nat
  dead : List Nat
  slips : Tbl (Int × Nat)
  spine : Nat
  spineBroken : List Nat
  picks : Nat
  parked : List Parked
  spillRing : List Nat
  runSpill : List Nat
  arrivals : Tbl Nat
  steal : Option Nat
  stealIdle : Bool
  itlb : List TlbEntry
  dtlb : List TlbEntry
  deriving DecidableEq, Repr

/-- A core's reset values (R309, R340, R377); the current bank and the guard, log entry 2. -/
def Core.reset : Core where
  banks := Vector.replicate 4 .reset
  cur := 0
  guard := 0
  tvec := 0
  bmask := 0
  bmaskNew := 0
  shiftct := 0
  shiftac := 0
  tocc := 0
  fphead := 0
  pgasn := 0
  spill := 0
  depthFirst := false
  spn := 0
  rln := 0
  old := 0
  dqn := 0
  opreq := 4
  queue := []
  rep := none
  latch := none
  draining := []
  tags := []
  bound := []
  trackPos := []
  shifting := []
  spares := []
  dead := []
  slips := []
  spine := 16
  spineBroken := []
  picks := 0
  parked := []
  spillRing := []
  runSpill := []
  arrivals := []
  steal := none
  stealIdle := false
  itlb := []
  dtlb := []

/-- An operand slot of a press (R248). -/
structure Slot where
  elems : BitVec 16384
  side : BitVec 1024
  ty : BitVec 5
  deriving DecidableEq, Repr

/-- A zeroed slot, of type bf16 (R255). -/
def Slot.reset : Slot := ⟨0, 0, 1⟩

/-- The row state of one accumulator row (R248). -/
structure Row where
  m : BitVec 32
  l : BitVec 32
  empty : Bool
  nan : Bool
  inf : Bool
  deriving DecidableEq, Repr

/-- The reset row state (R249). -/
def Row.reset : Row := ⟨0xFF800000, 0, true, false, false⟩

/-- An accumulator: O[i][j] at bits 32·(32·i + j) and up, and the row states (R248). -/
structure Acc where
  o : BitVec 32768
  rows : Vector Row 32
  deriving DecidableEq, Repr

/-- The reset state of an accumulator (R249). -/
def Acc.reset : Acc := ⟨0, Vector.replicate 32 .reset⟩

/-- An entry of the owner table: HOLDER and LENT (R254). -/
structure Owner where
  holder : Option Word
  lent : Bool
  deriving DecidableEq, Repr

/-- The states of a ring slot (R215); `reading` is a READY slot that a RETN has released and the storer has not
read. -/
inductive RingState where
  | free
  | filling (tile : Nat)
  | ready (tile : Nat)
  | reading (tile : Nat)
  deriving DecidableEq, Repr

/-- A subscription (R214): the words of its record, the type of each ring slot (R72), its addresses, whether it still fetches, the next tile, its ring,
the strand it belongs to, how its SUB was issued, and the members it is merged with (R218). -/
structure Sub where
  active : Bool
  base : Word
  ring : Word
  record : List Word
  types : List (BitVec 5)
  slots : List RingState
  next : Nat
  tiles : Nat
  core : Nat
  sfp : Word
  priv : Bool
  qerrBits : Word
  comb : Bool
  arrived : Nat
  merged : List (Nat × Fin 8)
  deriving DecidableEq, Repr

/-- Power gating of a quad (R392). -/
inductive Gate where
  | on | requested | gated
  deriving DecidableEq, Repr

/-- A sensor (R387): its previous valid sample with its time, how many samples have been equal, the estimated power
at the first of them, and whether it failed. -/
structure Sensor where
  last : Option (Int × Nat)
  equal : Nat
  power : Nat
  failed : Bool
  deriving DecidableEq, Repr

/-- A sensor before its first sample. -/
def Sensor.reset : Sensor := ⟨none, 0, 0, false⟩

/-- A move of a logical quad (R316, R389): the physical target, the physical quad that serves it before, whether issue is
stopped at the boundary, whether the transfer is done, and whether L2PSET asked for it. -/
structure Move where
  target : Nat
  old : Nat
  bounded : Bool
  transferred : Bool
  asked : Bool
  deriving DecidableEq, Repr

/-- A quad (R306, R248, R254, R378): formats, press, copy engine, full/empty waiters, power state; TEMP in hundredths of a
degree (R388). -/
structure Quad where
  cfmt : Vector (BitVec 5) 7
  qctl : BitVec 3
  slots : Vector Slot 16
  accs : Vector Acc 4
  owners : Vector Owner 20
  deferred : List Msg
  subs : Vector (Option Sub) 8
  remote : List Remote
  out : List Issued
  deficit : Vector Int 4
  arbPtr : Fin 4
  half : Option (Fin 4)
  pressPtr : Fin 5
  copyPtr : Fin 5
  pool : BitVec 64
  errq : Word
  temp : Int
  temps : List (BitVec 8)
  rfail : Bool
  dfail : Bool
  pin : Bool
  hard : Bool
  droop : Bool
  halfw : Bool
  rate : BitVec 7
  budgetRate : BitVec 7
  opp : BitVec 3
  opcap : BitVec 3
  vmv : BitVec 12
  present : BitVec 8
  plan : Nat
  fsafe : Bool
  held : Bool
  diode : Sensor
  ring : Sensor
  gate : Gate
  move : Option Move
  fatal : Bool
  deriving DecidableEq, Repr

/-- A quad's reset values (R70, R309, R378); slots, accumulators, pointers and TEMP, log entries 2 and 12. -/
def Quad.reset : Quad where
  cfmt := Vector.replicate 7 24
  qctl := 0
  slots := Vector.replicate 16 .reset
  accs := Vector.replicate 4 .reset
  owners := Vector.replicate 20 ⟨none, false⟩
  deferred := []
  subs := Vector.replicate 8 none
  remote := []
  out := []
  deficit := Vector.replicate 4 0
  arbPtr := 0
  half := none
  pressPtr := 0
  copyPtr := 0
  pool := 0
  errq := 0
  temp := 6000
  temps := []
  rfail := false
  dfail := false
  pin := false
  hard := false
  droop := false
  halfw := false
  rate := 64
  budgetRate := 64
  opp := 4
  opcap := 7
  vmv := 0
  present := 255
  plan := 0
  fsafe := false
  held := false
  diode := .reset
  ring := .reset
  gate := .on
  move := none
  fatal := false

/-- A batch of absent pages (R335): the core that posts it, the bank of its strand, or the number of the command that waits
(R337); the strand, none once it has left its bank (R336); the PC, and the page records. -/
structure Batch where
  core : Nat
  bank : Option (Fin 4)
  cmd : Option Nat
  sfp : Option Word
  pc : Word
  pages : List Word
  deriving DecidableEq, Repr

/-- A request for a move of a quad (R316, R389): the physical target that L2PSET names, none for a request by temperature, and
the L2PSET's place and strand. -/
structure MoveRequest where
  quad : Nat
  target : Option Nat
  asker : Option (Place × Word)
  deriving DecidableEq, Repr

/-- A cluster (R306, R331, R334, R404): its registers, its second-level TLB, the batches that wait for a slot, the
slots that are watched, and the queue of moves. SCALEHOME is none until it is written: then it names the cluster's
first core (R309). -/
structure Cluster where
  scalehome : Option Word
  fqbase : Word
  errc : Word
  tlb : List TlbEntry
  batches : List Batch
  watched : List (Nat × Batch)
  moves : List MoveRequest
  deriving DecidableEq, Repr

/-- A cluster's reset values. -/
def Cluster.reset : Cluster := ⟨none, 0, 0, [], [], [], []⟩

/-- A page of a page pool (R183): free, allocated, or lent to another die, where it is allocated or free. -/
inductive PageState where
  | free
  | allocated
  | lentFree (die : Nat)
  | lentAllocated (die : Nat)
  deriving DecidableEq, Repr

/-- A die (R306, R391, R404): its error register, its failed sensors and its page pool, keyed by 512·core +
4·track + segment. -/
structure Die where
  errd : Word
  nfail : BitVec 16
  pool : Tbl PageState
  deriving DecidableEq, Repr

/-- A die's reset values. -/
def Die.reset : Die := ⟨0, 0, []⟩

/-- A power region (R309, R380, R383): CSTEP, its last grant in milliwatts with the time of it, whether the fail-safe is in
force, the count of droop alarms, when its droop response ends, the quads whose start is held (R381), and whether it
is switched off. -/
structure Region where
  cstep : BitVec 16
  grant : Nat
  grantAt : Nat
  failsafe : Bool
  alarms : Nat
  droopEnd : Nat
  starts : List (Nat × Nat)
  off : Bool
  deriving DecidableEq, Repr

/-- A region's reset values: CSTEP 500 (R309); before its first grant, the rated budget of 1,875 W, with no count to the fail-safe
running (DESIGN CHOICE, log entry 78: R25 and R379 give no grant before the first). -/
def Region.reset : Region := ⟨500, 1875000, 0, false, 0, 0, [], false⟩

/-- A barrier channel (R108–R112): the number of the phase in progress, and the fabric cycle of its last release, if any since
creation. -/
structure Channel where
  phase : Nat
  lastRelease : Option Nat
  deriving DecidableEq, Repr

/-- A route (R112–R114): its declaration, the phase of its channel when the image that declares it was loaded, its latency, its send buffer with the frame in which its beats leave, the
fabric cycle from which the buffer is free again, payloads in flight, its arrival and miss counters, and whether it is
detoured (R362). -/
structure Route where
  decl : RouteDecl
  since : Nat
  latency : Nat
  buffer : Option (List Wide)
  leave : Nat
  freeAt : Nat
  flying : List (Bool × List Wide)
  arrivals : BitVec 32
  misses : Nat
  detoured : Bool
  deriving DecidableEq, Repr

/-- An entry of the L2P table (R363). -/
structure L2p where
  pq : BitVec 5
  moving : Bool
  valid : Bool
  deriving DecidableEq, Repr

/-- An entry of the wait tables (R115): the core, the strand's PC and PRIV, the kind's code and the awaited address. -/
structure WaitEntry where
  core : Nat
  pc : Word
  priv : Bool
  kind : Nat
  addr : Word
  deriving DecidableEq, Repr

/-- The partition (R306, R308, R365): its shape, its registers, its channels, routes, table, bindings and keys, the host
key selections of its blocks and its host function (R366, R367), and the number of the encapsulation key made for it
(R407); `reported` is the wait table of the last hang trap, which re-arms when the table changes (R116). -/
structure Partition where
  live : Bool
  originX : Nat
  originY : Nat
  width : Nat
  height : Nat
  owner : Nat
  share : List Nat
  hostKeys : Tbl Nat
  link : Nat
  function : Nat
  encap : Option Nat
  ident : BitVec 16
  mode : Bool
  modeNew : Bool
  hold : Bool
  grant : BitVec 16
  orKind : BitVec 16
  orNew : BitVec 16
  l2pBase : Word
  ptbase : Word
  tlim : BitVec 8
  prewin : BitVec 32
  hangw : Word
  hangbuf : Word
  cbw : Vector Word 4
  cbwNew : Vector Word 4
  lwcfg : Word
  larea : Word
  evbase : Word
  evhead : Word
  evlost : Word
  channels : Tbl Channel
  routes : Tbl Route
  l2p : Tbl L2p
  peers : List Peer
  ownerKey : BitVec 256
  sharedKey : BitVec 256
  pending : BitVec 32
  masked : BitVec 32
  cxlCache : Bool
  reported : List WaitEntry
  lastTraffic : Nat
  created : Nat
  kept : Tbl Kept
  formats : Tbl (BitVec 5)
  deriving DecidableEq, Repr

/-- The partition's values before one is created: registers at their reset values (R309), the shape of log entry 11. -/
def Partition.reset : Partition where
  live := false
  originX := 64
  originY := 0
  width := 8
  height := 8
  owner := 0
  share := []
  hostKeys := []
  link := 0
  function := 1
  encap := none
  ident := 0
  mode := false
  modeNew := false
  hold := false
  grant := 0
  orKind := 0
  orNew := 0
  l2pBase := 0
  ptbase := 0
  tlim := 100
  prewin := 65536
  hangw := 0
  hangbuf := 0
  cbw := Vector.replicate 4 0
  cbwNew := Vector.replicate 4 0
  lwcfg := 0
  larea := 0
  evbase := 0
  evhead := 0
  evlost := 0
  channels := []
  routes := []
  l2p := []
  peers := []
  ownerKey := 0
  sharedKey := 0
  pending := 0
  masked := 0xFFFFFFFF
  cxlCache := false
  reported := []
  lastTraffic := 0
  created := 0
  kept := []
  formats := []

/-- A colophon (R410): the words that a slot of the region holds, by byte offset in the slot, the quads' sections encrypted under
the dump key; and that key wrapped to the partition's encapsulation key, none where no report has made one. -/
structure Colophon where
  words : List (Nat × Word)
  wrapped : Option Nat
  deriving DecidableEq, Repr

/-- An attestation report (R407). -/
structure Report where
  serial : Word
  rom : BitVec 256
  firmware : BitVec 256
  version : Nat
  harvest : BitVec 256
  ident : Nat
  nonce : Word
  encapKey : Nat
  signature : Nat
  deriving DecidableEq, Repr

/-- Where the module answers: function 0, which serves Zholos; a partition's function of a host link; or a peer link (R366,
R372). -/
inductive Port where
  | zholos
  | function (link n : Nat)
  | peer (link : Nat)
  deriving DecidableEq, Repr

/-- What the host or a peer is answered (R45, R366–R372, R407–R410). -/
inductive HostAns where
  | value (v : Word)
  | unsupported
  | aborted
  | msix (vec : Nat)
  | share (ident : Nat) (blocks : List (Nat × Nat))
  | started
  | launch (addrs : List Word)
  | failed (step : Nat)
  | bootFailed (step : Nat)
  | report (r : Report)
  | colophon (c : Option Colophon)
  | reply (src : Place) (tag : Nat) (a : Answer)
  deriving DecidableEq, Repr

/-- The state of the module. `now` is FABCYC; the agenda and the timers say what moves next (log entry 4), `cur` is
the core whose turn it is, `fresh` numbers the free values (log entry 8), `seq` numbers messages and issued
commands. -/
structure State where
  now : Nat
  cur : Nat
  agenda : List Activity
  timers : Tbl Instr
  fresh : Nat
  seq : Nat
  ctx : Ctx
  mem : Memory
  seals : Tbl Nat
  epoch : Nat
  sharedEpoch : Nat
  full : List Nat
  bad : List Nat
  filters : Tbl (List (Place × Nat × Answer))
  cores : Tbl Core
  quads : Tbl Quad
  clusters : Tbl Cluster
  dies : Tbl Die
  regions : Tbl Region
  part : Partition
  modid : Word
  harvest : Tbl (List Nat)
  overrides : Tbl (List Override)
  firmware : Firmware
  flash : List Firmware
  fuses : Nat
  lost : List Nat
  colophons : Tbl Colophon
  colophonSeq : Nat
  dumping : Bool
  halted : Bool
  zlog : List (Nat × Nat)
  grants : List (List Nat)
  idents : List Nat
  hostOut : List (Port × HostAns)
  deriving DecidableEq, Repr

/-- The module right after a cold boot, with no partition (R408): every register at its reset value, memory with
nothing listed. Log entries 1–5, 8, 11. -/
def State.reset : State where
  now := 0
  cur := 0
  agenda := []
  timers := []
  fresh := 0
  seq := 0
  ctx := .plain 0 0 0 false
  mem := []
  seals := []
  epoch := 0
  sharedEpoch := 0
  full := []
  bad := []
  filters := []
  cores := []
  quads := []
  clusters := []
  dies := []
  regions := []
  part := .reset
  modid := 0
  harvest := []
  overrides := []
  firmware := ⟨0, 0, true⟩
  flash := [⟨0, 0, true⟩]
  fuses := 0
  lost := []
  colophons := []
  colophonSeq := 0
  dumping := false
  halted := false
  zlog := []
  grants := []
  idents := []
  hostOut := []

end Sys2Proof.Machine
end

