-- ==== Sys2Proof/Machine/Ops.lean ====
section
/-! DEFINITION. The named operations over tables, memory, cores, banks and registers, the agenda, and the trap entry
and return (R311, R312), which every meaning shares. -/

namespace Sys2Proof.Machine

/-- The outcome of a meaning. -/
abbrev Outcome := Host.Outcome State Fault Refusal

/-! ## Tables -/

/-- The value at a key, `d` where the table lists none. -/
def Tbl.get {α : Type} (t : Tbl α) (d : α) (k : Nat) : α :=
  match t with
  | [] => d
  | (j, v) :: r => if j = k then v else Tbl.get r d k

/-- The value listed at a key. -/
def Tbl.find {α : Type} (t : Tbl α) (k : Nat) : Option α :=
  match t with
  | [] => none
  | (j, v) :: r => if j = k then some v else Tbl.find r k

/-- The table with a value at a key. -/
def Tbl.set {α : Type} (t : Tbl α) (k : Nat) (v : α) : Tbl α :=
  match t with
  | [] => [(k, v)]
  | (j, w) :: r => if k < j then (k, v) :: (j, w) :: r else if j = k then (k, v) :: r else (j, w) :: Tbl.set r k v

/-- The table without a key. -/
def Tbl.erase {α : Type} (t : Tbl α) (k : Nat) : Tbl α := t.filter fun e => e.1 != k

/-! ## Memory: a list of address and byte in canonical form -/

/-- What an unlisted address reads as (log entry 3). -/
def Memory.blank : Byte := 0

/-- The canonical form: addresses strictly rising, no entry equal to what an unlisted address reads as. -/
def Memory.wf : Memory → Bool
  | [] => true
  | [(_, v)] => v != Memory.blank
  | (a, v) :: (b, w) :: r => v != Memory.blank && a < b && Memory.wf ((b, w) :: r)

/-- The byte at an address. -/
def Memory.read (m : Memory) (a : Nat) : Byte := Tbl.get m Memory.blank a

/-- The memory with a byte written, in canonical form. -/
def Memory.write (m : Memory) (a : Nat) (v : Byte) : Memory :=
  match m with
  | [] => if v = Memory.blank then [] else [(a, v)]
  | (b, w) :: r =>
    if a < b then (if v = Memory.blank then (b, w) :: r else (a, v) :: (b, w) :: r)
    else if a = b then (if v = Memory.blank then r else (a, v) :: r)
    else (b, w) :: Memory.write r a v

/-- `n` bytes from an address up, as a number: the byte at the lowest address is least significant (R4). -/
def Memory.readNat (m : Memory) (a : Nat) : Nat → Nat
  | 0 => 0
  | n + 1 => (Memory.read m a).toNat + 256 * Memory.readNat m (a + 1) n

/-- `n` bytes of a number written from an address up. -/
def Memory.writeNat (m : Memory) (a : Nat) : Nat → Nat → Memory
  | 0, _ => m
  | n + 1, v => Memory.writeNat (Memory.write m a (BitVec.ofNat 8 v)) (a + 1) n (v / 256)

/-- How many bytes `w` bits from bit `key` up lie in. -/
def bytesOf (key w : Nat) : Nat := (key % 8 + w + 7) / 8

/-- `w` bits from physical bit `key` up (R4). -/
def Memory.readBits (m : Memory) (key w : Nat) : Nat :=
  Memory.readNat m (key / 8) (bytesOf key w) / 2 ^ (key % 8) % 2 ^ w

/-- The low `w` bits of `v` written from physical bit `key` up; no other bit changes (R64, R147). -/
def Memory.writeBits (m : Memory) (key w v : Nat) : Memory :=
  let sh := key % 8
  let old := Memory.readNat m (key / 8) (bytesOf key w)
  let kept := old % 2 ^ sh + old / 2 ^ (sh + w) * 2 ^ (sh + w)
  Memory.writeNat m (key / 8) (bytesOf key w) (kept + v % 2 ^ w * 2 ^ sh)

/-! ## Places (R15–R17, R53) -/

/-- The number of the core at logical coordinates. -/
def coreId (x y : Nat) : Nat := 1024 * y + x

/-- Logical x of a core. -/
def coreX (c : Nat) : Nat := c % 1024

/-- Logical y of a core. -/
def coreY (c : Nat) : Nat := c / 1024

/-- The quad of a core (R53). -/
def quadOf (c : Nat) : Nat := 512 * (coreY c / 2) + coreX c / 2

/-- The cluster of a core (R53). -/
def clusterOf (c : Nat) : Nat := 128 * (coreY c / 8) + coreX c / 8

/-- The core of a quad with quad index `i` (R53). -/
def coreOfQuad (q i : Nat) : Nat := coreId (2 * (q % 512) + i % 2) (2 * (q / 512) + i / 2)

/-- The index of a core in its quad (R53). -/
def indexInQuad (c : Nat) : Nat := 2 * (coreY c % 2) + coreX c % 2

/-- The cluster of a quad. -/
def clusterOfQuad (q : Nat) : Nat := clusterOf (coreOfQuad q 0)

/-- The logical index of a quad in its cluster (R53). -/
def indexInCluster (q : Nat) : Nat := q / 512 % 4 * 4 + q % 512 % 4

/-- The quad of a cluster with a logical index (R53). -/
def quadOfCluster (cl i : Nat) : Nat := 512 * (4 * (cl / 128) + i / 4) + 4 * (cl % 128) + i % 4

/-- The first core of a cluster. -/
def firstCore (cl : Nat) : Nat := coreId (8 * (cl % 128)) (8 * (cl / 128))

/-- Whether a position of the 6 × 6 grid of dies is one of the four empty corners (R13). -/
def absentDie (gx gy : Nat) : Bool := (gx == 0 || gx == 5) && (gy == 0 || gy == 5)

/-- The number of the die at a position of the 6 × 6 grid without its corners (R14). -/
def dieAt (gx gy : Nat) : Nat :=
  if gy = 0 then gx - 1 else if gy = 5 then 28 + gx - 1 else 4 + 6 * (gy - 1) + gx

/-- The die of a core of a partition (R14, R17). -/
def Partition.dieOf (p : Partition) (c : Nat) : Nat :=
  dieAt ((p.originX + coreX c) / 64) ((p.originY + coreY c) / 80)

/-- The power region of a core (R14). -/
def Partition.regionOf (p : Partition) (c : Nat) : Nat := p.dieOf c / 2

/-- Whether coordinates name a core of the partition (R55). -/
def Partition.inside (p : Partition) (x y : Nat) : Bool := x < p.width && y < p.height

/-- The pair form of coordinates: x in bits 31:0, y in bits 63:32 (R150). -/
def pairForm (c : Nat) : Word := BitVec.ofNat 64 (coreY c * 2 ^ 32 + coreX c)

/-- The cores of a partition, in row-major order. -/
def Partition.coreList (p : Partition) : List Nat :=
  (List.range p.height).flatMap fun y => (List.range p.width).map fun x => coreId x y

/-- The quads of a partition. -/
def Partition.quadList (p : Partition) : List Nat :=
  (List.range (p.height / 2)).flatMap fun y => (List.range (p.width / 2)).map fun x => 512 * y + x

/-- The clusters of a partition. -/
def Partition.clusterList (p : Partition) : List Nat :=
  (List.range (p.height / 8)).flatMap fun y => (List.range (p.width / 8)).map fun x => 128 * y + x

/-! ## Where memories stand: physical bit keys (log entry 3) -/

/-- First bit of a quad's scratchpad (R52). -/
def scratchBase (q : Nat) : Nat := 8 * (2 ^ 50 + q * 2 ^ 17)

/-- First bit of a core's track column (R51). -/
def trackBase (c : Nat) : Nat := 8 * (2 ^ 51 + c * 2 ^ 24)

/-- First bit of host memory. -/
def hostBase : Nat := 8 * 2 ^ 48

/-- First bit of a peer partition's memory reached by pages, a byte address of 48 bits (R328, R372). -/
def peerBase (num : Nat) : Nat := 8 * (2 ^ 53 + num * 2 ^ 48)

/-- First bit of a peer partition's mesh memory. -/
def peerMeshBase (num : Nat) : Nat := 8 * (2 ^ 61 + num * 2 ^ 46)

/-! ## Reading and changing parts of the state -/

/-- A core. -/
def State.core (s : State) (c : Nat) : Core := s.cores.get .reset c

/-- A quad. -/
def State.quad (s : State) (q : Nat) : Quad := s.quads.get .reset q

/-- A cluster. -/
def State.cluster (s : State) (k : Nat) : Cluster := s.clusters.get .reset k

/-- A die. -/
def State.die (s : State) (d : Nat) : Die := s.dies.get .reset d

/-- A power region. -/
def State.region (s : State) (r : Nat) : Region := s.regions.get .reset r

/-- The state with a core replaced. -/
def State.setCore (s : State) (c : Nat) (v : Core) : State := { s with cores := s.cores.set c v }

/-- The state with a quad replaced. -/
def State.setQuad (s : State) (q : Nat) (v : Quad) : State := { s with quads := s.quads.set q v }

/-- The state with a core changed. -/
def State.modCore (s : State) (c : Nat) (f : Core → Core) : State := s.setCore c (f (s.core c))

/-- The state with a quad changed. -/
def State.modQuad (s : State) (q : Nat) (f : Quad → Quad) : State := s.setQuad q (f (s.quad q))

/-- The state with a cluster changed. -/
def State.modCluster (s : State) (k : Nat) (f : Cluster → Cluster) : State :=
  { s with clusters := s.clusters.set k (f (s.cluster k)) }

/-- The state with a die changed. -/
def State.modDie (s : State) (d : Nat) (f : Die → Die) : State := { s with dies := s.dies.set d (f (s.die d)) }

/-- The state with a region changed. -/
def State.modRegion (s : State) (r : Nat) (f : Region → Region) : State :=
  { s with regions := s.regions.set r (f (s.region r)) }

/-- The state with the partition changed. -/
def State.modPart (s : State) (f : Partition → Partition) : State := { s with part := f s.part }

/-- The bank whose strand executes: the current bank of the core whose turn it is. -/
def State.here (s : State) : Place := ⟨s.cur, (s.core s.cur).cur⟩

/-- A bank. -/
def State.bank (s : State) (p : Place) : Bank := (s.core p.core).banks[p.bank]

/-- The state with a bank replaced. -/
def State.setBank (s : State) (p : Place) (b : Bank) : State :=
  s.modCore p.core fun c => { c with banks := c.banks.set p.bank b }

/-- The state with a bank changed. -/
def State.modBank (s : State) (p : Place) (f : Bank → Bank) : State := s.setBank p (f (s.bank p))

/-- A resident strand. -/
def State.strand (s : State) (p : Place) : Strand := (s.bank p).strand

/-- The state with a resident strand changed. -/
def State.modStrand (s : State) (p : Place) (f : Strand → Strand) : State :=
  s.modBank p fun b => { b with strand := f b.strand }

/-- The state with a bank's status replaced. -/
def State.setStatus (s : State) (p : Place) (st : Status) : State := s.modBank p fun b => { b with status := st }

/-! ## Scalar registers and the program counter (R33, R137) -/

/-- A scalar register of a strand; x0 reads as zero (R137). -/
def Strand.reg (st : Strand) (r : Reg) : Word := if r = 0 then 0 else st.x[r.toFin]

/-- A strand with a scalar register written; a write to x0 is discarded (R137). -/
def Strand.setReg (st : Strand) (r : Reg) (v : Word) : Strand :=
  if r = 0 then st else { st with x := st.x.set r.toFin v }

/-- A scalar register of the executing strand. -/
def State.reg (s : State) (r : Reg) : Word := (s.strand s.here).reg r

/-- The executing strand's PC. -/
def State.pc (s : State) : Word := (s.strand s.here).pc

/-- The executing strand's register written. -/
def State.setReg (s : State) (r : Reg) (v : Word) : State := s.modStrand s.here (·.setReg r v)

/-- The executing strand's PC written. -/
def State.setPc (s : State) (v : Word) : State := s.modStrand s.here fun st => { st with pc := v }

/-- The next PC: PC + 32 (R136). -/
def State.advance (s : State) : State := s.setPc (s.pc + 32)

/-- A register-only instruction completed: rd written, the PC advanced (R136, R137). -/
def State.complete (s : State) (rd : Reg) (v : Word) : State := (s.setReg rd v).advance

/-- Whether the executing strand is in U mode (R305). -/
def State.user (s : State) : Bool := !(s.strand s.here).priv

/-! ## The agenda and the timers (log entry 4) -/

/-- Something appended to the agenda. -/
def State.push (s : State) (a : Activity) : State := { s with agenda := s.agenda ++ [a] }

/-- An event appended to the agenda. -/
def State.post (s : State) (i : Instr) : State := s.push (.event i)

/-- Timers ordered by due time, those of one time in the order they were set. -/
def insertTimer (t : Tbl Instr) (due : Nat) (i : Instr) : Tbl Instr :=
  match t with
  | [] => [(due, i)]
  | (d, j) :: r => if due < d then (due, i) :: (d, j) :: r else (d, j) :: insertTimer r due i

/-- An event set to happen `n` fabric cycles from now. -/
def State.after (s : State) (n : Nat) (i : Instr) : State :=
  { s with timers := insertTimer s.timers (s.now + n) i }

/-- A fresh number for a message, tag or issued command. -/
def State.bumpSeq (s : State) : State := { s with seq := s.seq + 1 }

/-- A fresh free word and the state whose counter has passed it (log entry 8). -/
def State.freeWord (s : State) : Word × State := (Config.freeWord s.fresh, { s with fresh := s.fresh + 1 })

/-! ## What the module answers (R366) -/

/-- Something answered through a port. -/
def State.out (s : State) (p : Port) (a : HostAns) : State := { s with hostOut := s.hostOut ++ [(p, a)] }

/-- Something answered through the partition's function, on the link that all its traffic to the host uses (R366). -/
def State.toHost (s : State) (a : HostAns) : State := s.out (.function s.part.link s.part.function) a

/-- Something answered through function 0 (R366). -/
def State.toZholos (s : State) (a : HostAns) : State := s.out .zholos a

/-! ## Temperature -/

/-- Hundredths of a degree as °C + 40 in 8 bits, rounded down (R378, log entry 12). -/
def tempField (v : Int) : BitVec 8 := BitVec.ofInt 8 (max 0 (min 255 (v / 100 + 40)))

/-! ## Switching banks (R99) -/

/-- Whether a bank's strand can issue, or can try its instruction again. -/
def Bank.ready (b : Bank) : Bool :=
  b.live && (match b.status with
    | .running => true
    | .stalled _ _ _ => true
    | _ => false)

/-- The next ready bank after bank `b` in the ring order 0→1→2→3→0, `b` itself when no other is ready (R99). -/
def Core.nextBank (c : Core) (b : Fin 4) : Fin 4 :=
  if (c.banks[b + 1]).ready then b + 1
  else if (c.banks[b + 2]).ready then b + 2
  else if (c.banks[b + 3]).ready then b + 3 else b

/-- The core passes to its next ready bank (R99). -/
def State.switch (s : State) (c : Nat) : State :=
  s.modCore c fun k => { k with cur := k.nextBank k.cur, guard := 0 }

/-- The executing strand blocks: it executes its instruction again until it completes, and the core passes to the next
ready bank (R99). -/
def State.stall (s : State) (kind : WaitKind) (addr : Word) (datum : Nat) : State :=
  (s.setStatus s.here (.stalled kind addr datum)).switch s.cur

/-- The executing strand's stall, if it is in one. -/
def State.stalled (s : State) : Option Nat :=
  match (s.bank s.here).status with
  | .stalled _ _ d => some d
  | _ => none

/-- The executing strand goes on issuing. -/
def State.resume (s : State) : State := s.setStatus s.here .running

/-! ## Traps (R310, R311, R312) -/

/-- The cause codes of R310. -/
inductive Cause where
  | fetch | illegal | privilege | space | bounds | misaligned | translation | track | fullEmpty | putOnFull | task
  | barrier | route | pool | kv | engine | breakpoint | ecallU | ecallS | doubleFault
  deriving DecidableEq, Repr

/-- The code of a cause (R310). -/
def Cause.code : Cause → BitVec 8
  | .fetch => 0x01 | .illegal => 0x02 | .privilege => 0x03 | .space => 0x04 | .bounds => 0x05
  | .misaligned => 0x06 | .translation => 0x07 | .track => 0x08 | .fullEmpty => 0x09 | .putOnFull => 0x0A
  | .task => 0x0B | .barrier => 0x0C | .route => 0x0D | .pool => 0x0E | .kv => 0x0F | .engine => 0x10
  | .breakpoint => 0x11 | .ecallU => 0x12 | .ecallS => 0x13 | .doubleFault => 0x14

/-- A fault as R310 reports it: its cause and TVAL. -/
structure Flt where
  cause : Cause
  tval : Word
  deriving DecidableEq, Repr

/-- Trap entry of a bank's strand, as one step (R311): TEPC, TCAUSE, TVAL, PPRIV, PRIV, TRAP, TSCRATCH, PC. -/
def Bank.enterTrap (b : Bank) (tvec : Word) (f : Flt) : Bank :=
  { b with
    tepc := b.strand.pc
    tcause := f.cause.code
    tval := f.tval
    tscratch := b.strand.sfp
    status := .running
    strand := { b.strand with ppriv := b.strand.priv, priv := true, trap := true, pc := tvec } }

/-- Return from a handler (R312): PRIV := PPRIV, TRAP := 0, PC := TEPC. -/
def Bank.leaveTrap (b : Bank) : Bank :=
  { b with status := .running
           strand := { b.strand with priv := b.strand.ppriv, trap := false, pc := b.tepc } }

/-- A synchronous fault of the strand in a bank: a double fault halts it and raises a partition trap of kind 2 (R313);
with a pre-emption pending, the fault entry is the suspension point and the strand is saved with the fault's code
as CAUSE (R321); otherwise it enters its handler (R311). -/
def State.trapAt (s : State) (p : Place) (f : Flt) : State :=
  let b := s.bank p
  if b.strand.trap then
    let s := ((s.setStatus p .halted).push (.partitionTrap 2 p)).switch p.core
    if b.mark.isSome then s.post (.preemptForcedSave p) else s
  else if b.mark.isSome then
    (s.setBank p { b with strand := { b.strand with cause := f.cause.code } }).post (.preemptForcedSave p)
  else s.setBank p (b.enterTrap (s.core p.core).tvec f)

/-- A synchronous fault of the executing strand (R310, R311). -/
def State.trap (s : State) (c : Cause) (tval : Word) : State := s.trapAt s.here ⟨c, tval⟩

/-- Return of the executing strand from its handler (R312); a pending pre-emption is satisfied at the TRET (R320). -/
def State.trapReturn (s : State) : State :=
  let s' := s.modBank s.here Bank.leaveTrap
  if (s.bank s.here).mark.isSome then s'.post (.recordWriteback s.here) else s'

end Sys2Proof.Machine
end

