-- ==== Sys2Proof/Machine/Aes.lean ====
section
/-! DEFINITION. AES-256 of one block, and the keyed tag of a capability (R220, R318). The byte order of a block and the
derivation of KCAP are free (log entry 10). -/

namespace Sys2Proof.Machine

/-- A field element doubled. -/
def xtime (a : Byte) : Byte := (a <<< 1) ^^^ (if a.msb then 0x1B else 0)

/-- A field element doubled `n` times. -/
def xtimes (a : Byte) : Nat → Byte
  | 0 => a
  | n + 1 => xtime (xtimes a n)

/-- The product of two field elements. -/
def gmul (a b : Byte) : Byte :=
  (List.range 8).foldl (fun r i => if b.getLsbD i then r ^^^ xtimes a i else r) 0

/-- A field element squared `n` times. -/
def gsquares (a : Byte) : Nat → Byte
  | 0 => a
  | n + 1 => let b := gsquares a n; gmul b b

/-- The S-box: the inverse a^254, then the affine map. -/
def sbox (a : Byte) : Byte :=
  let i := (List.range 7).foldl (fun r n => gmul r (gsquares a (n + 1))) 1
  i ^^^ i.rotateLeft 1 ^^^ i.rotateLeft 2 ^^^ i.rotateLeft 3 ^^^ i.rotateLeft 4 ^^^ 0x63

/-- Two lists of bytes added. -/
def xorBytes (a b : List Byte) : List Byte := List.zipWith (· ^^^ ·) a b

/-- The key schedule: 60 words of four bytes. -/
def keySchedule (key : List (List Byte)) : List (List Byte) :=
  (List.range 52).foldl (fun w n =>
    let i := n + 8
    let t := w.getLastD []
    let t := if i % 8 = 0 then xorBytes ((t.rotateLeft 1).map sbox) [xtimes 1 (i / 8 - 1), 0, 0, 0]
      else if i % 8 = 4 then t.map sbox else t
    w ++ [xorBytes (w.getD (i - 8) []) t]) key

/-- The rows of a block shifted; byte r + 4c is row r of column c. -/
def shiftRows (b : List Byte) : List Byte :=
  (List.range 16).map fun k => b.getD (k % 4 + 4 * ((k / 4 + k % 4) % 4)) 0

/-- The columns of a block mixed. -/
def mixColumns (b : List Byte) : List Byte :=
  (List.range 16).map fun k =>
    let at' (i : Nat) : Byte := b.getD (k / 4 * 4 + (k + i) % 4) 0
    gmul (at' 0) 2 ^^^ gmul (at' 1) 3 ^^^ at' 2 ^^^ at' 3

/-- The bytes of a round key. -/
def roundKey (w : List (List Byte)) (r : Nat) : List Byte :=
  ((List.range 4).flatMap fun c => w.getD (4 * r + c) [])

/-- AES-256 of sixteen bytes. -/
def aesBytes (key : List (List Byte)) (b : List Byte) : List Byte :=
  let w := keySchedule key
  let b := xorBytes b (roundKey w 0)
  let b := (List.range 13).foldl (fun b n =>
    xorBytes (mixColumns (shiftRows (b.map sbox))) (roundKey w (n + 1))) b
  xorBytes (shiftRows (b.map sbox)) (roundKey w 14)

/-- `n` bytes of a number, byte 0 most significant when `big` is set. -/
def bytesOfNat (big : Bool) (n v : Nat) : List Byte :=
  let l := (List.range n).map fun i => BitVec.ofNat 8 (v / 256 ^ i)
  if big then l.reverse else l

/-- The number of a list of bytes. -/
def natOfBytes (big : Bool) (l : List Byte) : Nat :=
  (if big then l.reverse else l).foldr (fun b n => b.toNat + 256 * n) 0

/-- AES-256 of a 128-bit number under a 256-bit key. -/
def aes256 (big : Bool) (key : BitVec 256) (block : Nat) : Nat :=
  let k := bytesOfNat big 32 key.toNat
  let ws := (List.range 8).map fun i => (k.drop (4 * i)).take 4
  natOfBytes big (aesBytes ws (bytesOfNat big 16 block))

/-- The capability of a quad: PID, QY, QX and the keyed tag (R318). -/
def Partition.capability (p : Partition) (qy qx : Nat) : Word :=
  let block := p.ident.toNat * 2 ^ 48 + qy % 256 * 2 ^ 40 + qx % 256 * 2 ^ 32
  BitVec.ofNat 64 (block + aes256 Config.aesBigEndian (Config.kcapOf p.ownerKey) block % 2 ^ 32)

end Sys2Proof.Machine
end

