-- ==== Sys2Proof/Machine/Address.lean ====
section
/-! DEFINITION. Addresses: the spaces (R48–R59), the order of their checks (R60–R63), the page-table walk and the
translation caches (R326–R331). -/

namespace Sys2Proof.Machine

/-- The home of an access (R50, R64): a quad's scratchpad controller, a track of a column's memory agent, an HBM base
die, the host, a peer module, or device register space. -/
inductive Home where
  | scratch (q : Nat)
  | track (core t : Nat)
  | hbm
  | host
  | peer (num : Nat)
  | register
  deriving DecidableEq, Repr

/-- Where an address leads: to parts of physical memory at a home, to a fault, or to an absent page. -/
inductive Found where
  | ok (parts : List Part) (home : Home)
  | flt (f : Flt)
  | absent (va : Word)
  deriving DecidableEq, Repr

/-- The space of an address (R48). -/
def space (a : Word) : Nat := (a.extractLsb' 61 3).toNat

/-- X of a mesh address, unsigned (R49). -/
def meshX (a : Word) : Nat := (a.extractLsb' 51 10).toNat

/-- Y of a mesh address, unsigned (R49). -/
def meshY (a : Word) : Nat := (a.extractLsb' 41 10).toNat

/-- LAYER, or BLOCK, of a mesh or register address (R49, R58). -/
def meshLayer (a : Word) : Nat := (a.extractLsb' 37 4).toNat

/-- Bits 36:24 of a mesh address (R49). -/
def meshMbz (a : Word) : Nat := (a.extractLsb' 24 13).toNat

/-- OFFSET of a mesh address (R49). -/
def meshOff (a : Word) : Nat := (a.extractLsb' 0 24).toNat

/-- The space-000 address of coordinates and bits 40:0 (R49). -/
def meshAddr (x y : Nat) (low : Word) : Word :=
  BitVec.ofNat 64 (x * 2 ^ 51 + y * 2 ^ 41 + (low.extractLsb' 0 41).toNat)

/-- Resolution of a space-010 address on a core; none outside the partition (R56). -/
def resolveRel (p : Partition) (core : Nat) (a : Word) : Option Word :=
  let x : Int := coreX core + (a.extractLsb' 51 10).toInt
  let y : Int := coreY core + (a.extractLsb' 41 10).toInt
  if x < 0 ∨ y < 0 then none
  else if p.inside x.toNat y.toNat then some (meshAddr x.toNat y.toNat a) else none

/-- Whether a width is of class P (R61). -/
def packedWidth (w : Nat) : Bool := w == 3 || w == 6

/-- The parts of an access of a class P width that straddles a 64-bit word: (offset from the address, width)
(R62). -/
def splitParts (a w : Nat) : List (Nat × Nat) :=
  if packedWidth w && a / 64 != (a + w - 1) / 64 then
    let n := 64 * (a / 64 + 1) - a
    [(0, n), (n, w - n)]
  else [(0, w)]

/-- Alignment of class N (R61): an access of a class P width has none. -/
def aligned (a w align : Nat) : Bool := packedWidth w || a % align == 0

/-- The check of the fields of a mesh address below its coordinates, in the order of R60, for an access of `w` bits
with an alignment: must-be-zero fields and LAYER, the end of the unit, the alignment. -/
def checkOffset (layer mbz off w align : Nat) : Option Cause :=
  if mbz ≠ 0 ∨ (1 ≤ layer ∧ layer ≤ 7) ∨ (layer = 0 ∧ off / 2 ^ 20 ≠ 0) then some .bounds
  else
    let unit := if layer = 0 then 2 ^ 17 else 2 ^ 20
    if off % unit + w > unit then some .bounds
    else if !aligned off w align then some .misaligned else none

/-- Whether a mesh address names cabinet 7 (R52). -/
def inCabinet7 (layer off : Nat) : Bool := layer == 0 && off / 2 ^ 17 % 8 == 7

/-- The physical bit and the home of a checked mesh place (R50–R53). -/
def meshPlace (x y layer off : Nat) : Nat × Home :=
  let c := coreId x y
  if layer = 0 then (scratchBase (quadOf c) + off, .scratch (quadOf c))
  else (trackBase c + (layer - 8) * 2 ^ 24 + off, .track c ((layer - 8) * 16 + off / 2 ^ 20))

/-- A space-000 access: privilege, coordinates, fields, end of unit, alignment (R52, R55, R60). -/
def locateMesh (p : Partition) (user : Bool) (a : Word) (w align : Nat) (issued : Word) : Found :=
  if user && inCabinet7 (meshLayer a) (meshOff a) then .flt ⟨.privilege, issued⟩
  else if !p.inside (meshX a) (meshY a) then .flt ⟨.bounds, issued⟩
  else
    match checkOffset (meshLayer a) (meshMbz a) (meshOff a) w align with
    | some c => .flt ⟨c, issued⟩
    | none =>
      let pl := meshPlace (meshX a) (meshY a) (meshLayer a) (meshOff a)
      .ok ((splitParts (meshOff a) w).map fun o => ⟨pl.1 + o.1, o.2⟩) pl.2

/-! ## Keys of memory (R328, R406)

HBM under a key selection other than the owner's has its own physical bits, a multiple of 2^46 up; `realKey` names the bit
itself. -/

/-- KSEL of a physical bit (R328). -/
def keySel (key : Nat) : Nat := if key < hostBase then key / 2 ^ 46 else 0

/-- A physical bit without its key selection. -/
def realKey (key : Nat) : Nat := if key < hostBase then key % 2 ^ 46 else key

/-- Whether the key of its partition protects a physical bit: HBM, scratchpads and tracks (R406). -/
def keyed (key : Nat) : Bool := key < hostBase || (scratchBase 0 ≤ key && key < peerBase 0)

/-- The number of the key that a selection names now: 0 for none, else the owner or the shared key of its present lifetime (R328,
R406). -/
def State.keyOf (s : State) (sel : Nat) : Nat :=
  match sel with
  | 1 => 0
  | 2 => 2 * s.sharedEpoch + 2
  | _ => 2 * s.epoch + 1

/-- The sector of a physical bit as it reads under the key of an access: what was stored under another key reads as that key's
noise (R328, R406). -/
def State.unseal (s : State) (key : Nat) : State :=
  let sec := realKey key / 256
  let was := s.seals.get 1 sec
  let now := s.keyOf (keySel key)
  if !keyed key || was == now then s
  else
    { s with
      mem := s.mem.writeBits (256 * sec) 256
        (Config.reseal was now sec (BitVec.ofNat 256 (s.mem.readBits (256 * sec) 256))).toNat
      seals := if now = 1 then s.seals.erase sec else s.seals.set sec now }

/-- The pieces of `w` bits from a physical bit up, one for each 256-bit sector (R67). -/
def sectorPieces (key w : Nat) : List Part :=
  (List.range ((key + w - 1) / 256 - key / 256 + 1)).map fun i =>
    let lo := max key (256 * (key / 256 + i))
    ⟨lo, min (key + w) (256 * (key / 256 + i + 1)) - lo⟩

/-- Pieces as one number, the first lowest. -/
def joinPieces (f : Part → Nat) : List Part → Nat
  | [] => 0
  | p :: r => f p + joinPieces f r * 2 ^ p.width

/-- `w` bits from a physical bit up as an access under its key reads them. -/
def State.bitsAt (s : State) (key w : Nat) : Nat :=
  joinPieces (fun p => (s.unseal p.key).mem.readBits (realKey p.key) p.width) (sectorPieces key w)

/-- The value of the parts of an access in memory, low part first (R62). -/
def State.partsAt (s : State) (ps : List Part) : Nat := joinPieces (fun p => s.bitsAt p.key p.width) ps

/-- Bits written under the key of the access; nothing but memory and its keys changes. -/
def State.setBitsAt (s : State) (key w v : Nat) : State :=
  ((sectorPieces key w).foldl (fun (r : State × Nat) p =>
    let s := r.1.unseal p.key
    ({ s with mem := s.mem.writeBits (realKey p.key) p.width r.2 }, r.2 / 2 ^ p.width)) (s, v)).1

/-! ## The page tables (R327–R330) -/

/-- The outcome of a walk. -/
inductive Walk where
  | leaf (e : Word) (bits : Nat)
  | absent
  | bad
  deriving DecidableEq, Repr

/-- Whether `n` bytes from an HBM byte address up lie in the partition's share (R365). -/
def Partition.inShare (p : Partition) (byte n : Nat) : Bool :=
  (List.range ((byte + n - 1) / 2 ^ 30 - byte / 2 ^ 30 + 1)).all fun k => p.share.contains (byte / 2 ^ 30 + k)

/-- The byte address a page-table entry holds: PA × 256 (R328). -/
def ptePa (e : Word) : Nat := (e.extractLsb' 8 40).toNat * 256

/-- TGT of a page-table entry (R328). -/
def pteTgt (e : Word) : Nat := (e.extractLsb' 60 2).toNat

/-- MOD of a page-table entry (R328). -/
def pteMod (e : Word) : Nat := (e.extractLsb' 48 12).toNat

/-- KSEL of a page-table entry (R328). -/
def pteKsel (e : Word) : Nat := (e.extractLsb' 4 2).toNat

/-- Whether a leaf at a level is malformed (R329). -/
def badLeaf (p : Partition) (e : Word) (lvl bits : Nat) : Bool :=
  lvl == 0 || pteTgt e == 3 || pteKsel e == 3 || (pteTgt e != 2 && pteMod e != 0) ||
  ptePa e % 2 ^ (bits - 3) != 0 || (pteTgt e == 0 && !p.inShare (ptePa e) (2 ^ (bits - 3))) ||
  (pteTgt e == 2 && !p.peers.any fun b => b.num.toNat == pteMod e)

/-- Whether a table pointer at a level is malformed; `next` is the next table's size in bytes (R329). -/
def badPointer (p : Partition) (e : Word) (lvl next : Nat) : Bool :=
  lvl == 3 || pteTgt e != 0 || pteMod e != 0 || (e.extractLsb' 0 8).toNat != 0 || ptePa e % next != 0 ||
  !p.inShare (ptePa e) next

/-- The levels of the tables: number, lowest index bit, entries, and size in bytes of the next level's table (R327). -/
def tableLevels : List (Nat × Nat × Nat × Nat) := [(0, 42, 512, 4096), (1, 33, 512, 4096), (2, 24, 512, 256), (3, 19, 32, 0)]

/-- The walk from a table at HBM byte address `t` down the levels, through a read of 64-bit words (R329). -/
def walkFrom (read : Nat → Nat) (p : Partition) (va t : Nat) : List (Nat × Nat × Nat × Nat) → Walk
  | [] => .bad
  | (lvl, low, entries, next) :: rest =>
    let e := BitVec.ofNat 64 (read (8 * (t + 8 * (va / 2 ^ low % entries))))
    if !e.getLsbD 63 then .absent
    else if e.getLsbD 62 then (if badLeaf p e lvl low then .bad else .leaf e low)
    else if badPointer p e lvl next then .bad
    else walkFrom read p va (ptePa e) rest

/-- The walk of a virtual bit address (R329). -/
def State.walk (s : State) (va : Nat) : Walk :=
  let t := s.part.ptbase.toNat / 4096 * 4096
  if t = 0 then .absent else walkFrom (fun key => s.bitsAt key 64) s.part va t tableLevels

/-- The table entries that a walk reads, by their physical bits (R329). -/
def walkedFrom (read : Nat → Nat) (va t : Nat) : List (Nat × Nat × Nat × Nat) → List Nat
  | [] => []
  | (_, low, entries, _) :: rest =>
    let key := 8 * (t + 8 * (va / 2 ^ low % entries))
    let e := BitVec.ofNat 64 (read key)
    key :: (if e.getLsbD 63 && !e.getLsbD 62 then walkedFrom read va (ptePa e) rest else [])

/-- The table entries that the walk of a virtual bit address reads. -/
def State.walked (s : State) (va : Nat) : List Nat :=
  let t := s.part.ptbase.toNat / 4096 * 4096
  if t = 0 then [] else walkedFrom (fun key => s.bitsAt key 64) va t tableLevels

/-- The entry of a translation cache that covers a virtual bit address. -/
def tlbFind (t : List TlbEntry) (va : Nat) : Option TlbEntry := t.find? fun e => va / 2 ^ e.bits == e.va / 2 ^ e.bits

/-- The translation of a virtual bit address on a core: its own cache, its cluster's, or a walk (R331). -/
def State.translation (s : State) (core : Nat) (acc : Access) (va : Nat) : Walk :=
  let own := if acc = .fetch then (s.core core).itlb else (s.core core).dtlb
  match tlbFind own va with
  | some e => .leaf e.leaf e.bits
  | none =>
    match tlbFind (s.cluster (clusterOf core)).tlb va with
    | some e => .leaf e.leaf e.bits
    | none => s.walk va

/-- The translation of a virtual bit address for an engine: its cluster's cache, or a walk (R331). -/
def State.engineTranslation (s : State) (core va : Nat) : Walk :=
  match tlbFind (s.cluster (clusterOf core)).tlb va with
  | some e => .leaf e.leaf e.bits
  | none => s.walk va

/-- Whether a leaf permits an access (R330). -/
def permits (e : Word) (acc : Access) (user : Bool) : Bool :=
  (match acc with
    | .fetch => e.getLsbD 2
    | .load => e.getLsbD 0
    | .store => e.getLsbD 1
    | .atomic => e.getLsbD 0 && e.getLsbD 1) && (!user || e.getLsbD 3)

/-- The physical bit and the home of a virtual bit address through a leaf: HBM under a key selection has bits of its own, a
multiple of 2^46 up (R328, R329, R372). -/
def leafPlace (e : Word) (bits va : Nat) : Nat × Home :=
  let off := 8 * ptePa e + va % 2 ^ bits
  match pteTgt e with
  | 0 => (off + pteKsel e * 2 ^ 46, .hbm)
  | 1 => (hostBase + off, .host)
  | _ => (peerBase (pteMod e) + off, .peer (pteMod e))

/-- One part of a space-001 access translated: its place, or why not (R326, R330). -/
def translatePart (translate : Nat → Walk) (acc : Access) (user : Bool) (a : Word) (w : Nat) : Found :=
  let bad : Found := .flt ⟨if acc = .fetch then .fetch else .translation, a⟩
  if a.extractLsb' 51 10 ≠ 0 then bad
  else
    let va := (a.extractLsb' 0 51).toNat
    match translate va with
    | .absent => .absent a
    | .bad => bad
    | .leaf e bits =>
      if permits e acc user then
        let pl := leafPlace e bits va
        .ok [⟨pl.1, w⟩] pl.2
      else bad

/-- A part of an access cut where it crosses into the next of the smallest pages (R63, R326). -/
def pageParts (a : Nat) (o : Nat × Nat) : List (Nat × Nat) :=
  let b := a + o.1
  if b / 2 ^ 19 == (b + o.2 - 1) / 2 ^ 19 then [o]
  else
    let n := 2 ^ 19 - b % 2 ^ 19
    [(o.1, n), (o.1 + n, o.2 - n)]

/-- A space-001 access: end of space, alignment, then each part translated on its own (R57, R63, R326). Of two parts that fail, the
low one is reported, or waited for, first (DESIGN CHOICE, log entry 81). -/
def locateVirtual (translate : Nat → Walk) (acc : Access) (user : Bool) (a : Word) (w align : Nat) : Found :=
  let off := (a.extractLsb' 0 61).toNat
  if off + w > 2 ^ 61 then .flt ⟨.bounds, a⟩
  else if !aligned off w align then .flt ⟨.misaligned, a⟩
  else
    ((splitParts off w).flatMap (pageParts off)).foldl (fun r o =>
      match r with
      | .ok ps _ =>
        match translatePart translate acc user (a + BitVec.ofNat 64 o.1) o.2 with
        | .ok qs h => .ok (ps ++ qs) h
        | e => e
      | e => e) (.ok [] .hbm)

/-- A space-100 access: the loop-back to the module's own number, an unbound module, or the peer's mesh with its own
fields checked at issue (R59). -/
def State.locatePeer (s : State) (user : Bool) (a : Word) (w align : Nat) : Found :=
  let num := (a.extractLsb' 49 12).toNat
  let x := (a.extractLsb' 39 10).toNat
  let y := (a.extractLsb' 29 10).toNat
  let layer := (a.extractLsb' 25 4).toNat
  let mbz := (a.extractLsb' 24 1).toNat
  let off := (a.extractLsb' 0 24).toNat
  if s.modid.getLsbD 63 && (s.modid.extractLsb' 0 12).toNat == num then
    locateMesh s.part user
      (BitVec.ofNat 64 (x * 2 ^ 51 + y * 2 ^ 41 + layer * 2 ^ 37 + mbz * 2 ^ 24 + off)) w align a
  else if user && inCabinet7 layer off then .flt ⟨.privilege, a⟩
  else if !s.part.peers.any (fun b => b.num.toNat == num) then .flt ⟨.bounds, a⟩
  else
    match checkOffset layer mbz off w align with
    | some c => .flt ⟨c, a⟩
    | none =>
      let c := if layer = 0 then coreId (x / 2 * 2) (y / 2 * 2) else coreId x y
      .ok ((splitParts off w).map fun o => ⟨peerMeshBase num + c * 2 ^ 28 + layer * 2 ^ 24 + off + o.1, o.2⟩)
        (.peer num)

/-- A space-011 access: only 64-bit loads and stores of S mode, on a core of the partition, in a block that exists,
aligned (R58). -/
def locateRegister (p : Partition) (user scalar : Bool) (a : Word) (w : Nat) : Found :=
  if user then .flt ⟨.privilege, a⟩
  else if !scalar || w != 64 then .flt ⟨.space, a⟩
  else if !p.inside (meshX a) (meshY a) then .flt ⟨.bounds, a⟩
  else if meshLayer a > 4 then .flt ⟨.bounds, a⟩
  else if (a.extractLsb' 0 37).toNat % 64 ≠ 0 then .flt ⟨.misaligned, a⟩
  else .ok [] .register

/-- Where an access of `w` bits at an address leads, for a strand of a core: every check of R52, R58, R60 in order, then
translation. `scalar` is set for the loads and stores that may reach device register space. -/
def State.locate (s : State) (core : Nat) (user scalar : Bool) (acc : Access) (a : Word) (w align : Nat) : Found :=
  match space a with
  | 0 => locateMesh s.part user a w align a
  | 1 => locateVirtual (s.translation core acc) acc user a w align
  | 2 =>
    if user && inCabinet7 (meshLayer a) (meshOff a) then .flt ⟨.privilege, a⟩
    else
      match resolveRel s.part core a with
      | some b => locateMesh s.part user b w align a
      | none => .flt ⟨.bounds, a⟩
  | 3 => locateRegister s.part user scalar a w
  | 4 => s.locatePeer user a w align
  | _ => .flt ⟨.space, a⟩

/-- Where an engine's access at an address leads, for a command of a core: the same, but through the cluster's translation
cache (R331). -/
def State.locateEngine (s : State) (core : Nat) (user : Bool) (acc : Access) (a : Word) (w align : Nat) : Found :=
  if space a = 1 then locateVirtual (s.engineTranslation core) acc user a w align
  else s.locate core user false acc a w align

/-- Whether a home lies in the quad of a core (R99). -/
def Home.own (h : Home) (core : Nat) : Bool :=
  match h with
  | .scratch q => q == quadOf core
  | .track c _ => quadOf c == quadOf core
  | _ => false

/-- Whether a page's atomics to host memory execute in a cluster cache: CXL.cache enabled, NC and SYSATOMIC clear (R369,
R371). -/
def State.hostCached (s : State) (core : Nat) (a : Word) : Bool :=
  match s.translation core .atomic (a.extractLsb' 0 51).toNat with
  | .leaf e _ => s.part.cxlCache && !e.getLsbD 6 && !e.getLsbD 7
  | _ => false

/-! ## Filling the translation caches (R331, log entry 6) -/

/-- A translation cache with an entry added, the oldest dropped beyond its size. -/
def tlbAdd (size : Nat) (t : List TlbEntry) (e : TlbEntry) : List TlbEntry :=
  if (tlbFind t e.va).isSome then t else ((t ++ [e]).drop (t.length + 1 - size))

/-- The caches of a core and its cluster filled by a walk for an access: only a leaf that permits the access is cached
(R331). -/
def State.fillTlb (s : State) (core : Nat) (va : Word) (acc : Access) (user : Bool) : State :=
  let v := (va.extractLsb' 0 51).toNat
  match s.translation core acc v with
  | .leaf e bits =>
    if permits e acc user then
      let ent : TlbEntry := ⟨v / 2 ^ bits * 2 ^ bits, bits, e⟩
      let s := s.modCluster (clusterOf core) fun k => { k with tlb := tlbAdd 1024 k.tlb ent }
      if acc = .fetch then s.modCore core fun k => { k with itlb := tlbAdd 16 k.itlb ent }
      else s.modCore core fun k => { k with dtlb := tlbAdd 32 k.dtlb ent }
    else s
  | _ => s

/-- The cluster's cache filled by an access of an engine (R331). -/
def State.fillEngine (s : State) (core : Nat) (acc : Access) (user : Bool) (a : Word) : State :=
  let v := (a.extractLsb' 0 51).toNat
  if space a ≠ 1 ∨ (tlbFind (s.cluster (clusterOf core)).tlb v).isSome then s
  else
    match s.engineTranslation core v with
    | .leaf e bits =>
      if permits e acc user then
        s.modCluster (clusterOf core) fun k => { k with tlb := tlbAdd 1024 k.tlb ⟨v / 2 ^ bits * 2 ^ bits, bits, e⟩ }
      else s
    | _ => s

/-- Whether an access of a core would miss its own translation cache. -/
def State.misses (s : State) (core : Nat) (acc : Access) (a : Word) : Bool :=
  space a == 1 &&
    (tlbFind (if acc = .fetch then (s.core core).itlb else (s.core core).dtlb)
      (a.extractLsb' 0 51).toNat).isNone

/-- After an access that translated, a miss sends its walk (R331). -/
def State.noteAccess (s : State) (core : Nat) (acc : Access) (user : Bool) (a : Word) : State :=
  if s.misses core acc a then s.post (.translationWalk core a acc user) else s

end Sys2Proof.Machine
end

