-- ==== Sys2Proof/Machine/Fabric.lean ====
section
/-! DEFINITION. Physical routers and paths: the in-place mapping, the L2P table, dimension-ordered and negative-first
routing with override entries (R354–R357, R363). -/

namespace Sys2Proof.Machine

/-- The L2P entry of a logical quad; the default is the quad of its own index (R363). -/
def State.l2pOf (s : State) (q : Nat) : L2p := s.part.l2p.get ⟨BitVec.ofNat 5 (indexInCluster q), false, true⟩ q

/-- Position of a physical quad in its cluster: quad column and quad row (R354). -/
def physQuadAt (pq : Nat) : Nat × Nat := if pq < 16 then (1 + pq % 4, pq / 4) else (0, pq - 16)

/-- Module-wide router coordinates of a core's router, its quad served by physical quad `pq` (R354): clusters are 10 × 8
routers, dies 80 × 80. -/
def State.routerOf (s : State) (c : Nat) : Nat × Nat :=
  let ox := s.part.originX + coreX c
  let oy := s.part.originY + coreY c
  let pq := physQuadAt (s.l2pOf (quadOf c)).pq.toNat
  (ox / 8 * 10 + 2 * pq.1 + coreX c % 2, oy / 8 * 8 + 2 * pq.2 + coreY c % 2)

/-- Whether an override entry matches a destination on a channel (R357). -/
def entryMatches (o : Override) (px py vc : Nat) : Bool :=
  o.px0 ≤ px && px ≤ o.px1 && o.py0 ≤ py && py ≤ o.py1 && o.vc == vc

/-- Whether every hop that an override entry of a router produces obeys the turn order of its channel: dimension order on VC0,
negative-first on VC1, where a hop east or south leaves nothing to the west or north, and one west or north is taken
before any of those (R356–R358). -/
def entryLegal (x y : Nat) (o : Override) : Bool :=
  let west := decide (o.px1 < x)
  let north := decide (o.py1 < y)
  let column := o.px0 == x && o.px1 == x
  let out := if o.vc = 1 then 1 else o.out
  o.vc ≤ 1 && out ≤ 1 &&
    (match o.port, out with
      | 0, 0 => column && north
      | 1, 0 => decide (x < o.px0)
      | 2, 0 => column && decide (y < o.py0)
      | 3, 0 => west
      | 1, _ => decide (x < o.px0) && decide (y ≤ o.py0)
      | 2, _ => decide (x ≤ o.px0) && decide (y < o.py0)
      | 0, _ => o.vc == 0 || west || north
      | 3, _ => o.vc == 0 || west || north
      | _, _ => false)

/-- The override tables that a cold boot writes: at most 32 entries for a router, each of which keeps its turn order (R357,
R408). -/
def writtenOverrides (l : List (Nat × List Override)) : Tbl (List Override) :=
  l.foldl (fun t e => Tbl.set t e.1 ((e.2.filter (entryLegal (e.1 % 1024) (e.1 / 1024))).take 32)) []

/-- The output port and leaving channel at a router: the first matching override entry, or the default of R356. Ports are
0 north, 1 east, 2 south, 3 west, 4 eject. -/
def State.hop (s : State) (x y dx dy vc : Nat) : Nat × Nat :=
  match (s.overrides.get [] (1024 * y + x)).find? fun o => entryMatches o dx dy vc with
  | some o => (o.port, if vc = 1 then 1 else o.out)
  | none =>
    if vc = 0 then
      (if x < dx then 1 else if dx < x then 3 else if y < dy then 2 else if dy < y then 0 else 4, 0)
    else (if dx < x then 3 else if dy < y then 0 else if x < dx then 1 else if y < dy then 2 else 4, 1)

/-- Hops of a message's path from one router to another; `fuel` bounds the walk, which R358 makes finite. -/
def State.path (s : State) (dx dy : Nat) : (fuel : Nat) → (x y vc : Nat) → Nat
  | 0, _, _, _ => 0
  | n + 1, x, y, vc =>
    match s.hop x y dx dy vc with
    | (0, v) => 1 + s.path dx dy n x (y - 1) v
    | (1, v) => 1 + s.path dx dy n (x + 1) y v
    | (2, v) => 1 + s.path dx dy n x (y + 1) v
    | (3, v) => 1 + s.path dx dy n (x - 1) y v
    | _ => 0

/-- Hops from a core's router to another core's. -/
def State.hops (s : State) (a b : Nat) : Nat :=
  let d := s.routerOf b
  s.path d.1 d.2 2048 (s.routerOf a).1 (s.routerOf a).2 0

/-- The links of a message's path from one router to another, each a router and an output port. -/
def State.links (s : State) (dx dy : Nat) : (fuel : Nat) → (x y vc : Nat) → List (Nat × Nat)
  | 0, _, _, _ => []
  | n + 1, x, y, vc =>
    match s.hop x y dx dy vc with
    | (0, v) => (1024 * y + x, 0) :: s.links dx dy n x (y - 1) v
    | (1, v) => (1024 * y + x, 1) :: s.links dx dy n (x + 1) y v
    | (2, v) => (1024 * y + x, 2) :: s.links dx dy n x (y + 1) v
    | (3, v) => (1024 * y + x, 3) :: s.links dx dy n (x - 1) y v
    | _ => []

/-- The number of a link: 4 times its router's number, and the port (R402). -/
def linkNumber (l : Nat × Nat) : Nat := 4 * l.1 + l.2

/-- Whether a path of the partition crosses a place that some links lead through: one between two of its cores, or one to the rim
of the module (R375, R409, log entry 68). -/
def State.pathsCross (s : State) (place : Nat) (through : Nat × Nat → Bool) : Bool :=
  s.part.live && (Config.rimCrosses s.part.ident.toNat place ||
    s.part.coreList.any fun a => s.part.coreList.any fun b =>
      (s.links (s.routerOf b).1 (s.routerOf b).2 2048 (s.routerOf a).1 (s.routerOf a).2 0).any through)

/-- The link-cycles of the frame that a route takes: link k carries beat i in cycle (s + i + 2k) mod 1,024 (R47). -/
def State.linkCycles (s : State) (d : RouteDecl) : List ((Nat × Nat) × Nat) :=
  let a := s.routerOf d.src
  let b := s.routerOf d.dst
  let ls := s.links b.1 b.2 2048 a.1 a.2 0
  (List.range ls.length).flatMap fun k =>
    (List.range d.beats).map fun i => (ls.getD k (0, 0), (d.slot + i + 2 * k) % 1024)

/-- Whether two routes reserve the same link-cycle (R47). -/
def State.routesClash (s : State) (a b : RouteDecl) : Bool :=
  let m := s.linkCycles b
  (s.linkCycles a).any m.contains

/-- A route's latency, 3 + 2h (R355). -/
def State.routeLatency (s : State) (d : RouteDecl) : Nat := 3 + 2 * s.hops d.src d.dst

/-- MSGLAT of an off-core access (R190): the cycles are a free value; the hops are those of the request's path, free for
homes whose rim router the spec does not place (log entry 8). -/
def State.latency (s : State) (core : Nat) (h : Home) : Word × State :=
  let f := s.freeWord
  let dest : Option Nat := match h with
    | .scratch q => some (coreOfQuad q 0)
    | .track c _ => some c
    | _ => none
  let n : BitVec 16 := match dest with
    | some c => BitVec.ofNat 16 (s.hops core c)
    | none => f.1.extractLsb' 0 16
  (f.1.extractLsb' 32 32 ++ (0 : BitVec 16) ++ n, f.2)

end Sys2Proof.Machine
end

