-- ==== Sys2Proof/Machine/Flags.lean ====
section
/-! DEFINITION. The exception flags FX (R129). -/

namespace Sys2Proof.Machine

/-- The five flags NV, DZ, OF, UF, NX in bits 4 to 0 (R129). -/
abbrev Fx := BitVec 5

/-- Invalid. -/
def fxNV : Fx := 16
/-- Division by zero. -/
def fxDZ : Fx := 8
/-- Overflow. -/
def fxOF : Fx := 4
/-- Underflow. -/
def fxUF : Fx := 2
/-- Inexact. -/
def fxNX : Fx := 1

/-- A flag set when a condition holds. -/
def fxIf (c : Bool) (f : Fx) : Fx := if c then f else 0

/-- Flags of a list of encodings together. -/
def orFlags (l : List Fx) : Fx := l.foldl (· ||| ·) 0

end Sys2Proof.Machine
end

