-- ==== Sys2Proof/Machine/Float.lean ====
section
/-! DEFINITION. Number formats and exact arithmetic: decoding and encoding (R118–R128), the helpers of R130, the
reduction tree (R132), the exponential (R133), reciprocal and reciprocal square root (R134). -/

namespace Sys2Proof.Machine

/-- A value (R130): NaN, a signed infinity, or (−1)^neg · mag · 2^exp, a signed zero when mag is 0. -/
inductive Val where
  | nan
  | inf (neg : Bool)
  | fin (neg : Bool) (mag : Nat) (exp : Int)
  deriving DecidableEq, Repr

/-- How a float format marks NaN (R120). -/
inductive NanKind where
  | ieee | allOnes | none
  deriving DecidableEq, Repr

/-- A float format: exponent and fraction widths, bias, whether it has infinities, its NaN (R120). -/
structure Fmt where
  ew : Nat
  fw : Nat
  bias : Int
  inf : Bool
  nan : NanKind
  deriving DecidableEq, Repr

/-- binary32. -/
def fmtF32 : Fmt := ⟨8, 23, 127, true, .ieee⟩
/-- bf16. -/
def fmtBf16 : Fmt := ⟨8, 7, 127, true, .ieee⟩
/-- binary16. -/
def fmtF16 : Fmt := ⟨5, 10, 15, true, .ieee⟩
/-- e4m3 and mxe4m3. -/
def fmtE4m3 : Fmt := ⟨4, 3, 7, false, .allOnes⟩
/-- e5m2 and mxe5m2. -/
def fmtE5m2 : Fmt := ⟨5, 2, 15, true, .ieee⟩
/-- mxe3m2. -/
def fmtE3m2 : Fmt := ⟨3, 2, 3, false, .none⟩
/-- mxe2m3. -/
def fmtE2m3 : Fmt := ⟨2, 3, 1, false, .none⟩
/-- mxe2m1. -/
def fmtE2m1 : Fmt := ⟨2, 1, 1, false, .none⟩

/-- The exponent of a format's subnormal spacing (R120). -/
def Fmt.emin (f : Fmt) : Int := 1 - f.bias - f.fw

/-- The code of a format's largest finite value, without its sign (R120). -/
def Fmt.maxCode (f : Fmt) : Nat :=
  match f.nan with
  | .ieee => (2 ^ f.ew - 1) * 2 ^ f.fw - 1
  | .allOnes => 2 ^ (f.ew + f.fw) - 2
  | .none => 2 ^ (f.ew + f.fw) - 1

/-- The code of a format's infinity, without its sign. -/
def Fmt.infCode (f : Fmt) : Nat := (2 ^ f.ew - 1) * 2 ^ f.fw

/-- The canonical NaN (R121); of a format without NaN, zero. -/
def Fmt.nanCode (f : Fmt) : Nat :=
  match f.nan with
  | .ieee => f.infCode + 2 ^ (f.fw - 1)
  | .allOnes => 2 ^ (f.ew + f.fw) - 1
  | .none => 0

/-- The magnitude and exponent of a code without its sign that is no special (R120). -/
def Fmt.magOf (f : Fmt) (c : Nat) : Nat × Int :=
  let e := c / 2 ^ f.fw
  let fr := c % 2 ^ f.fw
  if e = 0 then (fr, f.emin) else (fr + 2 ^ f.fw, f.emin + (e - 1 : Nat))

/-- The value of a code (R120, R121). -/
def Fmt.decode (f : Fmt) (c : Nat) : Val :=
  let body := c % 2 ^ (f.ew + f.fw)
  let neg := c / 2 ^ (f.ew + f.fw) % 2 == 1
  let fin : Val := .fin neg (f.magOf body).1 (f.magOf body).2
  match f.nan with
  | .ieee => if body = f.infCode then .inf neg else if body > f.infCode then .nan else fin
  | .allOnes => if body = f.nanCode then .nan else fin
  | .none => fin

/-- Number of bits of a natural number. -/
def bitLen (n : Nat) : Nat := if n = 0 then 0 else Nat.log2 n + 1

/-- `mag · 2^exp` in units of `2^e`, rounded to an integer by RNE or RTZ, and whether that is inexact. -/
def roundAt (rtz : Bool) (mag : Nat) (exp e : Int) : Nat × Bool :=
  if e ≤ exp then (mag * 2 ^ (exp - e).toNat, false)
  else
    let d := (e - exp).toNat
    let q := mag / 2 ^ d
    let r := mag % 2 ^ d
    let up := !rtz && (2 * r > 2 ^ d || (2 * r == 2 ^ d && q % 2 == 1))
    (if up then q + 1 else q, r != 0)

/-- The sign bit of a format's code. -/
def Fmt.sign (f : Fmt) (neg : Bool) : Nat := if neg then 2 ^ (f.ew + f.fw) else 0

/-- Encoding a value into a float or float-element type, with its flags (R125, R129); a NaN of a type without NaN is
the caller's (R128). -/
def Fmt.encode (f : Fmt) (rtz : Bool) (v : Val) : Nat × Fx :=
  match v with
  | .nan => (f.nanCode, 0)
  | .inf neg => if f.inf then (f.sign neg + f.infCode, 0) else (f.sign neg + f.maxCode, fxOF ||| fxNX)
  | .fin neg mag exp =>
    if mag = 0 then (f.sign neg, 0)
    else
      let eu := exp + bitLen mag - (f.fw + 1 : Nat)
      let e := max eu f.emin
      let q := roundAt rtz mag exp e
      let u := roundAt rtz mag exp eu
      let code := (e - f.emin).toNat * 2 ^ f.fw + q.1
      if code > f.maxCode then
        (f.sign neg + (if f.inf && !rtz then f.infCode else f.maxCode), fxOF ||| fxNX)
      else
        let tiny : Bool := bitLen u.1 + eu ≤ 1 - f.bias
        (f.sign neg + code, fxIf q.2 fxNX ||| fxIf (q.2 && tiny) fxUF)

/-- Encoding a value into an integer type of width `w` (R126): signed or natural, from a float or an integer. NV or OF stands alone,
without NX, where the value does not fit (DESIGN CHOICE, log entry 64). -/
def encodeInt (signed : Bool) (w : Nat) (rtz fromFloat : Bool) (v : Val) : Nat × Fx :=
  let lo : Int := if signed then -(2 ^ (w - 1)) else 0
  let hi : Int := if signed then 2 ^ (w - 1) - 1 else 2 ^ w - 1
  let code (n : Int) : Nat := (n % 2 ^ w).toNat
  let out := if fromFloat then fxNV else fxOF
  match v with
  | .nan => (0, fxNV)
  | .inf neg => (code (if neg then lo else hi), out)
  | .fin neg mag exp =>
    let r := roundAt rtz mag exp 0
    let n : Int := if neg then -r.1 else r.1
    if n < lo then (code lo, out) else if n > hi then (code hi, out) else (code n, fxIf r.2 fxNX)

/-! ## Element types (R118) -/

/-- Families of element types (R118). -/
inductive Family where
  | float | sbf | mx | int | nat | reserved
  deriving DecidableEq, Repr

/-- The family of a type code (R118). -/
def family (t : BitVec 5) : Family :=
  let n := t.toNat
  if n ≤ 4 then .float else if n ≤ 8 then .sbf else if n ≤ 14 then .mx
  else if 16 ≤ n ∧ n ≤ 21 then .int else if 24 ≤ n ∧ n ≤ 28 then .nat else .reserved

/-- The width of a type code, 0 for a reserved one (R118). -/
def typeWidth (t : BitVec 5) : Nat :=
  match t.toNat with
  | 0 => 32 | 1 => 16 | 2 => 16 | 3 => 8 | 4 => 8 | 5 => 8 | 6 => 6 | 7 => 4 | 8 => 3
  | 9 => 8 | 10 => 8 | 11 => 6 | 12 => 6 | 13 => 4 | 14 => 8
  | 16 => 32 | 17 => 16 | 18 => 8 | 19 => 6 | 20 => 4 | 21 => 3
  | 24 => 32 | 25 => 16 | 26 => 8 | 27 => 4 | 28 => 1 | _ => 0

/-- The float format of a float or mx float-element type (R120). -/
def typeFmt (t : BitVec 5) : Fmt :=
  match t.toNat with
  | 0 => fmtF32 | 1 => fmtBf16 | 2 => fmtF16 | 3 => fmtE4m3 | 4 => fmtE5m2 | 9 => fmtE4m3 | 10 => fmtE5m2
  | 11 => fmtE3m2 | 12 => fmtE2m3 | _ => fmtE2m1

/-- A natural or two's complement integer of width `w` as a value (R122). -/
def intVal (signed : Bool) (w c : Nat) : Val :=
  if signed && c / 2 ^ (w - 1) % 2 == 1 then .fin true (2 ^ w - c % 2 ^ w) 0 else .fin false (c % 2 ^ w) 0

/-- The value of a code of a float or integer type (R119, R120, R122). -/
def decodeElem (t : BitVec 5) (c : Nat) : Val :=
  match family t with
  | .float => (typeFmt t).decode c
  | .int => intVal true (typeWidth t) c
  | _ => intVal false (typeWidth t) c

/-- A value times a power of two. -/
def Val.scale (v : Val) (e : Int) : Val :=
  match v with
  | .fin n m x => .fin n m (x + e)
  | v => v

/-- The value of an mx element under a scale code (R123). -/
def decodeMx (t : BitVec 5) (c s : Nat) : Val :=
  if s = 255 then .nan
  else
    let v := if t = 14 then (intVal true 8 c).scale (-6) else (typeFmt t).decode c
    v.scale ((s : Int) - 127)

/-- The value of an sbf element of width `k` under a scale record (R124). -/
def decodeSbf (k c record : Nat) : Val :=
  let sel := c / 2 ^ (k - 1) % 2
  let e := if sel = 0 then record / 1024 % 1024 else record % 1024
  if e = 1023 then .nan
  else .fin (c / 2 ^ (k - 2) % 2 == 1) (c % 2 ^ (k - 2)) ((e : Int) - 511)

/-- The value of an element of any type, `sc` its block's scale record (R119). -/
def decodeAny (t : BitVec 5) (c sc : Nat) : Val :=
  match family t with
  | .sbf => decodeSbf (typeWidth t) c sc
  | .mx => decodeMx t c sc
  | _ => decodeElem t c

/-- Whether a type is a block type (R123, R124). -/
def blockType (t : BitVec 5) : Bool := family t == .sbf || family t == .mx

/-- The width of a block type's scale record (R123, R124). -/
def recordWidth (t : BitVec 5) : Nat := if family t = .sbf then 20 else 8

/-- Encoding a value once into a float or integer type, from a type (R119, R125, R126). -/
def encodeElem (t : BitVec 5) (rtz fromFloat : Bool) (v : Val) : Nat × Fx :=
  match family t with
  | .float => (typeFmt t).encode rtz v
  | .int => encodeInt true (typeWidth t) rtz fromFloat v
  | _ => encodeInt false (typeWidth t) rtz fromFloat v

/-- Whether a type's values come from a float (R126). -/
def floatSource (t : BitVec 5) : Bool := !(family t == .int || family t == .nat)

/-- The canonical form of bits of a type copied unchanged: a NaN becomes canonical (R119). -/
def canonical (t : BitVec 5) (c : Nat) : Nat :=
  match family t with
  | .float => if (typeFmt t).decode c = .nan then (typeFmt t).nanCode else c
  | .mx => if t = 9 ∨ t = 10 then (if (typeFmt t).decode c = .nan then (typeFmt t).nanCode else c) else c
  | _ => c

/-- One conversion between types that are not block types (R119). -/
def convert (src dst : BitVec 5) (rtz : Bool) (c : Nat) : Nat × Fx :=
  if src = dst then (canonical src c, 0) else encodeElem dst rtz (floatSource src) (decodeElem src c)

/-! ## Comparison and arithmetic (R130) -/

/-- The signed integer of a finite value in units of `2^e`, for `e` at most its exponent. -/
def Val.unitsAt (neg : Bool) (mag : Nat) (exp e : Int) : Int :=
  let n : Int := mag * 2 ^ (exp - e).toNat
  if neg then -n else n

/-- Order of two values that are not NaN, −0 equal to +0. -/
def Val.compare (a b : Val) : Ordering :=
  match a, b with
  | .inf n, .inf m => if n == m then .eq else if n then .lt else .gt
  | .inf n, _ => if n then .lt else .gt
  | _, .inf m => if m then .gt else .lt
  | .fin n x e, .fin m y g =>
    let u := min e g
    Ord.compare (Val.unitsAt n x e u) (Val.unitsAt m y g u)
  | _, _ => .eq

/-- Sign of a value. -/
def Val.neg? : Val → Bool
  | .inf n => n
  | .fin n _ _ => n
  | .nan => false

/-- The negative of a value. -/
def Val.negate : Val → Val
  | .inf n => .inf (!n)
  | .fin n m e => .fin (!n) m e
  | .nan => .nan

/-- The magnitude of a value. -/
def Val.abs : Val → Val
  | .inf _ => .inf false
  | .fin _ m e => .fin false m e
  | .nan => .nan

/-- max of R130: NaN when either is NaN, −0 less than +0. -/
def Val.max (a b : Val) : Val :=
  if a = .nan ∨ b = .nan then .nan
  else
    match a.compare b with
    | .lt => b
    | .gt => a
    | .eq => if a.neg? then b else a

/-- min of R130. -/
def Val.min (a b : Val) : Val :=
  if a = .nan ∨ b = .nan then .nan
  else
    match a.compare b with
    | .lt => a
    | .gt => b
    | .eq => if a.neg? then a else b

/-- Positive zero. -/
def Val.zero : Val := .fin false 0 0

/-- One. -/
def Val.one : Val := .fin false 1 0

/-- The exact sum, and NV for infinities of opposite sign (R130, R239). -/
def Val.add (a b : Val) : Val × Fx :=
  match a, b with
  | .nan, _ => (.nan, 0)
  | _, .nan => (.nan, 0)
  | .inf n, .inf m => if n == m then (.inf n, 0) else (.nan, fxNV)
  | .inf n, _ => (.inf n, 0)
  | _, .inf m => (.inf m, 0)
  | .fin n x e, .fin m y g =>
    let u := Min.min e g
    let t := Val.unitsAt n x e u + Val.unitsAt m y g u
    if t = 0 then (.fin (n && m && (x == 0 && y == 0)) 0 0, 0) else (.fin (t < 0) t.natAbs u, 0)

/-- The exact product, and NV for 0 × ±inf (R130, R239). -/
def Val.mul (a b : Val) : Val × Fx :=
  match a, b with
  | .nan, _ => (.nan, 0)
  | _, .nan => (.nan, 0)
  | .inf n, .inf m => (.inf (n != m), 0)
  | .inf n, .fin m y _ => if y = 0 then (.nan, fxNV) else (.inf (n != m), 0)
  | .fin n x _, .inf m => if x = 0 then (.nan, fxNV) else (.inf (n != m), 0)
  | .fin n x e, .fin m y g => (.fin (n != m) (x * y) (e + g), 0)

/-- A quotient of naturals as a magnitude and exponent that round as the exact quotient does: 70 bits and more, the
last one set when the division leaves a remainder. -/
def quotient (x y : Nat) : Nat × Int :=
  let k := 70 + bitLen y
  let q := x * 2 ^ k / y
  (2 * q + (if x * 2 ^ k % y = 0 then 0 else 1), -(k : Int) - 1)

/-- The quotient (R130), NV for 0 ÷ 0 and inf ÷ inf, DZ for a finite value over zero. -/
def Val.div (a b : Val) : Val × Fx :=
  match a, b with
  | .nan, _ => (.nan, 0)
  | _, .nan => (.nan, 0)
  | .inf _, .inf _ => (.nan, fxNV)
  | .inf n, .fin m _ _ => (.inf (n != m), 0)
  | .fin n _ _, .inf m => (.fin (n != m) 0 0, 0)
  | .fin n x e, .fin m y g =>
    if y = 0 then (if x = 0 then (.nan, fxNV) else (.inf (n != m), fxDZ))
    else
      let q := quotient x y
      (.fin (n != m) q.1 (e - g + q.2), 0)

/-- A value rounded to binary32 (R130). -/
def round32 (rtz : Bool) (v : Val) : Val × Fx :=
  let r := fmtF32.encode rtz v
  (fmtF32.decode r.1, r.2)

/-- RNE32, without its flags. -/
def rne32 (v : Val) : Val := (round32 false v).1

/-- The value of binary32 bits. -/
def val32 (b : BitVec 32) : Val := fmtF32.decode b.toNat

/-- The binary32 bits of a value, rounded by RNE. -/
def bits32 (v : Val) : BitVec 32 := BitVec.ofNat 32 (fmtF32.encode false v).1

/-! ## Integer square root, reciprocals, the exponential (R133, R134) -/

/-- The integer square root of `n` found bit by bit from bit `b - 1` down, starting at `r`. -/
def isqrtFrom (n : Nat) : Nat → Nat → Nat
  | 0, r => r
  | b + 1, r => isqrtFrom n b (if (r + 2 ^ b) * (r + 2 ^ b) ≤ n then r + 2 ^ b else r)

/-- The integer square root. -/
def isqrt (n : Nat) : Nat := isqrtFrom n (bitLen n / 2 + 1) 0

/-- RCPF with its flags (R134). -/
def rcpf (v : Val) : Val × Fx :=
  match v with
  | .nan => (.nan, 0)
  | .inf n => (.fin n 0 0, 0)
  | .fin n m e =>
    if m = 0 then (.inf n, fxDZ)
    else round32 false (.fin n (quotient 1 m).1 (-e + (quotient 1 m).2))

/-- RSQF with its flags (R134). -/
def rsqf (v : Val) : Val × Fx :=
  match v with
  | .nan => (.nan, 0)
  | .inf n => if n then (.nan, fxNV) else (.zero, 0)
  | .fin n m e =>
    if m = 0 then (.inf n, fxDZ)
    else if n then (.nan, fxNV)
    else
      let m := if e % 2 = 0 then m else 2 * m
      let e := if e % 2 = 0 then e else e - 1
      let k := 70 + bitLen m
      let q := isqrt (2 ^ (2 * k) / m)
      round32 false (.fin false (2 * q + (if q * q * m = 2 ^ (2 * k) then 0 else 1)) (-(e / 2) - k - 1))

/-- T[j], the RNE32 of 2^(j/64) (R133). -/
def expTable : List (BitVec 32) :=
  [0x3F800000, 0x3F8164D2, 0x3F82CD87, 0x3F843A29, 0x3F85AAC3, 0x3F871F62, 0x3F88980F, 0x3F8A14D5,
   0x3F8B95C2, 0x3F8D1ADF, 0x3F8EA43A, 0x3F9031DC, 0x3F91C3D3, 0x3F935A2B, 0x3F94F4F0, 0x3F96942D,
   0x3F9837F0, 0x3F99E046, 0x3F9B8D3A, 0x3F9D3EDA, 0x3F9EF532, 0x3FA0B051, 0x3FA27043, 0x3FA43516,
   0x3FA5FED7, 0x3FA7CD94, 0x3FA9A15B, 0x3FAB7A3A, 0x3FAD583F, 0x3FAF3B79, 0x3FB123F6, 0x3FB311C4,
   0x3FB504F3, 0x3FB6FD92, 0x3FB8FBAF, 0x3FBAFF5B, 0x3FBD08A4, 0x3FBF179A, 0x3FC12C4D, 0x3FC346CD,
   0x3FC5672A, 0x3FC78D75, 0x3FC9B9BE, 0x3FCBEC15, 0x3FCE248C, 0x3FD06334, 0x3FD2A81E, 0x3FD4F35B,
   0x3FD744FD, 0x3FD99D16, 0x3FDBFBB8, 0x3FDE60F5, 0x3FE0CCDF, 0x3FE33F89, 0x3FE5B907, 0x3FE8396A,
   0x3FEAC0C7, 0x3FED4F30, 0x3FEFE4BA, 0x3FF28177, 0x3FF5257D, 0x3FF7D0DF, 0x3FFA83B3, 0x3FFD3E0C]

/-- floor of a finite value. -/
def floorInt (neg : Bool) (mag : Nat) (exp : Int) : Int :=
  if exp ≥ 0 then Val.unitsAt neg mag exp 0
  else
    let n : Int := if neg then -mag else mag
    n / 2 ^ (-exp).toNat

/-- The difference of two values that are not infinities of one sign. -/
def Val.sub (a b : Val) : Val := (a.add b.negate).1

/-- EXP2F (R133). -/
def exp2f (x : Val) : Val :=
  match rne32 (x.mul (val32 0x3FB8AA3B)).1 with
  | .nan => .nan
  | .inf n => if n then .zero else .inf false
  | .fin n m e =>
    let y : Val := .fin n m e
    if y.compare (.fin false 128 0) != .lt then .inf false
    else if y.compare (.fin true 150 0) == .lt then .zero
    else
      let i := floorInt n m e
      let f := y.sub (.fin (i < 0) i.natAbs 0)
      let j := match f with
        | .fin n m e => (floorInt n (64 * m) e).toNat
        | _ => 0
      let r := f.sub (.fin false j (-6))
      let t1 := rne32 (r.mul (val32 0x3E75FDF0)).1
      let t2 := rne32 ((val32 0x3F317218).add t1).1
      let t3 := rne32 (r.mul t2).1
      let p := rne32 (Val.one.add t3).1
      rne32 ((rne32 ((val32 (expTable.getD j 0)).mul p).1).scale i)

/-! ## The reduction tree (R132) -/

/-- One level of the tree: neighbours combined, an odd last element kept. -/
def treeLevel {α : Type} (op : α → α → α) : List α → List α
  | a :: b :: r => op a b :: treeLevel op r
  | l => l

/-- TREE(op, list), level by level; `fuel` bounds the levels (R132). -/
def tree {α : Type} (op : α → α → α) (d : α) : Nat → List α → α
  | 0, l => l.headD d
  | n + 1, l =>
    match l with
    | [] => d
    | [a] => a
    | l => tree op d n (treeLevel op l)

/-! ## Encoding blocks (R127, R128) -/

/-- The least e in 0..1022 with A ≤ M · 2^(e − 511), 1022 if there is none (R127). -/
def sbfScale (m : Nat) (a : Val) : Nat :=
  match a with
  | .fin _ x e =>
    if x = 0 then 0
    else
      let c : Int := bitLen x - bitLen m + e + 511
      let fits (k : Int) : Bool := (Val.fin false x e).compare (.fin false m (k - 511)) != .gt
      let k := if fits (c - 1) then c - 1 else if fits c then c else c + 1
      if k < 0 then 0 else if k > 1022 then 1022 else k.toNat
  | _ => 1022

/-- |x| ÷ 2^(e − 511) rounded to an integer, none for an infinity; and whether that is inexact. -/
def sbfQuot (rtz : Bool) (v : Val) (e : Nat) : Option (Nat × Bool) :=
  match v with
  | .fin _ m x => some (roundAt rtz m (x - ((e : Int) - 511)) 0)
  | _ => none

/-- One element of an sbf block of width `k` (R127). -/
def encodeSbfElem (k : Nat) (rtz : Bool) (e0 e1 : Nat) (v : Val) : Nat × Fx :=
  let m := 2 ^ (k - 2) - 1
  let sel := 2 ^ (k - 1)
  let sgn := if v.neg? then 2 ^ (k - 2) else 0
  match v with
  | .nan => (sel, 0)
  | .inf _ => (sgn + m, fxOF ||| fxNX)
  | _ =>
    let big : Nat × Fx :=
      match sbfQuot rtz v e0 with
      | some (q, x) => if q > m then (sgn + m, fxOF ||| fxNX) else (sgn + q, fxIf x fxNX)
      | none => (sgn + m, fxOF ||| fxNX)
    match sbfQuot rtz v e1 with
    | some (q, x) => if e1 ≠ 1023 ∧ q ≤ m then (sel + sgn + q, fxIf x fxNX) else big
    | none => big

/-- The largest magnitude of a block, NaN left out (R127, R128). -/
def largest (vs : List Val) : Val :=
  vs.foldl (fun a v => if v = .nan then a else a.max v.abs) .zero

/-- A block encoded into sbf width `k`: codes, scale record, flags (R127). -/
def encodeSbf (k : Nat) (rtz : Bool) (vs : List Val) : List Nat × Nat × Fx :=
  let e0 := sbfScale (2 ^ (k - 2) - 1) (largest vs)
  let e1 := if vs.contains .nan then 1023 else e0 - (k - 2)
  let cs := vs.map (encodeSbfElem k rtz e0 e1)
  (cs.map (·.1), e0 * 1024 + e1, orFlags (cs.map (·.2)))

/-- emax(t) of an mx type (R128). -/
def mxEmax (t : BitVec 5) : Int :=
  match t.toNat with
  | 9 => 8 | 10 => 15 | 11 => 4 | 12 => 2 | 13 => 2 | _ => 0

/-- One element of an mx block whose scale is 2^X (R128). -/
def encodeMxElem (t : BitVec 5) (rtz : Bool) (x : Int) (v : Val) : Nat × Fx :=
  if t = 14 then
    let r := encodeInt true 8 rtz true (v.scale (6 - x))
    (r.1, if r.2 &&& fxNV = 0 then r.2 else fxOF ||| fxNX)
  else (typeFmt t).encode rtz (v.scale (-x))

/-- A block encoded into an mx type: codes, scale code, flags (R128). -/
def encodeMx (t : BitVec 5) (rtz : Bool) (vs : List Val) : List Nat × Nat × Fx :=
  let a := largest (vs.filter fun v => match v with | .fin _ _ _ => true | _ => false)
  let x : Int := match a with
    | .fin _ m e => if m = 0 then -127 else bitLen m - 1 + e - mxEmax t
    | _ => -127
  let x := if x < -127 then -127 else if x > 127 then 127 else x
  if vs.contains .nan && !(t == 9 || t == 10) then (vs.map fun _ => 0, 255, 0)
  else
    let cs := vs.map (encodeMxElem t rtz x)
    (cs.map (·.1), (x + 127).toNat, orFlags (cs.map (·.2)))

/-- A block encoded into a block type: codes, scale record, flags. -/
def encodeBlock (t : BitVec 5) (rtz : Bool) (vs : List Val) : List Nat × Nat × Fx :=
  if family t = .sbf then encodeSbf (typeWidth t) rtz vs else encodeMx t rtz vs

end Sys2Proof.Machine
end

