-- ==== Sys2Proof/Machine/Home.lean ====
section
/-! DEFINITION. What a home does with an access: loads, stores, atomics, full/empty words, the deferred list, the replay
filter, uncorrectable groups, track positions, the event log (R64, R83, R84, R159–R168, R279, R289, R403–R405). -/

namespace Sys2Proof.Machine

/-! ## Full/empty bits (R163) -/

/-- Insertion into a sorted list without repeats. -/
def sortedInsert (l : List Nat) (k : Nat) : List Nat :=
  match l with
  | [] => [k]
  | a :: r => if k < a then k :: a :: r else if k = a then a :: r else a :: sortedInsert r k

/-- Whether the 64-bit word that holds a physical bit is full. -/
def State.isFull (s : State) (key : Nat) : Bool := s.full.contains (key / 64)

/-- The word that holds a physical bit filled. -/
def State.fill (s : State) (key : Nat) : State := { s with full := sortedInsert s.full (key / 64) }

/-- The word that holds a physical bit emptied. -/
def State.empty (s : State) (key : Nat) : State := { s with full := s.full.filter (· != key / 64) }

/-! ## Which unit a physical bit belongs to -/

/-- The quad whose scratchpad holds a physical bit. -/
def scratchQuad (key : Nat) : Option Nat :=
  if scratchBase 0 ≤ key ∧ key < trackBase 0 then some ((key - scratchBase 0) / 2 ^ 20) else none

/-- The core, track and position of a physical bit of a track column (R51). -/
def trackOf (key : Nat) : Option (Nat × Nat × Nat) :=
  if trackBase 0 ≤ key ∧ key < peerBase 0 then
    let o := key - trackBase 0
    some (o / 2 ^ 27, o % 2 ^ 27 / 2 ^ 20, o % 2 ^ 20 / 256)
  else none

/-! ## Strands, resident and parked -/

/-- The strand, by save-frame pointer, where it is resident. -/
def State.residentOf (s : State) (sfp : Word) : Option Place :=
  s.cores.findSome? fun (e : Nat × Core) =>
    (List.finRange 4).findSome? fun b =>
      let k := (s.core e.1).banks[b]
      if k.live && k.strand.sfp == sfp then some ⟨e.1, b⟩ else none

/-- Whether a strand's record stands in a run list. -/
def State.isParked (s : State) (sfp : Word) : Bool := s.cores.any fun (e : Nat × Core) => e.2.parked.any fun r => r.sfp == sfp

/-- For whom an access is made: the core that causes it, none for the host and what no core of the partition causes, and the
strand to which its data is delivered, none for the hardware's own (R403, R405). -/
structure Who where
  core : Option Nat
  sfp : Option Word
  deriving DecidableEq, Repr

/-- An access of the hardware of a core. -/
def Who.hardware (core : Nat) : Who := ⟨some core, none⟩

/-- An access of a strand of a core. -/
def Who.strand (core : Nat) (sfp : Word) : Who := ⟨some core, some sfp⟩

/-- An access of the host, or of a peer. -/
def Who.outside : Who := ⟨none, none⟩

/-! ## The event log (R405) -/

/-- The kind word of an event record: the kind, and the core in pair form shifted left by 8, all ones for none. -/
def eventWord (kind : Nat) (core : Option Nat) : Word :=
  match core with
  | some c => (pairForm c <<< 8) ||| BitVec.ofNat 64 kind
  | none => (BitVec.allOnes 64 <<< 8) ||| BitVec.ofNat 64 kind

/-- An event logged: a 256-bit record in the ring and EVHEAD stepped, or EVLOST stepped where it cannot be written (R405). The
record covers four groups whole, which are good again (R403). -/
def State.logEvent (s : State) (kind : Nat) (core : Option Nat) (addr detail : Word) : State :=
  let lost := s.modPart fun p => { p with evlost := p.evlost + 1 }
  if s.part.evbase.extractLsb' 9 55 = 0 then lost
  else
    let size := 2 ^ ((s.part.evbase.extractLsb' 0 4).toNat + 6)
    let base := s.part.evbase >>> 9 <<< 9
    let a := base + BitVec.ofNat 64 (s.part.evhead.toNat % size * 256)
    match s.locate (core.getD 0) false false .store a 256 256 with
    | .ok [⟨key, _⟩] _ =>
      let w := s.now % 2 ^ 64 + (eventWord kind core).toNat * 2 ^ 64 + addr.toNat * 2 ^ 128 + detail.toNat * 2 ^ 192
      let s := { s with bad := s.bad.filter fun g => !(realKey key / 64 ≤ g && g < realKey key / 64 + 4) }
      (s.setBitsAt key 256 w).modPart fun p => { p with evhead := p.evhead + 1 }
    | _ => lost

/-- An event that concerns no partition, in the Zholos log (R405). -/
def State.zholosEvent (s : State) (kind detail : Nat) : State := { s with zlog := s.zlog ++ [(kind, detail)] }

/-! ## Saturating counters (R404) -/

/-- A counter field stepped, saturating at all ones (R404). -/
def stepField (w : Word) (lo len : Nat) : Word :=
  if (w.extractLsb' lo len).toNat = 2 ^ len - 1 then w else w + BitVec.ofNat 64 (2 ^ lo)

/-! ## Uncorrectable groups (R403) -/

/-- Structure numbers of event records (R405). -/
def structureOf (key : Nat) : Nat :=
  if (scratchQuad key).isSome then 0 else if (trackOf key).isSome then 1 else 2

/-- The space-000 address of a physical bit of a scratchpad or a track, and 0 for any other (R49, R405). -/
def meshAddrOf (key : Nat) : Word :=
  match scratchQuad key, trackOf key with
  | some q, _ =>
    let c := coreOfQuad q 0
    meshAddr (coreX c) (coreY c) (BitVec.ofNat 64 ((key - scratchBase 0) % 2 ^ 20))
  | none, some (c, t, _) =>
    meshAddr (coreX c) (coreY c)
      (BitVec.ofNat 64 ((8 + t / 16) * 2 ^ 37 + t % 16 * 2 ^ 20 + (key - trackBase 0) % 2 ^ 20))
  | none, none => 0

/-- A group replaced counted at its unit: its quad, or for HBM the die of the core that caused the access (R404). -/
def State.countReplaced (s : State) (core : Option Nat) (key : Nat) : State :=
  match scratchQuad key, trackOf key with
  | some q, _ => s.modQuad q fun k => { k with errq := stepField k.errq 32 16 }
  | none, some (c, _, _) => s.modQuad (quadOf c) fun k => { k with errq := stepField k.errq 32 16 }
  | none, none => s.modDie (s.part.dieOf (core.getD 0)) fun k => { k with errd := stepField k.errd 0 16 }

/-- One uncorrectable group replaced by zero under the key selection of an access, counted and logged (R403, R405). -/
def State.zeroBad (s : State) (core : Option Nat) (sel g : Nat) : State :=
  let s := { s.setBitsAt (64 * g + sel * 2 ^ 46) 64 0 with bad := s.bad.filter (· != g) }
  (s.countReplaced core (64 * g)).logEvent 0x01 core (meshAddrOf (64 * g)) (BitVec.ofNat 64 (structureOf (64 * g)))

/-- DLOSS set in a strand, in its bank or in its save frame, where its record stands in a run list or is on its way to another core
(R94, R403). -/
def State.markLoss (s : State) (sfp : Word) : State :=
  match s.residentOf sfp with
  | some p => s.modStrand p fun st => { st with dloss := true }
  | none =>
    if s.isParked sfp || (s.part.kept.find sfp.toNat).isSome then
      match s.locate 0 false false .store (sfp + 896) 64 64 with
      | .ok [⟨key, _⟩] _ =>
        (if s.bad.contains (realKey key / 64) then s.zeroBad none (keySel key) (realKey key / 64) else s).setBitsAt (key + 8) 1 1
      | _ => s
    else s

/-- The strand of an access is told of data lost. -/
def State.lose (s : State) (who : Who) : State :=
  match who.sfp with
  | some sfp => s.markLoss sfp
  | none => s

/-- One uncorrectable group replaced, and DLOSS set where its data is delivered (R403). -/
def State.replaceGroup (s : State) (who : Who) (sel g : Nat) : State := (s.zeroBad who.core sel g).lose who

/-- What an access does to the uncorrectable groups that it touches: each is replaced, but one that a store writes whole,
which is good again (R403). -/
def State.meetBad (s : State) (who : Who) (whole : Nat → Bool) (key w : Nat) : State :=
  if s.bad.isEmpty then s
  else
    (s.bad.filter fun g => realKey key / 64 ≤ g && g ≤ (realKey key + w - 1) / 64).foldl (fun s g =>
      if whole g then { s with bad := s.bad.filter (· != g) } else s.replaceGroup who (keySel key) g) s

/-- No group is written whole by a read. -/
def noGroup : Nat → Bool := fun _ => false

/-- Whether writes to one sector cover a group whole. -/
def coversGroup (ws : List (Part × Nat)) (g : Nat) : Bool :=
  (List.range 64).all fun b => ws.any fun p => realKey p.1.key ≤ 64 * g + b && 64 * g + b < realKey p.1.key + p.1.width

/-! ## Tracks (R76, R83, R84, R88, R91) -/

/-- The strand bound to a track of a core, among the resident banks: its head. -/
def Core.residentHead (c : Core) (t : Nat) : Option Nat :=
  c.banks.toList.findSome? fun b =>
    if b.live then (b.strand.binds.find? fun e => e.1.toNat == t).map (·.2.toNat) else none

/-- Whether a track is occupied: bound, or written since its column joined the partition (R91). -/
def Core.occupied (k : Core) (t : Nat) : Bool := k.tocc.getLsbD t || (k.bound.find t).isSome

/-- The distance between two positions. -/
def dist (a b : Nat) : Nat := a - b + (b - a)

/-- A shift of a track for a command, its cycles counted in SHIFTCT (R76, R86). -/
def Core.shiftTo (k : Core) (t h : Nat) : Core :=
  { k with
    trackPos := k.trackPos.set t h
    shiftct := k.shiftct + BitVec.ofNat 64 (dist (k.trackPos.get 0 t) h) }

/-- The shift in progress on a track finished: what comes next on the track waits for it (R76, R83). -/
def Core.finishShift (k : Core) (t : Nat) : Core :=
  match k.shifting.find t with
  | some h => { k.shiftTo t h with shifting := k.shifting.erase t }
  | none => k

/-! ### The marker wire (R87, R88) -/

/-- G(j), the Gray code of a block's number (R87). -/
def grayCode (j : Nat) : Nat := j ^^^ (j / 2)

/-- Whether a number of 8 bits has an odd number of ones. -/
def parity8 (n : Nat) : Bool := (List.range 8).foldl (fun p i => p != n.testBit i) false

/-- The marker bit that cold boot writes at a position of every track (R87). -/
def markerBit (pos : Nat) : Bool :=
  let g := grayCode (pos / 16)
  let i := pos % 16
  if i < 3 then true
  else if i = 3 then false
  else if i < 12 then g.testBit (11 - i)
  else if i = 12 then false
  else if i = 13 then parity8 g
  else i == 14

/-- The marks of a block of 16 positions. -/
def blockMarks (j : Nat) : List Bool := (List.range 16).map fun i => markerBit (16 * j + i)

/-- The block that 16 marks name, where they are those of one: the sync, the Gray code undone from its top bit, the parity and
the trailer (R87). -/
def decodeMarks (marks : List Bool) : Option Nat :=
  let j := (List.range 8).foldl (fun (r : Nat × Bool) i =>
    let b := r.2 != marks.getD (4 + i) false
    (2 * r.1 + b.toNat, b)) (0, false)
  if marks = blockMarks j.1 then some j.1 else none

/-- The position that a port reads from the marks of the block that it stands in (R88). -/
def portReads (pos : Nat) : Option Nat := (decodeMarks (blockMarks (pos / 16))).map fun j => 16 * j + pos % 16

/-! ### Realignment and retirement (R88, R89) -/

/-- The bits of a track. -/
def trackBits (c t : Nat) : Nat := trackBase c + t * 2 ^ 20

/-- A track whose every word reads as zero: a spare that has not been written (R88). -/
def State.clearTrack (s : State) (c t : Nat) : State :=
  let sec := trackBits c t / 256
  let now := s.keyOf 0
  let other := s.seals.filter fun e => e.1 < sec || sec + 4096 ≤ e.1
  { s with
    mem := s.mem.filter fun e => !(trackBits c t ≤ 8 * e.1 && 8 * e.1 < trackBits c (t + 1))
    seals := if now = 1 then other else (List.range 4096).foldl (fun l i => l.set (sec + i) now) other }

/-- A realignment counted (R88, R404). -/
def State.realign (s : State) (c : Nat) : State :=
  s.modQuad (quadOf c) fun q => { q with errq := stepField q.errq 24 8 }

/-- Track `t` of core `c` retired by an access: a spare of its layer takes its place, under the same name and binding, every
word of which reads as zero; with no spare left the track is dead; DLOSS is set in its owner, where it is bound, and in
the strand of the access (R88, R89, R404, R405). -/
def State.retireTrack (s : State) (c t : Nat) (who : Who) : State :=
  let left := (s.core c).spares.get 4 (t / 16)
  let owner := (s.core c).bound.find t
  let s := s.modQuad (quadOf c) fun q => { q with errq := stepField q.errq 16 8 }
  let s := (s.lose ⟨none, owner⟩).lose who
  if left = 0 then
    (s.modCore c fun k => { k with dead := sortedInsert k.dead t }).logEvent 0x03 (some c) 0 (BitVec.ofNat 64 (t + 256))
  else
    ((s.clearTrack c t).modCore c fun k => { k with spares := k.spares.set (t / 16) (left - 1) }).logEvent 0x03
      (some c) 0 (BitVec.ofNat 64 t)

/-- The marks read after a shift that should have brought a track to position `p`, an error of the shift having moved it by
more or less: each realignment is counted, and after three that fail the track is retired (R88). -/
def State.checkMarks (s : State) (who : Who) (c t p : Nat) : State :=
  match (s.core c).slips.find t with
  | none => s
  | some (d, fails) =>
    let s := s.modCore c fun k => { k with slips := k.slips.erase t }
    if portReads ((p : Int) + d).toNat = some p then s
    else
      let s := (List.range (min 3 (fails + 1))).foldl (fun s _ => s.realign c) s
      if 3 ≤ fails then s.retireTrack c t who else s

/-- An ordinary access to a track: it shifts to the position, and back to a resident owner's head, the cycles counted in
SHIFTAC, the marks read after a shift; a store marks the track occupied (R83, R84, R86, R88, R91). -/
def State.touchTrack (s : State) (who : Who) (key : Nat) (store : Bool) : State :=
  match trackOf key with
  | none => s
  | some (c, t, pos) =>
    let moved := ((s.core c).shifting.find t).isSome
    let k := (s.core c).finishShift t
    let p := k.trackPos.get 0 t
    let q := pos % 1024
    let back := (k.residentHead t).getD q
    let s := s.setCore c
      { k with
        trackPos := k.trackPos.set t back
        shiftac := k.shiftac + BitVec.ofNat 64 (dist p q + dist q back)
        tocc := if store then k.tocc ||| (1#128 <<< t) else k.tocc }
    if p = q ∧ moved = false then s else s.checkMarks who c t q

/-- Whether a physical bit lies on a dead track (R88). -/
def State.onDeadTrack (s : State) (key : Nat) : Bool :=
  match trackOf key with
  | some (c, t, _) => (s.core c).dead.contains t
  | none => false

/-- An access to a dead track: counted, and DLOSS set (R88). It is counted in ERRQ.RETIRE (DESIGN CHOICE, log entry 79: R404 gives
these accesses no field of their own). -/
def State.deadAccess (s : State) (who : Who) (key : Nat) : State :=
  match trackOf key with
  | some (c, _, _) => (s.modQuad (quadOf c) fun q => { q with errq := stepField q.errq 16 8 }).lose who
  | none => s

/-! ### The spine (R90) -/

/-- A spine wire of a group of a column fails for good: at the next burst boundary a spare takes its place; with none left
the column passes every beat through correction (R90, R404, R405). -/
def State.spineFails (s : State) (c : Nat) (g : Fin 4) : State :=
  let left := (s.core c).spine
  let s := s.modQuad (quadOf c) fun q =>
    { q with errq := if left = 0 then (if (s.core c).spineBroken.isEmpty then stepField q.errq 0 8 else q.errq)
                     else stepField q.errq 8 8 }
  (s.modCore c fun k =>
    if left = 0 then { k with spineBroken := k.spineBroken ++ [g.val] } else { k with spine := left - 1 }).logEvent 0x04
    (some c) 0 (BitVec.ofNat 64 (left - 1))

/-- The numbers of the 64-bit words, or groups, that bits lie in. -/
def groupsOf (key w : Nat) : List Nat := (List.range ((key + w - 1) / 64 - key / 64 + 1)).map (key / 64 + ·)

/-- The groups of track words, among those of an access, that a second failed wire without a spare makes uncorrectable (R90). -/
def State.spineLost (s : State) (ps : List Part) : List Nat :=
  (ps.flatMap fun p =>
    match trackOf p.key with
    | none => []
    | some (c, _, _) =>
      let broken := (s.core c).spineBroken
      if broken.isEmpty then [] else (groupsOf p.key p.width).filter fun g => 2 ≤ broken.count (g % 4)).eraseDups

/-- Each group that the spine makes uncorrectable is replaced by zero, once for an access (R90, R403). -/
def State.meetSpine (s : State) (who : Who) (ps : List Part) : State :=
  (s.spineLost ps).foldl (fun s g => s.replaceGroup who 0 g) s

/-! ## Loads and stores at the home -/

/-- The uncorrectable groups that a read of parts meets replaced (R403). -/
def State.meetParts (s : State) (who : Who) (ps : List Part) : State :=
  ps.foldl (fun s p => s.meetBad who noGroup p.key p.width) s

/-- Pieces of one sector read together, by an access that the track, if any, stands at (R64, R67, R88, R90, R403). -/
def State.readSector (s : State) (who : Who) (ps : List Part) : List Nat × State :=
  match ps with
  | [] => ([], s)
  | p :: _ =>
    if s.onDeadTrack p.key then (ps.map fun _ => 0, s.deadAccess who p.key)
    else
      let s := (s.meetParts who ps).meetSpine who ps
      (ps.map fun p => s.bitsAt p.key p.width, s)

/-- Bits of one sector read by an access that the track, if any, stands at. -/
def State.readHome (s : State) (who : Who) (p : Part) : Nat × State :=
  let r := s.readSector who [p]
  (r.1.headD 0, r.2)

/-- Pieces read, each an access of its sector. -/
def State.loadPieces (s : State) (who : Who) : List Part → Nat × State
  | [] => (0, s)
  | p :: r =>
    let a := (s.touchTrack who p.key false).readHome who p
    let b := a.2.loadPieces who r
    (a.1 + b.1 * 2 ^ p.width, b.2)

/-- Bits read at their home (R64, R67, R83, R88, R403). -/
def State.homeLoad (s : State) (who : Who) (key w : Nat) : Nat × State := s.loadPieces who (sectorPieces key w)

/-- The condition of AWAIT on a value (R167). -/
def awaitCond (c : AwaitCmp) (w : Nat) (v d : Nat) : Bool :=
  match c with
  | .eq => v == d % 2 ^ w
  | .ne => v != d % 2 ^ w
  | .geu => d % 2 ^ w ≤ v
  | .ges => (BitVec.ofNat w d).toInt ≤ (BitVec.ofNat w v).toInt

/-- The width of a list of parts. -/
def partsWidth (ps : List Part) : Nat := (ps.map (·.width)).sum

/-- Whether a waiting message stands on a word. -/
def onWord (m : Msg) (word : Nat) : Bool := m.parts.any fun p => p.key / 64 == word

/-- Whether a waiting message is an AWAIT whose condition holds in memory now. -/
def State.awaitHolds (s : State) (m : Msg) : Bool :=
  match m.op with
  | .await c => awaitCond c (partsWidth m.parts) (s.partsAt m.parts) m.data.toNat
  | _ => false

/-- Whether a request carries a sequence tag and passes a replay filter (R289). -/
def hasTag : MemOp → Bool
  | .load _ => false
  | .store => false
  | .festat => false
  | .await _ => false
  | _ => true

/-- The quad whose deferred list holds a request that waits: its home's, or for a peer's word the issuing quad's (R168). -/
def waitQuad (m : Msg) : Nat :=
  match m.parts with
  | p :: _ =>
    match scratchQuad p.key, trackOf p.key with
    | some q, _ => q
    | none, some (c, _, _) => quadOf c
    | none, none => quadOf m.src.core
  | [] => quadOf m.src.core

/-- The number of the place where an access to a physical bit executes: a quad's scratchpad controller, a column's memory agent,
the HBM home in a stack's base die, the host, or a peer (R287, R288; log entry 74). -/
def homePlace (key : Nat) : Nat :=
  match scratchQuad key, trackOf key with
  | some q, _ => 4 * q
  | none, some (c, _, _) => 4 * c + 1
  | none, none => if key < hostBase then 8 * (realKey key / 2 ^ 39) + 7 else if key < peerBase 0 then 11 else 3

/-- The number of the place where a request executes, which keeps a replay filter: its home, or the issuing cluster's cache where
that holds the host's data (R287, R289, R371). -/
def filterPlace (m : Msg) : Nat :=
  if m.cached then 4 * clusterOf m.src.core + 2 else homePlace ((m.parts.head?.map (·.key)).getD 0)

/-- The entries of a replay filter (R289). -/
def State.filter (s : State) (place : Nat) : List (Place × Nat × Answer) := s.filters.get [] place

/-- The answer of a request kept in the filter of the place where it executed, if it carries a tag (R289). -/
def State.keepAnswer (s : State) (m : Msg) (a : Answer) : State :=
  if hasTag m.op then
    { s with filters := s.filters.set (filterPlace m) (s.filter (filterPlace m) ++ [(m.src, m.tag, a)]) }
  else s

/-- A waiting message answered (R168); the replay filter keeps the answer of one that carries a tag (R289). -/
def State.answer (s : State) (m : Msg) : State :=
  let a := Answer.value (BitVec.ofNat 64 (s.partsAt m.parts)) true
  (s.keepAnswer m a).post (.memReply m a)

/-- The oldest TAKE of a list on a word, and the rest. -/
def splitTake (word : Nat) : List Msg → Option (Msg × List Msg)
  | [] => none
  | m :: r =>
    if m.op = .take ∧ onWord m word then some (m, r)
    else (splitTake word r).map fun x => (x.1, m :: x.2)

/-- What the home does after a write to a word that has waiters: every AWAIT whose condition now holds is answered in
arrival order; then, if the word is full, the oldest TAKE is answered and the word is emptied (R168). -/
def State.wake (s : State) (q word : Nat) : State :=
  let k := s.quad q
  if k.deferred.isEmpty then s
  else
    let done := k.deferred.filter fun m => onWord m word && s.awaitHolds m
    let rest := k.deferred.filter fun m => !(onWord m word && s.awaitHolds m)
    let s := done.foldl State.answer s
    if s.isFull (64 * word) then
      match splitTake word rest with
      | some (m, rest) => ((s.answer m).empty (64 * word)).modQuad q fun k => { k with deferred := rest }
      | none => s.modQuad q fun k => { k with deferred := rest }
    else s.modQuad q fun k => { k with deferred := rest }

/-- The words of the fault queue that a write may change: the write is shown to the batches that wait for a slot and to
the cores that watch one (R335, R336). -/
def State.watchQueues (s : State) (q word : Nat) : State :=
  let cl := clusterOfQuad q
  let k := s.cluster cl
  if k.watched.isEmpty && k.batches.isEmpty then s
  else
    let hit := k.watched.filter fun w =>
      match s.locate (firstCore cl) false false .load
          (k.fqbase >>> 9 <<< 9 + BitVec.ofNat 64 (512 + 2048 * w.1)) 64 64 with
      | .ok [⟨key, _⟩] _ => key / 64 == word && 2 ≤ s.bitsAt (key + 62) 2
      | _ => false
    let s := hit.foldl (fun s w => s.post (.faultSlotOutcome cl w.1)) s
    k.batches.foldl (fun s b => s.post (.faultPostRetry ⟨b.core, b.bank.getD 0⟩)) s

/-- What the homes of words do after a write to them: waiters answered, the fault queue's watchers told (R168, R335). -/
def State.wakeWords (s : State) (words : List Nat) : State :=
  words.foldl (fun s w =>
    match scratchQuad (64 * w) with
    | some q => (s.wake q w).watchQueues q w
    | none => if peerMeshBase 0 ≤ 64 * w then (s.quads.map (·.1)).foldl (fun s q => s.wake q w) s else s) s

/-- The bits of writes to one sector written, the uncorrectable groups under them met (R64, R403). -/
def State.putBits (s : State) (who : Who) (ws : List (Part × Nat)) : State :=
  let s := ws.foldl (fun s e => s.meetBad who (coversGroup ws) e.1.key e.1.width) s
  ws.foldl (fun s e => s.setBitsAt e.1.key e.1.width e.2) s

/-- The waiters of written words served (R168). -/
def State.wakeWritten (s : State) (ws : List (Part × Nat)) : State :=
  s.wakeWords (ws.flatMap fun e => groupsOf e.1.key e.1.width).eraseDups

/-- Writes to one sector performed together, by an access that the track, if any, stands at: uncorrectable groups met, the
bits written, then the waiters of its words served (R64, R67, R88, R90, R168, R403). -/
def State.writeHome (s : State) (who : Who) (ws : List (Part × Nat)) : State :=
  match ws with
  | [] => s
  | (p, _) :: _ =>
    if s.onDeadTrack p.key then s.deadAccess who p.key
    else ((s.putBits who ws).meetSpine who (ws.map (·.1))).wakeWritten ws

/-- Writes to one sector as one access (R64, R67, R83). -/
def State.storeSector (s : State) (who : Who) (ws : List (Part × Nat)) : State :=
  match ws with
  | [] => s
  | (p, v) :: r => (s.touchTrack who p.key true).writeHome who ((p, v) :: r)

/-- A value spread over pieces, the first lowest. -/
def spread (v : Nat) : List Part → List (Part × Nat)
  | [] => []
  | p :: r => (p, v % 2 ^ p.width) :: spread (v / 2 ^ p.width) r

/-- A write of bits performed at its home, each sector as one access (R64, R67). -/
def State.homeStore (s : State) (who : Who) (key w v : Nat) : State :=
  (spread v (sectorPieces key w)).foldl (fun s e => s.storeSector who [e]) s

/-- The parts of an access read at their homes, low part first (R62). -/
def State.loadParts (s : State) (who : Who) : List Part → Nat × State
  | [] => (0, s)
  | p :: r =>
    let a := s.homeLoad who p.key p.width
    let b := a.2.loadParts who r
    (a.1 + b.1 * 2 ^ p.width, b.2)

/-- The parts of an access written at their homes, low part first (R62). -/
def State.storeParts (s : State) (who : Who) (v : Nat) : List Part → State
  | [] => s
  | p :: r => (s.homeStore who p.key p.width v).storeParts who (v / 2 ^ p.width) r

/-! ### Streams, a sector at a time (R231) -/

/-- An entry added to the group of its sector, the sectors in the order in which they come. -/
def addToSector {α : Type} (sec : Nat) (e : α) : List (Nat × List α) → List (Nat × List α)
  | [] => [(sec, [e])]
  | (k, l) :: r => if k = sec then (k, l ++ [e]) :: r else (k, l) :: addToSector sec e r

/-- The writes of a stream by sector, in their own order within each. -/
def bySector (ws : List (Part × Nat)) : List (Nat × List (Part × Nat)) :=
  (ws.flatMap fun e => spread e.2 (sectorPieces e.1.key e.1.width)).foldl (fun l e => addToSector (e.1.key / 256) e l) []

/-- The writes of a stream performed, each sector that it touches as one access (R64, R67, R231, R235). -/
def State.storeStreamed (s : State) (who : Who) (ws : List (Part × Nat)) : State :=
  (bySector ws).foldl (fun s e => s.storeSector who e.2) s

/-- The pieces of a stream by sector, in their own order within each. -/
def sectorsOf (ps : List Part) : List (Nat × List Part) := ps.foldl (fun l p => addToSector (p.key / 256) p l) []

/-- The sectors of a stream read in turn, each as one access that ends before the next begins: the value of each piece (R67,
R83, R88). -/
def State.readSectors (s : State) (who : Who) : List (Nat × List Part) → List (Part × Nat) × State
  | [] => ([], s)
  | (c, ps) :: r =>
    let a := (s.touchTrack who (256 * c) false).readSector who ps
    let b := a.2.readSectors who r
    (ps.zip a.1 ++ b.1, b.2)

/-- The value read of a piece. -/
def pieceValue (vs : List (Part × Nat)) (p : Part) : Nat := ((vs.find? fun e => e.1 == p).map (·.2)).getD 0

/-- The elements of a stream read, each sector that it touches as one access (R67, R83, R231). -/
def State.loadStreamed (s : State) (who : Who) (es : List (List Part)) : List Nat × State :=
  let es := es.map fun e => e.flatMap fun p => sectorPieces p.key p.width
  let r := s.readSectors who (sectorsOf es.flatten)
  (es.map fun e => joinPieces (pieceValue r.1) e, r.2)

/-! ## Requests of peers (R59, R372) -/

/-- The number under which a core of a peer module issues a request here, which holds the link on which it came (R372). -/
def peerCore (link : Nat) (num : BitVec 12) (c : Nat) : Nat := 2 ^ 24 * (8192 * link + num.toNat + 1) + c

/-- Whether a request comes from a peer. -/
def fromPeer (m : Msg) : Bool := 2 ^ 24 ≤ m.src.core

/-- For whom a request accesses its home: its strand, or for a peer's no strand of the partition (R403). -/
def whoOf (m : Msg) : Who := if fromPeer m then .outside else .strand m.src.core m.sfp

/-- The answer to a peer's request, on the link on which it came, whether or not its binding still stands (R372, R373). -/
def State.peerReply (s : State) (m : Msg) (a : Answer) : State :=
  s.out (.peer (m.src.core / 2 ^ 37)) (.reply ⟨m.src.core % 2 ^ 24, m.src.bank⟩ m.tag a)

/-! ## Atomics (R161, R162, R164–R167) -/

/-- RND(old + d, t, RNE) for t f32 or bf16 (R161). -/
def fadd (w old d : Nat) : Nat :=
  let f := if w = 32 then fmtF32 else fmtBf16
  (f.encode false ((f.decode old).add (f.decode d)).1).1

/-- The new value of an AMO (R161). -/
def amoNew (op : MemOp) (w old d : Nat) : Nat :=
  let less := decide ((BitVec.ofNat w old).toInt < (BitVec.ofNat w d).toInt)
  match op with
  | .amoAdd => (old + d) % 2 ^ w
  | .amoAnd => old &&& d
  | .amoOr => old ||| d
  | .amoXor => old ^^^ d
  | .amoMin => if less then old else d
  | .amoMax => if less then d else old
  | .amoMinn => if old < d then old else d
  | .amoMaxn => if old < d then d else old
  | .amoSwap => d
  | .amoFadd => fadd w old d
  | _ => old

/-- A value sign-extended from `w` bits. -/
def sext64 (w v : Nat) : Word := (BitVec.ofNat w v).signExtend 64

/-- QCTL.HOLD (R309). -/
def Quad.hold (q : Quad) : Bool := q.qctl.getLsbD 0
/-- QCTL.NOSTEAL (R309). -/
def Quad.noSteal (q : Quad) : Bool := q.qctl.getLsbD 1

/-- HOLD of a quad: its QCTL.HOLD, or PCTL.HOLD, which acts as it in every quad (R309). -/
def State.onHold (s : State) (q : Nat) : Bool := (s.quad q).hold || s.part.hold

/-- Whether a physical bit lies in the hardware areas of a cabinet 7 outside the condition of R339: a store to it is
discarded. -/
def State.guarded (s : State) (key : Nat) : Bool :=
  match scratchQuad key with
  | some q =>
    let o := key - scratchBase q
    7 * 2 ^ 17 ≤ o && o < 7 * 2 ^ 17 + 98304 && !(s.onHold q && (s.quad q).noSteal)
  | none => false

/-- A store to a hardware area of cabinet 7 that is discarded, logged with its address as issued and its data (R339,
R405). -/
def State.discardStore (s : State) (who : Who) (addr : Word) (v : Nat) : State :=
  s.logEvent 0x08 who.core addr (BitVec.ofNat 64 v)

/-- One part read and, where `new` gives a value, written, as one access (R66, R83, R287); a write to a guarded area is
discarded (R339), as is one to a dead track, or to a group that the spine loses (R88, R90). -/
def State.updateAt (s : State) (who : Who) (addr : Word) (p : Part) (new : Nat → Option Nat) : Nat × State :=
  let write := (new (s.bitsAt p.key p.width)).isSome && !s.guarded p.key
  let t := s.touchTrack who p.key write
  let r := t.readHome who p
  match new r.1 with
  | none => r
  | some v =>
    if s.guarded p.key then (r.1, r.2.discardStore who addr v)
    else if t.onDeadTrack p.key || !(t.spineLost [p]).isEmpty then r
    else
      let ws := [(p, v % 2 ^ p.width)]
      (r.1, (r.2.putBits who ws).wakeWritten ws)

/-- The value of an atomic's one part, read and written as one access (R66). -/
def State.atomicAt (s : State) (m : Msg) (new : Nat → Option Nat) : Nat × State :=
  match m.parts with
  | [] => (0, s)
  | p :: _ => s.updateAt (whoOf m) m.addr p new

/-- What a home answers to an access and does: none while a TAKE or AWAIT waits (R146, R147, R161–R167). The AMO returns
the old value, sign-extended for min and max. -/
def State.operate (s : State) (m : Msg) : State × Option Answer :=
  let who := whoOf m
  let w := partsWidth m.parts
  let d := m.data.toNat % 2 ^ w
  let key := (m.parts.head?.map (·.key)).getD 0
  match m.op with
  | .load signed =>
    let r := s.loadParts who m.parts
    (r.2, some (.value (if signed then sext64 w r.1 else BitVec.ofNat 64 r.1) true))
  | .store =>
    if s.guarded key then (s.discardStore who m.addr d, some (.value 0 true))
    else (s.storeParts who d m.parts, some (.value 0 true))
  | .cas =>
    let r := s.atomicAt m fun old => if old = m.expect.toNat % 2 ^ w then some d else none
    (r.2, some (.value (BitVec.ofNat 64 r.1) true))
  | .take =>
    if s.isFull key then
      let r := s.loadParts who m.parts
      (r.2.empty key, some (.value (BitVec.ofNat 64 r.1) true))
    else (s, none)
  | .takeNb =>
    if s.isFull key then
      let r := s.loadParts who m.parts
      (r.2.empty key, some (.value (BitVec.ofNat 64 r.1) true))
    else (s, some (.value 0 false))
  | .put =>
    if s.guarded key then (s.discardStore who m.addr d, some (.value 0 true))
    else if s.isFull key then (s, some .putOnFull)
    else ((s.fill key).storeParts who d m.parts, some (.value 0 true))
  | .festat => (s, some (.value (if s.isFull key then 1 else 0) true))
  | .await c =>
    let r := s.loadParts who m.parts
    if awaitCond c w r.1 d then (r.2, some (.value (BitVec.ofNat 64 r.1) true)) else (r.2, none)
  | op =>
    let r := s.atomicAt m fun old => some (amoNew op w old d)
    let old := match op with
      | .amoMin => sext64 w r.1
      | .amoMax => sext64 w r.1
      | _ => BitVec.ofNat 64 r.1
    (r.2, some (.value old true))

/-- The cycles before retry `k` (R168). -/
def backoff (k : Nat) : Nat := 16 * 2 ^ min k 6

/-- Whether a peer refuses a part of an access at an address: X or Y outside the bound partition, or a page address outside its
share (R59, R372). -/
def State.peerRefusesPart (s : State) (addr : Word) (p : Part) : Bool :=
  if space addr = 4 then
    match s.part.peers.find? fun b => b.num.toNat == (addr.extractLsb' 49 12).toNat with
    | some b => !(decide ((addr.extractLsb' 39 10).toNat < b.width) &&
        decide ((addr.extractLsb' 29 10).toNat < b.height)) && peerMeshBase 0 ≤ p.key
    | none => decide (peerMeshBase 0 ≤ p.key)
  else if peerBase 0 ≤ p.key then
    let num := (p.key - peerBase 0) / (8 * 2 ^ 48)
    match s.part.peers.find? fun b => b.num.toNat == num with
    | some b => !b.share.contains ((p.key - peerBase 0) % (8 * 2 ^ 48) / 2 ^ 33)
    | none => true
  else false

/-- Whether a peer refuses an access, which it does for any of its parts (R59, R63, R372). -/
def State.peerRefuses (s : State) (addr : Word) (parts : List Part) : Bool := parts.any fun p => s.peerRefusesPart addr p

/-- The entries that the replay filter of a place holds, whose requests wait in a quad: answers kept, and one for each request
with a tag that waits (R289). -/
def State.placeLoad (s : State) (place q : Nat) : Nat :=
  (s.filter place).length + ((s.quad q).deferred.filter fun e => hasTag e.op && filterPlace e == place).length

/-- The entries of the replay filter where a request executes. -/
def State.filterLoad (s : State) (m : Msg) : Nat := s.placeLoad (filterPlace m) (waitQuad m)

/-- Whether a PUT or an atomic of the hardware or the host at a physical bit finds the replay filter of its place full, so that it is
answered busy. Its own entry retires with its reply, in the step that performs it (R289). -/
def State.placeBusy (s : State) (key : Nat) : Bool :=
  let q : Nat := match scratchQuad key, trackOf key with
    | some q, _ => q
    | none, some (c, _, _) => quadOf c
    | none, none => 0
  256 ≤ s.placeLoad (homePlace key) q

/-- The space-100 address of a physical bit of a peer's mesh memory (R59). -/
def peerAddrOf (key : Nat) : Word :=
  let o := key - peerMeshBase 0
  let c := o % 2 ^ 49 / 2 ^ 28
  BitVec.ofNat 64 (2 ^ 63 + o / 2 ^ 49 * 2 ^ 49 + coreX c * 2 ^ 39 + coreY c * 2 ^ 29 + o % 2 ^ 28 / 2 ^ 24 * 2 ^ 25 + o % 2 ^ 24)

/-- Whether the peer refuses a word of its mesh memory, given by its physical bit (R59, R372). -/
def State.refusedWord (s : State) (key : Nat) : Bool :=
  peerMeshBase 0 ≤ key && s.peerRefusesPart (peerAddrOf key) ⟨key, 64⟩

/-- A request performed at its home, exactly once (R289): the replay filter gives the saved answer; a full filter or a
full deferred list answers busy, and the request is tried again after the backoff of R168. `k` counts the retries.
The answer is none when the request waits. -/
def State.perform (s : State) (m : Msg) (k : Nat) : State × Option Answer :=
  match (s.filter (filterPlace m)).find? fun e => hasTag m.op && e.1 == m.src && e.2.1 == m.tag with
  | some e => (s, some e.2.2)
  | none =>
    let q := waitQuad m
    if (s.quad q).deferred.any fun e => e.src == m.src && e.tag == m.tag then (s, none)
    else if hasTag m.op && 256 ≤ s.filterLoad m then (s.after (backoff k) (.deferredRetry m (k + 1)), none)
    else if s.peerRefuses m.addr m.parts then (s.keepAnswer m .peerFault, some .peerFault)
    else
      match s.operate m with
      | (s, some a) => (s.keepAnswer m a, some a)
      | (s, none) =>
        if (s.quad q).deferred.length < 64 then
          (s.modQuad q fun x => { x with deferred := x.deferred ++ [m] }, none)
        else (s.after (backoff k) (.deferredRetry m (k + 1)), none)

/-! ## The fabric's use (R323) -/

/-- A use of the fabric (R323). -/
def State.traffic (s : State) : State := s.modPart fun p => { p with lastTraffic := s.now }

/-- An access of a core to a home uses the fabric where it leaves the quad; one to device register space does not count, since
PCTL.QUIET is read by one (DEDUCED, log entry 77). -/
def State.noteTraffic (s : State) (core : Nat) (home : Home) : State :=
  if home.own core || home == .register then s else s.traffic

/-! ## Accesses made by hardware and system agents (R105, R314, R386) -/

/-- Bits at an address read with S-mode permissions on a core; none where it faults. -/
def State.peek (s : State) (core : Nat) (a : Word) (w align : Nat) : Option Nat :=
  match s.locate core false false .load a w align with
  | .ok ps _ => if s.peerRefuses a ps then none else some (s.partsAt ps)
  | _ => none

/-- The uncorrectable groups that a read of bits at an address meets replaced (R403). -/
def State.meetAt (s : State) (who : Who) (a : Word) (w align : Nat) : State :=
  match s.locate (who.core.getD 0) false false .load a w align with
  | .ok ps _ => s.meetParts who ps
  | _ => s

/-- Bits at an address read with S-mode permissions on a core, as an access of its hardware; none where it faults. -/
def State.readHw (s : State) (core : Nat) (a : Word) (w align : Nat) : Option (Nat × State) :=
  match s.locate core false false .load a w align with
  | .ok ps home =>
    if s.peerRefuses a ps then none else some ((s.noteTraffic core home).loadParts (.hardware core) ps)
  | _ => none

/-- Bits at an address written with S-mode permissions on a core; none where it faults. -/
def State.poke (s : State) (core : Nat) (a : Word) (w align v : Nat) : Option State :=
  match s.locate core false false .store a w align with
  | .ok ps home =>
    if s.peerRefuses a ps then none else some ((s.noteTraffic core home).storeParts (.hardware core) v ps)
  | _ => none

/-- A 64-bit PUT at a physical word, and whether it was performed (R165). -/
def State.putWord (s : State) (who : Who) (key v : Nat) : State × Bool :=
  if s.isFull key then (s, false) else ((s.fill key).homeStore who key 64 v, true)

/-- A 64-bit PUT at a layer-0 address with S-mode permissions; none where the address faults. -/
def State.putAt (s : State) (core : Nat) (a : Word) (v : Nat) : Option (State × Bool) :=
  match s.locate core false false .atomic a 64 64 with
  | .ok [⟨key, _⟩] (.scratch _) => some (s.putWord (.hardware core) key v)
  | _ => none

end Sys2Proof.Machine
end

