-- ==== Sys2Proof/Machine/Records.lean ====
section
/-! DEFINITION. Records, save frames and frame pools (R93–R96), run lists and deques with their spill (R101, R106,
R339–R341), the end of a leaf (R105), residency and write-back (R98, R319). -/

namespace Sys2Proof.Machine

/-! ## Layouts (R82, R93, R94, R102, R309) -/

/-- The physical bit of a quad's cabinet 7 at a CBIT (R339). -/
def cabinet7 (q cbit : Nat) : Nat := scratchBase q + 7 * 2 ^ 17 + cbit

/-- Whether a strand's notice word is full: NPEND (R309). -/
def State.npend (s : State) (core : Nat) (st : Strand) : Bool :=
  st.notice != 0 &&
    (match s.locate core false false .load st.notice 64 64 with
    | .ok [⟨key, _⟩] _ => s.isFull key
    | _ => false)

/-- SKSTAT (R309). -/
def skstat (st : Strand) (npend : Bool) : Word :=
  (0 : BitVec 48) ++ bit1 st.trap ++ bit1 st.ppriv ++ bit1 st.priv ++ bit1 npend ++ (0 : BitVec 3) ++
    bit1 st.dloss ++ (0 : BitVec 3) ++ st.fx

/-- A binding entry (R82). -/
def bindEntry (e : BitVec 7 × BitVec 10) : Word := bit1 true ++ (0 : BitVec 46) ++ e.1 ++ e.2

/-- The bindings of the entries in a frame (R82). -/
def bindsOf (frame : Nat) : List (BitVec 7 × BitVec 10) :=
  (List.range 8).filterMap fun i =>
    let w := BitVec.ofNat 64 (frame / 2 ^ (64 * i))
    if w.getLsbD 63 then some (w.extractLsb' 10 7, w.extractLsb' 0 10) else none

/-- The binding entries as bits 511:0 of a frame (R94). -/
def bindBits (l : List (BitVec 7 × BitVec 10)) : Nat :=
  l.foldr (fun e n => (bindEntry e).toNat + 2 ^ 64 * n) 0

/-- Bits 1023:0 of a save frame (R94). -/
def frameLow (st : Strand) (npend : Bool) : Nat :=
  let hi : BitVec 512 := st.bpend ++ skstat st npend ++ (0 : BitVec 48) ++ st.claims ++ st.qprog ++ st.qerr ++
    st.notice ++ ((0 : BitVec 60) ++ st.share) ++ ((0 : BitVec 49) ++ st.hkey)
  bindBits st.binds + 2 ^ 512 * hi.toNat

/-- XREG and VREG of a save frame, bits 11263:1024 (R94); x0 is stored as 0. -/
def frameHigh (st : Strand) : Nat :=
  (st.x.toList.foldr (fun w n => w.toNat + 2 ^ 64 * n) 0) / 2 ^ 64 * 2 ^ 64 +
    2 ^ 2048 * st.v.toList.foldr (fun w n => w.toNat + 2 ^ 256 * n) 0

/-- A strand's record (R93). -/
def recordBits (st : Strand) (npend : Bool) : BitVec 512 :=
  st.link ++ bit1 st.priv ++ bit1 st.dloss ++ bit1 st.fullsave ++ bit1 npend ++ bit1 st.aff ++ bit1 st.haff ++
    (0 : BitVec 2) ++ st.cause ++ BitVec.ofNat 4 st.binds.length ++ st.prio ++ (0 : BitVec 10) ++ st.affx ++ st.affy ++
    (0 : BitVec 12) ++ st.x[13] ++ st.x[12] ++ st.x[11] ++ st.x[10] ++ st.sfp ++ st.pc

/-- The strand of a record and of what its bank keeps (R93, R96); the frame comes beside it. A resident strand stands in no
list, so that its LINK is 0. -/
def ofRecord (r : BitVec 512) (k : Kept) : Strand :=
  { Strand.reset with
    link := 0
    priv := r.getLsbD 447
    dloss := r.getLsbD 446
    fullsave := r.getLsbD 445
    aff := r.getLsbD 443
    haff := r.getLsbD 442
    cause := r.extractLsb' 432 8
    prio := r.extractLsb' 426 2
    affx := r.extractLsb' 406 10
    affy := r.extractLsb' 396 10
    x := (((Strand.reset.x.set 13 (r.extractLsb' 320 64)).set 12 (r.extractLsb' 256 64)).set 11
      (r.extractLsb' 192 64)).set 10 (r.extractLsb' 128 64)
    sfp := r.extractLsb' 64 64
    pc := r.extractLsb' 0 64
    task := k.task
    next := k.next
    hi := k.hi
    leafEnded := k.leafEnded
    order := k.order
    msglat := k.msglat
    joined := k.joined }

/-- The fields of QERR: bits 27:1 are reserved and read as 0 (R10, R199). -/
def qerrFields : Word := 0xFFFFFFFFF0000001

/-- A strand with bits 1023:0 of its frame restored, reserved fields reading as 0 (R10, R94, R96). -/
def withFrame (st : Strand) (f : Nat) : Strand :=
  let w (i n : Nat) : BitVec n := BitVec.ofNat n (f / 2 ^ i)
  { st with
    bpend := w 960 64
    dloss := st.dloss || (w 904 1).getLsbD 0
    trap := false
    ppriv := (w 910 1).getLsbD 0
    fx := w 896 5
    qprog := w 768 64
    qerr := w 704 64 &&& qerrFields
    notice := w 640 64
    share := w 576 4
    hkey := w 512 15
    binds := bindsOf f }

/-- `n` values of `w` bits each from a bit of a number up. -/
def sliceList (f from' w : Nat) (n : Nat) : List (BitVec w) :=
  (List.range n).map fun i => BitVec.ofNat w (f / 2 ^ (from' + w * i))

/-- A vector of a list's first elements, a default beyond. -/
def vectorOf {α : Type} (d : α) (l : List α) (n : Nat) : Vector α n :=
  (List.range n).foldl (fun v i => v.setIfInBounds i (l.getD i d)) (Vector.replicate n d)

/-- A strand with XREG and VREG of its frame restored, FULLSAVE cleared (R96). -/
def withFullFrame (st : Strand) (f : Nat) : Strand :=
  { st with
    x := vectorOf 0 (sliceList f 1024 64 32) 32
    v := vectorOf 0 (sliceList f 3072 256 32) 32
    fullsave := false }

/-! ## Task records (R102) -/

/-- JOIN. -/
def taskJoin (r : BitVec 512) : Word := r.extractLsb' 256 64
/-- DONE. -/
def taskDone (r : BitVec 512) : Word := r.extractLsb' 320 64
/-- GATE. -/
def taskGate (r : BitVec 512) : Word := r.extractLsb' 384 64
/-- HI. -/
def taskHi (r : BitVec 512) : Word := r.extractLsb' 192 64
/-- LO. -/
def taskLo (r : BitVec 512) : Word := r.extractLsb' 128 64
/-- ENTRY. -/
def taskEntry (r : BitVec 512) : Word := r.extractLsb' 0 64
/-- SYS. -/
def taskSys (r : BitVec 512) : Bool := r.getLsbD 473
/-- GRAIN, 0 taken as 1. -/
def taskGrain (r : BitVec 512) : Nat := max 1 (r.extractLsb' 480 32).toNat
/-- PLACEK. -/
def taskPlaceK (r : BitVec 512) : Nat := (r.extractLsb' 468 2).toNat
/-- The placement core. -/
def taskPlace (r : BitVec 512) : Nat := coreId (r.extractLsb' 458 10).toNat (r.extractLsb' 448 10).toNat

/-- A task record with another interval (R104). -/
def withInterval (r : BitVec 512) (lo hi : Word) : BitVec 512 :=
  r.extractLsb' 256 256 ++ hi ++ lo ++ r.extractLsb' 0 128

/-- Whether a core may take a record with a placement (R102). -/
def Partition.placed (p : Partition) (r : BitVec 512) (core : Nat) : Bool :=
  match taskPlaceK r with
  | 0 => true
  | 1 => quadOf core == quadOf (taskPlace r)
  | 2 => clusterOf core == clusterOf (taskPlace r)
  | _ => p.dieOf core == p.dieOf (taskPlace r)

/-- Where a range of `n` indices with grain `g` splits, none when it is not splittable (R104). -/
def splitPoint (r : BitVec 512) (next hi : Word) : Option Word :=
  let g := taskGrain r
  let n := hi.toNat - next.toNat
  let k := (n + g - 1) / g
  if r.getLsbD 472 || taskJoin r == 0 || k < 2 then none
  else some (next + BitVec.ofNat 64 (g * (k / 2)))

/-! ## The end of a leaf (R105) -/

/-- One access of a leaf-end sequence: an add at an address with the task's privilege; the value after it. -/
def State.leafAdd (s : State) (core : Nat) (sys : Bool) (a d : Word) : Except Cause (State × Word) :=
  match s.locate core (!sys) false .atomic a 64 64 with
  | .ok (p :: ps) _ =>
    if s.peerRefuses a (p :: ps) then .error .bounds
    else
      let r := s.updateAt (.hardware core) a p fun old => some ((old + d.toNat) % 2 ^ 64)
      .ok (r.2, BitVec.ofNat 64 r.1 + d)
  | .ok [] _ => .error .space
  | .flt f => .error f.cause
  | .absent _ => .error .translation

/-- An access of the sequence not performed is logged as kind 0x0C (R105, R405). -/
def State.leafLost (s : State) (core : Nat) (a : Word) (which : Nat) (c : Cause) : State :=
  s.logEvent 0x0C (some core) a (BitVec.ofNat 64 (which + c.code.toNat * 256))

/-- Whether an address that leads to a home is in layer 0, of this module or of a bound peer (R48, R59, R163). -/
def inLayer0 (a : Word) (h : Home) : Bool :=
  match h with
  | .scratch _ => true
  | .peer _ => space a == 4 && (a.extractLsb' 25 4).toNat == 0
  | _ => false

/-- The gate of a task PUT: not in layer 0 or faulting, it is not performed; full, it is counted (R105). -/
def State.leafGate (s : State) (core : Nat) (sys : Bool) (a : Word) : State :=
  match s.locate core (!sys) false .atomic a 64 64 with
  | .ok ps h =>
    if s.peerRefuses a ps then s.leafLost core a 2 .bounds
    else if !inLayer0 a h then s.leafLost core a 2 .fullEmpty
    else
      match ps with
      | [] => s
      | p :: _ =>
        if s.guarded p.key then s.discardStore (.hardware core) a 1
        else
          let r := s.putWord (.hardware core) p.key 1
          if r.2 then r.1 else s.logEvent 0x06 (some core) a a
  | .flt f => s.leafLost core a 2 f.cause
  | .absent _ => s.leafLost core a 2 .translation

/-- Whether an atomic or a PUT at an address finds the replay filter of its place full (R289). -/
def State.agentBusy (s : State) (core : Nat) (sys : Bool) (a : Word) : Bool :=
  a != 0 && (match s.locate core (!sys) false .atomic a 64 64 with
    | .ok (p :: _) _ => s.placeBusy p.key
    | _ => false)

/-- Whether the sequence at the end of a leaf waits for room in a replay filter of its words; the instruction that ends the leaf then
tries again (R105, R289; log entry 74). -/
def State.leafBusy (s : State) (core : Nat) (r : BitVec 512) : Bool :=
  [taskJoin r, taskDone r, taskGate r].any (s.agentBusy core (taskSys r))

/-- The sequence at the end of a leaf of a task (R105). -/
def State.leafEnd (s : State) (core : Nat) (r : BitVec 512) : State :=
  let done (s : State) : State :=
    if taskDone r = 0 then s
    else
      match s.leafAdd core (taskSys r) (taskDone r) (-1) with
      | .ok (s, d) => if d = 0 ∧ taskGate r ≠ 0 then s.leafGate core (taskSys r) (taskGate r) else s
      | .error c => s.leafLost core (taskDone r) 1 c
  if taskJoin r = 0 then done s
  else
    match s.leafAdd core (taskSys r) (taskJoin r) (-1) with
    | .ok (s, j) => if j = 0 then done s else s
    | .error c => s.leafLost core (taskJoin r) 0 c

/-! ## The frame pool (R95) -/

/-- A frame taken from a core's pool for a new strand; none when the pool is empty or the take faults, which is
logged. -/
def State.takeFrame (s : State) (core : Nat) : State × Option Word :=
  let head := (s.core core).fphead >>> 9 <<< 9
  if head = 0 then (s, none)
  else
    match s.peek core head 64 64 with
    | none => (s.logEvent 0x0B (some core) 0 head, none)
    | some _ =>
      let s := s.meetAt (.hardware core) head 64 64
      let nxt := (s.peek core head 64 64).getD 0
      match s.poke core head 1024 512 (frameLow .reset false) with
      | none => (s.logEvent 0x0B (some core) 0 head, none)
      | some s =>
        let s := s.modCore core fun k => { k with fphead := BitVec.ofNat 64 nxt >>> 9 <<< 9 }
        (if nxt / 512 = 0 then s.logEvent 0x0B (some core) 0 head else s, some head)

/-- A frame returned to a core's pool; false where its write faults. -/
def State.giveFrame (s : State) (core : Nat) (frame : Word) : State × Bool :=
  match s.poke core frame 64 64 (s.core core).fphead.toNat with
  | some s => (s.modCore core fun k => { k with fphead := frame >>> 9 <<< 9 }, true)
  | none => (s, false)

/-! ## Holdings (R80, R178, R254) -/

/-- Whether a strand holds a press unit of a quad (R257). -/
def Quad.holds (q : Quad) (sfp : Word) : Bool := q.owners.toList.any fun o => o.holder == some sfp

/-- The slot part of a strand's holdings (R254). -/
def Quad.claims (q : Quad) (sfp : Word) : BitVec 16 :=
  (List.range 16).foldl (fun w k =>
    if ((q.owners.toList.getD k ⟨none, false⟩).holder == some sfp) then w ||| (1#16 <<< k) else w) 0

/-- Every unit of a strand freed (R178). -/
def Quad.freeAll (q : Quad) (sfp : Word) : Quad :=
  { q with owners := q.owners.map fun o => if o.holder = some sfp then ⟨none, false⟩ else o }

/-- A command of a strand that has not left the queue of its core, or has not completed (R98, R195). -/
def State.busy (s : State) (core : Nat) (sfp : Word) : Bool :=
  let k := s.core core
  k.queue.any (·.sfp == sfp) || (k.latch.any fun e => e.sfp == sfp) || (k.rep.any fun r => r.sfp == sfp) ||
    (s.quad (quadOf core)).out.any fun i => i.sfp == sfp && !i.remote

/-- The drains of a strand of a core are over. -/
def State.endDrain (s : State) (core : Nat) (sfp : Word) : State :=
  if (s.core core).draining.any fun e => e.1 == sfp then
    s.modCore core fun k => { k with draining := k.draining.filter fun e => e.1 != sfp }
  else s

/-- One drain of a strand of a core is over: of all its commands, or of those that write vector registers. -/
def State.closeDrain (s : State) (core : Nat) (e : Word × Bool) : State :=
  if (s.core core).draining.contains e then s.modCore core fun k => { k with draining := k.draining.filter (· != e) } else s

/-- A command that writes a vector register (R97). -/
def writesVector (w : BitVec 256) : Bool :=
  let eng := (w.extractLsb' 244 4).toNat
  let op := (w.extractLsb' 248 8).toNat
  (eng == 1 && op == 1) || (eng == 2 && !(3 ≤ op && op ≤ 5))

/-- A command of a strand that writes a vector register and has not completed (R97). -/
def State.vectorBusy (s : State) (core : Nat) (sfp : Word) : Bool :=
  let k := s.core core
  k.queue.any (fun e => e.sfp == sfp && writesVector e.word) ||
    (k.latch.any fun e => e.sfp == sfp && writesVector e.word) ||
    (k.rep.any fun r => r.sfp == sfp && r.captured.any fun e => writesVector e.word) ||
    (s.quad (quadOf core)).out.any fun i => i.sfp == sfp && i.writes.any (· < 32)

/-- The registers of a strand that passes a suspension point: every scalar register but a0–a3, and every vector
register, reads as zero (R97). -/
def Strand.pass (st : Strand) : Strand :=
  { st with
    x := (((Strand.reset.x.set 10 st.x[10]).set 11 st.x[11]).set 12 st.x[12]).set 13 st.x[13]
    v := Strand.reset.v }

/-! ## Run lists (R101, R339, R341) -/

/-- Record slots of a core's spill area (R340, R341). -/
def Core.spillCap (k : Core) : Nat := if k.spill >>> 9 = 0 then 0 else 64 * 2 ^ (k.spill.extractLsb' 0 4).toNat

/-- The address of a slot of the spill area (R340). -/
def Core.spillAddr (k : Core) (i : Nat) : Word := k.spill >>> 9 <<< 9 + BitVec.ofNat 64 (512 * i)

/-- The lowest slot of the spill area that nothing occupies, for a run-list record. -/
def Core.freeSpill (k : Core) : Option Nat :=
  (List.range k.spillCap).find? fun i => !k.runSpill.contains i && !k.spillRing.contains i

/-- The slot of the next spilled deque record: the first after the newest, around the area, that nothing occupies (R341). -/
def Core.nextSpill (k : Core) : Option Nat :=
  ((List.range k.spillCap).map fun i => ((k.spillRing.getLast?.getD (k.spillCap - 1)) + 1 + i) % k.spillCap).find? fun i =>
    !k.runSpill.contains i && !k.spillRing.contains i

/-- The lowest free slot of a quad's run-list pool (R339). -/
def Quad.freePool (q : Quad) : Option Nat := (List.range 64).find? fun i => !q.pool.getLsbD i

/-- The bits of a parked record. -/
def State.parkedBits (s : State) (core : Nat) (r : Parked) : Option (BitVec 512) :=
  if r.place < 64 then
    some (BitVec.ofNat 512 (s.bitsAt (cabinet7 (quadOf core) (65536 + 512 * r.place)) 512))
  else (s.peek core ((s.core core).spillAddr (r.place - 64)) 512 512).map (BitVec.ofNat 512)

/-- A parked record read: the uncorrectable groups of one in the spill area replaced (R403). -/
def State.meetParked (s : State) (core : Nat) (r : Parked) : State :=
  if r.place < 64 then s else s.meetAt (.hardware core) ((s.core core).spillAddr (r.place - 64)) 512 512

/-- A parked record's bits written where it stands. -/
def State.setParkedBits (s : State) (core : Nat) (r : Parked) (b : BitVec 512) : State :=
  if r.place < 64 then
    s.homeStore (.hardware core) (cabinet7 (quadOf core) (65536 + 512 * r.place)) 512 b.toNat
  else (s.poke core ((s.core core).spillAddr (r.place - 64)) 512 512 b.toNat).getD s

/-- LINK written in a core's spilled records, oldest first: each names the next, the last has 0 (R93, R101). -/
def State.chain (s : State) (core : Nat) : List Nat → State
  | [] => s
  | i :: r =>
    let k := s.core core
    let next : Word := match r.head? with
      | some j => k.spillAddr j
      | none => 0
    ((s.poke core (k.spillAddr i + 448) 64 64 next.toNat).getD s).chain core r

/-- A spilled record taken out of the chain. -/
def State.unchain (s : State) (core slot : Nat) : State :=
  let s := s.modCore core fun k => { k with runSpill := k.runSpill.filter (· != slot) }
  s.chain core (s.core core).runSpill

/-- A record placed in a core's run list: a pool slot, or a slot of the spill area chained by LINK; none when both are
full (R101, R341). -/
def State.parkRecord (s : State) (core : Nat) (b : BitVec 512) (r : Parked) : Option State :=
  let k := s.core core
  let q := quadOf core
  let b : BitVec 512 := 0#64 ++ b.extractLsb' 0 448
  match (if k.rln.toNat < 32 then (s.quad q).freePool else none) with
  | some i =>
    let r := { r with place := i }
    let s := s.modQuad q fun x => { x with pool := x.pool ||| (1#64 <<< i) }
    let s := s.modCore core fun k => { k with rln := k.rln + 1, parked := k.parked ++ [r] }
    some (s.setParkedBits core r b)
  | none =>
    match k.freeSpill with
    | some i =>
      (s.poke core (k.spillAddr i) 512 512 b.toNat).map fun s =>
        let s := s.modCore core fun k =>
          { k with runSpill := k.runSpill ++ [i], parked := k.parked ++ [{ r with place := 64 + i }] }
        s.chain core (s.core core).runSpill
    | none => none

/-- The runnable spilled records of a quad that may move into its pool, with their cores and bits (R341). -/
def State.refillable (s : State) (q : Nat) : List (Nat × Parked × BitVec 512) :=
  ((List.range 4).map (coreOfQuad q)).flatMap fun c =>
    if 32 ≤ (s.core c).rln.toNat then []
    else (s.core c).parked.filterMap fun y =>
      if 64 ≤ y.place ∧ y.runnable then (s.parkedBits c y).map fun b => (c, y, b) else none

/-- The oldest of the highest PRIO among records (R341). -/
def bestRefill (l : List (Nat × Parked × BitVec 512)) : Option (Nat × Parked × BitVec 512) :=
  l.foldl (fun o e =>
    match o with
    | none => some e
    | some f =>
      let a := (f.2.2.extractLsb' 426 2).toNat
      let b := (e.2.2.extractLsb' 426 2).toNat
      if a < b ∨ (a = b ∧ e.2.1.since < f.2.1.since) then some e else o) none

/-- A pool slot of a quad freed: the oldest runnable spilled record of the highest PRIO moves into it (R341). -/
def State.refillPool (s : State) (q i : Nat) : State :=
  let s := s.modQuad q fun x => { x with pool := x.pool &&& ~~~(1#64 <<< i) }
  match bestRefill (s.refillable q) with
  | none => s
  | some (c, y, _) =>
    let s := s.meetParked c y
    let b := (s.parkedBits c y).getD 0
    let s := s.modQuad q fun x => { x with pool := x.pool ||| (1#64 <<< i) }
    let s := s.modCore c fun k =>
      { k with rln := k.rln + 1
               parked := k.parked.map fun x => if x.place = y.place then { x with place := i } else x }
    (s.unchain c (y.place - 64)).setParkedBits c { y with place := i } (0#64 ++ b.extractLsb' 0 448)

/-- A parked record taken out of a core's run list (R341). -/
def State.unpark (s : State) (core : Nat) (r : Parked) : State :=
  let s := s.modCore core fun k => { k with parked := k.parked.filter fun x => x.place != r.place }
  if r.place < 64 then
    (s.modCore core fun k => { k with rln := k.rln - 1 }).refillPool (quadOf core) r.place
  else s.unchain core (r.place - 64)

/-! ## Deques (R106, R339, R341) -/

/-- The physical bit of a deque entry of a core (R339). -/
def dequeKey (core e : Nat) : Nat := cabinet7 (quadOf core) (16384 * indexInQuad core + 512 * e)

/-- The mode after a push (R106). -/
def Core.afterPush (k : Core) : Core :=
  { k with depthFirst := k.depthFirst || decide (24 ≤ k.dqn.toNat + k.spn.toNat) }

/-- The mode after a pop (R106). -/
def Core.afterPop (k : Core) : Core :=
  { k with depthFirst := k.depthFirst && decide (8 ≤ k.dqn.toNat + k.spn.toNat) }

/-- Whether a push finds room: the cabinet part, or a slot of the spill area for its oldest record (R341). -/
def Core.hasRoom (k : Core) : Bool := k.dqn.toNat < 32 || k.nextSpill.isSome

/-- Bits of a deque entry of a core in cabinet 7 (R339). -/
def State.dequeBits (s : State) (core e : Nat) : BitVec 512 := BitVec.ofNat 512 (s.bitsAt (dequeKey core (e % 32)) 512)

/-- The oldest cabinet record moved to the spill area (R341). -/
def State.spillOldest (s : State) (core : Nat) : Option State :=
  let k := s.core core
  k.nextSpill.bind fun i =>
    (s.poke core (k.spillAddr i) 512 512 (s.dequeBits core k.old.toNat).toNat).map fun s =>
      s.modCore core fun k =>
        { k with spn := k.spn + 1, spillRing := k.spillRing ++ [i], old := k.old + 1, dqn := k.dqn - 1 }

/-- The steal timer of a core's round that its push ends (R347). -/
def State.dropRound (s : State) (core : Nat) : State :=
  { s with timers := s.timers.filter fun e => e.2 != .stealRoundTimer core }

/-- A task record pushed at the tail of a core's deque; none when it has no room (R341, R175). -/
def State.dequePush (s : State) (core : Nat) (r : BitVec 512) : Option State :=
  if !(s.core core).hasRoom then none
  else
    (if (s.core core).dqn.toNat < 32 then some s else s.spillOldest core).map fun s =>
      let k := s.core core
      let s := s.homeStore (.hardware core) (dequeKey core ((k.old.toNat + k.dqn.toNat) % 32)) 512 r.toNat
      ((s.modCore core fun k => { k with dqn := k.dqn + 1, stealIdle := false }.afterPush).dropRound core).post
        (.bankFill core)

/-- The address of a spilled deque record of a core, by its age (R341). -/
def Core.ringAddr (k : Core) (i : Nat) : Word := k.spillAddr (k.spillRing.getD i 0)

/-- A spilled record of a core read back, with its uncorrectable groups replaced (R341, R403). -/
def State.readSpilled (s : State) (core : Nat) (a : Word) : Option (BitVec 512 × State) :=
  let s := s.meetAt (.hardware core) a 512 512
  (s.peek core a 512 512).map fun r => (BitVec.ofNat 512 r, s)

/-- The oldest record of a core's deque, in the spill area first (R341). -/
def State.oldestTask (s : State) (core : Nat) : Option (BitVec 512 × State) :=
  let k := s.core core
  if 0 < k.spn.toNat then s.readSpilled core (k.ringAddr 0)
  else if 0 < k.dqn.toNat then some (s.dequeBits core k.old.toNat, s) else none

/-- The oldest record removed. -/
def State.dropOldest (s : State) (core : Nat) : State :=
  s.modCore core fun k =>
    if 0 < k.spn.toNat then { k with spn := k.spn - 1, spillRing := k.spillRing.drop 1 }
    else { k with dqn := k.dqn - 1, old := k.old + 1 }

/-- The oldest record replaced where it stands (R104, a split of it). -/
def State.replaceOldest (s : State) (core : Nat) (r : BitVec 512) : State :=
  let k := s.core core
  if 0 < k.spn.toNat then (s.poke core (k.ringAddr 0) 512 512 r.toNat).getD s
  else s.homeStore (.hardware core) (dequeKey core k.old.toNat) 512 r.toNat

/-- An owner's pop: the oldest record in breadth-first mode, the newest in depth-first mode, which stands in the spill area
where the cabinet holds none; the mode after it (R106, R341). -/
def State.dequePop (s : State) (core : Nat) : Option (BitVec 512 × State) :=
  let k := s.core core
  (if k.depthFirst && 0 < k.dqn.toNat then
    some (s.dequeBits core (k.old.toNat + k.dqn.toNat - 1), s.modCore core fun k => { k with dqn := k.dqn - 1 })
  else if k.depthFirst && 0 < k.spn.toNat then
    (s.readSpilled core (k.ringAddr (k.spn.toNat - 1))).map fun r =>
      (r.1, r.2.modCore core fun k => { k with spn := k.spn - 1, spillRing := k.spillRing.dropLast })
  else (s.oldestTask core).map fun r => (r.1, r.2.dropOldest core)).map fun r => (r.1, r.2.modCore core Core.afterPop)

/-! ## A write of DQSTAT (R324, R340; log entry 55) -/

/-- The run-list pool slots that a core holds after DQSTAT.RLN is set to `n`: the lowest of those it held, then the lowest that
no core holds. -/
def State.poolSlots (s : State) (core n : Nat) : List Nat :=
  let held := ((s.core core).parked.map (·.place)).filter (· < 64)
  let mine := (List.range 64).filter held.contains
  let free := (List.range 64).filter fun i => !(s.quad (quadOf core)).pool.getLsbD i
  (mine ++ free).take n

/-- What a core holds of a record that system software left in a pool slot: what it held of the record's strand, or a runnable
record. -/
def State.adoptSlot (s : State) (core slot : Nat) : Parked :=
  let sfp := (BitVec.ofNat 512 (s.bitsAt (cabinet7 (quadOf core) (65536 + 512 * slot)) 512)).extractLsb' 64 64
  match (s.core core).parked.find? fun r => r.sfp == sfp && r.place < 64 with
  | some r => { r with place := slot }
  | none => ⟨slot, sfp, true, .running, s.now⟩

/-- The run list of a core as a write of DQSTAT leaves it: RLN slots of the pool, with the records that stand in them. -/
def State.writeRunList (s : State) (core n : Nat) : State :=
  let n := min 32 n
  let slots := s.poolSlots core n
  let was := ((s.core core).parked.map (·.place)).filter (· < 64)
  let q := quadOf core
  let list := slots.map (s.adoptSlot core)
  let s := s.modQuad q fun x =>
    let freed := was.foldl (fun (m : BitVec 64) i => m &&& ~~~(1#64 <<< i)) x.pool
    { x with pool := slots.foldl (fun (m : BitVec 64) i => m ||| (1#64 <<< i)) freed }
  s.modCore core fun k => { k with rln := BitVec.ofNat 6 n, parked := list ++ k.parked.filter fun r => 64 ≤ r.place }

/-- DQSTAT as system software writes it: a count of spilled records that changes lays them out from the area's first slot. -/
def State.writeDqstat (s : State) (core : Nat) (v : Word) : State :=
  let s := s.writeRunList core (v.extractLsb' 16 6).toNat
  s.modCore core fun k =>
    let n : BitVec 32 := v.extractLsb' 22 32
    { k with depthFirst := v.getLsbD 63, spn := n, old := v.extractLsb' 6 5, dqn := v.extractLsb' 0 6
             spillRing := if n = k.spn then k.spillRing else List.range (min n.toNat k.spillCap) }

/-! ## Starting, saving and ending strands -/

/-- The strand that a task starts (R103). -/
def strandOf (r : BitVec 512) (sfp : Word) (order : Nat) : Strand :=
  { Strand.reset with
    pc := taskEntry r
    x := ((Strand.reset.x.set 10 (r.extractLsb' 64 64)).set 11 (taskLo r)).set 12 (taskHi r)
    priv := taskSys r
    prio := r.extractLsb' 470 2
    sfp := sfp
    task := r
    next := taskLo r
    hi := taskHi r
    leafEnded := false
    order := order }

/-- A strand started from a task in a bank: it takes a frame and issues 40 cycles later; false where no frame is taken
(R95, R103, R349). -/
def State.startTask (s : State) (p : Place) (r : BitVec 512) : State × Bool :=
  match s.takeFrame p.core with
  | (s, some f) =>
    let s := s.bumpSeq
    ((s.modBank p fun b =>
      { b with live := true, strand := strandOf r f s.seq, status := .reply .other 0 0, mark := none }).after 40
        (.recordLoadDone p), true)
  | (s, none) => (s, false)

/-- A strand as a write-back records it: CLAIMS from the owner table, AFF and HAFF by what it holds (R93, R254). -/
def State.forSave (s : State) (p : Place) : Strand :=
  let st := s.strand p
  let q := s.quad (quadOf p.core)
  let bound := !st.binds.isEmpty || q.holds st.sfp || (st.bpend &&& 0x8888888888888888) != 0
  let st := { st with claims := q.claims st.sfp }
  if bound then
    { st with aff := true, haff := true, affx := BitVec.ofNat 10 (coreX p.core), affy := BitVec.ofNat 10 (coreY p.core) }
  else if st.haff then { st with aff := false, haff := false, affx := 0, affy := 0 } else st

/-- What a parked strand keeps beside its record (log entry 9). -/
def keptOf (st : Strand) : Kept := ⟨st.task, st.next, st.hi, st.leafEnded, st.order, st.msglat, st.joined⟩

/-- A strand's frame saved: bits 1023:0, and for a forced save all of it; none where a write faults (R94, R95, R319). -/
def State.saveFrame (s : State) (p : Place) (full : Bool) : Option State :=
  let st := s.forSave p
  (s.poke p.core st.sfp 1024 512 (frameLow st (s.npend p.core st))).bind fun s =>
    if full then
      (List.range 20).foldl (fun o i => o.bind fun s =>
        s.poke p.core (st.sfp + BitVec.ofNat 64 (1024 + 512 * i)) 512 512 (frameHigh st / 2 ^ (512 * i))) (some s)
    else some s

/-- The batches of a strand that leaves its bank, which no wait is told of any longer (R336). -/
def Cluster.forgetStrand (k : Cluster) (p : Place) (sfp : Word) : Cluster :=
  let forget (b : Batch) : Batch :=
    if b.core = p.core ∧ b.bank = some p.bank ∧ b.sfp = some sfp then { b with sfp := none } else b
  { k with batches := k.batches.map forget, watched := k.watched.map fun w => (w.1, forget w.2) }

/-- Whether a quad has a move that waits for its group boundary (R389). -/
def Quad.boundaryWanted (q : Quad) : Bool := q.move.any fun m => !m.bounded

/-- A bank of a core may have come to a suspension point or be empty: a move that waits for the boundary looks, before the bank
takes other work (R389, R400). -/
def State.seekBoundary (s : State) (core : Nat) : State :=
  if (s.quad (quadOf core)).boundaryWanted then s.post (.migrationBoundary (quadOf core)) else s

/-- A strand written back: its frame (all of it for a forced save), its record in the run list, its bank freed. None when
the frame's save faults or no slot is free (R94, R95, R319, R341). `outcome` is what a pre-emption reports. -/
def State.save (s : State) (p : Place) (full runnable : Bool) (status : Status) (outcome : BitVec 2) : Option State :=
  let st := { s.forSave p with fullsave := full }
  let np := s.npend p.core st
  (s.saveFrame p full).bind fun s =>
    (s.parkRecord p.core (recordBits st np) ⟨0, st.sfp, runnable, status, s.now⟩).map fun s =>
      let s := s.modPart fun t => { t with kept := t.kept.set st.sfp.toNat (keptOf st) }
      let s := s.modBank p fun b =>
        { b with live := false, outcome := if b.mark.isSome then outcome else b.outcome, mark := none }
      let s := s.modCluster (clusterOf p.core) (·.forgetStrand p st.sfp)
      (((s.endDrain p.core st.sfp).switch p.core).seekBoundary p.core).post (.bankFill p.core)

/-- A write-back whose frame faults is a double fault of the strand (R95, R313). -/
def State.doubleFault (s : State) (p : Place) : State :=
  ((s.setStatus p .halted).push (.partitionTrap 2 p)).switch p.core

/-- A write-back, cooperative or forced. A save of the frame that faults halts the strand (R95). While no slot is free a
strand that is pre-empted or forced out stays stopped in its bank, and any other goes on as a YIELD does (R341). -/
def State.park (s : State) (p : Place) (full runnable : Bool) (status : Status) : State :=
  match s.save p full runnable status (if full then 2 else 1) with
  | some s => s
  | none =>
    if (s.saveFrame p full).isNone then s.doubleFault p
    else if full then (s.setStatus p (.stopped true)).after 64 (.preemptForcedSave p)
    else if (s.bank p).mark.isSome then
      (if (s.bank p).status = .running then s.setStatus p (.stopped false) else s).after 64 (.recordWriteback p)
    else if (s.bank p).status = .stopped false then s.setStatus p .running else s

/-- A subscription ended as UNSUB ends it: nothing more is fetched (R214, R217). -/
def Sub.stop (u : Sub) : Sub :=
  { u with active := false, slots := u.slots.map fun x => match x with
    | .filling _ => .free
    | x => x }

/-- The subscriptions of a strand ended, and the loaders of those merged with them looked at again (R214, R218). -/
def State.endSubs (s : State) (q : Nat) (sfp : Word) : State :=
  let mine := (s.quad q).subs.toList.filterMap fun o => o.bind fun u => if u.sfp = sfp then some u else none
  let s := s.modQuad q fun k =>
    { k with subs := k.subs.map fun o => o.map fun u => if u.sfp = sfp then u.stop else u }
  (mine.flatMap (·.merged)).foldl (fun s m => s.post (.loaderTileStart m.1 m.2)) s

/-- The subscriptions of a strand ended in every quad: a strand without holdings may have moved since its SUB (R107, R178, R214). -/
def State.endAllSubs (s : State) (sfp : Word) : State := (s.quads.map (·.1)).foldl (fun s q => s.endSubs q sfp) s

/-- A strand ended by EXIT or POPT, its queue drained (R178): its press slots freed, its bindings released, its
subscriptions ended, its leaf ended, its frame returned to the pool; the bank is free. False where returning the frame
faults. -/
def State.endStrand (s : State) (p : Place) : State × Bool :=
  let st := s.strand p
  let s := (s.modQuad (quadOf p.core) fun q => q.freeAll st.sfp).endAllSubs st.sfp
  let s := (s.endDrain p.core st.sfp).modStrand p fun st => { st with binds := [], leafEnded := true }
  let s := s.modCore p.core fun k => { k with bound := k.bound.filter fun e => e.2 != st.sfp }
  let s := if st.leafEnded then s else s.leafEnd p.core st.task
  let r := s.giveFrame p.core st.sfp
  if r.2 then
    (r.1.modBank p fun b =>
      { b with live := false, outcome := if b.mark.isSome then 3 else b.outcome, mark := none }, true)
  else (r.1.doubleFault p, false)

/-- A record loaded into a bank: the record, bits 1023:0 of the frame, and with FULLSAVE the rest of it; it issues 40 or
240 cycles later (R96, R349); data of the frame that is lost is the strand's (R403). None where the frame cannot be
read. -/
def State.loadRecord (s : State) (p : Place) (b : BitVec 512) : Option State :=
  let sfp := b.extractLsb' 64 64
  let k := (s.part.kept.find sfp.toNat).getD ⟨0, 0, 0, true, 0, 0, []⟩
  let before := s.bad.length
  let s := s.meetAt (.hardware p.core) sfp 1024 512
  match s.peek p.core sfp 1024 512 with
  | none => none
  | some f =>
    let st := withFrame (ofRecord b k) f
    let r :=
      if st.fullsave then
        ((List.range 22).foldl (fun (o : Option (Nat × State)) i => o.bind fun n =>
          let a := sfp + BitVec.ofNat 64 (512 * i)
          let s := n.2.meetAt (.hardware p.core) a 512 512
          (s.peek p.core a 512 512).map fun v => (n.1 + v * 2 ^ (512 * i), s))
          (some (0, s))).map fun n => (withFullFrame st n.1, n.2)
      else some (st, s)
    r.map fun r =>
      let s := r.2.modPart fun t => { t with kept := t.kept.erase sfp.toNat }
      (s.modBank p fun x =>
        { x with live := true, strand := { r.1 with dloss := r.1.dloss || s.bad.length != before }, status := .reply .other 0 0, mark := none }).after
          (if st.fullsave then 240 else 40) (.recordLoadDone p)

end Sys2Proof.Machine
end

