-- ==== Sys2Proof/Machine/Operands.lean ====
section
/-! DEFINITION. Operand forms of the scalar stream: widths, immediates, effective addresses (R142–R145), the integer
results that are more than one operation (R140, R141), and the issue and completion of an access (R99, R146, R147,
R160). -/

namespace Sys2Proof.Machine

/-- Bits of a width (R144). -/
def bitsOf : Width → Nat
  | .b1 => 1 | .b3 => 3 | .b4 => 4 | .b6 => 6 | .b8 => 8 | .b16 => 16 | .b32 => 32 | .b64 => 64

/-- The sign-extended value of a 12-bit immediate. -/
def simm (i : BitVec 12) : Word := i.signExtend 64

/-- The U immediate in bits 31:12, sign-extended (R138). -/
def uimm20 (i : BitVec 20) : Word := (i ++ (0 : BitVec 12)).signExtend 64

/-- A 32-bit result sign-extended (R140). -/
def sext32 (v : BitVec 32) : Word := v.signExtend 64

/-- Bits 31:0. -/
def low32 (v : Word) : BitVec 32 := v.extractLsb' 0 32

/-- 1 or 0 (R140). -/
def flag (b : Bool) : Word := if b then 1 else 0

/-- High half of a product of integers (R140). -/
def mulHigh (a b : Int) : Word := BitVec.ofInt 64 (a * b / 2 ^ 64)

/-- Signed quotient (R141): toward zero, all ones for divisor 0, the dividend for −2^(n−1) ÷ −1. -/
def divSigned {n : Nat} (a b : BitVec n) : BitVec n := if b = 0 then BitVec.allOnes n else a.sdiv b

/-- Unsigned quotient, all ones for divisor 0 (R141). -/
def divUnsigned {n : Nat} (a b : BitVec n) : BitVec n := if b = 0 then BitVec.allOnes n else a / b

/-- Signed remainder: the dividend for divisor 0, 0 for −2^(n−1) ÷ −1 (R141). -/
def remSigned {n : Nat} (a b : BitVec n) : BitVec n := if b = 0 then a else a.srem b

/-- Unsigned remainder: the dividend for divisor 0 (R141). -/
def remUnsigned {n : Nat} (a b : BitVec n) : BitVec n := if b = 0 then a else a % b

/-- A taken branch's target: PC + sext(imm) × 16, imm holding bits 12:1 (R142). -/
def branchTarget (pc : Word) (imm : BitVec 12) : Word := pc + imm.signExtend 64 * 32

/-- JAL's target (R142). -/
def jalTarget (pc : Word) (imm : BitVec 20) : Word := pc + imm.signExtend 64 * 32

/-- The address of LD, LDS and ST: x[rs1] + sext(imm12) × w (R145). -/
def State.dispAddr (s : State) (w : Width) (rs1 : Reg) (imm : BitVec 12) : Word :=
  s.reg rs1 + simm imm * BitVec.ofNat 64 (bitsOf w)

/-- The address of the indexed forms: x[rs1] + x[rs2] × w (R145). -/
def State.indexAddr (s : State) (w : Width) (rs1 rs2 : Reg) : Word :=
  s.reg rs1 + s.reg rs2 * BitVec.ofNat 64 (bitsOf w)

/-! ## Page faults of a strand (R332, R334) -/

/-- A strand's access meets an absent page: with no fault queue the fault is raised at once; otherwise the strand waits
at its instruction while the run-ahead gathers a batch (R332, R334). `tval` is the TVAL of the fault (R310). -/
def State.pageFaultAs (s : State) (p : Place) (acc : Access) (va tval : Word) : State :=
  if (s.cluster (clusterOf p.core)).fqbase >>> 9 = 0 then
    s.trapAt p ⟨if acc = .fetch then .fetch else .translation, tval⟩
  else
    (((s.setStatus p (.page va acc none)).push (.runAhead p)).after 1024 (.pageWaitWriteback p)).switch p.core

/-- An absent page whose fault names the address as issued. -/
def State.pageFault (s : State) (p : Place) (acc : Access) (va : Word) : State := s.pageFaultAs p acc va va

/-- A fault that an address gave, or the wait on an absent page. -/
def State.badAccess (s : State) (acc : Access) (f : Found) : State :=
  match f with
  | .flt f => s.trapAt s.here f
  | .absent va => s.pageFault s.here acc va
  | .ok _ _ => s

/-- The same for an address read from memory, whose fault names an operand instead (R310). -/
def State.badAccessAs (s : State) (acc : Access) (f : Found) (tval : Word) : State :=
  match f with
  | .flt f => s.trapAt s.here ⟨f.cause, tval⟩
  | .absent va => s.pageFaultAs s.here acc va tval
  | .ok _ _ => s

/-! ## Issuing and completing accesses -/

/-- The kind of access a request makes, for translation (R330). -/
def accessOf : MemOp → Access
  | .load _ => .load
  | .store => .store
  | .festat => .load
  | .await _ => .load
  | _ => .atomic

/-- Whether a request needs an address that resolves to layer 0 (R163). -/
def needsLayer0 : MemOp → Bool
  | .take | .takeNb | .put | .festat | .await _ => true
  | _ => false

/-- Whether a request is a suspension point (R97). -/
def suspends : MemOp → Bool
  | .take | .await _ => true
  | _ => false

/-- QERR recorded for a strand, the first fault kept (R198). -/
def Strand.fault (st : Strand) (q : Word) : Strand := if st.qerr = 0 then { st with qerr := q } else st

/-- The strand after the answer to its request: registers cleared at a suspension point, the result written, the PC
advanced (R97, R146, R160–R167). A load that a peer refuses writes 0 (R149, R372). -/
def Strand.takeAnswer (st : Strand) (m : Msg) (ans : Answer) : Strand :=
  let st := if suspends m.op then st.pass else st
  let next := { st with pc := st.pc + 32 }
  match ans with
  | .value v ok =>
    match m.op with
    | .store | .put => next
    | .takeNb => (next.setReg m.rd v).setReg m.rt (flag ok)
    | _ => next.setReg m.rd v
  | .putOnFull => st
  | .peerFault => if m.op = .store then next else next.setReg m.rd 0

/-- A resident strand completes its access; a put-on-full is its fault (R165); at a suspension point a pending
pre-emption writes it back (R319). -/
def State.finish (s : State) (m : Msg) (ans : Answer) : State :=
  match ans with
  | .putOnFull => (s.setStatus m.src .running).trapAt m.src ⟨.putOnFull, m.addr⟩
  | ans =>
    let s := s.modBank m.src fun b => { b with status := .running, strand := b.strand.takeAnswer m ans }
    let s := if suspends m.op then s.closeDrain m.src.core (m.sfp, true) else s
    if suspends m.op && (s.bank m.src).mark.isSome && !(s.strand m.src).trap then
      s.post (.recordWriteback m.src)
    else s

/-- The source of an atomic acknowledges its reply (R289). -/
def State.acknowledge (s : State) (m : Msg) : State :=
  if hasTag m.op then s.post (.replayFilterAck (filterPlace m) m.src m.tag) else s

/-- Fabric cycles before a request without a reply is sent again: longer for a peer (R289, R372). -/
def resendAfter (m : Msg) : Nat := if m.parts.any fun p => peerBase 0 ≤ p.key then 65536 else 4096

/-- Whether a write-back timer of a place runs. -/
def State.armed (s : State) (p : Place) : Bool := s.timers.any fun e => decide (e.2 = .waitWritebackTimeout p)

/-- A strand waits at a suspension point: it may be written back when a record has waited 1,024 cycles for a bank (R98),
and is written back at once where it is marked (R319). -/
def State.beginWait (s : State) (p : Place) : State :=
  let s := (if s.armed p then s else s.after 1024 (.waitWritebackTimeout p)).seekBoundary p.core
  if (s.bank p).mark.isSome && !(s.strand p).trap then s.post (.recordWriteback p) else s

/-- What an off-core access of a core leaves: MSGLAT of its strand, and a use of the fabric (R190, R323). -/
def State.measure (s : State) (p : Place) (home : Home) : State :=
  let r := s.latency p.core home
  (r.2.modStrand p fun st => { st with msglat := r.1 }).noteTraffic p.core home

/-- The resend timer of a request that waits for its reply (R289). -/
def State.armResend (s : State) (m : Msg) : State :=
  if hasTag m.op then s.after (resendAfter m) (.atomicResend m) else s

/-- Parts of a strand's own access read, off-core as such; a peer that refuses answers 0 and its fault (R59, R149, R190,
R372). -/
def State.readOwn (s : State) (a : Word) (ps : List Part) (home : Home) : Nat × State :=
  let p := s.here
  let s := if home.own s.cur then s else s.measure p home
  if s.peerRefuses a ps then (0, s.post (.peerFaultReturn p (s.strand p).sfp))
  else s.loadParts (.strand p.core (s.strand p).sfp) ps

/-- Whether a form waits for its reply, so that it blocks even where its home is in the own quad: all but loads and stores (R99,
R160). -/
def blocks : MemOp → Bool
  | .load _ | .store => false
  | _ => true

/-- A request issued to its home (R99): a home in the core's own quad performs it at once, and the core passes to its next ready
bank where the form blocks; any other receives a message, the core switches banks, and a store lets the strand go on. -/
def State.send (s : State) (m : Msg) (home : Home) (kind : WaitKind) : State :=
  let waits (s : State) : State :=
    let s := (s.setStatus m.src (.reply kind m.addr m.tag)).armResend m
    (if suspends m.op then s.beginWait m.src else s).switch s.cur
  if home.own s.cur then
    match s.perform m 0 with
    | (s, some ans) =>
      let t := (s.acknowledge m).finish m ans
      if blocks m.op then t.switch s.cur else t
    | (s, none) => waits s
  else
    let s := (s.measure m.src home).post (.memRequest m)
    if m.op = .store then s.advance.switch s.cur else waits s

/-- A request of the executing strand to checked parts at a home. -/
def State.request (s : State) (op : MemOp) (parts : List Part) (home : Home) (a data expect : Word) (rd rt : Reg)
    (kind : WaitKind) : State :=
  let p := s.here
  let s := s.bumpSeq
  s.send ⟨p, (s.strand p).sfp, s.seq, op, parts, a, data, expect, rd, rt, home == .host && s.hostCached s.cur a⟩ home kind

/-- Whether a device atomic to host memory is one that the link carries as a PCIe AtomicOp (R371). -/
def linkAtomic (op : MemOp) (w : Width) : Bool :=
  (w == .b32 || w == .b64) && (match op with
    | .amoAdd | .amoSwap | .cas => true
    | _ => false)

/-- Whether an access is an atomic to host memory that cannot be performed (R371). -/
def State.hostDenied (s : State) (op : MemOp) (w : Width) (a : Word) (home : Home) : Bool :=
  home == .host && accessOf op == .atomic && !linkAtomic op w && !s.hostCached s.cur a

/-- A scalar access: the checks of R145, the checks of R163 and R371, then the request. -/
def State.access (s : State) (op : MemOp) (w : Width) (a data expect : Word) (rd rt : Reg)
    (kind : WaitKind) : State :=
  let n := bitsOf w
  match s.locate s.cur s.user false (accessOf op) a n n with
  | .ok ps home =>
    if s.hostDenied op w a home then s.trap .translation a
    else if needsLayer0 op && !inLayer0 a home then s.trap .fullEmpty a
    else (s.noteAccess s.cur (accessOf op) s.user a).request op ps home a data expect rd rt kind
  | f => s.badAccess (accessOf op) f

/-- Whether the executing strand must wait, before it passes a suspension point, for its commands that write vector
registers (R97). -/
def State.mustDrainVectors (s : State) : Bool := s.vectorBusy s.cur (s.strand s.here).sfp

/-- Whether the executing strand's queue has not drained (R98, R178). -/
def State.mustDrain (s : State) : Bool := s.busy s.cur (s.strand s.here).sfp

end Sys2Proof.Machine
end

