-- ==== Sys2Proof/Machine/Integer.lean ====
section
/-! DEFINITION. The integer subset and control transfer (R140–R143). -/

namespace Sys2Proof.Machine

/-- A branch: PC + sext(imm) × 16 when taken, else PC + 32; a misaligned target is a fault at the branch (R142). -/
def State.branch (s : State) (taken : Bool) (imm : BitVec 12) : State :=
  if taken then
    let t := branchTarget s.pc imm
    if t.extractLsb' 0 5 = 0 then s.setPc t else s.trap .misaligned t
  else s.advance

/-- A jump that links: a target whose bits 4:0 are not zero is a misaligned-target fault, and nothing is written
(R142, R143). -/
def State.jump (s : State) (rd : Reg) (t : Word) : State :=
  if t.extractLsb' 0 5 = 0 then (s.setReg rd (s.pc + 32)).setPc t else s.trap .misaligned t

/-- ADDI (R140). -/
def execAddi (rd rs1 : Reg) (imm : BitVec 12) (s : State) : Outcome :=
  .next (s.complete rd (s.reg rs1 + simm imm))

/-- SLTI (R140). -/
def execSlti (rd rs1 : Reg) (imm : BitVec 12) (s : State) : Outcome :=
  .next (s.complete rd (flag ((s.reg rs1).slt (simm imm))))

/-- SLTIU: the sign-extended immediate compared unsigned (R140). -/
def execSltiu (rd rs1 : Reg) (imm : BitVec 12) (s : State) : Outcome :=
  .next (s.complete rd (flag ((s.reg rs1).ult (simm imm))))

/-- XORI (R140). -/
def execXori (rd rs1 : Reg) (imm : BitVec 12) (s : State) : Outcome :=
  .next (s.complete rd (s.reg rs1 ^^^ simm imm))

/-- ORI (R140). -/
def execOri (rd rs1 : Reg) (imm : BitVec 12) (s : State) : Outcome :=
  .next (s.complete rd (s.reg rs1 ||| simm imm))

/-- ANDI (R140). -/
def execAndi (rd rs1 : Reg) (imm : BitVec 12) (s : State) : Outcome :=
  .next (s.complete rd (s.reg rs1 &&& simm imm))

/-- SLLI (R140). -/
def execSlli (rd rs1 : Reg) (sh : BitVec 6) (s : State) : Outcome :=
  .next (s.complete rd (s.reg rs1 <<< sh.toNat))

/-- SRLI (R140). -/
def execSrli (rd rs1 : Reg) (sh : BitVec 6) (s : State) : Outcome :=
  .next (s.complete rd (s.reg rs1 >>> sh.toNat))

/-- SRAI (R140). -/
def execSrai (rd rs1 : Reg) (sh : BitVec 6) (s : State) : Outcome :=
  .next (s.complete rd ((s.reg rs1).sshiftRight sh.toNat))

/-- ADD (R140). -/
def execAdd (rd rs1 rs2 : Reg) (s : State) : Outcome :=
  .next (s.complete rd (s.reg rs1 + s.reg rs2))

/-- SUB (R140). -/
def execSub (rd rs1 rs2 : Reg) (s : State) : Outcome :=
  .next (s.complete rd (s.reg rs1 - s.reg rs2))

/-- MUL: the low 64 bits (R140). -/
def execMul (rd rs1 rs2 : Reg) (s : State) : Outcome :=
  .next (s.complete rd (s.reg rs1 * s.reg rs2))

/-- SLL by bits 5:0 of rs2 (R140). -/
def execSll (rd rs1 rs2 : Reg) (s : State) : Outcome :=
  .next (s.complete rd (s.reg rs1 <<< ((s.reg rs2).toNat % 64)))

/-- MULH: the high 64 bits, signed by signed (R140). -/
def execMulh (rd rs1 rs2 : Reg) (s : State) : Outcome :=
  .next (s.complete rd (mulHigh (s.reg rs1).toInt (s.reg rs2).toInt))

/-- SLT (R140). -/
def execSlt (rd rs1 rs2 : Reg) (s : State) : Outcome :=
  .next (s.complete rd (flag ((s.reg rs1).slt (s.reg rs2))))

/-- MULHSU: the high 64 bits, signed by unsigned (R140). -/
def execMulhsu (rd rs1 rs2 : Reg) (s : State) : Outcome :=
  .next (s.complete rd (mulHigh (s.reg rs1).toInt (s.reg rs2).toNat))

/-- SLTU (R140). -/
def execSltu (rd rs1 rs2 : Reg) (s : State) : Outcome :=
  .next (s.complete rd (flag ((s.reg rs1).ult (s.reg rs2))))

/-- MULHU: the high 64 bits, unsigned (R140). -/
def execMulhu (rd rs1 rs2 : Reg) (s : State) : Outcome :=
  .next (s.complete rd (mulHigh (s.reg rs1).toNat (s.reg rs2).toNat))

/-- XOR (R140). -/
def execXor (rd rs1 rs2 : Reg) (s : State) : Outcome :=
  .next (s.complete rd (s.reg rs1 ^^^ s.reg rs2))

/-- DIV (R141). -/
def execDiv (rd rs1 rs2 : Reg) (s : State) : Outcome :=
  .next (s.complete rd (divSigned (s.reg rs1) (s.reg rs2)))

/-- SRL by bits 5:0 of rs2 (R140). -/
def execSrl (rd rs1 rs2 : Reg) (s : State) : Outcome :=
  .next (s.complete rd (s.reg rs1 >>> ((s.reg rs2).toNat % 64)))

/-- SRA by bits 5:0 of rs2 (R140). -/
def execSra (rd rs1 rs2 : Reg) (s : State) : Outcome :=
  .next (s.complete rd ((s.reg rs1).sshiftRight ((s.reg rs2).toNat % 64)))

/-- DIVU (R141). -/
def execDivu (rd rs1 rs2 : Reg) (s : State) : Outcome :=
  .next (s.complete rd (divUnsigned (s.reg rs1) (s.reg rs2)))

/-- OR (R140). -/
def execOr (rd rs1 rs2 : Reg) (s : State) : Outcome :=
  .next (s.complete rd (s.reg rs1 ||| s.reg rs2))

/-- REM (R141). -/
def execRem (rd rs1 rs2 : Reg) (s : State) : Outcome :=
  .next (s.complete rd (remSigned (s.reg rs1) (s.reg rs2)))

/-- AND (R140). -/
def execAnd (rd rs1 rs2 : Reg) (s : State) : Outcome :=
  .next (s.complete rd (s.reg rs1 &&& s.reg rs2))

/-- REMU (R141). -/
def execRemu (rd rs1 rs2 : Reg) (s : State) : Outcome :=
  .next (s.complete rd (remUnsigned (s.reg rs1) (s.reg rs2)))

/-- ADDW (R140). -/
def execAddw (rd rs1 rs2 : Reg) (s : State) : Outcome :=
  .next (s.complete rd (sext32 (low32 (s.reg rs1) + low32 (s.reg rs2))))

/-- SUBW (R140). -/
def execSubw (rd rs1 rs2 : Reg) (s : State) : Outcome :=
  .next (s.complete rd (sext32 (low32 (s.reg rs1) - low32 (s.reg rs2))))

/-- MULW (R140). -/
def execMulw (rd rs1 rs2 : Reg) (s : State) : Outcome :=
  .next (s.complete rd (sext32 (low32 (s.reg rs1) * low32 (s.reg rs2))))

/-- SLLW by bits 4:0 of rs2 (R140). -/
def execSllw (rd rs1 rs2 : Reg) (s : State) : Outcome :=
  .next (s.complete rd (sext32 (low32 (s.reg rs1) <<< ((s.reg rs2).toNat % 32))))

/-- DIVW (R141). -/
def execDivw (rd rs1 rs2 : Reg) (s : State) : Outcome :=
  .next (s.complete rd (sext32 (divSigned (low32 (s.reg rs1)) (low32 (s.reg rs2)))))

/-- SRLW by bits 4:0 of rs2 (R140). -/
def execSrlw (rd rs1 rs2 : Reg) (s : State) : Outcome :=
  .next (s.complete rd (sext32 (low32 (s.reg rs1) >>> ((s.reg rs2).toNat % 32))))

/-- SRAW by bits 4:0 of rs2 (R140). -/
def execSraw (rd rs1 rs2 : Reg) (s : State) : Outcome :=
  .next (s.complete rd (sext32 ((low32 (s.reg rs1)).sshiftRight ((s.reg rs2).toNat % 32))))

/-- DIVUW (R141). -/
def execDivuw (rd rs1 rs2 : Reg) (s : State) : Outcome :=
  .next (s.complete rd (sext32 (divUnsigned (low32 (s.reg rs1)) (low32 (s.reg rs2)))))

/-- REMW (R141). -/
def execRemw (rd rs1 rs2 : Reg) (s : State) : Outcome :=
  .next (s.complete rd (sext32 (remSigned (low32 (s.reg rs1)) (low32 (s.reg rs2)))))

/-- REMUW (R141). -/
def execRemuw (rd rs1 rs2 : Reg) (s : State) : Outcome :=
  .next (s.complete rd (sext32 (remUnsigned (low32 (s.reg rs1)) (low32 (s.reg rs2)))))

/-- ADDIW (R140). -/
def execAddiw (rd rs1 : Reg) (imm : BitVec 12) (s : State) : Outcome :=
  .next (s.complete rd (sext32 (low32 (s.reg rs1 + simm imm))))

/-- SLLIW (R140). -/
def execSlliw (rd rs1 : Reg) (sh : BitVec 5) (s : State) : Outcome :=
  .next (s.complete rd (sext32 (low32 (s.reg rs1) <<< sh.toNat)))

/-- SRLIW (R140). -/
def execSrliw (rd rs1 : Reg) (sh : BitVec 5) (s : State) : Outcome :=
  .next (s.complete rd (sext32 (low32 (s.reg rs1) >>> sh.toNat)))

/-- SRAIW (R140). -/
def execSraiw (rd rs1 : Reg) (sh : BitVec 5) (s : State) : Outcome :=
  .next (s.complete rd (sext32 ((low32 (s.reg rs1)).sshiftRight sh.toNat)))

/-- LUI (R140). -/
def execLui (rd : Reg) (imm : BitVec 20) (s : State) : Outcome :=
  .next (s.complete rd (uimm20 imm))

/-- AUIPC: PC plus the U immediate, in bits (R143). -/
def execAuipc (rd : Reg) (imm : BitVec 20) (s : State) : Outcome :=
  .next (s.complete rd (s.pc + uimm20 imm))

/-- BEQ (R140, R142). -/
def execBeq (rs1 rs2 : Reg) (imm : BitVec 12) (s : State) : Outcome :=
  .next (s.branch (s.reg rs1 == s.reg rs2) imm)

/-- BNE (R140, R142). -/
def execBne (rs1 rs2 : Reg) (imm : BitVec 12) (s : State) : Outcome :=
  .next (s.branch (s.reg rs1 != s.reg rs2) imm)

/-- BLT (R140, R142). -/
def execBlt (rs1 rs2 : Reg) (imm : BitVec 12) (s : State) : Outcome :=
  .next (s.branch ((s.reg rs1).slt (s.reg rs2)) imm)

/-- BGE (R140, R142). -/
def execBge (rs1 rs2 : Reg) (imm : BitVec 12) (s : State) : Outcome :=
  .next (s.branch (!(s.reg rs1).slt (s.reg rs2)) imm)

/-- BLTU (R140, R142). -/
def execBltu (rs1 rs2 : Reg) (imm : BitVec 12) (s : State) : Outcome :=
  .next (s.branch ((s.reg rs1).ult (s.reg rs2)) imm)

/-- BGEU (R140, R142). -/
def execBgeu (rs1 rs2 : Reg) (imm : BitVec 12) (s : State) : Outcome :=
  .next (s.branch (!(s.reg rs1).ult (s.reg rs2)) imm)

/-- JAL: PC + 32 into rd, PC + sext(imm) × 16 (R142). -/
def execJal (rd : Reg) (imm : BitVec 20) (s : State) : Outcome :=
  .next (s.jump rd (jalTarget s.pc imm))

/-- JALR: no bit of the target is cleared, rs1 is read first (R143). -/
def execJalr (rd rs1 : Reg) (imm : BitVec 12) (s : State) : Outcome :=
  .next (s.jump rd (s.reg rs1 + simm imm))

end Sys2Proof.Machine
end

