-- ==== Sys2Proof/Machine/Power.lean ====
section
/-! DEFINITION. Power and temperature of a quad: operating points (R376, R377), budgets (R379, R380), starts (R381,
R382), droop (R383), rates and width (R384, R385), notices (R386), sensors (R387, R388) and wakes from gating (R392). A
physical quad is numbered 32·cluster + its number in the cluster; a spare's power state stands in the quad table under
2^20 plus that number. -/

namespace Sys2Proof.Machine

/-! ## Physical quads (R16, R363) -/

/-- The physical cluster of a cluster of the partition. -/
def Partition.physCluster (p : Partition) (cl : Nat) : Nat :=
  128 * (p.originY / 8 + cl / 128) + p.originX / 8 + cl % 128

/-- The cluster of the partition on a physical cluster, where one is. -/
def Partition.clusterAt (p : Partition) (pc : Nat) : Option Nat :=
  let x := pc % 128
  let y := pc / 128
  if p.originX / 8 ≤ x ∧ x < (p.originX + p.width) / 8 ∧ p.originY / 8 ≤ y ∧ y < (p.originY + p.height) / 8 then
    some (128 * (y - p.originY / 8) + (x - p.originX / 8))
  else none

/-- The key of a spare physical quad in the quad table. -/
def spareKey (phys : Nat) : Nat := 2 ^ 20 + phys

/-- The physical quad behind a key of the quad table. -/
def State.physId (s : State) (q : Nat) : Nat :=
  if 2 ^ 20 ≤ q then q - 2 ^ 20 else 32 * s.part.physCluster (clusterOfQuad q) + (s.l2pOf q).pq.toNat

/-- The logical quad that a physical quad of a cluster serves. -/
def State.servedBy (s : State) (cl pq : Nat) : Option Nat :=
  ((List.range 16).map (quadOfCluster cl)).find? fun q => (s.l2pOf q).pq.toNat == pq

/-- The key of a physical quad: the logical quad it serves, or its own. -/
def State.quadKey (s : State) (phys : Nat) : Nat :=
  ((s.part.clusterAt (phys / 32)).bind fun cl => s.servedBy cl (phys % 32)).getD (spareKey phys)

/-- The die of a physical quad (R14). -/
def physDie (phys : Nat) : Nat := dieAt (phys / 32 % 128 / 8) (phys / 32 / 128 / 10)

/-- The die of a quad. -/
def State.quadDie (s : State) (q : Nat) : Nat :=
  if 2 ^ 20 ≤ q then physDie (q - 2 ^ 20) else s.part.dieOf (coreOfQuad q 0)

/-- Whether a physical quad failed harvest (R16). -/
def State.failedHarvest (s : State) (phys : Nat) : Bool := (s.harvest.get [] (phys / 32)).contains (phys % 32)

/-- The physical quads adjacent in the cluster grid, as keys (R354, R387). -/
def State.adjacent (s : State) (q : Nat) : List Nat :=
  let ph := s.physId q
  let a := physQuadAt (ph % 32)
  ((List.range 20).filter fun n =>
    let b := physQuadAt n
    dist a.1 b.1 + dist a.2 b.2 == 1).map fun n => s.quadKey (ph / 32 * 32 + n)

/-- The power region of a quad of the partition. -/
def State.quadRegion (s : State) (q : Nat) : Nat := s.part.regionOf (coreOfQuad q 0)

/-- The partition's quads in a power region. -/
def State.regionQuads (s : State) (r : Nat) : List Nat := s.part.quadList.filter fun q => s.quadRegion q == r

/-! ## Operating points (R376, R377) -/

/-- The temperature band of TEMP (R376). -/
def band (t : Int) : Nat := min 7 ((t - 2500) / 1000).toNat

/-- Whether TEMP is 105 °C or more (R376). -/
def hot (t : Int) : Bool := 10500 ≤ t

/-- The voltage that a quad's present table holds for a point in its band, 550–850 mV (R376, R393). -/
def State.tableVoltage (s : State) (q k : Nat) : Nat :=
  550 + Config.voltage (s.physId q) (s.quad q).plan k (band (s.quad q).temp) % 301

/-- The voltage of a point of a quad, in millivolts (R376). -/
def State.pointVoltage (s : State) (q k : Nat) : BitVec 12 :=
  let v := s.tableVoltage q k
  BitVec.ofNat 12 (if hot (s.quad q).temp then min 850 (v + 25) else v)

/-- Whether a point is present: in the quad's table, and supported under the cap (R376). -/
def State.pointPresent (s : State) (q k : Nat) : Bool :=
  let f := s.quad q
  f.present.getLsbD k && (!hot f.temp || s.tableVoltage q k + 25 ≤ 850)

/-- Whether any point is present for a quad; one with none never runs (R376, log entry 12). -/
def State.anyPoint (s : State) (q : Nat) : Bool := (List.range 8).any (s.pointPresent q)

/-- The highest point that the quad's cores request (R377). -/
def State.requested (s : State) (q : Nat) : Nat :=
  (List.range 4).foldl (fun m i => max m (s.core (coreOfQuad q i)).opreq.toNat) 0

/-- The highest present point up to a point, or the lowest present one above it where there is none: the quad never runs at an
absent point (R376, R377, log entry 12). -/
def State.presentPoint (s : State) (q p : Nat) : Nat :=
  let l := (List.range 8).filter (s.pointPresent q)
  ((l.filter (· ≤ p)).getLast?.or l.head?).getD 0

/-- The point that the requests, the cap, the pin and the hard throttle give (R377, R388, R390). -/
def State.targetPoint (s : State) (q : Nat) : Nat :=
  let f := s.quad q
  s.presentPoint q (if f.pin || f.hard then 0 else min (s.requested q) f.opcap.toNat)

/-- Estimated power of a quad at a point in its present band, in milliwatts (R379). -/
def State.estimate (s : State) (q k : Nat) : Nat := Config.estPower (s.physId q) k (band (s.quad q).temp)

/-- RATE (R384). -/
def Quad.effectiveRate (f : Quad) : BitVec 7 :=
  let r := f.budgetRate.toNat
  let r := if f.droop then min r 32 else r
  let r := if f.hard then min r 8 else r
  BitVec.ofNat 7 (max 1 r)

/-- The quad moves to the point it should run at: down, the frequency falls first and then the voltage; up, the voltage
rises and the clock follows (R377, log entry 5). -/
def State.movePoint (s : State) (q : Nat) : State :=
  let k := s.targetPoint q
  let f := s.quad q
  if k < f.opp.toNat then
    s.modQuad q fun f => { f with opp := BitVec.ofNat 3 k, vmv := s.pointVoltage q k }
  else if f.opp.toNat < k then
    (s.modQuad q fun f => { f with vmv := s.pointVoltage q k }).after 240 (.oppVoltageSettled q)
  else s.modQuad q fun f => { f with vmv := s.pointVoltage q k }

/-- OPP_VOLTAGE_SETTLED: the voltage stands, and the clock switches to the point (R377). -/
def execOppVoltageSettled (quad : Nat) (s : State) : Outcome :=
  .next (s.modQuad quad fun f =>
    { f with opp := BitVec.ofNat 3 (s.targetPoint quad), vmv := s.pointVoltage quad (s.targetPoint quad) })

/-! ## Notices (R386) -/

/-- Bits 5:0 of a notice. -/
def State.noticeFlags (s : State) (q : Nat) (mig : Bool) : BitVec 6 :=
  let f := s.quad q
  bit1 mig ++ bit1 f.fsafe ++ bit1 f.pin ++ bit1 f.hard ++ bit1 f.droop ++ bit1 (decide (f.opcap.toNat < s.requested q))

/-- A notice: the old word merged when it is full (R386). -/
def noticeWord (f : Quad) (flags : BitVec 6) (old : Option Word) : Word :=
  let count : BitVec 16 := match old with
    | some w => if w.extractLsb' 48 16 = BitVec.allOnes 16 then BitVec.allOnes 16 else w.extractLsb' 48 16 + 1
    | none => 1
  let kept : Word := old.getD 0
  count ++ tempField f.temp ++ f.rate ++ f.opp ++ kept.extractLsb' 6 24 ++ (kept.extractLsb' 0 6 ||| flags)

/-- The word that a full notice word holds, as its quad's hardware reads it; none of an empty one (R386, R403). -/
def State.oldNotice (s : State) (core key : Nat) : Option Word × State :=
  if s.isFull key then
    let r := s.homeLoad (.hardware core) key 64
    (some (BitVec.ofNat 64 r.1), r.2)
  else (none, s)

/-- A notice written to a strand's notice word, or merged into it (R386). -/
def State.notice (s : State) (core q : Nat) (flags : BitVec 6) (a : Word) : State :=
  if a = 0 then s
  else
    match s.locate core false false .store a 64 64 with
    | .ok [⟨key, _⟩] (.scratch _) =>
      let r := s.oldNotice core key
      (r.2.fill key).homeStore (.hardware core) key 64 (noticeWord (s.quad q) flags r.1).toNat
    | _ => s

/-- The resident strands of a quad noticed (R386). -/
def State.noticeAll (s : State) (q : Nat) (mig : Bool) : State :=
  let flags := s.noticeFlags q mig
  (List.range 4).foldl (fun s i =>
    let c := coreOfQuad q i
    (List.finRange 4).foldl (fun s b =>
      let k := s.bank ⟨c, b⟩
      if k.live then s.notice c q flags k.strand.notice else s) s) s

/-- Whether a change of a quad's power state is a throttle event (R386). -/
def throttleEvent (a b : Quad) (req : Nat) : Bool :=
  (req ≤ a.opcap.toNat && b.opcap.toNat < req) || a.rate != b.rate || a.droop != b.droop || a.hard != b.hard ||
    a.pin != b.pin || a.fsafe != b.fsafe

/-- A change of a quad's power state with what follows from it: RATE, the width of the vector unit, the point, and the
notices of a throttle event (R377, R384, R385, R386). `mig` is set when a migration has completed. -/
def State.power (s : State) (q : Nat) (mig : Bool) (f : Quad → Quad) : State :=
  let a := s.quad q
  let s := s.modQuad q fun k =>
    let k := f k
    { k with rate := k.effectiveRate, halfw := k.droop || k.hard }
  let s := s.movePoint q
  if mig || throttleEvent a (s.quad q) (s.requested q) then s.noticeAll q mig else s

/-- OPREQ_WRITE: the requested point, and the quad's point with it (R377). -/
def execOpreqWrite (core : Nat) (v : Word) (s : State) : Outcome :=
  .next ((s.modCore core fun k => { k with opreq := v.extractLsb' 0 3 }).movePoint (quadOf core))

/-! ## Budgets (R379, R380) -/

/-- Whether a quad's banks are all empty (R379, R392). -/
def State.quadEmpty (s : State) (q : Nat) : Bool :=
  (List.range 4).all fun i => (s.core (coreOfQuad q i)).banks.toList.all fun b => !b.live

/-- The share of a quad when a budget is divided among demands: equal shares, what a quad cannot use passed to the others
(R379). `fuel` is the number of demands. -/
def shareLevel : (fuel budget : Nat) → List Nat → Nat
  | 0, budget, ds => budget / max 1 ds.length
  | n + 1, budget, ds =>
    let share := budget / max 1 ds.length
    let less := ds.filter fun d => d ≤ share
    if less.isEmpty ∨ less.length = ds.length then share
    else shareLevel n (budget - less.sum) (ds.filter fun d => share < d)

/-- The highest point up to 7 whose estimated power fits a share, none when point 0 alone exceeds it (R379). -/
def State.capFor (s : State) (q share : Nat) : Option Nat :=
  ((List.range 8).filter fun k => s.estimate q k ≤ share).getLast?

/-- A quad's cap and budget rate under a share; the rate below 64 is a free value (R379, R384, log entry 8). -/
def State.capQuad (s : State) (fsafe : Bool) (q share : Nat) : State :=
  match s.capFor q share with
  | some k => s.power q false fun f => { f with opcap := BitVec.ofNat 3 k, budgetRate := 64, fsafe := fsafe }
  | none =>
    let r := s.freeWord
    r.2.power q false fun f =>
      { f with opcap := 0, budgetRate := BitVec.ofNat 7 (1 + r.1.toNat % 63), fsafe := fsafe }

/-- The active quads of a region: not gated, their banks not all empty (R379). -/
def State.activeQuads (s : State) (r : Nat) : List Nat :=
  (s.regionQuads r).filter fun q => (s.quad q).gate != .gated && !s.quadEmpty q

/-- A region's budget divided among the quads that count as active; the others keep their caps and learn whether the budget is
a fail-safe one (R379, R380). -/
def State.divideAmong (s : State) (active : List Nat) (r budget : Nat) (fsafe : Bool) : State :=
  let demand (q : Nat) : Nat := s.estimate q (s.presentPoint q (s.requested q))
  let level := shareLevel active.length budget (active.map demand)
  (s.regionQuads r).foldl (fun s q =>
    if active.contains q then s.capQuad fsafe q (if demand q ≤ level then demand q else level)
    else s.power q false fun f => { f with fsafe := fsafe }) s

/-- A region's budget divided among its active quads (R379, R380). -/
def State.divide (s : State) (r budget : Nat) (fsafe : Bool) : State :=
  s.divideAmong (s.activeQuads r) r budget fsafe

/-- The grants of the 16 regions, in watts, after a list of new ones for the first of them (R25, R379). -/
def State.grantsAfter (s : State) (watts : List Nat) : List Nat :=
  (List.range 16).map fun r => watts.getD r ((s.region r).grant / 1000)

/-- PACKAGE_GRANT: each region takes its grant and divides it, and the count to the fail-safe restarts (R379, R380). The
grants in force after one are at most 30 kW together; others the arbiter does not send (R25). -/
def execPackageGrant (watts : List Nat) (s : State) : Outcome :=
  .next (if 30000 < (s.grantsAfter watts).sum then s
    else
      (List.range (min 16 watts.length)).foldl (fun s r =>
        let g := 1000 * watts.getD r 0
        let s := s.modRegion r fun k => { k with grant := g, grantAt := s.now, failsafe := false }
        (s.divide r g false).after 180000 (.failsafeBudget r)) { s with grants := (watts :: s.grants).take 10000 })

/-- FAILSAFE_BUDGET: 150 µs after the last grant the region takes 843.75 W (R380). -/
def execFailsafeBudget (region : Nat) (s : State) : Outcome :=
  .next (if s.now < (s.region region).grantAt + 180000 then s
    else (s.modRegion region fun k => { k with failsafe := true }).divide region 843750 true)

/-! ## Starts (R381, R382) -/

/-- Whether a step of a region's starts is to come within 200 ns: the steps are that far apart (R381). -/
def State.admitting (s : State) (r : Nat) : Bool :=
  (s.timers.any fun e => decide (e.1 ≤ s.now + 240 ∧ e.2 = .startAdmission r)) ||
    s.agenda.contains (.event (.startAdmission r))

/-- A quad held until its region admits it, not before the latest of the times that hold it (R381, R382). -/
def State.holdStart (s : State) (q start : Nat) : State :=
  (s.modQuad q fun f => { f with held := true }).modRegion (s.quadRegion q) fun k =>
    { k with starts := if k.starts.any fun e => e.1 == q then
        k.starts.map fun e => if e.1 = q then (q, max e.2 start) else e
      else k.starts ++ [(q, start)] }

/-- A start of a quad held until its region admits it (R381). -/
def State.beginStart (s : State) (q : Nat) : State :=
  let r := s.quadRegion q
  let s := s.holdStart q s.now
  if s.admitting r then s else s.post (.startAdmission r)

/-- The order of physical router coordinates, py first, then px (R381). -/
def State.routerRank (s : State) (q : Nat) : Nat :=
  let c := s.routerOf (coreOfQuad q 0)
  1024 * c.2 + c.1

/-- The member quads of a release that spans regions held, each region for its turn: region k at 200k ns after the release, or
at the step within 200 ns of it that other starts of the region have begun (R382; DEDUCED, log entry 56). -/
def State.holdMembers (s : State) (members : List Nat) : State :=
  let rs := (members.map s.part.regionOf).eraseDups
  if rs.length < 2 then s
  else
    let s := members.foldl (fun s c => s.holdStart (quadOf c) (s.now + 240 * s.quadRegion (quadOf c))) s
    (List.range 16).foldl (fun s r => if rs.contains r then s.after (240 * r) (.startAdmission r) else s) s

/-- The cores of a quad. -/
def quadCores (q : Nat) : List Nat := (List.range 4).map (coreOfQuad q)

/-- Whether a quad has something to issue: a strand in a bank, a command at a queue head, or a remote command (R381). -/
def State.hasIssue (s : State) (q : Nat) : Bool :=
  !s.quadEmpty q || !(s.quad q).remote.isEmpty || (quadCores q).any fun c => !(s.core c).queue.isEmpty

/-- What a quad's start takes of a step: its admission current; a hold that ends with nothing to issue is no start (R381). -/
def State.admission (s : State) (q : Nat) : Nat :=
  if s.hasIssue q then Config.admission (s.physId q) (s.quad q).plan (s.quad q).opp.toNat else 0

/-- The longest prefix of a list of starts that fits a step, and the rest (R381). -/
def State.fitStep (s : State) (left : Nat) : List Nat → List Nat × List Nat
  | [] => ([], [])
  | q :: r =>
    let a := s.admission q
    if a ≤ left then let t := s.fitStep (left - a) r; (q :: t.1, t.2) else ([], q :: r)

/-! ## Wakes (R392) -/

/-- Whether a core has a record to load or a task to start (R392). -/
def Core.hasWork (k : Core) : Bool := (k.parked.any fun r => r.runnable) || 0 < k.dqn.toNat || 0 < k.spn.toNat

/-- A wake of a quad: up to the commit it abandons the gating; after it the quad powers up within 2 µs (R392). -/
def State.wakeQuad (s : State) (q : Nat) : State :=
  match (s.quad q).gate with
  | .on => s
  | .requested => s.modQuad q fun f => { f with gate := .on }
  | .gated => if s.timers.any (fun e => decide (e.2 = .quadWake q)) then s else s.after 2400 (.quadWake q)

/-! ## Sensors (R387, R388) -/

/-- Insertion into a rising list of readings. -/
def insertReading (a : Int) : List Int → List Int
  | [] => [a]
  | b :: r => if a ≤ b then a :: b :: r else b :: insertReading a r

/-- Twice the median of a list of readings: the sum of its two middle ones, or twice the middle one. -/
def median2 (l : List Int) : Option Int :=
  let t := l.foldr insertReading []
  let n := t.length
  if n = 0 then none else some (t.getD ((n - 1) / 2) 0 + t.getD (n / 2) 0)

/-- The last valid reading of a sensor that has not failed. -/
def Sensor.reading (e : Sensor) : Option Int := if e.failed then none else e.last.map (·.1)

/-- The valid readings of the physical quads adjacent to one (R387). -/
def State.nearReadings (s : State) (q : Nat) : List Int :=
  (s.adjacent q).flatMap fun k => [(s.quad k).diode.reading, (s.quad k).ring.reading].filterMap id

/-- The first check of R387 that a sample breaks: 0 plausibility, 1 rate, 2 stuck, 3 neighbour. -/
def Sensor.broken (e : Sensor) (v : Int) (now power : Nat) (near : List Int) : Option Nat :=
  let rate : Bool := match e.last with
    | some (w, t) => decide (500 * (now - t) < (v - w).natAbs * 1200000)
    | none => false
  let stuck : Bool := match e.last with
    | some (w, _) => w == v && decide (255 ≤ e.equal) && decide (e.power < 5 * dist power e.power)
    | none => false
  let far : Bool := match median2 near with
    | some m => decide (5000 < (2 * v - m).natAbs)
    | none => false
  if v < -4000 ∨ 15000 < v then some 0 else if rate then some 1 else if stuck then some 2 else if far then some 3
  else none

/-- A sensor after a sample (R387). -/
def Sensor.sample (e : Sensor) (v : Int) (now power : Nat) (near : List Int) : Sensor :=
  if e.failed then e
  else if (e.broken v now power near).isSome then { e with failed := true }
  else
    match e.last with
    | some (w, _) =>
      if w = v then { e with last := some (v, now), equal := e.equal + 1 } else ⟨some (v, now), 1, power, false⟩
    | none => ⟨some (v, now), 1, power, false⟩

/-- TEMP from the sensors (R388). -/
def tempOf (d r : Option Int) (near : List Int) : Int :=
  match d, r with
  | some a, some b => max a b
  | some a, none => a + 800
  | none, some b => b + 800
  | none, none =>
    match near with
    | [] => 10500
    | a :: l => l.foldl max a + 800

/-- The quad with its sensors' samples: TEMP, DFAIL, RFAIL, PIN, HARD (R387, R388, R390). -/
def Quad.sampled (f : Quad) (d r : Sensor) (near : List Int) : Quad :=
  let t := tempOf d.reading r.reading near
  { f with
    diode := d, ring := r, dfail := d.failed, rfail := r.failed, temp := t, temps := (tempField t :: f.temps).take 256
    pin := d.failed && r.failed
    hard := if 10500 < t then true else if t ≤ 10200 then false else f.hard }

/-- A sensor's failure counted at its die and reported: the number of the check is a free value (R387, R405, log entry
8). -/
def State.sensorFailed (s : State) (q : Nat) (which : Nat) (check : Option Nat) : State :=
  match check with
  | none => s
  | some n =>
    let detail : Word := BitVec.ofNat 64 (2 ^ which) ||| (((Config.checkCode n).setWidth 64) <<< 8)
    let s := s.modDie (s.quadDie q) fun d => { d with nfail := d.nfail + 1 }
    if q < 2 ^ 20 then s.logEvent 0x05 (some (coreOfQuad q 0)) 0 detail
    else if (s.part.clusterAt ((q - 2 ^ 20) / 32)).isSome then s.logEvent 0x05 none 0 detail
    else s.zholosEvent 0x05 detail.toNat

end Sys2Proof.Machine
end

