-- ==== Sys2Proof/Machine/Registers.lean ====
section
/-! DEFINITION. Device register space (R58, R308): what each register reads as, and the write of each by its fields
(R309, R340, R342, R391, R404, R405). -/

namespace Sys2Proof.Machine

/-! ## Quiescence (R323) -/

/-- A resident U-mode strand, an engine queue that is not empty, or a runnable record or task of a core (R323). -/
def Core.active (k : Core) : Bool :=
  (k.banks.toList.any fun b => b.live && !b.strand.priv) || !k.queue.isEmpty || k.rep.isSome || k.latch.isSome ||
    (k.parked.any fun r => r.runnable) || 0 < k.dqn.toNat || 0 < k.spn.toNat

/-- PCTL.QUIET (R323). -/
def State.quiet (s : State) : Bool :=
  !(s.cores.any fun e => e.2.active) && s.part.lastTraffic + 1024 ≤ s.now

/-! ## Deferred writes of the barrier registers (R309) -/

/-- Whether the phase in progress of a channel has an arrival counted at some core (R108, R309). -/
def State.arrived (s : State) (ch : Nat) : Bool := s.cores.any fun e => 0 < e.2.arrivals.get 0 ch

/-- The 4-bit field of a channel. -/
def nibble (w : Word) (ch : Nat) : Nat := (w.extractLsb' (4 * ch) 4).toNat

/-- A word with a channel's 4-bit field taken from another. -/
def takeNibble (w v : Word) (ch : Nat) : Word :=
  let m : Word := 0xF#64 <<< (4 * ch)
  (w &&& ~~~m) ||| (v &&& m)

/-- The barrier registers of a channel brought to their new values, as a release brings them (R309). -/
def State.adopt (s : State) (ch : Nat) : State :=
  let s := { s with cores := s.cores.map fun (e : Nat × Core) => (e.1, { e.2 with bmask := takeNibble e.2.bmask e.2.bmaskNew ch }) }
  s.modPart fun p =>
    { p with orKind := (p.orKind &&& ~~~(1#16 <<< ch)) ||| (p.orNew &&& (1#16 <<< ch)) }

/-- The channels whose phase in progress has no arrival adopt the values written (R309). -/
def State.adoptIdle (s : State) : State :=
  let s := (List.range 16).foldl (fun s ch => if s.arrived ch then s else s.adopt ch) s
  if (List.range 16).any s.arrived then s else s.modPart fun p => { p with cbw := p.cbwNew }

/-! ## Reads -/

/-- SKSTAT-like maps: a field at a bit. -/
def at64 {n : Nat} (v : BitVec n) (lo : Nat) : Word := (v.setWidth 64) <<< lo

/-- QPWR (R378). -/
def State.qpwr (s : State) (q : Nat) : Word :=
  let k := s.quad q
  let req := (List.range 4).foldl (fun m i => max m (s.core (coreOfQuad q i)).opreq.toNat) 0
  tempField k.temp ++ bit1 k.rfail ++ bit1 k.dfail ++ bit1 k.pin ++ bit1 k.hard ++ bit1 k.droop ++ bit1 k.halfw ++
    bit1 (k.gate == .gated) ++ bit1 k.move.isSome ++ k.rate ++ k.opp ++ BitVec.ofNat 3 req ++ k.opcap ++ k.vmv ++
    (0 : BitVec 20)

/-- The physical clusters of a die: 8 across and 10 down (R14, R17). -/
def dieClusters (d : Nat) : List Nat :=
  (List.range 36).flatMap fun g =>
    if absentDie (g % 6) (g / 6) || dieAt (g % 6) (g / 6) != d then []
    else (List.range 80).map fun i => 128 * (10 * (g / 6) + i / 8) + 8 * (g % 6) + i % 8

/-- The temperatures of a die's quads that did not fail harvest, spares among them, in hundredths of a degree (R391). -/
def State.dieTemps (s : State) (d : Nat) : List Int :=
  (dieClusters d).flatMap fun pc => (List.range 20).filterMap fun n =>
    let ph := 32 * pc + n
    if s.failedHarvest ph then none else some (s.quad (s.quadKey ph)).temp

/-- DTHERM (R391). -/
def State.dtherm (s : State) (d : Nat) : Word :=
  let ts := s.dieTemps d
  tempField (ts.foldl max (-4000)) ++ tempField (ts.sum / (max 1 ts.length : Nat)) ++ Config.reference d s.now ++
    (s.die d).nfail ++ (0 : BitVec 24)

/-- DQSTAT (R340). -/
def Core.dqstat (k : Core) : Word :=
  bit1 k.depthFirst ++ (0 : BitVec 9) ++ k.spn ++ k.rln ++ (0 : BitVec 5) ++ k.old ++ k.dqn

/-- ATOMODE (R68). A read between a write of MODE and the quiescence at which it takes effect gives the value written last
(DESIGN CHOICE, log entry 14). -/
def Partition.atomode (p : Partition) : Word := BitVec.ofNat 64 (9 * 2 ^ 16 + 8 * 2 ^ 12 + 8 * 2 ^ 8 + 6 * 2 ^ 4) ||| flag p.modeNew

/-- The tracks that are bound, as bits. -/
def Core.boundBits (k : Core) : BitVec 128 := k.bound.foldl (fun (w : BitVec 128) e => w ||| (1#128 <<< e.1)) 0

/-- A register of the core block (R308, R340, R377). -/
def State.readCore (s : State) (c off : Nat) : Word :=
  let k := s.core c
  match off with
  | 0x000 => k.tvec
  | 0x040 => k.bmaskNew
  | 0x080 => k.shiftct
  | 0x0C0 => k.shiftac
  | 0x100 => (k.tocc ||| k.boundBits).extractLsb' 0 64
  | 0x140 => (k.tocc ||| k.boundBits).extractLsb' 64 64
  | 0x180 => k.spill
  | 0x1C0 => k.dqstat
  | 0x200 => at64 k.opreq 0
  | 0x280 => k.fphead
  | 0x300 => k.pgasn.extractLsb' 0 64
  | 0x340 => k.pgasn.extractLsb' 64 64
  | _ => 0

/-- A register of the quad block (R308, R378, R404). -/
def State.readQuad (s : State) (q off : Nat) : Word :=
  let k := s.quad q
  match off with
  | 0x1C0 => at64 k.qctl 0
  | 0x200 => s.qpwr q
  | 0x240 => k.errq
  | n => if n % 64 = 0 ∧ n / 64 < 7 then at64 (k.cfmt.toList.getD (n / 64) 0) 0 else 0

/-- SCALEHOME: the cluster's first core until it is written (R309). -/
def State.scalehome (s : State) (cl : Nat) : Word := (s.cluster cl).scalehome.getD (pairForm (firstCore cl))

/-- A register of the cluster block (R308, R334, R404). -/
def State.readCluster (s : State) (cl off : Nat) : Word :=
  match off with
  | 0x000 => s.scalehome cl
  | 0x040 => (s.cluster cl).fqbase
  | 0x080 => (s.cluster cl).errc
  | _ => 0

/-- A register of the die block (R308, R391, R404). -/
def State.readDie (s : State) (d off : Nat) : Word :=
  match off with
  | 0x000 => at64 (s.region (d / 2)).cstep 0
  | 0x040 => s.dtherm d
  | 0x080 => if s.now = 0 then 0 else Config.heat d s.now
  | 0x0C0 => (s.die d).errd
  | _ => 0

/-- A register of the partition block (R308, R342, R370, R374, R405). MSIXTRIG is write only and reads as zero. -/
def State.readPart (s : State) (off : Nat) : Word :=
  let p := s.part
  match off with
  | 0x000 => at64 p.ident 0
  | 0x040 => p.atomode
  | 0x080 => at64 (bit1 s.quiet ++ bit1 p.hold) 0
  | 0x0C0 => at64 (p.grant ++ p.orNew) 0
  | 0x100 => p.l2pBase
  | 0x140 => p.ptbase
  | 0x180 => at64 p.tlim 0
  | 0x1C0 => at64 p.prewin 0
  | 0x200 => p.hangw
  | 0x240 => p.hangbuf
  | 0x280 => p.cbwNew[0]
  | 0x2C0 => p.cbwNew[1]
  | 0x300 => p.cbwNew[2]
  | 0x340 => p.cbwNew[3]
  | 0x380 => p.lwcfg
  | 0x3C0 => p.larea
  | 0x440 => p.evbase
  | 0x480 => p.evhead
  | 0x4C0 => s.modid
  | 0x500 => p.evlost
  | _ => 0

/-- The core a space-011 address names. -/
def registerCore (a : Word) : Nat := coreId (meshX a) (meshY a)

/-- The offset in a space-011 address (R58). -/
def registerOff (a : Word) : BitVec 37 := a.extractLsb' 0 37

/-- A device register's value; an unassigned offset reads as zero (R308). -/
def State.readRegister (s : State) (a : Word) : Word :=
  let c := registerCore a
  let off := (registerOff a).toNat
  match meshLayer a with
  | 0 => s.readCore c off
  | 1 => s.readQuad (quadOf c) off
  | 2 => s.readCluster (clusterOf c) off
  | 3 => s.readDie (s.part.dieOf c) off
  | _ => s.readPart off

/-! ## Writes -/

/-- The row of the opcode table that a store of a core to device register space is. -/
def registerStore (issuer : Nat) (a v : Word) : Instr :=
  let c := registerCore a
  match meshLayer a, (registerOff a).toNat with
  | 0, 0x100 => .toccWrite c false v
  | 0, 0x140 => .toccWrite c true v
  | 0, 0x200 => .opreqWrite c v
  | 0, 0x280 => .fpheadWrite ⟨issuer, c⟩ a v
  | 0, 0x300 => .pgasnWrite ⟨issuer, c⟩ false a v
  | 0, 0x340 => .pgasnWrite ⟨issuer, c⟩ true a v
  | 2, 0x040 => .fqbaseWrite (clusterOf c) v
  | 4, 0x040 => .atomodeWrite v
  | 4, 0x380 => .lwcfgWrite v
  | 4, 0x400 => .msixtrigWrite v
  | b, _ => .registerWrite ⟨issuer, c⟩ (BitVec.ofNat 4 b) (registerOff a) v

/-- QCTL.NOREMOTE. -/
def Quad.noRemote (q : Quad) : Bool := q.qctl.getLsbD 2

/-- A free bank of a core asks to be filled (R101). -/
def State.refill (s : State) (cs : List Nat) : State := cs.foldl (fun s c => s.post (.bankFill c)) s

/-- A write of BMASK, in force for the channels R309 lets it be. -/
def State.writeBmask (s : State) (c : Nat) (v : Word) : State := (s.modCore c fun k => { k with bmaskNew := v }).adoptIdle

/-- A core's write to a register of the core block that has no row of its own; DQSTAT only under the condition of R339, otherwise
logged for the core that stores (R340, R405). -/
def State.writeCore (s : State) (at_ : RegCore) (off : Nat) (a v : Word) : State :=
  let c := at_.core
  match off with
  | 0x000 => s.modCore c fun k => { k with tvec := v >>> 5 <<< 5 }
  | 0x040 => s.writeBmask c v
  | 0x080 => s.modCore c fun k => { k with shiftct := v }
  | 0x0C0 => s.modCore c fun k => { k with shiftac := v }
  | 0x180 =>
    s.modCore c fun k => { k with spill := v >>> 9 <<< 9 ||| BitVec.ofNat 64 (min 10 (v.extractLsb' 0 4).toNat) }
  | 0x1C0 =>
    if s.onHold (quadOf c) && (s.quad (quadOf c)).noSteal then s.writeDqstat c v
    else s.logEvent 0x08 (some at_.issuer) a v
  | _ => s

/-- A write to a register of the quad block (R70, R309, R404); clearing HOLD lets the banks fill again. -/
def State.writeQuad (s : State) (q off : Nat) (v : Word) : State :=
  match off with
  | 0x1C0 =>
    let s := s.modQuad q fun k => { k with qctl := v.extractLsb' 0 3 }
    if v.getLsbD 0 then s else s.refill (quadCores q)
  | 0x240 => s.modQuad q fun k => { k with errq := v }
  | n =>
    if n % 64 = 0 ∧ n / 64 < 7 then
      s.modQuad q fun k => { k with cfmt := k.cfmt.setIfInBounds (n / 64) (v.extractLsb' 0 5) }
    else s

/-- A write to a register of the cluster block (R309, R404): SCALEHOME of a core outside the cluster is ignored. -/
def State.writeCluster (s : State) (cl off : Nat) (v : Word) : State :=
  match off with
  | 0x000 =>
    let x := (v.extractLsb' 0 32).toNat
    let y := (v.extractLsb' 32 32).toNat
    if x / 8 = cl % 128 ∧ y / 8 = cl / 128 then s.modCluster cl fun k => { k with scalehome := some v } else s
  | 0x080 => s.modCluster cl fun k => { k with errc := v }
  | _ => s

/-- A write to a register of the die block (R309, R404): CSTEP 0 is stored as 1. -/
def State.writeDie (s : State) (d off : Nat) (v : Word) : State :=
  match off with
  | 0x000 =>
    let n : BitVec 16 := v.extractLsb' 0 16
    s.modRegion (d / 2) fun r => { r with cstep := if n = 0 then 1 else n }
  | 0x0C0 => s.modDie d fun k => { k with errd := v }
  | _ => s

/-- CBWn as stored: VALID is 0 for SIZE = 0 or BASE + SIZE > 512 (R309). -/
def storedCbw (v : Word) : Word :=
  let base := (v.extractLsb' 10 9).toNat
  let size := (v.extractLsb' 0 10).toNat
  bit1 (v.getLsbD 63 && size != 0 && base + size ≤ 512) ++ (0 : BitVec 41) ++ v.extractLsb' 0 22

/-- A write to a register of the partition block that has no row of its own (R309, R342, R405). -/
def State.writePart (s : State) (off : Nat) (v : Word) : State :=
  match off with
  | 0x080 =>
    let s := s.modPart fun p => { p with hold := v.getLsbD 0 }
    if v.getLsbD 0 then s else s.refill s.part.coreList
  | 0x0C0 => (s.modPart fun p => { p with orNew := v.extractLsb' 0 16 }).adoptIdle
  | 0x140 => s.modPart fun p => { p with ptbase := v }
  | 0x180 => s.modPart fun p => { p with tlim := BitVec.ofNat 8 (max 80 (min 104 (v.extractLsb' 0 8).toNat)) }
  | 0x1C0 => s.modPart fun p => { p with prewin := v.extractLsb' 0 32 }
  | 0x200 => s.modPart fun p => { p with hangw := v }
  | 0x240 => s.modPart fun p => { p with hangbuf := v }
  | 0x3C0 => s.modPart fun p => { p with larea := v >>> 9 <<< 9 }
  | 0x440 => s.modPart fun p => { p with evbase := v >>> 9 <<< 9 ||| (v &&& 15) }
  | n =>
    if 0x280 ≤ n ∧ n ≤ 0x340 ∧ n % 64 = 0 then
      (s.modPart fun p => { p with cbwNew := p.cbwNew.setIfInBounds ((n - 0x280) / 64) (storedCbw v) }).adoptIdle
    else s

/-- The space-011 address of a register. -/
def registerAddr (c : Nat) (block : BitVec 4) (off : BitVec 37) : Word :=
  (3 : BitVec 3) ++ BitVec.ofNat 10 (coreX c) ++ BitVec.ofNat 10 (coreY c) ++ block ++ off

/-- REGISTER_WRITE: a store to a register of a block (R308, R309); an unassigned offset is ignored. -/
def execRegisterWrite (core : RegCore) (block : BitVec 4) (off : BitVec 37) (v : Word) (s : State) : Outcome :=
  .next (match block.toNat with
    | 0 => s.writeCore core off.toNat (registerAddr core.core block off) v
    | 1 => s.writeQuad (quadOf core.core) off.toNat v
    | 2 => s.writeCluster (clusterOf core.core) off.toNat v
    | 3 => s.writeDie (s.part.dieOf core.core) off.toNat v
    | _ => s.writePart off.toNat v)

/-- FPHEAD_WRITE: only while QCTL.HOLD is 1, as PCTL.HOLD makes it in every quad; otherwise discarded and logged as kind 0x08
(R95, R309). -/
def execFpheadWrite (core : RegCore) (addr v : Word) (s : State) : Outcome :=
  .next (if s.onHold (quadOf core.core) then
      (s.modCore core.core fun k => { k with fphead := v >>> 9 <<< 9 }).post (.bankFill core.core)
    else s.logEvent 0x08 (some core.issuer) addr v)

/-- The page keys of a track of a core (R92, R184). -/
def pageKeys (core t : Nat) : List Nat := (List.range 4).map fun k => 512 * core + 4 * t + k

/-- One track's assignment: setting adds its four pages as free pages, clearing removes them when all four are free; the
new pool, and whether the track is assigned afterwards (R184). -/
def assignTrack (pool : Tbl PageState) (core t : Nat) (old new : Bool) : Tbl PageState × Bool :=
  let ks := pageKeys core t
  if new && !old then (ks.foldl (fun p k => p.set k .free) pool, true)
  else if old && !new then
    if ks.all fun k => pool.find k == some .free then (ks.foldl (fun p k => p.erase k) pool, false) else (pool, true)
  else (pool, old)

/-- PGASN_WRITE: the assignment of 64 tracks of a column, only while QCTL.HOLD is 1, as PCTL.HOLD makes it in every quad
(R184, R309). -/
def execPgasnWrite (at_ : RegCore) (hi : Bool) (addr v : Word) (s : State) : Outcome :=
  let core := at_.core
  .next (if s.onHold (quadOf core) then
      let d := s.part.dieOf core
      let base := if hi then 64 else 0
      let r := (List.range 64).foldl (fun (x : Tbl PageState × BitVec 128) i =>
          let t := base + i
          let y := assignTrack x.1 core t (x.2.getLsbD t) (v.getLsbD i)
          (y.1, if y.2 then x.2 ||| (1#128 <<< t) else x.2 &&& ~~~(1#128 <<< t)))
        ((s.die d).pool, (s.core core).pgasn)
      (s.modDie d fun k => { k with pool := r.1 }).modCore core fun k => { k with pgasn := r.2 }
    else s.logEvent 0x08 (some at_.issuer) addr v)

/-- TOCC_WRITE: a 1 clears an occupied bit, ignored for a bound track (R91, R309). -/
def execToccWrite (core : Nat) (hi : Bool) (v : Word) (s : State) : Outcome :=
  .next (s.modCore core fun k =>
    let m : BitVec 128 := (v.setWidth 128) <<< (if hi then 64 else 0)
    { k with tocc := k.tocc &&& ~~~(m &&& ~~~k.boundBits) })

/-- FQBASE_WRITE: LOGN above 3 is stored as 3; ADDR is stored as 0 where the queue would not lie in the system area of
cabinet 7 of a quad of the cluster (R334). -/
def execFqbaseWrite (cluster : Nat) (v : Word) (s : State) : Outcome :=
  let logn := min 3 (v.extractLsb' 0 3).toNat
  let a := v >>> 9 <<< 9
  let fits : Bool :=
    space a == 0 && clusterOf (coreId (meshX a) (meshY a)) == cluster && meshLayer a == 0 && meshMbz a == 0 &&
      7 * 2 ^ 17 + 98304 ≤ meshOff a && meshOff a + 512 + 2048 * 2 ^ logn ≤ 2 ^ 20
  .next (s.modCluster cluster fun k =>
    { k with fqbase := (if fits then a else 0) ||| BitVec.ofNat 64 logn })

/-- LWCFG_WRITE: NLW above 16 is stored as 16; ADDR is stored as 0 where the launch words would not all lie in the system
area of cabinet 7 of a quad of the partition (R342). -/
def execLwcfgWrite (v : Word) (s : State) : Outcome :=
  let nlw := min 16 (v.extractLsb' 0 5).toNat
  let a := v >>> 9 <<< 9
  let fits : Bool :=
    space a == 0 && s.part.inside (meshX a) (meshY a) && meshLayer a == 0 && meshMbz a == 0 &&
      7 * 2 ^ 17 + 98304 ≤ meshOff a && meshOff a < 2 ^ 20 && meshOff a + 64 * nlw ≤ 2 ^ 20
  .next (s.modPart fun p => { p with lwcfg := (if fits then a else 0) ||| BitVec.ofNat 64 nlw })

/-- MSIXTRIG_WRITE: sends an MSI-X vector; a masked vector sets its pending bit (R370). -/
def execMsixtrigWrite (v : Word) (s : State) : Outcome :=
  let n := (v.extractLsb' 0 5).toNat
  .next (if s.part.masked.getLsbD n then s.modPart fun p => { p with pending := p.pending ||| (1#32 <<< n) }
    else s.toHost (.msix n))

/-- ATOMODE_WRITE: the new mode takes effect at the partition's next quiescence (R69). -/
def execAtomodeWrite (v : Word) (s : State) : Outcome := .next (s.modPart fun p => { p with modeNew := v.getLsbD 0 })

/-- ATOMODE_SWITCH: at a quiescence the mode written last takes effect (R69). -/
def execAtomodeSwitch (s : State) : Outcome :=
  .next (if s.quiet then s.modPart fun p => { p with mode := p.modeNew } else s)

/-- Whether a mode that was written waits for the quiescence that has come (R69). -/
def State.modeDue (s : State) : Bool := s.part.mode != s.part.modeNew && s.quiet

end Sys2Proof.Machine
end

