-- ==== Sys2Proof/Machine/MemoryOps.lean ====
section
/-! DEFINITION. Loads and stores (R144–R149). -/

namespace Sys2Proof.Machine

/-- Whether the register block that an address names is the own quad's: a core's or a quad's (R99, R308, log entry 57). -/
def ownBlock (core : Nat) (a : Word) : Bool := meshLayer a ≤ 1 && quadOf (registerCore a) == quadOf core

/-- A load (R145, R146): the quad's own device registers are read at once (R58); every other address sends its request. -/
def State.load (s : State) (signed : Bool) (w : Width) (rd : Reg) (a : Word) : State :=
  if space a = 3 then
    match s.locate s.cur s.user true .load a (bitsOf w) (bitsOf w) with
    | .ok ps h =>
      if ownBlock s.cur a then s.complete rd (s.readRegister a)
      else s.request (.load signed) ps h a 0 0 rd 0 .other
    | f => s.badAccess .load f
  else s.access (.load signed) w a 0 0 rd 0 .other

/-- A store (R145, R147): a store to device register space performs its register's write, under the event its row names;
every other address sends its request. -/
def State.store (s : State) (w : Width) (a v : Word) : State :=
  if space a = 3 then
    match s.locate s.cur s.user true .store a (bitsOf w) (bitsOf w) with
    | .ok ps h =>
      if ownBlock s.cur a then (s.post (registerStore s.cur a v)).advance
      else s.request .store ps h a v 0 0 0 .other
    | f => s.badAccess .store f
  else s.access .store w a v 0 0 0 .other

/-- LD: zero-extended (R144–R146). -/
def execLd (w : Width) (rd rs1 : Reg) (imm : BitVec 12) (s : State) : Outcome :=
  .next (s.load false w rd (s.dispAddr w rs1 imm))

/-- LDS: sign-extended from bit w − 1 (R144–R146). -/
def execLds (w : Width) (rd rs1 : Reg) (imm : BitVec 12) (s : State) : Outcome :=
  .next (s.load true w rd (s.dispAddr w rs1 imm))

/-- ST (R144, R145, R147). -/
def execSt (w : Width) (rs2 rs1 : Reg) (imm : BitVec 12) (s : State) : Outcome :=
  .next (s.store w (s.dispAddr w rs1 imm) (s.reg rs2))

/-- LDX (R144–R146). -/
def execLdx (w : Width) (rd rs1 rs2 : Reg) (s : State) : Outcome :=
  .next (s.load false w rd (s.indexAddr w rs1 rs2))

/-- LDXS (R144–R146). -/
def execLdxs (w : Width) (rd rs1 rs2 : Reg) (s : State) : Outcome :=
  .next (s.load true w rd (s.indexAddr w rs1 rs2))

/-- STX: the data register is named in bits 11:7 (R144, R145, R147). -/
def execStx (w : Width) (rd rs1 rs2 : Reg) (s : State) : Outcome :=
  .next (s.store w (s.indexAddr w rs1 rs2) (s.reg rd))

end Sys2Proof.Machine
end

