-- ==== Sys2Proof/Machine/Atomics.lean ====
section
/-! DEFINITION. Atomics, full/empty words and FENCE (R159–R169; TAKE and AWAIT, which suspend, stand in Tasks.lean), and the
messages that carry accesses to their homes and back (R83, R99, R279, R289). Every access that a strand issued before is performed
before it issues again (log entry 4), so the ordering bits, AQ, RL and SYS, and a fence's kind and scope wait for nothing here. -/

namespace Sys2Proof.Machine

/-- An AMO (R160, R161). -/
def State.amo (s : State) (op : MemOp) (w : Width) (rd rs2 rs1 : Reg) : State :=
  s.access op w (s.reg rs1) (s.reg rs2) 0 rd 0 .other

/-- AMO.add (R161). -/
def execAmoAdd (_ : Order) (w : Width) (rd rs2 rs1 : Reg) (s : State) : Outcome := .next (s.amo .amoAdd w rd rs2 rs1)

/-- AMO.and (R161). -/
def execAmoAnd (_ : Order) (w : Width) (rd rs2 rs1 : Reg) (s : State) : Outcome := .next (s.amo .amoAnd w rd rs2 rs1)

/-- AMO.or (R161). -/
def execAmoOr (_ : Order) (w : Width) (rd rs2 rs1 : Reg) (s : State) : Outcome := .next (s.amo .amoOr w rd rs2 rs1)

/-- AMO.xor (R161). -/
def execAmoXor (_ : Order) (w : Width) (rd rs2 rs1 : Reg) (s : State) : Outcome := .next (s.amo .amoXor w rd rs2 rs1)

/-- AMO.min (R161). -/
def execAmoMin (_ : Order) (w : Width) (rd rs2 rs1 : Reg) (s : State) : Outcome := .next (s.amo .amoMin w rd rs2 rs1)

/-- AMO.max (R161). -/
def execAmoMax (_ : Order) (w : Width) (rd rs2 rs1 : Reg) (s : State) : Outcome := .next (s.amo .amoMax w rd rs2 rs1)

/-- AMO.minn (R161). -/
def execAmoMinn (_ : Order) (w : Width) (rd rs2 rs1 : Reg) (s : State) : Outcome := .next (s.amo .amoMinn w rd rs2 rs1)

/-- AMO.maxn (R161). -/
def execAmoMaxn (_ : Order) (w : Width) (rd rs2 rs1 : Reg) (s : State) : Outcome := .next (s.amo .amoMaxn w rd rs2 rs1)

/-- AMO.swap (R161). -/
def execAmoSwap (_ : Order) (w : Width) (rd rs2 rs1 : Reg) (s : State) : Outcome := .next (s.amo .amoSwap w rd rs2 rs1)

/-- AMO.fadd (R161). -/
def execAmoFadd (_ : Order) (w : Width) (rd rs2 rs1 : Reg) (s : State) : Outcome := .next (s.amo .amoFadd w rd rs2 rs1)

/-- CAS: rd holds the expected value (R162). -/
def execCas (_ : Order) (w : Width) (rd rs2 rs1 : Reg) (s : State) : Outcome :=
  .next (s.access .cas w (s.reg rs1) (s.reg rs2) (s.reg rd) rd 0 .other)

/-- PUT (R165). -/
def execPut (_ : Order) (w : Width) (rs2 rs1 : Reg) (s : State) : Outcome :=
  .next (s.access .put w (s.reg rs1) (s.reg rs2) 0 0 0 .other)

/-- FESTAT (R166). -/
def execFestat (rd rs1 : Reg) (s : State) : Outcome :=
  .next (s.access .festat .b64 (s.reg rs1) 0 0 rd 0 .other)

/-- TAKE.NB (R164). -/
def execTakeNb (_ : Order) (w : Width) (rd rt rs1 : Reg) (s : State) : Outcome :=
  .next (s.access .takeNb w (s.reg rs1) 0 0 rd rt .other)

/-- FENCE.ACQ (R169). -/
def execFenceAcq (_ : Scope) (s : State) : Outcome := .next s.advance

/-- FENCE.REL (R169). -/
def execFenceRel (_ : Scope) (s : State) : Outcome := .next s.advance

/-- FENCE.AR (R169). -/
def execFenceAr (_ : Scope) (s : State) : Outcome := .next s.advance

/-- FENCE.SC (R169, R283). -/
def execFenceSc (_ : Scope) (s : State) : Outcome := .next s.advance

/-! ## Messages -/

/-- A request performed at its home, and the reply it sends, if any (R279). -/
def State.serve (s : State) (m : Msg) (k : Nat) : State :=
  match s.perform m k with
  | (s, some a) => s.post (.memReply m a)
  | (s, none) => s

/-- DEFERRED_RETRY (R168, R289): a request that was answered busy arrives again. -/
def execDeferredRetry (m : Msg) (k : Nat) (s : State) : Outcome := .next (s.serve m k)

/-- TRACK_ACCESS: the column's memory agent serves an ordinary access (R83). -/
def execTrackAccess (m : Msg) (s : State) : Outcome := .next (s.serve m 0)

/-- MEM_REQUEST: an access arrives at its home; at a track's it is the column's memory agent that serves it, and at a register
block it is its registers (R83, R279, R308). -/
def execMemRequest (m : Msg) (s : State) : Outcome :=
  .next (if space m.addr = 3 then
      (if m.op = .store then s.post (registerStore m.src.core m.addr m.data)
        else s.post (.memReply m (.value (s.readRegister m.addr) true)))
    else
      match m.parts.head?.bind fun p => trackOf p.key with
      | some _ => s.post (.trackAccess m)
      | none => s.serve m 0)

/-- Whether a status waits for the answer with a tag. -/
def Status.awaits (st : Status) (tag : Nat) : Bool :=
  match st with
  | .reply _ _ t => t == tag
  | _ => false

/-- Whether the strand that sent a message is resident where it sent it and waits for its answer. -/
def State.waiting (s : State) (m : Msg) : Bool :=
  (s.bank m.src).live && (s.strand m.src).sfp == m.sfp && (s.bank m.src).status.awaits m.tag

/-- A record whose strand's TAKE or AWAIT has been answered: the result in a0–a3, the PC past the instruction, and the
other registers those of a passed suspension point (R97). -/
def answeredRecord (b : BitVec 512) (m : Msg) (v : Word) : BitVec 512 :=
  let r := m.rd.toNat
  let pc : Word := b.extractLsb' 0 64 + 32
  let a (i : Nat) : Word := if r = 10 + i then v else b.extractLsb' (128 + 64 * i) 64
  b.extractLsb' 446 66 ++ bit1 false ++ b.extractLsb' 384 61 ++ a 3 ++ a 2 ++ a 1 ++ a 0 ++ b.extractLsb' 64 64 ++ pc

/-- An answer to a strand whose record waits in its core's run list: the record becomes runnable (R99, R101). -/
def State.answerParked (s : State) (m : Msg) (v : Word) : State :=
  let c := m.src.core
  match (s.core c).parked.find? fun r => r.sfp == m.sfp && r.status.awaits m.tag with
  | none => s
  | some r =>
    let s := match s.parkedBits c r with
      | some b => s.setParkedBits c r (answeredRecord b m v)
      | none => s
    (s.modCore c fun k =>
      { k with parked := k.parked.map fun x => if x.place = r.place then { x with runnable := true, status := .running, since := s.now }
        else x }).post (.bankFill c)

/-- MEM_REPLY: the reply returns, and the waiting strand becomes ready (R99); a peer's fault goes on as
PEER_FAULT_RETURN (R59). -/
def execMemReply (m : Msg) (ans : Answer) (s : State) : Outcome :=
  .next (if fromPeer m then s.peerReply m ans
    else
      let s := s.acknowledge m
      let s := if ans = .peerFault then s.post (.peerFaultReturn m.src m.sfp) else s
      if s.waiting m then s.finish m ans
      else
        match ans with
        | .value v _ => s.answerParked m v
        | .peerFault => s.answerParked m 0
        | .putOnFull => s)

/-- Whether a request was answered busy and will be retried, so that its source has its reply (R168). -/
def State.retrying (s : State) (m : Msg) : Bool :=
  s.timers.any fun e => match e.2 with
    | .deferredRetry x _ => x.src == m.src && x.tag == m.tag
    | _ => false

/-- Whether the record of the strand that sent a message waits for its answer. -/
def State.parkedWaiting (s : State) (m : Msg) : Bool :=
  (s.core m.src.core).parked.any fun r => r.sfp == m.sfp && r.status.awaits m.tag

/-- ATOMIC_RESEND: an atomic without a reply is sent again with the same tag (R289). -/
def execAtomicResend (m : Msg) (s : State) : Outcome :=
  .next (if s.waiting m || s.parkedWaiting m then
      let s := s.after (resendAfter m) (.atomicResend m)
      if s.retrying m then s else s.post (.memRequest m)
    else s)

/-- REPLAY_FILTER_ACK: the source's acknowledgement retires its entry at the place where the request executed, whose number is
that of `filterPlace` (R289). -/
def execReplayFilterAck (quad : Nat) (src : Place) (tag : Nat) (s : State) : Outcome :=
  let left := (s.filter quad).filter fun e => !(e.1 == src && e.2.1 == tag)
  .next { s with filters := if left.isEmpty then s.filters.erase quad else s.filters.set quad left }

end Sys2Proof.Machine
end

