-- ==== Sys2Proof/Machine/FaultQueue.lean ====
section
/-! DEFINITION. The cluster fault queue: its slots, page records and posting (R334, R335). -/

namespace Sys2Proof.Machine

/-- Whether a cluster has a fault queue (R334). -/
def Cluster.hasQueue (k : Cluster) : Bool := k.fqbase >>> 9 != 0

/-- The address of POSTS. -/
def Cluster.posts (k : Cluster) : Word := k.fqbase >>> 9 <<< 9

/-- The address of word `w` of slot `i` (R334). -/
def Cluster.slotWord (k : Cluster) (i w : Nat) : Word := k.posts + BitVec.ofNat 64 (512 + 2048 * i + 64 * w)

/-- The number of slots. -/
def Cluster.slotCount (k : Cluster) : Nat := 2 ^ (k.fqbase.extractLsb' 0 3).toNat

/-- STATUS of a slot (R334). -/
def State.slotStatus (s : State) (cl i : Nat) : Nat :=
  ((s.peek (firstCore cl) ((s.cluster cl).slotWord i 0) 64 64).getD 0) / 2 ^ 62

/-- A page record: VPN and ACC (R334). -/
def pageRecord (va : Word) (acc : Access) (user : Bool) : Word :=
  let v : BitVec 32 := va.extractLsb' 19 32
  let a : BitVec 3 := match acc with
    | .fetch => 4
    | .load => 1
    | .store => 2
    | .atomic => 3
  v ++ (0 : BitVec 24) ++ bit1 user ++ a ++ (0 : BitVec 4)

/-- A word of the queue written. -/
def State.pokeWord (s : State) (cl : Nat) (a : Word) (v : Nat) : State := (s.poke (firstCore cl) a 64 64 v).getD s

/-- A batch written to a slot: words 1 to 18, word 0 with STATUS 01, POSTS stepped; the core then watches the slot (R335,
R336). For an engine's batch BANK is 0 (DESIGN CHOICE, log entry 86: R334 names the bank of a waiting strand alone). -/
def State.fillSlot (s : State) (cl i : Nat) (b : Batch) : State :=
  let k := s.cluster cl
  let words := (pairForm b.core).toNat :: b.pc.toNat :: (List.range 16).map fun n => ((b.pages[n]?).getD 0).toNat
  let s := (words.foldl (fun (x : State × Nat) v => (x.1.pokeWord cl (k.slotWord i x.2) v, x.2 + 1)) (s, 1)).1
  let s := s.pokeWord cl (k.slotWord i 0)
    (2 ^ 62 + (b.bank.map (·.val)).getD 0 * 2 ^ 8 + b.pages.length)
  let n := (s.readHw (firstCore cl) k.posts 64 64).getD (0, s)
  let s := n.2.modCluster cl fun k => { k with watched := k.watched ++ [(i, b)] }
  s.pokeWord cl k.posts ((n.1 + 1) % 2 ^ 64)

/-- A strand's wait on its page names the slot of its batch; a batch of a strand that has left the bank names none
(R336). -/
def State.nameSlot (s : State) (i : Nat) (b : Batch) : State :=
  match b.bank with
  | none => s
  | some k =>
    let p : Place := ⟨b.core, k⟩
    match (s.bank p).status with
    | .page a acc none => if b.sfp = some (s.strand p).sfp then s.setStatus p (.page a acc (some i)) else s
    | _ => s

/-- The STATUS words that posting reads, in slot order as far as the first free one: the uncorrectable groups under them replaced
(R335, R403). -/
def State.meetSlots (s : State) (cl : Nat) : State :=
  let busy := ((List.range (s.cluster cl).slotCount).takeWhile fun i => s.slotStatus cl i != 0).length
  ((List.range (s.cluster cl).slotCount).take (busy + 1)).foldl (fun s i =>
    s.meetAt (.hardware (firstCore cl)) ((s.cluster cl).slotWord i 0) 64 64) s

/-- A batch posted in the lowest free slot, or kept to be tried again (R335). -/
def State.postBatch (s : State) (b : Batch) : State :=
  let cl := clusterOf b.core
  let s := s.meetSlots cl
  match (List.range (s.cluster cl).slotCount).find? fun i => s.slotStatus cl i == 0 with
  | some i => (s.nameSlot i b).fillSlot cl i b
  | none => s.modCluster cl fun k => { k with batches := k.batches ++ [b] }

/-- The batch of a command forgotten: the outcome of its slot is dropped. -/
def Cluster.forgetCommand (k : Cluster) (id : Nat) : Cluster :=
  { k with
    batches := k.batches.filter fun b => b.cmd != some id
    watched := k.watched.map fun w => if w.2.cmd = some id then (w.1, { w.2 with cmd := none }) else w }

end Sys2Proof.Machine
end

