-- ==== Sys2Proof/Machine/Engine.lean ====
section
/-! DEFINITION. The engine interface and the engine queue: fetching words (R136), CMD, CMDR and QWAIT (R171–R173), issue,
completion and faults of commands (R195–R200), queue control and REP (R201–R203), remote commands (R219–R221). A command
takes its whole effect when it issues (log entry 7). -/

namespace Sys2Proof.Machine

/-! ## Fetching (R136) -/

/-- A 32-bit word fetched for a core, or why it cannot be. -/
def State.fetch (s : State) (core : Nat) (user : Bool) (pc : Word) : Except FetchFailure (BitVec 32) :=
  if pc.toNat % 32 ≠ 0 ∨ space pc ≠ 1 then .error .badPc
  else
    match s.locate core user false .fetch pc 32 32 with
    | .ok ps _ => .ok (BitVec.ofNat 32 (s.partsAt ps))
    | .absent _ => .error .absent
    | .flt _ => .error .denied

/-- The uncorrectable groups under a word that a strand fetches replaced (R403). -/
def State.meetFetch (s : State) (pc : Word) : State :=
  match s.locate s.cur s.user false .fetch pc 32 32 with
  | .ok ps _ => s.meetParts (.strand s.cur (s.strand s.here).sfp) ps
  | _ => s

/-- The same for `n` consecutive words, as far as they can be fetched. -/
def State.meetWords (s : State) (pc : Word) : Nat → State
  | 0 => s
  | n + 1 =>
    match s.fetch s.cur s.user pc with
    | .ok _ => (s.meetFetch pc).meetWords (pc + 32) n
    | .error _ => s

/-- A fetch that failed: a fetch fault with TVAL the word's address, or the wait on its page (R136, R332). -/
def State.fetchFailed (s : State) (addr : Word) (why : FetchFailure) : State :=
  match why with
  | .absent => s.pageFault s.here .fetch addr
  | _ => s.trap .fetch addr

/-- FETCH_FAULT (R136). -/
def execFetchFault (addr : Word) (why : FetchFailure) (s : State) : Outcome := .next (s.fetchFailed addr why)

/-- ILLEGAL_INSTRUCTION: TVAL is the word (R139). -/
def execIllegalInstruction (word : BitVec 32) (s : State) : Outcome := .next (s.trap .illegal (word.setWidth 64))

/-- The word of the instruction at the executing strand's PC, for TVAL (R310). -/
def State.wordHere (s : State) : Word :=
  match s.fetch s.cur s.user s.pc with
  | .ok w => w.setWidth 64
  | .error _ => 0

/-- `n` consecutive words from an address up, lowest first, or the address and failure of the first that fails. -/
def State.fetchWords (s : State) (pc : Word) : Nat → Except (Word × FetchFailure) Nat
  | 0 => .ok 0
  | n + 1 =>
    match s.fetch s.cur s.user pc with
    | .error e => .error (pc, e)
    | .ok w =>
      match s.fetchWords (pc + 32) n with
      | .ok r => .ok (w.toNat + 2 ^ 32 * r)
      | .error e => .error e

/-! ## Building a command word (R171) -/

/-- Slot `p` of a command word replaced: 01 A, 10 B, 11 C, 00 none (R170). -/
def patchSlot (w : BitVec 256) (p : BitVec 2) (v : Word) : BitVec 256 :=
  match p.toNat with
  | 1 => w.extractLsb' 64 192 ++ v
  | 2 => w.extractLsb' 128 128 ++ v ++ w.extractLsb' 0 64
  | 3 => w.extractLsb' 192 64 ++ v ++ w.extractLsb' 0 128
  | _ => w

/-- A slot resolved: a space-010 address outside the partition keeps its value and is marked (R56, R171). -/
def resolveSlot (p : Partition) (core : Nat) (a : Word) : Word × Bool :=
  if space a = 2 then
    match resolveRel p core a with
    | some b => (b, false)
    | none => (a, true)
  else (a, false)

/-- The command of inline words, patched and resolved (R171). -/
def State.buildCommand (s : State) (p : Patch) (rs1 rs2 : Reg) (inline : Nat) : QEntry :=
  let w := patchSlot (patchSlot (BitVec.ofNat 256 inline) p.p1 (s.reg rs1)) p.p2 (s.reg rs2)
  let a := resolveSlot s.part s.cur (w.extractLsb' 0 64)
  let b := resolveSlot s.part s.cur (w.extractLsb' 64 64)
  ⟨w.extractLsb' 128 128 ++ b.1 ++ a.1, a.2, b.2, (s.strand s.here).sfp, (s.strand s.here).priv, false⟩

/-! ## Heads -/

/-- An offer put on the agenda unless one stands there. -/
def State.pushOffer (s : State) (core : Nat) : State :=
  if s.agenda.contains (.offer core) then s else s.push (.offer core)

/-- QERR of a strand that is resident. -/
def State.qerrOf (s : State) (sfp : Word) : Word :=
  match s.residentOf sfp with
  | some p => (s.strand p).qerr
  | none => 0

/-- The command at the head of a core's queue: the instance a REP has formed, or the oldest entry (R195, R203). -/
def Core.head (k : Core) : Option QEntry :=
  match k.latch, k.rep with
  | some e, _ => some e
  | none, some _ => none
  | none, none => k.queue.head?

/-- ENG of a command word. -/
def engOf (w : BitVec 256) : Nat := (w.extractLsb' 244 4).toNat

/-- OP of a command word. -/
def opOf (w : BitVec 256) : Nat := (w.extractLsb' 248 8).toNat

/-- A queue entry's command, where R194 does not make it undefined. -/
def QEntry.decode (e : QEntry) : Option Instr :=
  match decodeCommand e.word e.ua e.ub with
  | some i => if i.fieldsOk then some i else none
  | none => none

/-- A remote command's word as an entry. -/
def remoteEntry (r : Remote) : QEntry := ⟨r.word, r.ua, r.ub, r.sfp, r.priv, false⟩

/-- The first remote command of a quad offered to its engine (R221, R352). -/
def State.offerRemote (s : State) (q : Nat) : State :=
  match (s.quad q).remote with
  | [] => s
  | r :: _ => s.post (if engOf r.word = 3 then .pressAccept q else .copyEngineAccept q)

/-- The heads of a quad's queues and of its remote entries offered again: a command completed. -/
def State.offerAll (s : State) (q : Nat) : State :=
  ((quadCores q).foldl (fun s c => if (s.core c).head.isSome then s.pushOffer c else s) s).offerRemote q

/-- The head's command has left it: its entry is removed, or the repetition steps (R195, R203, R221). -/
def State.dropHead (s : State) : State :=
  let x := s.ctx
  if x.remote then (s.modQuad x.quad fun q => { q with remote := q.remote.tail }).offerRemote x.quad
  else if x.inRep then
    (s.modCore x.core fun k =>
      { k with
        latch := none
        rep := k.rep.map fun r => if r.j + 1 < r.m then { r with j := r.j + 1 } else { r with i := r.i + 1, j := 0 } }).post
      (.repInstance x.core)
  else (s.modCore x.core fun k => { k with queue := k.queue.tail }).pushOffer x.core

/-- A queue without the commands of one strand (R198). -/
def Core.discard (k : Core) (sfp : Word) : Core :=
  { k with
    queue := k.queue.filter fun e => e.sfp != sfp
    latch := if k.latch.any fun e => e.sfp == sfp then none else k.latch
    rep := if k.rep.any fun r => r.sfp == sfp then none else k.rep }

/-! ## Faults (R198, R199) -/

/-- QERR of a fault (R199). -/
def qerrWord (cause eng op iter cidx : Nat) (inRep rem : Bool) : Word :=
  BitVec.ofNat 8 cause ++ BitVec.ofNat 12 iter ++ BitVec.ofNat 3 cidx ++ bit1 inRep ++ BitVec.ofNat 4 eng ++
    BitVec.ofNat 8 op ++ (0 : BitVec 27) ++ bit1 rem

/-- A fault recorded in a strand's QERR, in its bank or in its save frame, the first fault kept (R198). -/
def State.recordFault (s : State) (sfp q : Word) : State :=
  match s.residentOf sfp with
  | some p => s.modStrand p (·.fault q)
  | none =>
    let s := s.meetAt (.hardware 0) (sfp + 704) 64 64
    match s.peek 0 (sfp + 704) 64 64 with
    | some 0 => (s.poke 0 (sfp + 704) 64 64 q.toNat).getD s
    | _ => s

/-- FX of a completed command added to its strand, in its bank or in its save frame (R129). -/
def State.addFlags (s : State) (sfp : Word) (fx : BitVec 5) : State :=
  if fx = 0 then s
  else
    match s.residentOf sfp with
    | some p => s.modStrand p fun st => { st with fx := st.fx ||| fx }
    | none =>
      let s := s.meetAt (.hardware 0) (sfp + 896) 64 64
      match s.peek 0 (sfp + 896) 64 64 with
      | some v => (s.poke 0 (sfp + 896) 64 64 (v ||| fx.toNat)).getD s
      | none => s

/-- The commands of a strand still in the queue of its core discarded (R198). -/
def State.discardQueued (s : State) (sfp : Word) : State :=
  match s.residentOf sfp with
  | some p => (s.modCore p.core (·.discard sfp)).pushOffer p.core
  | none => s

/-- A fault found once its command has left the queue, or returned by a target or a peer: recorded, and the strand's queued
commands discarded (R198). -/
def State.lateFault (s : State) (sfp q : Word) : State := (s.recordFault sfp q).discardQueued sfp

/-- A command's fault at the head or found while it is performed: recorded, and the command and every later command of
its strand in the queue discarded (R198, R221). -/
def State.engineFault (s : State) (cause eng op : Nat) : State :=
  let x := s.ctx
  let q := qerrWord cause eng op x.iter x.cidx x.inRep x.remote
  if x.remote then ((s.lateFault x.sfp q).modQuad x.quad fun k => { k with remote := k.remote.tail }).offerRemote x.quad
  else ((s.recordFault x.sfp q).modCore x.core (·.discard x.sfp)).pushOffer x.core

/-! ## Issue and completion (R195, R196, R202) -/

/-- The interlock of R196: a unit that the command reads and an earlier uncompleted one of its strand writes, or that it
writes and an earlier one reads or writes. -/
def Quad.hazard (q : Quad) (sfp : Word) (reads writes : List Nat) : Bool :=
  q.out.any fun i => i.sfp == sfp &&
    ((i.writes.any fun u => reads.contains u || writes.contains u) || i.reads.any fun u => writes.contains u)

/-- A tag of a strand, of a command's TAGGED flag or of a QTAG: it takes effect when the commands issued so far have completed
(R202). -/
def State.addTag (s : State) (core : Nat) (sfp : Word) (cmd : Option Nat) : State :=
  (s.modCore core fun k => { k with tags := k.tags ++ [⟨sfp, s.seq, cmd⟩] }).post (.qtagAdvance core)

/-- The tag of a command that faults after it has issued is discarded with it (R173, R198). -/
def State.dropTag (s : State) (core id : Nat) : State :=
  s.modCore core fun k => { k with tags := k.tags.filter fun t => t.cmd != some id }

/-- Whether a cause is one that a command's checks find, not its engine while it performs the command: translation, a full
completion word, a peer's fault and the contents of scale records and masks are met later, and so is the refusal of an MCLAIM
(R198, R227, R253, R255). -/
def foundByCheck (w : BitVec 256) (cause : Nat) : Bool :=
  !([0x06, 0x0B, 0x0F, 0x1B, 0x1C] : List Nat).contains cause && !(engOf w == 3 && opOf w == 0 && cause == 0x0A)

/-- What an engine does with a command: it faults, with the writes already performed; it meets an absent page, with the
first `n` of its writes performed; it does not start yet; it finds a word's replay filter full; it performs the command, with its flags; or it has more to do later,
the event that follows given by the command's number. -/
inductive Ran where
  | fault (cause : Nat) (s : State)
  | page (va : Word) (acc : Access) (s : State) (n : Nat)
  | hold
  | busy
  | done (s : State) (fx : BitVec 5)
  | later (s : State) (fx : BitVec 5) (late : Late) (event : Nat → Option Instr)

/-- The types that a command has read (R72). -/
def Ran.types : Ran → List (BitVec 5)
  | .fault _ s | .page _ _ s _ | .done s _ | .later s _ _ _ => s.ctx.types
  | .hold | .busy => []

/-- The core under whose number a command completes: its queue's, or the target quad's first for a remote one. -/
def Ctx.home (x : Ctx) : Nat := if x.remote then coreOfQuad x.quad 0 else x.core

/-- For whom the command in progress accesses memory (R403). -/
def State.who (s : State) : Who := .strand s.ctx.home s.ctx.sfp

/-- An issued command: it leaves the head, and `event` follows, given its number; the pointer of the press or the copy engine
passes its source (R195, R352). -/
def State.issued (s : State) (eng pipe track : Nat) (tagged : Bool) (reads writes : List Nat) (fx : BitVec 5)
    (late : Option Late) (paused : Option (Ctx × QEntry)) (event : Nat → Option Instr) : State :=
  let x := s.ctx
  let s := s.bumpSeq
  let past := Fin.ofNat 5 ((if x.remote then 4 else indexInQuad x.core) + 1)
  let s := s.modQuad x.quad fun q =>
    { q with
      out := q.out ++ [⟨s.seq, x.home, x.sfp, eng, pipe, track, x.remote, reads, writes, fx, late, paused⟩]
      pressPtr := if eng = 3 then past else q.pressPtr
      copyPtr := if eng = 4 then past else q.copyPtr }
  let id := s.seq
  let s := s.dropHead
  let s := if tagged then s.addTag x.core x.sfp (some id) else s
  match event id with
  | some i => s.post i
  | none => s

/-- The entry that the command in progress came from. -/
def State.headEntry (s : State) : Option QEntry :=
  if s.ctx.remote then (s.quad s.ctx.quad).remote.head?.map remoteEntry else (s.core s.ctx.core).head

/-- An issued command of a quad changed. -/
def State.modIssued (s : State) (q id : Nat) (g : Issued → Issued) : State :=
  s.modQuad q fun k => { k with out := k.out.map fun i => if i.id = id then g i else i }

/-- Whether the commands of a strand of a core drain, of those a command of some writes is one (R97, R98, R322). -/
def State.drains (s : State) (core : Nat) (sfp : Word) (writes : List Nat) : Bool :=
  (s.core core).draining.any fun e => e.1 == sfp && (!e.2 || writes.any (· < 32))

/-- The batch of a command that waits on a page (R337). That of a remote command is posted for the first core of the target quad
(DESIGN CHOICE, log entry 86: R334 and R337 name no core for it). -/
def State.commandBatch (s : State) (id : Nat) (va : Word) (acc : Access) : State :=
  s.postBatch ⟨s.ctx.home, none, some id, some s.ctx.sfp, 0, [pageRecord va acc (!s.ctx.priv)]⟩

/-- A command that has issued and faults: recorded, the strand's queued commands discarded, and the command over
(R198, R337). -/
def State.failIssued (s : State) (cause eng op id : Nat) : State :=
  let x := s.ctx
  (((s.lateFault x.sfp (qerrWord cause eng op x.iter x.cidx x.inRep x.remote)).dropTag x.core id).modIssued x.quad id fun i =>
    { i with paused := none, late := none }).post (.commandCompletion x.home id)

/-- Whether a command of a strand waits at the head behind an earlier one that has not gone on: of the same engine, but for the
press, which accepts it; and of another engine for a remote one, since those of one sender are performed in the order in which it
sent them (R197, R221, R337, R352). -/
def Quad.waitsBehind (q : Quad) (sfp : Word) (eng : Nat) (remote : Bool) : Bool :=
  q.out.any fun i => i.sfp == sfp && i.paused.isSome &&
    ((i.eng == eng && eng != 3) || (remote && i.remote && i.eng != eng))

/-- The commands of a quad accepted before one of a number, or before one that is still at its head. -/
def Quad.before (q : Quad) (id : Option Nat) : List Issued :=
  match id with
  | none => q.out
  | some n => q.out.takeWhile fun i => i.id != n

/-- Whether an accepted press command may not start: one accepted before it, of any source and still uncompleted, writes a unit that
it reads, or reads or writes a unit that it writes; or one of its pipe, or of its strand, has not gone on (R197, R250, R337). -/
def startHeld (before : List Issued) (sfp : Word) (pipe : Nat) (reads writes : List Nat) : Bool :=
  before.any fun i => i.eng == 3 &&
    (((i.pipe == pipe || i.sfp == sfp) && i.paused.isSome) ||
      (i.writes.any fun u => 32 ≤ u && (reads.contains u || writes.contains u)) ||
      i.reads.any fun u => 32 ≤ u && writes.contains u)

/-- A press command accepted that does not start yet: it has left its queue, and holds the types that it read (R72, R250, R352). -/
def State.accepted (s : State) (pipe track : Nat) (tagged : Bool) (reads writes : List Nat) (types : List (BitVec 5)) : State :=
  match s.headEntry with
  | some e =>
    s.issued 3 pipe track tagged reads writes 0 none (some ({ s.ctx with id := some (s.seq + 1), types := types }, e)) fun _ => none
  | none => s

/-- A command with the units it reads and writes, run by its engine when the interlock is clear (R195, R196). A press command that
may not start yet is accepted and starts later; one of its checks that fails only then is recorded then (R250, R352; DESIGN CHOICE,
log entry 83). One that meets an absent page posts a batch of that page alone and waits, its writes performed; with no fault queue,
or while its queue drains, it faults (R322, R334, R337). A command that goes on after a wait runs from its next write. -/
def State.runCommand (s : State) (eng op pipe track : Nat) (tagged : Bool) (reads writes : List Nat)
    (run : State → Ran) : State :=
  let x := s.ctx
  let waits (t : State) : Bool := (t.cluster (clusterOf x.home)).hasQueue && !(!x.remote && t.drains x.core x.sfp writes)
  let held : Bool := eng == 3 && startHeld ((s.quad x.quad).before x.id) x.sfp pipe reads writes
  let later (types : List (BitVec 5)) : State := s.accepted pipe track tagged reads writes types
  match x.id with
  | none =>
    if (s.quad x.quad).hazard x.sfp reads writes || (s.quad x.quad).waitsBehind x.sfp eng x.remote then s
    else
      match run s with
      | .hold => later []
      | .busy => (later []).after 16 (.commandCompletion x.home 0)
      | .fault c t =>
        if held && s.headEntry.any fun e => !foundByCheck e.word c then later t.ctx.types else t.engineFault c eng op
      | .page va acc t n =>
        if held then later t.ctx.types
        else if waits t then
          match t.headEntry with
          | some e =>
            (t.issued eng pipe track tagged reads writes 0 none
              (some ({ t.ctx with id := some (t.seq + 1), performed := n }, e)) fun _ => none).commandBatch (t.seq + 1) va acc
          | none => t
        else t.engineFault 0x06 eng op
      | .done t fx =>
        if held then later t.ctx.types
        else t.issued eng pipe track tagged reads writes fx none none fun id => some (.commandCompletion x.home id)
      | .later t fx late event => t.issued eng pipe track tagged reads writes fx (some late) none event
  | some id =>
    if held then s
    else
    match run s with
    | .hold => s
    | .busy => s.after 16 (.commandCompletion x.home 0)
    | .page va acc t n =>
      if waits t then
        (t.modIssued x.quad id fun i =>
          { i with paused := i.paused.map fun e => ({ t.ctx with performed := n }, e.2) }).commandBatch id va acc
      else t.failIssued 0x06 eng op id
    | .fault c t => t.failIssued c eng op id
    | .done t fx =>
      (t.modIssued x.quad id fun i => { i with paused := none, fx := fx }).post (.commandCompletion x.home id)
    | .later t fx late event =>
      let t := t.modIssued x.quad id fun i => { i with paused := none, fx := fx, late := some late }
      match event id with
      | some i => t.post i
      | none => t

/-- Whether an issued command waits on a page (R337). -/
def State.awaitsPage (s : State) (q : Nat) (i : Issued) : Bool :=
  let k := s.cluster (clusterOfQuad q)
  i.paused.isSome && ((k.batches.any fun b => b.cmd == some i.id) || k.watched.any fun w => w.2.cmd == some i.id)

/-- A command of a quad that goes on after its wait, or starts, and the state with its context; none where it waits no longer (R250,
R337). -/
def State.resumeOf (s : State) (q id : Nat) : Option (Instr × State) :=
  ((s.quad q).out.find? fun i => i.id == id).bind fun i => i.paused.bind fun e =>
    e.2.decode.map fun c => (c, { s with ctx := e.1 })

/-- The commands of a quad that have issued and wait on no page go on, or start, in the order of their acceptance (R250, R337). -/
def State.offerPaused (s : State) (q : Nat) : State :=
  (s.quad q).out.foldl (fun s i =>
    if i.paused.isNone || s.awaitsPage q i || s.agenda.contains (.resume q i.id) then s
    else s.push (.resume q i.id)) s

/-- A quad that issues again: its heads are offered, its waiting commands go on, its banks fill (R381, R389, R392). -/
def State.restart (s : State) (q : Nat) : State := ((s.offerAll q).offerPaused q).refill (quadCores q)

/-- COMMAND_COMPLETION: the flags are ORed into FX, and the hazards on its units clear (R129, R195, R250). Number 0,
which no command has, stands for a retry after a replay filter was full (R289). -/
def execCommandCompletion (core id : Nat) (s : State) : Outcome :=
  let q := quadOf core
  .next (match (s.quad q).out.find? fun i => i.id == id with
    | none => s.offerPaused q
    | some i =>
      let s := s.modQuad q fun k => { k with out := k.out.filter fun j => j.id != id }
      let s := if i.remote then s else s.addFlags i.sfp i.fx
      ((s.post (.qtagAdvance core)).offerPaused q).offerAll q)

/-- Whether every command of a strand up to a number has completed (R202). -/
def Quad.allDone (q : Quad) (sfp : Word) (upto : Nat) : Bool :=
  !(q.out.any fun i => i.sfp == sfp && !i.remote && i.id ≤ upto)

/-- The first tag of a list that takes effect; the tags of a strand with a fault, and of one whose earlier tag waits, do
not (R198, R202). -/
def State.dueTag (s : State) (q : Quad) (blocked : List Word) : List Tag → Option Tag
  | [] => none
  | t :: r =>
    if !blocked.contains t.sfp && s.qerrOf t.sfp == 0 && q.allDone t.sfp t.after then some t
    else s.dueTag q (t.sfp :: blocked) r

/-- QTAG_ADVANCE: a tag whose strand's earlier commands have completed adds 1 to QPROG (R202). -/
def execQtagAdvance (core : Nat) (s : State) : Outcome :=
  .next (match s.dueTag (s.quad (quadOf core)) [] (s.core core).tags with
    | none => s
    | some t =>
      let s := s.modCore core fun k => { k with tags := k.tags.erase t }
      (match s.residentOf t.sfp with
        | some p => s.modStrand p fun st => { st with qprog := st.qprog + 1 }
        | none => s).post (.qtagAdvance core))

/-- A queue-control command that issues at once. -/
def State.atOnce (s : State) (tags : Nat) : State :=
  (List.range tags).foldl (fun s _ => s.addTag s.ctx.core s.ctx.sfp none) s.dropHead

/-- QNOP (R202). -/
def execQnop (tagged : Bool) (_ : QueueF) (_ : Slots) (s : State) : Outcome :=
  .next (s.atOnce (if tagged then 1 else 0))

/-- QTAG (R202). -/
def execQtag (tagged : Bool) (_ : QueueF) (_ : Slots) (s : State) : Outcome :=
  .next (s.atOnce (if tagged then 2 else 1))

/-- QORD holds the head until every earlier command of its strand has completed (R202). -/
def execQord (tagged : Bool) (_ : QueueF) (_ : Slots) (s : State) : Outcome :=
  .next (if (s.quad s.ctx.quad).out.any fun i => i.sfp == s.ctx.sfp && !i.remote then s
    else s.atOnce (if tagged then 1 else 0))

/-! ## REP (R203) -/

/-- The captured commands of a REP at the head of a queue: the next `m` of its strand, when they are there. -/
def Core.capture (k : Core) (sfp : Word) (m : Nat) : Option (List QEntry) :=
  let l := (k.queue.tail.filter fun e => e.sfp == sfp).take m
  if l.length = m then some l else none

/-- REP: it captures the next m commands of its strand, holding the head until they are in the queue; a captured REP is
undefined, and one that a drain found short of its capture is discarded (R203, R219). -/
def execRep (_ : Bool) (f : QueueF) (sl : Slots) (s : State) : Outcome :=
  let x := s.ctx
  let m := f.m.toNat + 1
  .next (if x.inRep || s.headEntry.any (·.short) then s.engineFault 0x01 0 3
    else
      match (s.core x.core).capture x.sfp m with
      | none => s
      | some l =>
        (s.modCore x.core fun k =>
          { k with rep := some ⟨f.n.toNat + 1, m, f.stagger, sl.a, sl.b, x.sfp, l, 0, 0⟩ }).post (.repInstance x.core))

/-- Which of VD, VA, VB, VC a vector command uses as vreg fields (R226). -/
def vregFields (op : Nat) : Bool × Bool × Bool × Bool :=
  match op with
  | 0x02 | 0x05 => (true, false, true, false)
  | 0x08 | 0x0A | 0x0B | 0x11 => (true, true, true, false)
  | 0x09 | 0x12 => (true, true, true, true)
  | 0x0C => (true, true, false, true)
  | 0x0D | 0x0E | 0x0F | 0x10 => (true, true, false, false)
  | _ => (true, false, false, false)

/-- A 5-bit field of a command word stepped by a stagger. -/
def stepVreg (w : BitVec 256) (lo : Nat) (step : BitVec 5) : BitVec 256 :=
  let v : BitVec 5 := w.extractLsb' lo 5 + step
  (w &&& ~~~((31#256) <<< lo)) ||| (v.setWidth 256 <<< lo)

/-- A command word with its vreg fields stepped (R203, R204, R225, R226): VB is operand b's register only where SC is 0
(R238), and VC of a VCVT only where a block type uses it (R243); a field that those rules have zero is not stepped (DESIGN CHOICE,
log entry 62). -/
def staggered (w : BitVec 256) (step : BitVec 5) : BitVec 256 :=
  let op := opOf w
  match engOf w with
  | 1 => if op = 1 ∨ op = 2 then stepVreg w 212 step else w
  | 2 =>
    let u := vregFields op
    let sc := (op == 0x08 || op == 0x0A) && w.getLsbD 192
    let unary := op == 0x08 && ((w.extractLsb' 203 5).toNat == 8 || (w.extractLsb' 203 5).toNat == 9 ||
      (w.extractLsb' 203 5).toNat == 13)
    let blocks := blockType (w.extractLsb' 208 5) || blockType (w.extractLsb' 197 5)
    let w := if u.1 then stepVreg w 235 step else w
    let w := if u.2.1 then stepVreg w 230 step else w
    let w := if u.2.2.1 && !sc && !unary then stepVreg w 225 step else w
    if u.2.2.2 && (op != 0x0C || blocks) then stepVreg w 220 step else w
  | _ => w

/-- The instance (i, j) of a repetition (R203). -/
def Rep.instanceAt (r : Rep) : Option QEntry :=
  (r.captured[r.j]?).map fun e =>
    let w := staggered e.word (BitVec.ofNat 5 r.i * r.stagger)
    let a : Word := w.extractLsb' 0 64 + BitVec.ofNat 64 r.i * r.da
    let b : Word := w.extractLsb' 64 64 + BitVec.ofNat 64 r.i * r.db
    { e with word := w.extractLsb' 128 128 ++ b ++ a }

/-- A queue without its head and the first `m` later entries of a strand. -/
def dropCaptured (sfp : Word) : Nat → List QEntry → List QEntry
  | 0, l => l
  | _ + 1, [] => []
  | n + 1, e :: r => if e.sfp = sfp then dropCaptured sfp n r else e :: dropCaptured sfp (n + 1) r

/-- REP_INSTANCE: the next instance stands at the head; after the last, the REP and its captured commands leave the
queue (R203). -/
def execRepInstance (core : Nat) (s : State) : Outcome :=
  .next (match (s.core core).rep with
    | none => s.pushOffer core
    | some r =>
      if (s.core core).latch.isSome then s
      else if r.i < r.n then (s.modCore core fun k => { k with latch := r.instanceAt }).pushOffer core
      else
        (s.modCore core fun k =>
          { k with rep := none, queue := dropCaptured r.sfp r.m k.queue.tail }).pushOffer core)

/-! ## Offering and issuing the head -/

/-- The context of the command at the head of a core's queue. -/
def State.headCtx (s : State) (core : Nat) (e : QEntry) : Ctx :=
  match (s.core core).latch, (s.core core).rep with
  | some _, some r => { Ctx.plain core (quadOf core) e.sfp e.priv with inRep := true, iter := r.i, cidx := r.j }
  | _, _ => .plain core (quadOf core) e.sfp e.priv

/-- Whether the engines of a quad do nothing: it is moving past its boundary, gated, stopped by a fatal error, or no operating point
is present for it (R376, R389, R392, R409). -/
def State.frozen (s : State) (q : Nat) : Bool :=
  let k := s.quad q
  k.fatal || k.gate == .gated || !s.anyPoint q || k.move.any fun m => m.bounded

/-- Whether a quad issues nothing: it is frozen, or held at its start, while what its engines have been issued runs on (R381, R382). -/
def State.stopped (s : State) (q : Nat) : Bool := s.frozen q || (s.quad q).held

/-- The command at the head of a core's queue that issues, and the state with its context; none where the head has been
discarded. -/
def State.issueOf (s : State) (core : Nat) : Option (Instr × State) :=
  match (s.core core).head with
  | none => none
  | some e =>
    if s.stopped (quadOf core) || s.qerrOf e.sfp != 0 then none
    else e.decode.map fun i => (i, { s with ctx := s.headCtx core e })

/-! ## CMD, CMDR, QWAIT -/

/-- A command instruction after its inline words: a fetch fault on one ranks before the engine fault (R171, R172, R310; DEDUCED, log
entry 13). -/
def State.withCommand (s : State) (p : Patch) (rs1 rs2 : Reg) (f : State → QEntry → State) : State :=
  let s := s.meetWords (s.pc + 32) 8
  match s.fetchWords (s.pc + 32) 8 with
  | .error e => s.fetchFailed e.1 e.2
  | .ok w =>
    let q := (s.strand s.here).qerr
    if q ≠ 0 then s.trap .engine q else f s (s.buildCommand p rs1 rs2 w)

/-- Whether any command in a core's queue is a vector command (R350). -/
def Core.queuesVector (k : Core) : Bool :=
  k.queue.any (fun e => engOf e.word == 2) || k.latch.any fun e => engOf e.word == 2

/-- The deficit of a core whose queue holds no vector command is 0 (R350). -/
def State.idleDeficit (s : State) (core : Nat) : State :=
  if (s.core core).queuesVector then s
  else s.modQuad (quadOf core) fun q => { q with deficit := q.deficit.setIfInBounds (indexInQuad core) 0 }

/-- CMD (R171). -/
def execCmd (p : Patch) (rs1 rs2 : Reg) (s : State) : Outcome :=
  .next (s.withCommand p rs1 rs2 fun s e =>
    if 64 ≤ (s.core s.cur).queue.length then s.stall .other 0 0
    else
      (((s.idleDeficit s.cur).modCore s.cur fun k => { k with queue := k.queue ++ [e] }).pushOffer s.cur).resume.setPc
        (s.pc + 288))

/-- The quad a capability names: QY in bits 47:40, QX in bits 39:32 (R220). -/
def capQuad (c : Word) : Nat := 512 * (c.extractLsb' 40 8).toNat + (c.extractLsb' 32 8).toNat

/-- Whether a capability's quad lies in the partition (R220). -/
def Partition.capInside (p : Partition) (c : Word) : Bool :=
  p.inside (2 * (c.extractLsb' 32 8).toNat) (2 * (c.extractLsb' 40 8).toNat)

/-- CMDR (R172, R220): the sender's core rejects a quad outside the partition; a command for another quad is off-core
(R99). -/
def execCmdr (p : Patch) (rs1 rs2 : Reg) (s : State) : Outcome :=
  .next (s.withCommand p rs1 rs2 fun s e =>
    let cap : Word := e.word.extractLsb' 128 64
    let t := s.setPc (s.pc + 288)
    if s.part.capInside cap then
      let t := t.post (.remoteCommand (capQuad cap) ⟨s.here, e.sfp, e.priv, e.word, e.ua, e.ub⟩)
      if capQuad cap = quadOf s.cur then t else t.traffic.switch s.cur
    else t.lateFault e.sfp (qerrWord 0x09 (engOf e.word) (opOf e.word) 0 0 false true))

/-- Tags a command word brings: QTAG, and the TAGGED flag (R202). -/
def tagsOf (w : BitVec 256) : Nat :=
  (if engOf w = 0 ∧ opOf w = 1 then 1 else 0) + (if w.getLsbD 242 then 1 else 0)

/-- Tags of a strand's queued commands: those a REP captures count once for each repetition (R173, R203). -/
def queuedTags (sfp : Word) : List QEntry → (left reps : Nat) → Nat
  | [], _, _ => 0
  | e :: r, left, reps =>
    if e.sfp ≠ sfp then queuedTags sfp r left reps
    else if 0 < left then reps * tagsOf e.word + queuedTags sfp r (left - 1) reps
    else if engOf e.word = 0 ∧ opOf e.word = 3 then
      queuedTags sfp r ((e.word.extractLsb' 225 3).toNat + 1) ((e.word.extractLsb' 228 12).toNat + 1)
    else tagsOf e.word + queuedTags sfp r 0 1

/-- The tags that the instances a repetition has not issued bring. -/
def Rep.tagsLeft (r : Rep) : Nat :=
  ((List.range r.captured.length).map fun j =>
    (r.n - r.i - (if j < r.j then 1 else 0)) * ((r.captured[j]?).map fun e => tagsOf e.word).getD 0).sum

/-- The number of a strand's pending tags (R173). -/
def Core.pendingTags (k : Core) (sfp : Word) : Nat :=
  (k.tags.filter fun t => t.sfp == sfp).length +
    (match k.rep with
      | some r =>
        if r.sfp = sfp then r.tagsLeft + queuedTags sfp (dropCaptured sfp r.m k.queue.tail) 0 1
        else queuedTags sfp k.queue 0 1
      | none => queuedTags sfp k.queue 0 1)

/-- QWAIT; a wait without a tag is a fault of the strand's queue, which discards what stands there (R173, R198). -/
def execQwait (rs1 : Reg) (s : State) : Outcome :=
  let st := s.strand s.here
  let w := s.reg rs1
  .next (if st.qerr ≠ 0 then s.trap .engine st.qerr
    else if (st.qprog - w).toNat < 2 ^ 63 then s.resume.advance
    else if (s.core s.cur).pendingTags st.sfp < (w - st.qprog).toNat then
      let q := qerrWord 0x0E 0 0 0 0 false false
      (s.lateFault st.sfp q).trap .engine q
    else s.stall .other 0 0)

/-! ## Draining (R97, R98, R219, R322) -/

/-- The entries of a queue with the REPs of a strand that are short of their capture marked: those after which fewer commands of
the strand stand than it captures; `vec` marks one only where a vector register is written behind it. -/
def markShort (sfp : Word) (vec : Bool) : List QEntry → List QEntry
  | [] => []
  | e :: r =>
    let mine := r.filter fun x => x.sfp == sfp
    let short : Bool := e.sfp == sfp && engOf e.word == 0 && opOf e.word == 3 &&
      decide (mine.length < (e.word.extractLsb' 225 3).toNat + 1) && (!vec || mine.any fun x => writesVector x.word)
    (if short then { e with short := true } else e) :: markShort sfp vec r

/-- A command that waits on a page discarded by a drain, with cause 0x06 (R337). -/
def State.discardPaused (s : State) (q : Nat) (i : Issued) : State :=
  match i.paused with
  | none => s
  | some e =>
    { s.modCluster (clusterOf i.core) (·.forgetCommand i.id) with ctx := { e.1 with quad := q } }.failIssued 0x06
      (engOf e.2.word) (opOf e.2.word) i.id

/-- The commands of a strand of a core drain, all of them or those that write vector registers: what the drain finds waiting on
a page, and a REP short of its capture, is discarded (R97, R98, R219, R322, R337). -/
def State.beginDrain (s : State) (core : Nat) (sfp : Word) (vec : Bool) : State :=
  if (s.core core).draining.contains (sfp, vec) then s
  else
    let q := quadOf core
    let waiting := (s.quad q).out.filter fun i =>
      i.sfp == sfp && !i.remote && s.awaitsPage q i && (!vec || i.writes.any (· < 32))
    let s := s.modCore core fun k =>
      { k with draining := k.draining ++ [(sfp, vec)], queue := markShort sfp vec k.queue }
    (waiting.foldl (fun s i => s.discardPaused q i) s).pushOffer core

/-- What a strand does once its commands have drained, all of them or those that write vector registers; until then it waits at
its instruction (R97, R98, R178, R219). -/
def State.whenDrained (s : State) (vec : Bool) (f : State → State) : State :=
  let sfp := (s.strand s.here).sfp
  if (if vec then s.mustDrainVectors else s.mustDrain) then (s.beginDrain s.cur sfp vec).stall .other 0 0
  else f (s.closeDrain s.cur (sfp, vec))

/-! ## Remote commands (R220, R221) -/

/-- Whether a remote command is one the target accepts: press commands in their remote forms, CPY.rb, CFILL.rb and RETN,
untagged (R221). -/
def remoteForm (w : BitVec 256) : Bool :=
  !w.getLsbD 242 &&
    (match engOf w, opOf w with
      | 3, _ => true
      | 4, 0 => w.getLsbD 238
      | 4, 1 => w.getLsbD 238
      | 4, 4 => true
      | _, _ => false)

/-- A remote command refused: the cause goes to the sender's QERR with REM = 1 (R220, R221). -/
def State.refuseRemote (s : State) (r : Remote) (cause : Nat) : State :=
  s.lateFault r.sfp (qerrWord cause (engOf r.word) (opOf r.word) 0 0 false true)

/-- When the last command of a sender to a quad that was answered busy is sent again, `all` counting those that are due
now: a later command of the sender waits behind it, for commands of one sender keep their order (R221). -/
def State.senderWaits (s : State) (q : Nat) (r : Remote) (all : Bool) : Option Nat :=
  s.timers.foldl (fun o e => match e.2 with
    | .remoteBusyRetry p x _ => if p == q && x.sfp == r.sfp && (all || s.now < e.1) then some e.1 else o
    | _ => o) none

/-- The context of a remote command at its target; `admitted` says that its checks were made on arrival (R253). -/
def remoteContext (r : Remote) (q : Nat) (admitted : Bool) : Ctx :=
  { Ctx.plain r.src.core q r.sfp r.priv with remote := true, arrived := admitted }

/-- The first remote command of a quad that issues, and the state with its context (R221). -/
def State.remoteIssueOf (s : State) (q : Nat) : Option (Instr × State) :=
  match (s.quad q).remote with
  | [] => none
  | r :: _ =>
    if s.stopped q then none
    else (remoteEntry r).decode.map fun i => (i, { s with ctx := remoteContext r q true })

/-- An undefined remote command at the head is refused (R194, R221). -/
def State.dropUndefinedRemote (s : State) (q : Nat) : State :=
  match (s.quad q).remote with
  | [] => s
  | r :: _ =>
    if (remoteEntry r).decode.isNone then
      { s with ctx := remoteContext r q false }.engineFault 0x01 (engOf r.word) (opOf r.word)
    else s

/-- PEER_FAULT_RETURN: an address fault returned by a peer is recorded with cause 0x0F (R59, R198, R199). A scalar access is
no command: the other fields of QERR are zero (DESIGN CHOICE, log entry 58). -/
def execPeerFaultReturn (p : Place) (sfp : Word) (s : State) : Outcome :=
  let q := qerrWord 0x0F 0 0 0 0 false false
  .next (if (s.bank p).live && (s.strand p).sfp == sfp then
      ((s.modStrand p (·.fault q)).modCore p.core (·.discard sfp)).pushOffer p.core
    else s.lateFault sfp q)

end Sys2Proof.Machine
end

