-- ==== Sys2Proof/Machine/Pointer.lean ====
section
/-! DEFINITION. Pointer arithmetic (R150–R158). -/

namespace Sys2Proof.Machine

/-- The offset field's width in a space (R150); it starts at bit 0. -/
def offsetWidth (sp : Nat) : Nat :=
  match sp with
  | 1 => 61 | 3 => 37 | _ => 24

/-- The offset field of an address (R150). -/
def offsetOf (a : Word) : Nat := a.toNat % 2 ^ offsetWidth (space a)

/-- setf(a, n): the address with its offset field replaced (R152). -/
def setOffset (a : Word) (n : Nat) : Word := a - BitVec.ofNat 64 (offsetOf a) + BitVec.ofNat 64 n

/-- An address with bits from `lo` up, `n` of them, replaced. -/
def setBits (a : Word) (lo n v : Nat) : Word :=
  a - BitVec.ofNat 64 ((a.toNat / 2 ^ lo % 2 ^ n) * 2 ^ lo) + BitVec.ofNat 64 (v % 2 ^ n * 2 ^ lo)

/-- The lowest bits of X, Y and LAYER in a space (R150). -/
def fieldLows (sp : Nat) : Nat × Nat × Nat := if sp = 4 then (39, 29, 25) else (51, 41, 37)

/-- A 10-bit coordinate field as the pair form holds it: signed in space 010, unsigned elsewhere (R150, R156). -/
def coordOf (a : Word) (lo : Nat) : BitVec 32 :=
  if space a = 2 then (a.extractLsb' lo 10).signExtend 32 else (a.extractLsb' lo 10).setWidth 32

/-- A result, or the fault of a pointer instruction. -/
abbrev PtrResult := Except Flt Word

/-- PADD (R153). -/
def padd (w : Nat) (a : Word) (i : Int) : PtrResult :=
  if 5 ≤ space a then .error ⟨.space, a⟩
  else
    let n : Int := offsetOf a + i * w
    if n < 0 ∨ 2 ^ offsetWidth (space a) ≤ n then .error ⟨.bounds, a⟩ else .ok (setOffset a n.toNat)

/-- PDIFF (R154). -/
def pdiff (w : Nat) (a b : Word) : PtrResult :=
  if 5 ≤ space a then .error ⟨.space, a⟩
  else if 5 ≤ space b then .error ⟨.space, b⟩
  else if a.toNat / 2 ^ offsetWidth (space a) ≠ b.toNat / 2 ^ offsetWidth (space a) then .error ⟨.bounds, b⟩
  else
    let d : Int := (offsetOf a : Int) - offsetOf b
    if d % w ≠ 0 then .error ⟨.misaligned, a⟩ else .ok (BitVec.ofInt 64 (d / w))

/-- The aligned offset of PALN (R155). -/
def alignOffset (w c off : Nat) : Nat :=
  if c = 0 ∧ packedWidth w then (if off / 64 ≠ (off + w - 1) / 64 then 64 * (off / 64 + 1) else off)
  else
    let unit := match c with
      | 0 => w | 1 => 64 | 2 => 256 | _ => 512
    unit * ((off + unit - 1) / unit)

/-- PALN (R155). -/
def paln (w c : Nat) (a : Word) : PtrResult :=
  if 5 ≤ space a then .error ⟨.space, a⟩
  else
    let n := alignOffset w c (offsetOf a)
    if 2 ^ offsetWidth (space a) ≤ n then .error ⟨.bounds, a⟩ else .ok (setOffset a n)

/-- Spaces without coordinates are refused (R150, R156, R157). -/
def hasCoords (a : Word) : Bool := space a != 1 && decide (space a < 5)

/-- PXY (R156). -/
def pxy (a : Word) : PtrResult :=
  if !hasCoords a then .error ⟨.space, a⟩
  else
    let f := fieldLows (space a)
    .ok (coordOf a f.2.1 ++ coordOf a f.1)

/-- PSETXY (R156). -/
def psetxy (a b : Word) : PtrResult :=
  if !hasCoords a then .error ⟨.space, a⟩
  else
    let nx := (b.extractLsb' 0 32).toInt
    let ny := (b.extractLsb' 32 32).toInt
    let ok (n : Int) : Bool := if space a = 2 then -512 ≤ n && n ≤ 511 else 0 ≤ n && n ≤ 1023
    if !(ok nx && ok ny) then .error ⟨.bounds, a⟩
    else
      let f := fieldLows (space a)
      .ok (setBits (setBits a f.1 10 (nx % 1024).toNat) f.2.1 10 (ny % 1024).toNat)

/-- PLAY (R157). -/
def play (a : Word) : PtrResult :=
  if !hasCoords a then .error ⟨.space, a⟩
  else .ok ((a.extractLsb' (fieldLows (space a)).2.2 4).setWidth 64)

/-- PLAY.S (R157). -/
def playSet (a b : Word) : PtrResult :=
  if !hasCoords a then .error ⟨.space, a⟩
  else if 15 < b.toNat then .error ⟨.bounds, a⟩
  else .ok (setBits a (fieldLows (space a)).2.2 4 b.toNat)

/-- PREL.A on a core (R158). -/
def prelAbs (p : Partition) (core : Nat) (a : Word) : PtrResult :=
  match space a with
  | 0 => .ok a
  | 2 => match resolveRel p core a with
    | some b => .ok b
    | none => .error ⟨.bounds, a⟩
  | _ => .error ⟨.space, a⟩

/-- PREL.R on a core (R158). -/
def prelRel (core : Nat) (a : Word) : PtrResult :=
  match space a with
  | 2 => .ok a
  | 0 =>
    let dx : Int := (meshX a : Int) - coreX core
    let dy : Int := (meshY a : Int) - coreY core
    if dx < -512 ∨ 511 < dx ∨ dy < -512 ∨ 511 < dy then .error ⟨.bounds, a⟩
    else
      .ok (BitVec.ofNat 64 (2 * 2 ^ 61 + (dx % 1024).toNat * 2 ^ 51 + (dy % 1024).toNat * 2 ^ 41 +
        (a.extractLsb' 0 41).toNat))
  | _ => .error ⟨.space, a⟩

/-- A pointer instruction completes with its result or takes its fault (R137, R151). -/
def State.pointer (s : State) (rd : Reg) (r : PtrResult) : State :=
  match r with
  | .ok v => s.complete rd v
  | .error f => s.trapAt s.here f

/-- PADD (R153). -/
def execPadd (w : Width) (rd rs1 rs2 : Reg) (s : State) : Outcome :=
  .next (s.pointer rd (padd (bitsOf w) (s.reg rs1) (s.reg rs2).toInt))

/-- PDIFF (R154). -/
def execPdiff (w : Width) (rd rs1 rs2 : Reg) (s : State) : Outcome :=
  .next (s.pointer rd (pdiff (bitsOf w) (s.reg rs1) (s.reg rs2)))

/-- PALN (R155). -/
def execPaln (w : Width) (rd rs1 : Reg) (c : BitVec 2) (s : State) : Outcome :=
  .next (s.pointer rd (paln (bitsOf w) c.toNat (s.reg rs1)))

/-- PXY (R156). -/
def execPxy (rd rs1 : Reg) (s : State) : Outcome := .next (s.pointer rd (pxy (s.reg rs1)))

/-- PSETXY (R156). -/
def execPsetxy (rd rs1 rs2 : Reg) (s : State) : Outcome :=
  .next (s.pointer rd (psetxy (s.reg rs1) (s.reg rs2)))

/-- PLAY (R157). -/
def execPlay (rd rs1 : Reg) (s : State) : Outcome := .next (s.pointer rd (play (s.reg rs1)))

/-- PLAY.S (R157). -/
def execPlayS (rd rs1 rs2 : Reg) (s : State) : Outcome :=
  .next (s.pointer rd (playSet (s.reg rs1) (s.reg rs2)))

/-- PREL.A (R158). -/
def execPrelA (rd rs1 : Reg) (s : State) : Outcome :=
  .next (s.pointer rd (prelAbs s.part s.cur (s.reg rs1)))

/-- PREL.R (R158). -/
def execPrelR (rd rs1 : Reg) (s : State) : Outcome := .next (s.pointer rd (prelRel s.cur (s.reg rs1)))

end Sys2Proof.Machine
end

