-- ==== Sys2Proof/Machine/Scheduling.lean ====
section
/-! DEFINITION. Residency: filling banks (R101, R349), loading and writing back records (R96, R98, R319–R321), stealing
(R104, R107, R347, R348), the wait tables and partition traps (R115, R116, R314). -/

namespace Sys2Proof.Machine

/-! ## Filling banks -/

/-- A free bank of a core. -/
def Core.freeBank (k : Core) : Option (Fin 4) := (List.finRange 4).find? fun b => !(k.banks[b]).live

/-- Whether a core loads no record and starts no task: QCTL.HOLD, PCTL.HOLD, a quad that is frozen or not powered, or no
partition; a quad whose start is held fills its banks, and issues nothing (R309, R381). -/
def State.holding (s : State) (core : Nat) : Bool :=
  s.onHold (quadOf core) || s.frozen (quadOf core) || (s.quad (quadOf core)).gate != .on || !s.part.live

/-- Whether a parked record may be loaded on a core: runnable, its affinity not another core's, its CAUSE not that of a
double fault (R101, R313, R349). -/
def loadableBits (core : Nat) (b : BitVec 512) : Bool :=
  b.extractLsb' 432 8 != 0x14 &&
    (!b.getLsbD 443 || ((b.extractLsb' 406 10).toNat == coreX core && (b.extractLsb' 396 10).toNat == coreY core))

/-- The records of a core that may be loaded, in the order of age, each with its bits. -/
def State.loadable (s : State) (core : Nat) : List (Parked × BitVec 512) :=
  (s.core core).parked.filterMap fun r =>
    if r.runnable then
      match s.parkedBits core r with
      | some b => if loadableBits core b then some (r, b) else none
      | none => none
    else none

/-- The oldest of the highest PRIO (R101). -/
def bestRecord (l : List (Parked × BitVec 512)) : Option (Parked × BitVec 512) :=
  l.foldl (fun o e =>
    match o with
    | none => some e
    | some f => if (f.2.extractLsb' 426 2).toNat < (e.2.extractLsb' 426 2).toNat then some e else o) none

/-- A core that has nothing to load or start sends a steal request, unless one is outstanding or it waits for its next
round (R347). -/
def State.beginSteal (s : State) (core : Nat) : State :=
  let k := s.core core
  if k.steal.isSome || k.stealIdle then s
  else (s.modCore core fun k => { k with steal := some 0 }).post (.stealRequest core)

/-- A strand has come to a bank of a core: where its quad was empty before, in state `before`, that is a start (R381). -/
def State.entered (s : State) (before : State) (core : Nat) : State :=
  if before.quadEmpty (quadOf core) then s.beginStart (quadOf core) else s

/-- BANK_FILL: a free bank takes the best runnable record, or a task from the deque, or the core steals (R101, R349); with
an empty frame pool neither pops nor steals (R95). -/
def execBankFill (core : Nat) (s : State) : Outcome :=
  let q := quadOf core
  let full (t : State) : State :=
    (((t.modCore core fun k => { k with stealIdle := false }).dropRound core).entered s core).post (.bankFill core)
  .next (match (s.core core).freeBank with
    | none => s
    | some b =>
      if (s.quad q).gate != .on && (s.core core).hasWork then
        (match (s.quad q).gate with
          | .requested => (s.wakeQuad q).post (.bankFill core)
          | _ => s.wakeQuad q)
      else if s.holding core then s
      else
        match bestRecord (s.loadable core) with
        | some (r, _) =>
          let u := s.meetParked core r
          match (u.unpark core r).loadRecord ⟨core, b⟩ ((u.parkedBits core r).getD 0) with
          | some t => full t
          | none => u
        | none =>
          if (s.core core).fphead >>> 9 = 0 then s
          else
            match s.dequePop core with
            | none => s.beginSteal core
            | some (r, _) =>
              match s.startTask ⟨core, b⟩ r with
              | (t, true) =>
                match t.dequePop core with
                | some (_, u) => full u
                | none => t
              | (t, false) => t)

/-! ## Resuming (R96, R310) -/

/-- The cause of a code (R310). -/
def causeOf (c : BitVec 8) : Cause :=
  match c.toNat with
  | 0x01 => .fetch | 0x02 => .illegal | 0x03 => .privilege | 0x04 => .space | 0x05 => .bounds
  | 0x06 => .misaligned | 0x07 => .translation | 0x08 => .track | 0x09 => .fullEmpty | 0x0A => .putOnFull
  | 0x0B => .task | 0x0C => .barrier | 0x0D => .route | 0x0E => .pool | 0x0F => .kv | 0x10 => .engine
  | 0x11 => .breakpoint | 0x12 => .ecallU | 0x13 => .ecallS | _ => .doubleFault

/-- The address, target or operand that a fault of an instruction of a strand on a core names (R310); for the pointer
instructions that of their own fault. -/
def addressIn (core : Nat) (p : Partition) (st : Strand) : Instr → Word
  | .ld w _ rs1 i | .lds w _ rs1 i | .st w _ rs1 i => st.reg rs1 + simm i * BitVec.ofNat 64 (bitsOf w)
  | .ldx w _ rs1 rs2 | .ldxs w _ rs1 rs2 | .stx w _ rs1 rs2 => st.reg rs1 + st.reg rs2 * BitVec.ofNat 64 (bitsOf w)
  | .beq _ _ i | .bne _ _ i | .blt _ _ i | .bge _ _ i | .bltu _ _ i | .bgeu _ _ i => branchTarget st.pc i
  | .jal _ i => jalTarget st.pc i
  | .jalr _ rs1 i => st.reg rs1 + simm i
  | .amoAdd _ _ _ _ rs1 | .amoAnd _ _ _ _ rs1 | .amoOr _ _ _ _ rs1 | .amoXor _ _ _ _ rs1 | .amoMin _ _ _ _ rs1
  | .amoMax _ _ _ _ rs1 | .amoMinn _ _ _ _ rs1 | .amoMaxn _ _ _ _ rs1 | .amoSwap _ _ _ _ rs1
  | .amoFadd _ _ _ _ rs1 | .cas _ _ _ _ rs1 | .take _ _ _ rs1 | .put _ _ _ rs1 | .festat _ rs1
  | .await _ _ _ _ _ rs1 | .takeNb _ _ _ _ rs1 => st.reg rs1
  | .spawn rs1 | .spawnW _ rs1 | .pgfree rs1 | .kvmap _ rs1 _ | .kvmapW _ rs1 _ | .sxmit _ rs1 _ | .sxwait _ rs1
  | .l2pset _ rs1 | .tlbinvPage rs1 | .capmint _ rs1 | .preempt _ rs1 | .qdrain rs1 => st.reg rs1
  | .spawnAt rs1 _ | .spawnAtW _ rs1 _ => st.reg rs1
  | .padd w _ rs1 rs2 => tvalOf (padd (bitsOf w) (st.reg rs1) (st.reg rs2).toInt)
  | .pdiff w _ rs1 rs2 => tvalOf (pdiff (bitsOf w) (st.reg rs1) (st.reg rs2))
  | .paln w _ rs1 c => tvalOf (paln (bitsOf w) c.toNat (st.reg rs1))
  | .pxy _ rs1 => tvalOf (pxy (st.reg rs1))
  | .psetxy _ rs1 rs2 => tvalOf (psetxy (st.reg rs1) (st.reg rs2))
  | .play _ rs1 => tvalOf (play (st.reg rs1))
  | .playS _ rs1 rs2 => tvalOf (playSet (st.reg rs1) (st.reg rs2))
  | .prelA _ rs1 => tvalOf (prelAbs p core (st.reg rs1))
  | .prelR _ rs1 => tvalOf (prelRel core (st.reg rs1))
  | _ => 0
where
  /-- The TVAL of a pointer instruction's fault. -/
  tvalOf (r : PtrResult) : Word :=
    match r with
    | .error f => f.tval
    | .ok _ => 0

/-- Whether an instruction's privilege fault names its word: the privileged instructions and the CSRs (R310). -/
def wordNamed : Instr → Bool
  | .tret | .l2pset _ _ | .tlbinvPage _ | .tlbinvAll | .capmint _ _ | .preempt _ _ | .qdrain _ | .csrrw _ _ _
  | .csrrs _ _ _ | .csrrc _ _ _ | .csrrwi _ _ _ | .csrrsi _ _ _ | .csrrci _ _ _ => true
  | _ => false

/-- The inline word at which a command's fetch fails, or the PC (R310). -/
def State.badFetch (s : State) (core : Nat) (user : Bool) (pc : Word) : Word :=
  (((List.range 9).map fun i => pc + BitVec.ofNat 64 (32 * i)).find? fun a =>
    match s.fetch core user a with
    | .error _ => true
    | .ok _ => false).getD pc

/-- Width and kind of the access of a load or store, the accesses that R62 may split. -/
def plainAccess : Instr → Option (Nat × Access)
  | .ld w _ _ _ | .lds w _ _ _ | .ldx w _ _ _ | .ldxs w _ _ _ => some (bitsOf w, .load)
  | .st w _ _ _ | .stx w _ _ _ => some (bitsOf w, .store)
  | _ => none

/-- The first bit of the part at which an access fails to translate, its own first bit where none does (R62). -/
def State.failingPart (s : State) (core : Nat) (user : Bool) (a : Word) (w : Nat) (acc : Access) : Word :=
  let parts := splitParts (a.extractLsb' 0 61).toNat w
  ((parts.map fun o => a + BitVec.ofNat 64 o.1).find? fun b =>
    match translatePart (s.translation core acc) acc user b 1 with
    | .ok _ _ => false
    | _ => true).getD a

/-- The core that a pair of signed coordinates names; none outside the partition (R175). -/
def Partition.pairCore (p : Partition) (v : Word) : Option Nat :=
  let x := (v.extractLsb' 0 32).toInt
  let y := (v.extractLsb' 32 32).toInt
  if x < 0 ∨ y < 0 then none else if p.inside x.toNat y.toNat then some (coreId x.toNat y.toNat) else none

/-- x[rs2] of a SPAWN.AT whose target lies outside the partition, a fault that ranks behind those of the record's own address;
none for any other fault (R175). -/
def State.spawnTval (s : State) (core : Nat) (st : Strand) (code : BitVec 8) (i : Instr) : Option Word :=
  let target (rs1 rs2 : Reg) : Option Word :=
    match s.locate core (!st.priv) false .load (st.reg rs1) 512 512 with
    | .flt _ => none
    | _ => if code = 0x05 ∧ (s.part.pairCore (st.reg rs2)).isNone then some (st.reg rs2) else none
  match i with
  | .spawnAt rs1 rs2 => target rs1 rs2
  | .spawnAtW _ rs1 rs2 => target rs1 rs2
  | _ => none

/-- TVAL of a fault that a record carries, computed again from the instruction, the registers and QERR (R96, R310, R321). -/
def State.tvalAgain (s : State) (core : Nat) (st : Strand) (code : BitVec 8) : Word :=
  match s.fetch core (!st.priv) st.pc with
  | .error _ => st.pc
  | .ok w =>
    let a := match decodeWord w with
      | some i => (s.spawnTval core st code i).getD (addressIn core s.part st i)
      | none => 0
    let named := match decodeWord w with
      | some i => wordNamed i
      | none => true
    match code.toNat with
    | 0x01 => s.badFetch core (!st.priv) st.pc
    | 0x02 | 0x08 | 0x0C | 0x0D => w.setWidth 64
    | 0x03 => if named then w.setWidth 64 else a
    | 0x10 => st.qerr
    | 0x11 => st.pc
    | 0x12 | 0x13 | 0x14 => 0
    | 0x07 =>
      match (decodeWord w).bind plainAccess with
      | some (n, acc) => s.failingPart core (!st.priv) a n acc
      | none => a
    | _ => a

/-- RECORD_LOAD_DONE: the strand resumes; a non-zero CAUSE is taken as that fault before its first instruction (R96). -/
def execRecordLoadDone (p : Place) (s : State) : Outcome :=
  .next (if (s.bank p).live && (s.bank p).status == .reply .other 0 0 then
      let st := s.strand p
      let s := (s.setStatus p .running).modStrand p fun st => { st with cause := 0 }
      if st.cause = 0 then s else s.trapAt p ⟨causeOf st.cause, s.tvalAgain p.core st st.cause⟩
    else s)

/-! ## Writing back (R98, R319–R321) -/

/-- Whether a runnable record waits for a bank of a core: since when at the latest, 0 for any. -/
def State.wanting (s : State) (core : Nat) (cycles : Nat) : Bool :=
  (s.core core).freeBank.isNone && (s.loadable core).any fun e => e.1.since + cycles ≤ s.now

/-- The waits that are suspension points (R97). -/
def Status.suspended : Status → Bool
  | .reply .take _ _ | .reply .await _ _ | .reply .spawn _ _ | .stalled .bwait _ _ => true
  | _ => false

/-- The full number of the phase that BPEND records for a channel: the one kept beside it, or the latest that BPEND can mean
(R109, log entry 9). -/
def recordedPhase (bpend : Word) (joined : Tbl Nat) (ch now : Nat) : Option Nat :=
  if bpend.getLsbD (4 * ch + 3) then
    let r := nibble bpend ch % 8
    match joined.find ch with
    | some n => some (if n % 8 = r then n else now - (now + 8 - r) % 8)
    | none => some (now - (now + 8 - r) % 8)
  else none

/-- A channel. -/
def State.channel (s : State) (ch : Nat) : Channel := s.part.channels.get ⟨0, none⟩ ch

/-- Whether a strand's recorded phase of a channel has not been released (R109). -/
def State.phaseAwaited (s : State) (st : Strand) (ch : Nat) : Bool :=
  (recordedPhase st.bpend st.joined ch (s.channel ch).phase).any fun n => (s.channel ch).phase ≤ n

/-- Whether the wait of a strand is complete, though it has not issued again: the phase of its BWAIT is released (R98). -/
def State.waitOver (s : State) (st : Strand) : Status → Bool
  | .stalled .bwait a _ => !s.phaseAwaited st a.toNat
  | _ => false

/-- RECORD_WRITEBACK: a strand that has left a suspension point, or waits at one, is written back once its queue has
drained (R98, R319). -/
def execRecordWriteback (p : Place) (s : State) : Outcome :=
  let b := s.bank p
  .next (if !b.live || b.strand.trap then s
    else if b.status = .stopped false ∨ (b.status = .running ∧ b.mark.isSome) then
      if s.busy p.core b.strand.sfp then
        (((s.setStatus p (.stopped false)).beginDrain p.core b.strand.sfp false).after 64 (.recordWriteback p)).switch p.core
      else s.park p false true .running
    else if b.status.suspended && (b.mark.isSome || s.wanting p.core 0) then
      if s.busy p.core b.strand.sfp then
        (s.beginDrain p.core b.strand.sfp false).after 64 (.recordWriteback p)
      else if s.waitOver b.strand b.status then s.park p false true .running
      else s.park p false false b.status
    else s.endDrain p.core b.strand.sfp)

/-- WAIT_WRITEBACK_TIMEOUT: a waiting strand is written back when a runnable record has waited 1,024 cycles (R98). -/
def execWaitWritebackTimeout (p : Place) (s : State) : Outcome :=
  let b := s.bank p
  .next (if b.live && b.status.suspended then
      let s := s.after 1024 (.waitWritebackTimeout p)
      if s.wanting p.core 1024 && !b.strand.trap then s.post (.recordWriteback p) else s
    else s)

/-- ISSUE_GUARD_EXPIRY: the core passes to its next ready bank (R99). -/
def execIssueGuardExpiry (core : Nat) (s : State) : Outcome := .next (s.switch core)

/-! ## Stealing -/

/-- Insertion into a list kept in the order of a key. -/
def insertBy (f : Nat → Nat) (k : Nat) : List Nat → List Nat
  | [] => [k]
  | a :: r => if f k < f a then k :: a :: r else a :: insertBy f k r

/-- A list in the order of a key, equal keys in the order given. -/
def sortBy (f : Nat → Nat) (l : List Nat) : List Nat := l.foldl (fun r k => insertBy f k r) []

/-- Distance between clusters, in clusters (R347). -/
def clusterDist (a b : Nat) : Nat := dist (a % 128) (b % 128) + dist (a / 128) (b / 128)

/-- The four cores of a quad, in the order of their index. -/
def quadVictims (qs : List Nat) : List Nat := qs.flatMap quadCores

/-- The victims of a thief, in order (R347): a quad stands for its four cores in the order of their index. -/
def State.victims (s : State) (c : Nat) : List Nat :=
  let q := quadOf c
  let cl := clusterOf c
  let own := [1, 2, 3].map fun i => coreOfQuad q ((indexInQuad c + i) % 4)
  let quads := ((List.range 16).map (quadOfCluster cl)).filter (· != q)
  let near := sortBy (fun x => 64 * (dist (x % 4) (q % 4) + dist (x / 512 % 4) (q / 512 % 4)) + indexInCluster x) quads
  let ranked := sortBy (fun k => 2 ^ 20 * clusterDist k cl + 2 ^ 10 * (k % 128) + k / 128)
    (s.part.clusterList.filter (· != cl))
  let die (k : Nat) : Bool := s.part.dieOf (firstCore k) == s.part.dieOf c
  let here := (ranked.filter die).take 8
  let there := (ranked.filter fun k => !die k).take 8
  own ++ quadVictims near ++ quadVictims ((here ++ there).map fun k => quadOfCluster k (indexInCluster q))

/-- Whether a core may look for work elsewhere: a free bank, nothing to load, an empty deque, no hold, a frame (R95,
R347). -/
def State.idleCore (s : State) (c : Nat) : Bool :=
  let k := s.core c
  k.freeBank.isSome && !s.holding c && (s.loadable c).isEmpty && k.dqn == 0 && k.spn == 0 && k.fphead >>> 9 != 0

/-- STEAL_REQUEST: the request goes to the next victim; after the last, the thief waits for its next round (R347). -/
def execStealRequest (thief : Nat) (s : State) : Outcome :=
  .next (match (s.core thief).steal with
    | none => s
    | some i =>
      if !s.idleCore thief then s.modCore thief fun k => { k with steal := none }
      else
        match (s.victims thief)[i]? with
        | some v => s.post (.stealAnswer thief v)
        | none =>
          (s.modCore thief fun k => { k with steal := none, stealIdle := true }).after 512 (.stealRoundTimer thief))

/-- STEAL_ROUND_TIMER: a new round may start (R347). -/
def execStealRoundTimer (core : Nat) (s : State) : Outcome :=
  .next ((s.modCore core fun k => { k with stealIdle := false }).post (.bankFill core))

/-- The `i`-th oldest record of a core's deque (R341). -/
def State.taskAt (s : State) (core i : Nat) : Option (BitVec 512) :=
  let k := s.core core
  if i < k.spn.toNat then
    (s.peek core (k.ringAddr i) 512 512).map (BitVec.ofNat 512)
  else some (s.dequeBits core (k.old.toNat + (i - k.spn.toNat)))

/-- The `i`-th oldest record of a core's deque replaced. -/
def State.setTaskAt (s : State) (core i : Nat) (r : BitVec 512) : State :=
  let k := s.core core
  if i < k.spn.toNat then
    (s.poke core (k.ringAddr i) 512 512 r.toNat).getD s
  else s.homeStore (.hardware core) (dequeKey core ((k.old.toNat + (i - k.spn.toNat)) % 32)) 512 r.toNat

/-- The `i`-th oldest record removed: the older ones move up, and the oldest entry is dropped. -/
def State.removeTask (s : State) (core : Nat) : Nat → State
  | 0 => s.dropOldest core
  | i + 1 =>
    let s := match s.taskAt core i with
      | some r => s.setTaskAt core (i + 1) r
      | none => s
    s.removeTask core i

/-- The oldest deque record that a thief may take, with its position, sought from a position on, the records read on the way
(R102, R107, R403). -/
def State.takeable (s : State) (victim thief : Nat) : (left i : Nat) → Option (Nat × BitVec 512) × State
  | 0, _ => (none, s)
  | n + 1, i =>
    let k := s.core victim
    let s := if i < k.spn.toNat then s.meetAt (.hardware victim) (k.ringAddr i) 512 512 else s
    match s.taskAt victim i with
    | some r => if s.part.placed r thief then (some (i, r), s) else s.takeable victim thief n (i + 1)
    | none => s.takeable victim thief n (i + 1)

/-- The bank of a victim whose running range a thief may split: the strand started earliest (R107). -/
def State.splittableBank (s : State) (victim thief : Nat) : Option (Fin 4 × Word) :=
  let k := s.core victim
  ((List.finRange 4).filterMap fun b =>
    let x := k.banks[b]
    if x.live && !x.strand.leafEnded && s.part.placed x.strand.task thief then
      (splitPoint x.strand.task x.strand.next x.strand.hi).map fun m => (b, m, x.strand.order)
    else none).foldl (fun (o : Option (Fin 4 × Word × Nat)) e =>
      match o with
      | none => some e
      | some f => if e.2.2 < f.2.2 then some e else o) none
  |>.map fun e => (e.1, e.2.1)

/-- The upper part of a split goes to the thief once the add of 1 to JOIN has been performed (R104, R348); an add that
faults is logged, and the thief is refused; one that is answered busy has the victim answer later (R289). -/
def State.splitFor (s : State) (thief victim : Nat) (r upper : BitVec 512) (keep : State → State) : State :=
  if s.agentBusy victim (taskSys r) (taskJoin r) then s.after 16 (.stealAnswer thief victim)
  else
  match s.leafAdd victim (taskSys r) (taskJoin r) 1 with
  | .ok (t, _) => (keep t).post (.splitJoinReply thief victim upper)
  | .error c => (s.leafLost victim (taskJoin r) 0 c).post (.stealReply thief .refusal)

/-- STEAL_ANSWER: the victim's agent answers with a deque record, whole or split, a split of a running range, a runnable
record without affinity, or a refusal (R107). -/
def execStealAnswer (thief victim : Nat) (s : State) : Outcome :=
  .next (if (s.quad (quadOf victim)).noSteal || s.frozen (quadOf victim) then s.post (.stealReply thief .refusal)
    else
      match s.takeable victim thief ((s.core victim).spn.toNat + (s.core victim).dqn.toNat) 0 with
      | (some (i, r), s) =>
        match splitPoint r (taskLo r) (taskHi r) with
        | some mid =>
          s.splitFor thief victim r (withInterval r mid (taskHi r)) fun t =>
            t.setTaskAt victim i (withInterval r (taskLo r) mid)
        | none => (s.removeTask victim i).post (.stealReply thief (.task r))
      | (none, s) =>
        match s.splittableBank victim thief with
        | some (b, mid) =>
          let st := s.strand ⟨victim, b⟩
          s.splitFor thief victim st.task (withInterval st.task mid st.hi) fun t =>
            t.modStrand ⟨victim, b⟩ fun st => { st with hi := mid }
        | none =>
          match (s.core victim).parked.findSome? fun r =>
              if r.runnable then
                match s.parkedBits victim r with
                | some b => if !b.getLsbD 443 && b.extractLsb' 432 8 != 0x14 then some (r, b) else none
                | none => none
              else none with
          | some (r, _) =>
            let s := s.meetParked victim r
            (s.unpark victim r).post (.stealReply thief (.parked ((s.parkedBits victim r).getD 0).toNat))
          | none => s.post (.stealReply thief .refusal))

/-- SPLIT_JOIN_REPLY: the add to JOIN has returned, and the victim sends the thief its record (R348). -/
def execSplitJoinReply (thief _victim : Nat) (record : BitVec 512) (s : State) : Outcome :=
  .next (s.post (.stealReply thief (.task record)))

/-- Stolen work kept for later: a task in the thief's deque, a record in its run list. -/
def State.keepWork (s : State) (c : Nat) (w : StealWork) : State :=
  match w with
  | .task r => (s.dequePush c r).getD s
  | .parked b =>
    ((s.parkRecord c (BitVec.ofNat 512 b)
      ⟨0, (BitVec.ofNat 512 b).extractLsb' 64 64, true, .running, s.now⟩).getD s).post (.bankFill c)
  | .refusal => s

/-- STEAL_REPLY: the thief starts the work, or tries the next victim (R107, R347). -/
def execStealReply (thief : Nat) (work : StealWork) (s : State) : Outcome :=
  let done := (s.modCore thief fun k => { k with steal := none, stealIdle := false }).dropRound thief
  .next (match work with
    | .refusal =>
      (s.modCore thief fun k => { k with steal := k.steal.map (· + 1) }).post (.stealRequest thief)
    | .task r =>
      match (s.core thief).freeBank with
      | some b =>
        if s.holding thief then done.keepWork thief work
        else
          match done.startTask ⟨thief, b⟩ r with
          | (t, true) => (t.entered s thief).post (.bankFill thief)
          | (t, false) => t.keepWork thief work
      | none => done.keepWork thief work
    | .parked r =>
      match (s.core thief).freeBank with
      | some b =>
        if s.holding thief then done.keepWork thief work
        else
          match done.loadRecord ⟨thief, b⟩ (BitVec.ofNat 512 r) with
          | some t => (t.entered s thief).post (.bankFill thief)
          | none => done.keepWork thief work
      | none => done.keepWork thief work)

/-! ## Wait tables and partition traps -/

/-- The kind code and awaited address of a wait that the tables list (R115, R188, R313, R332). A wait for which the spec has no
code is no wait of the tables (DESIGN CHOICE, log entry 59). -/
def waitOf (st : Strand) (tepc : Word) : Status → Option (Nat × Word)
  | .reply .take a _ => some (1, a)
  | .reply .await a _ => some (2, a)
  | .reply .spawn a _ => some (5, a)
  | .stalled .bwait a _ => some (3, a)
  | .stalled .sxwait a _ => some (4, a)
  | .stalled .sleep _ 0 => some (6, st.notice)
  | .page a _ _ => some (8, a)
  | .halted => some (7, tepc)
  | _ => none

/-- The entries of a core's resident strands, none when one does not wait. -/
def residentEntries (c : Nat) : List Bank → Option (List WaitEntry)
  | [] => some []
  | b :: r =>
    match residentEntries c r with
    | none => none
    | some l =>
      if b.live then
        (waitOf b.strand b.tepc b.status).map fun w => ⟨c, b.strand.pc, b.strand.priv, w.1, w.2⟩ :: l
      else some l

/-- What a core reports to its cluster's wait table: each of its strands and itself, or nothing while a resident strand
does not wait or a parked record is runnable (R115). -/
def State.coreEntries (s : State) (c : Nat) : Option (List WaitEntry) :=
  let k := s.core c
  if k.parked.any (·.runnable) then none
  else
    (residentEntries c k.banks.toList).map fun l =>
      l ++ (k.parked.filterMap fun r =>
        match s.parkedBits c r, waitOf .reset 0 r.status with
        | some b, some w => some ⟨c, b.extractLsb' 0 64, b.getLsbD 447, w.1, w.2⟩
        | _, _ => none) ++ [⟨c, 0, false, 0, 0⟩]

/-- The cores of a partition in cluster order. -/
def Partition.byCluster (p : Partition) : List Nat :=
  p.clusterList.flatMap fun cl => p.coreList.filter fun c => clusterOf c == cl

/-- The wait tables of the partition in cluster order, none while a core is not listed (R115, R116). -/
def State.waitTable (s : State) : Option (List WaitEntry) :=
  s.part.byCluster.foldl (fun o c =>
    match o, s.coreEntries c with
    | some l, some m => some (l ++ m)
    | _, _ => none) (some [])

/-- Whether a hang trap is due: every core listed, a U-mode wait among the entries, the fabric idle for 10,000 cycles, and
a table that has changed since the last trap (R116). -/
def State.hangs (s : State) : Option (List WaitEntry) :=
  if s.part.live && s.part.lastTraffic + 10000 ≤ s.now then
    match s.waitTable with
    | some t => if (t.any fun e => !e.priv && e.kind != 0) && t != s.part.reported then some t else none
    | none => none
  else none

/-- A record of a snapshot (R314). -/
def WaitEntry.bits (e : WaitEntry) : Nat :=
  e.pc.toNat + e.addr.toNat * 2 ^ 64 + (pairForm e.core).toNat * 2 ^ 128 +
    (e.kind + (if e.priv then 256 else 0)) * 2 ^ 192

/-- The trap value PUT to HANGW; full, unreachable or 0, the trap is counted in the event log, with the core whose strand causes it
(R314, R405). -/
def State.signal (s : State) (core : Option Nat) (v : Word) : State :=
  if s.part.hangw = 0 then s.logEvent 0x09 core 0 v
  else
    match s.putAt 0 s.part.hangw v.toNat with
    | some (t, true) => t
    | some (t, false) => t.logEvent 0x09 core s.part.hangw v
    | none => s.logEvent 0x09 core s.part.hangw v

/-- A partition trap of a kind for a bank (R314). -/
def State.partitionTrap (s : State) (kind : Nat) (p : Place) : State :=
  s.signal (some p.core) (BitVec.ofNat 64 (kind + coreX p.core * 2 ^ 8 + coreY p.core * 2 ^ 18 + p.bank.val * 2 ^ 28))

/-- A snapshot of the wait tables written to HANGBUF, with its closing record (R314). -/
def State.snapshot (s : State) (l : List WaitEntry) : State :=
  if s.part.hangbuf = 0 then s
  else
    (((l.map WaitEntry.bits) ++ [0xFF * 2 ^ 192]).foldl (fun (r : State × Nat) v =>
      (((r.1.poke 0 (s.part.hangbuf + BitVec.ofNat 64 (256 * r.2)) 256 256 v).getD r.1), r.2 + 1)) (s, 0)).1

/-- HANG_TRAP: the snapshot, then the trap value of kind 1; with HANGW = 0 the trap is only counted (R116, R314). -/
def execHangTrap (s : State) : Outcome :=
  .next (match s.hangs with
    | none => s
    | some t =>
      let s := s.modPart fun p => { p with reported := t }
      (if s.part.hangw = 0 then s else s.snapshot t).signal none 1)

end Sys2Proof.Machine
end

