-- ==== Sys2Proof/Machine/Tasks.lean ====
section
/-! DEFINITION. Strands and tasks (R174–R178), barrier channels (R108–R111, R179), static routes (R112–R114, R180). -/

namespace Sys2Proof.Machine

/-! ## Suspension points -/

/-- The executing strand passes a suspension point: registers cleared (R97). -/
def State.passHere (s : State) : State := (s.resume).modStrand s.here Strand.pass

/-- A marked strand that has passed a suspension point is written back (R319, R320). -/
def State.obeyMark (s : State) : State :=
  if (s.bank s.here).mark.isSome && !(s.strand s.here).trap then s.post (.recordWriteback s.here) else s

/-- A suspension point that does not wait: the registers are cleared and the PC advances. -/
def State.passOn (s : State) : State := s.passHere.advance.obeyMark

/-- TAKE (R97, R164, R168). -/
def execTake (_ : Order) (w : Width) (rd rs1 : Reg) (s : State) : Outcome :=
  .next (s.whenDrained true fun s => s.access .take w (s.reg rs1) 0 0 rd 0 .take)

/-- AWAIT (R97, R167, R168). -/
def execAwait (cmp : AwaitCmp) (_ : Bool) (w : Width) (rd rs2 rs1 : Reg) (s : State) : Outcome :=
  .next (s.whenDrained true fun s => s.access (.await cmp) w (s.reg rs1) (s.reg rs2) 0 rd 0 .await)

/-- SUSPEND: the record is written back as runnable once the queue has drained; in a handler it acts as YIELD (R98, R178,
R320). It is a group boundary (R98, R389). -/
def execSuspend (s : State) : Outcome :=
  .next (if (s.strand s.here).trap then s.whenDrained true fun s => s.passHere.advance.switch s.cur
    else
      s.whenDrained false fun s =>
        let p := s.here
        let t := (s.passHere.advance.setStatus p (.stopped false)).post (.recordWriteback p)
        (t.seekBoundary s.cur).switch s.cur)

/-- YIELD: the core passes to its next ready bank; the record is written back only when a runnable record waits for a bank
(R98, R320), which is a group boundary (R389). -/
def execYield (s : State) : Outcome :=
  .next (s.whenDrained true fun s =>
    let p := s.here
    let t := s.passHere.advance
    if !(s.strand p).trap && (s.wanting s.cur 0 || (s.bank p).mark.isSome) then
      (((t.setStatus p (.stopped false)).post (.recordWriteback p)).seekBoundary s.cur).switch s.cur
    else t.switch s.cur)

/-- Whether the leaf of the executing strand has not ended and its sequence would be answered busy (R105, R289). -/
def State.leafWaits (s : State) : Bool :=
  let st := s.strand s.here
  !st.leafEnded && s.leafBusy s.cur st.task

/-- EXIT: the strand ends and its bank is free (R98, R178). -/
def execExit (s : State) : Outcome :=
  .next (s.whenDrained false fun s =>
    if s.leafWaits then s.stall .other 0 0
    else
    let r := s.endStrand s.here
    if r.2 then ((r.1.seekBoundary s.cur).switch s.cur).post (.bankFill s.cur) else r.1)

/-- POPT: with a record in the deque it performs EXIT and starts the record in the same bank; otherwise it writes 0 (R176).
While the core starts no task the record stays in the deque (R309). -/
def execPopt (rd : Reg) (s : State) : Outcome :=
  let k := s.core s.cur
  .next (if k.dqn = 0 ∧ k.spn = 0 then s.resume.complete rd 0
    else
      s.whenDrained false fun s =>
        let p := s.here
        if s.leafWaits then s.stall .other 0 0
        else
        match s.endStrand p with
        | (t, false) => t
        | (t, true) =>
          if t.holding s.cur then (t.switch s.cur).post (.bankFill s.cur)
          else
            match t.dequePop s.cur with
            | none => (t.switch s.cur).post (.bankFill s.cur)
            | some (r, _) =>
              match t.startTask p r with
              | (u, true) =>
                match u.dequePop s.cur with
                | some (_, v) => v.switch s.cur
                | none => u.switch s.cur
              | (u, false) => (u.switch s.cur).post (.bankFill s.cur))

/-- RNEXT: the next chunk of the running range; on an empty range the leaf ends, and it is a suspension point (R97, R177).
A marked strand is written back with its PC at the RNEXT, whose next execution gives the same result. -/
def execRnext (rd re : Reg) (s : State) : Outcome :=
  let st := s.strand s.here
  .next (if st.next.toNat < st.hi.toNat then
      let g := taskGrain st.task
      let e : Word := if st.next.toNat + g < st.hi.toNat then st.next + BitVec.ofNat 64 g else st.hi
      ((((s.resume.modStrand s.here fun x => { x with next := e }).setReg rd st.next).setReg re e).advance)
    else
      s.whenDrained true fun s =>
        if s.leafWaits then s.stall .other 0 0
        else
        let t := if st.leafEnded then s else s.leafEnd s.cur st.task
        let t := (t.modStrand s.here fun x => { x with leafEnded := true }).passHere
        if (s.bank s.here).mark.isSome && !st.trap then t.obeyMark
        else ((t.setReg rd st.hi).setReg re st.hi).advance)

/-! ## SPAWN (R175) -/

/-- The word at JOIN written 1 with the task's privilege; a faulting access is logged (R105, R175). -/
def State.initJoin (s : State) (core : Nat) (r : BitVec 512) : State :=
  if taskJoin r = 0 then s
  else
    match s.locate core (!taskSys r) false .store (taskJoin r) 64 64 with
    | .ok ps _ =>
      if s.peerRefuses (taskJoin r) ps then s.leafLost core (taskJoin r) 0 .bounds
      else if ps.any fun p => s.guarded p.key then s.discardStore (.hardware core) (taskJoin r) 1
      else s.storeParts (.hardware core) 1 ps
    | .flt f => s.leafLost core (taskJoin r) 0 f.cause
    | .absent _ => s.leafLost core (taskJoin r) 0 .translation

/-- Where the record of a SPAWN goes: the target core of x[rs2], or none outside the partition (R175). -/
def State.spawnTarget (s : State) (at' : Option Word) : Option Nat :=
  match at' with
  | none => some s.cur
  | some v => s.part.pairCore v

/-- The gate of a SPAWN.W checked as TAKE.b64 would check it (R163, R175, R371). -/
def State.gateFound (s : State) (g : Word) : Found :=
  match s.locate s.cur s.user false .atomic g 64 64 with
  | .ok ps h =>
    if s.hostDenied .take .b64 g h then .flt ⟨.translation, g⟩
    else if inLayer0 g h then .ok ps h else .flt ⟨.fullEmpty, g⟩
  | f => f

/-- Whether a record has an empty interval, and the sequence that completes it would be answered busy (R289, R346). -/
def State.emptyWaits (s : State) (r : BitVec 512) : Bool :=
  decide ((taskHi r).toNat ≤ (taskLo r).toNat) && s.leafBusy s.cur r

/-- A record that has passed its checks: completed at once when its interval is empty, else pushed by the target's memory agent,
in another quad by an off-core access, JOIN written; none when the deque has no room (R99, R175, R190, R345, R346). -/
def State.placeTask (s : State) (target : Nat) (r : BitVec 512) : Option State :=
  if (taskHi r).toNat ≤ (taskLo r).toNat then some ((s.initJoin s.cur r).leafEnd s.cur r)
  else
    ((if quadOf target = quadOf s.cur then s else s.measure s.here (.track target 0)).dequePush target r).map fun t =>
      t.initJoin s.cur r

/-- SPAWN in its four forms: `at'` is x[rs2] of SPAWN.AT, `wait` the rd of the W forms. It waits for the reply of the target's
memory agent, so that the core passes to its next ready bank (R99, R175, R345). -/
def State.spawnChecked (s : State) (a : Word) (at' : Option Word) (wait : Option Reg) : State :=
  match s.locate s.cur s.user false .load a 512 512 with
  | .flt f => s.trapAt s.here f
  | .absent va => s.pageFault s.here .load va
  | .ok ps home =>
    let l := (s.noteAccess s.cur .load s.user a).readOwn a ps home
    let r := BitVec.ofNat 512 l.1
    let s := l.2
    if taskSys r && s.user then s.trap .privilege a
    else
      match s.spawnTarget at' with
      | none => s.trap .bounds (at'.getD 0)
      | some target =>
        let bad : Bool := r.extractLsb' 474 6 != 0 || (taskEntry r).extractLsb' 0 5 != 0
        match wait with
        | none =>
          if bad then s.trap .task a
          else if s.emptyWaits r then s.stall .other 0 0
          else
            match s.placeTask target r with
            | some t => t.resume.advance.switch s.cur
            | none => s.trap .task a
        | some rd =>
          if taskGate r = 0 then s.trap .task a
          else
            match s.gateFound (taskGate r) with
            | .flt f => s.trap f.cause a
            | .absent va => s.pageFaultAs s.here .atomic va a
            | .ok gate home =>
              if bad then s.trap .task a
              else if s.emptyWaits r then s.stall .other 0 0
              else
                match s.placeTask target r with
                | some t => t.request .take gate home (taskGate r) 0 0 rd 0 .spawn
                | none => s.trap .task a

/-- SPAWN; a form that waits is a suspension point (R97, R175). -/
def State.spawn (s : State) (a : Word) (at' : Option Word) (wait : Option Reg) : State :=
  if wait.isSome then s.whenDrained true fun s => s.spawnChecked a at' wait else s.spawnChecked a at' wait

/-- SPAWN (R175). -/
def execSpawn (rs1 : Reg) (s : State) : Outcome := .next (s.spawn (s.reg rs1) none none)

/-- SPAWN.W (R175). -/
def execSpawnW (rd rs1 : Reg) (s : State) : Outcome := .next (s.spawn (s.reg rs1) none (some rd))

/-- SPAWN.AT (R175). -/
def execSpawnAt (rs1 rs2 : Reg) (s : State) : Outcome := .next (s.spawn (s.reg rs1) (some (s.reg rs2)) none)

/-- SPAWN.AT.W (R175). -/
def execSpawnAtW (rd rs1 rs2 : Reg) (s : State) : Outcome :=
  .next (s.spawn (s.reg rs1) (some (s.reg rs2)) (some rd))

/-! ## Barriers (R108–R111) -/

/-- A core's BCNT of a channel. -/
def Core.bcnt (k : Core) (ch : Nat) : Nat := nibble k.bmask ch

/-- Whether a channel may be used on a core: granted, the core a member (R108). -/
def State.channelOk (s : State) (c ch : Nat) : Bool := s.part.grant.getLsbD ch && (s.core c).bcnt ch != 0

/-- The members of a channel (R108). -/
def State.members (s : State) (ch : Nat) : List Nat :=
  (s.cores.filter fun (e : Nat × Core) => e.2.bcnt ch != 0).map (·.1)

/-- Whether a core has arrived in the phase in progress (R108). -/
def State.coreArrived (s : State) (ch c : Nat) : Bool :=
  decide ((s.core c).bcnt ch ≤ (s.core c).arrivals.get 0 ch)

/-- Whether the phase in progress is to be released: every member has arrived, or any on an OR channel (R108). -/
def State.phaseOver (s : State) (ch : Nat) : Bool :=
  let m := s.members ch
  if s.part.orKind.getLsbD ch then m.any (s.coreArrived ch) else !m.isEmpty && m.all (s.coreArrived ch)

/-- The release latency by the smallest level that contains all members (R110). -/
def State.releaseLatency (s : State) (ch : Nat) : Nat :=
  match s.members ch with
  | [] => 6
  | c :: r =>
    if r.all fun d => clusterOf d == clusterOf c then 6
    else if r.all fun d => s.part.dieOf d == s.part.dieOf c then 40 else 120

/-- The BPEND words of the strands of a core other than one, resident or parked, with the full numbers kept beside them
(R109). -/
def State.otherPending (s : State) (p : Place) : List (Word × Tbl Nat) :=
  let k := s.core p.core
  ((List.finRange 4).filterMap fun b =>
    if b ≠ p.bank ∧ (k.banks[b]).live then some ((k.banks[b]).strand.bpend, (k.banks[b]).strand.joined) else none) ++
  k.parked.filterMap fun r => (s.peek p.core (r.sfp + 960) 64 64).map fun w =>
    (BitVec.ofNat 64 w, ((s.part.kept.find r.sfp.toNat).map (·.joined)).getD [])

/-- Whether a BARR waits at issue: its core has arrived already, or the phase that it would join is 7 or more behind a phase
recorded by another strand (R108, R109). -/
def State.barrWaits (s : State) (ch : Nat) : Bool :=
  let now := (s.channel ch).phase
  s.coreArrived ch s.cur ||
    (s.otherPending s.here).any fun w => (recordedPhase w.1 w.2 ch now).any fun n => n + 7 ≤ now

/-- BPEND with a phase recorded for a channel. -/
def recordPhase (bpend : Word) (ch phase : Nat) : Word :=
  takeNibble bpend (BitVec.ofNat 64 ((8 + phase % 8) * 2 ^ (4 * ch))) ch

/-- A BARR of any kind: every access issued before has been performed, so the kinds wait for nothing (R109, R111, R179). -/
def State.barr (s : State) (c : BitVec 4) : State :=
  let ch := c.toNat
  if !s.channelOk s.cur ch then s.trap .barrier s.wordHere
  else if s.barrWaits ch then s.stall .other 0 0
  else
    let s := s.modCore s.cur fun k => { k with arrivals := k.arrivals.set ch (k.arrivals.get 0 ch + 1) }
    let s := (s.modStrand s.here fun st =>
      { st with bpend := recordPhase st.bpend ch (s.channel ch).phase
                joined := st.joined.set ch (s.channel ch).phase }).resume.advance
    if s.phaseOver ch && !(s.timers.any fun e => decide (e.2 = .barrierRelease c)) then
      s.after (s.releaseLatency ch) (.barrierRelease c)
    else s

/-- BARR.NONE (R108, R109, R179). -/
def execBarrNone (ch : BitVec 4) (s : State) : Outcome := .next (s.barr ch)

/-- BARR.NAMED (R108, R109, R179). -/
def execBarrNamed (ch : BitVec 4) (s : State) : Outcome := .next (s.barr ch)

/-- BARR.ALL (R108, R109, R179). -/
def execBarrAll (ch : BitVec 4) (s : State) : Outcome := .next (s.barr ch)

/-- BWAIT: it completes when the recorded phase has been released, or at once with none recorded (R109, R179). -/
def execBwait (c : BitVec 4) (s : State) : Outcome :=
  let ch := c.toNat
  .next (if !s.channelOk s.cur ch then s.trap .barrier s.wordHere
    else
      s.whenDrained true fun s =>
        if s.phaseAwaited (s.strand s.here) ch then
          ((s.setStatus s.here (.stalled .bwait (BitVec.ofNat 64 ch) 0)).beginWait s.here).switch s.cur
        else
          (s.modStrand s.here fun st =>
            { st with bpend := st.bpend &&& ~~~((8#64) <<< (4 * ch)), joined := st.joined.erase ch }).passOn)

/-- The records whose strands wait for a channel's release become runnable (R98). -/
def Core.wakeParked (k : Core) (ch now : Nat) : Core :=
  { k with parked := k.parked.map fun r =>
      match r.status with
      | .stalled .bwait a _ => if a.toNat = ch then { r with runnable := true, status := .running, since := now } else r
      | _ => r }

/-- BARRIER_RELEASE: the phase ends at every member, frame 0 of the channel's routes begins, deferred writes take effect,
and the waits end; a release that spans power regions is a staggered start (R108, R112, R309, R382). -/
def execBarrierRelease (c : BitVec 4) (s : State) : Outcome :=
  let ch := c.toNat
  let t := s.modPart fun p =>
    { p with channels := p.channels.set ch ⟨(s.channel ch).phase + 1, some s.now⟩ }
  let t := { t with cores := t.cores.map fun (e : Nat × Core) =>
    (e.1, { e.2 with arrivals := e.2.arrivals.erase ch }.wakeParked ch s.now) }
  .next (((t.adopt ch).adoptIdle.refill (t.members ch)).holdMembers (s.members ch))

/-! ## Routes (R112–R114) -/

/-- A route of a core as its source or destination, none otherwise (R113, R114). -/
def State.routeAt (s : State) (route core : Nat) (source : Bool) : Option Route :=
  match s.part.routes.find route with
  | some r => if (if source then r.decl.src else r.decl.dst) = core then some r else none
  | none => none

/-- A route replaced. -/
def State.setRoute (s : State) (id : Nat) (r : Route) : State := s.modPart fun p => { p with routes := p.routes.set id r }

/-- The first frame from `f` on whose slot has not passed, `t` cycles into a channel's count (R113). -/
def frameFor (slot t f : Nat) : Nat := if t ≤ 1024 * f + slot then f else max f ((t + 1023 - slot) / 1024)

/-- The checks on an SXMIT's payload address: its faults, then a misalignment, then the own quad's scratchpad through space
000 or 010 (R180). -/
def State.payload (s : State) (a : Word) (beats : Nat) : Found :=
  match s.locate s.cur s.user false .load a (256 * beats) 256 with
  | .ok ps h =>
    if h = .scratch (quadOf s.cur) ∧ (space a = 0 ∨ space a = 2) then .ok ps h else .flt ⟨.route, s.wordHere⟩
  | f => f

/-- The fabric cycle from which a route counts its frames: the last release of its channel, if one came since the image that
declares the route was loaded (R112; DEDUCED, log entry 88). -/
def State.frameBase (s : State) (r : Route) : Option Nat :=
  let ch := s.channel r.decl.ch.toNat
  if r.since < ch.phase then ch.lastRelease else none

/-- SXMIT (R113, R180). -/
def execSxmit (route : BitVec 8) (rs1 rs2 : Reg) (s : State) : Outcome :=
  let id := route.toNat
  let a := s.reg rs1
  let beats := ((s.part.routes.find id).map fun r => r.decl.beats).getD 1
  .next (match s.payload a beats with
    | .flt f => s.trapAt s.here f
    | .absent va => s.pageFault s.here .load va
    | .ok ps _ =>
      match s.routeAt id s.cur true with
      | none => s.trap .route s.wordHere
      | some r =>
        match s.frameBase r with
        | none => s.stall .other 0 0
        | some rel =>
          if r.buffer.isSome ∨ s.now < r.freeAt then s.stall .other 0 0
          else
            let l := s.loadParts (.strand s.cur (s.strand s.here).sfp) ps
            let t := l.2
            let f := (s.reg rs2).toNat
            let g := frameFor r.decl.slot (s.now - rel) f
            let due := rel + 1024 * g + r.decl.slot
            let words := (List.range beats).map fun i => BitVec.ofNat 256 (l.1 / 2 ^ (256 * i))
            ((t.setRoute id
              { r with buffer := some words, leave := g, freeAt := due + beats,
                       misses := if s.now - rel ≤ 1024 * f + r.decl.slot then r.misses else r.misses + 1 }).after
              (due - s.now) (.routeSlotInject route)).resume.advance)

/-- ROUTE_SLOT_INJECT: in its slot a payload's beats enter the fabric; a release since has restarted the count (R112,
R113). -/
def execRouteSlotInject (route : BitVec 8) (s : State) : Outcome :=
  .next (match s.part.routes.find route.toNat with
    | none => s
    | some r =>
      match r.buffer with
      | none => s
      | some words =>
        let rel := (s.frameBase r).getD 0
        let due := rel + 1024 * r.leave + r.decl.slot
        if s.now < due then
          (s.setRoute route.toNat { r with freeAt := due + r.decl.beats }).after (due - s.now) (.routeSlotInject route)
        else
          ((s.setRoute route.toNat
            { r with buffer := none, flying := r.flying ++ [(r.detoured, words)], freeAt := s.now + r.decl.beats }).after
            (r.latency + r.decl.beats - 1) (.routeLand route)).traffic)

/-- ROUTE_LAND: the oldest payload in flight is written to the landing buffer and counted; one that entered as a dynamic
message is counted as a miss too (R113, R362). -/
def execRouteLand (route : BitVec 8) (s : State) : Outcome :=
  .next (match s.part.routes.find route.toNat with
    | none => s
    | some r =>
      match r.flying with
      | [] => s
      | (dynamic, words) :: rest =>
        let base := scratchBase (quadOf r.decl.dst) + r.decl.land
        let t := (words.foldl (fun (x : State × Nat) w =>
          (x.1.homeStore (.hardware r.decl.dst) (base + 256 * x.2) 256 w.toNat, x.2 + 1)) (s, 0)).1
        t.setRoute route.toNat
          { r with flying := rest, arrivals := r.arrivals + 1,
                   misses := if dynamic then r.misses + 1 else r.misses })

/-- SXWAIT (R114). -/
def execSxwait (route : BitVec 8) (rs1 : Reg) (s : State) : Outcome :=
  .next (match s.routeAt route.toNat s.cur false with
    | none => s.trap .route s.wordHere
    | some r =>
      let n : BitVec 32 := (s.reg rs1).extractLsb' 0 32
      if (r.arrivals - n).toNat < 2 ^ 31 then s.resume.advance
      else s.stall .sxwait (BitVec.ofNat 64 route.toNat) 0)

end Sys2Proof.Machine
end

