-- ==== Sys2Proof/Machine/Migration.lean ====
section
/-! DEFINITION. The steps of power, temperature and migration: starts (R381), droop (R383), sensors (R387–R390), moves of
a quad and L2P swaps (R362–R364, R389), gating (R392), ageing (R393). -/

namespace Sys2Proof.Machine

/-! ## Starts and droop -/

/-- A quad whose start is admitted issues again (R381). -/
def State.letStart (s : State) (q : Nat) : State :=
  (s.modQuad q fun f => { f with held := false }).restart q

/-- START_ADMISSION: of the starts whose time has come, those that fit this step are admitted in the order of their routers; the
others wait for the next step, 200 ns later, and a step that stands so near takes them all (R381, R382). -/
def execStartAdmission (region : Nat) (s : State) : Outcome :=
  let k := s.region region
  let due := (k.starts.filter fun e => e.2 ≤ s.now).map (·.1)
  .next (if due.isEmpty || s.admitting region then s
    else
      let r := s.fitStep (1000 * k.cstep.toNat) (sortBy s.routerRank due)
      let s := (s.modRegion region fun k => { k with starts := k.starts.filter fun e => !r.1.contains e.1 }).after 240
        (.startAdmission region)
      r.1.foldl State.letStart s)

/-- The next check of a droop response; whether the supply is still low is a free value (R383, log entry 8). -/
def State.nextDroopCheck (s : State) (r : Nat) : State :=
  let f := s.freeWord
  f.2.after 120 (.droopCheck r (f.1.getLsbD 0))

/-- DROOP of every quad of a region (R383). -/
def State.setDroop (s : State) (r : Nat) (on : Bool) : State :=
  (s.regionQuads r).foldl (fun s q => s.power q false fun f => { f with droop := on }) s

/-- DROOP_ALARM: RATE at most 32 and vectors at half width for 1 µs (R383, R384, R385). -/
def execDroopAlarm (region : Nat) (s : State) : Outcome :=
  let s := s.modRegion region fun k => { k with alarms := k.alarms + 1, droopEnd := s.now + 1200 }
  let s := s.setDroop region true
  .next (if s.timers.any fun e => decide (e.2 = .droopCheck region true ∨ e.2 = .droopCheck region false) then s
    else s.nextDroopCheck region)

/-- DROOP_CHECK: a supply still low restarts the 1 µs; otherwise the response ends 1 µs after the last check that found
the droop (R383). -/
def execDroopCheck (region : Nat) (below : Bool) (s : State) : Outcome :=
  .next (if below then
      (s.modRegion region fun k => { k with droopEnd := s.now + 1200 }).nextDroopCheck region
    else if (s.region region).droopEnd ≤ s.now then s.setDroop region false
    else s.nextDroopCheck region)

/-! ## Moves of a quad (R316, R389) -/

/-- Whether a bank is at a group boundary: empty, or its strand at a suspension point (R389). -/
def Bank.atBoundary (b : Bank) : Bool := !b.live || b.status.suspended || b.status == .stopped false

/-- Whether a quad is at its group boundary (R389). -/
def State.atBoundary (s : State) (q : Nat) : Bool :=
  (quadCores q).all fun c => (s.core c).banks.toList.all Bank.atBoundary

/-- Whether a quad of a cluster is moving. -/
def State.clusterMoves (s : State) (cl : Nat) : Bool :=
  ((List.range 16).map (quadOfCluster cl)).any fun q => (s.quad q).move.isSome

/-- A move of a logical quad to a physical one begun: the target is woken, and the boundary is looked for, for 10 µs at
most (R389). `asked` says that L2PSET asks for it. -/
def State.beginMove (s : State) (q target : Nat) (asked : Bool) : State :=
  let cl := clusterOfQuad q
  let s := s.modQuad (spareKey (32 * s.part.physCluster cl + target)) fun f => { f with gate := .on }
  let s := s.modQuad q fun f => { f with move := some ⟨target, (s.l2pOf q).pq.toNat, false, false, asked⟩ }
  (s.post (.migrationBoundary q)).after 12000 (.migrationForce q)

/-- The spares of a cluster that qualify as a target: they serve no quad, did not fail harvest, and their TEMP is at most
TLIM − 10 (R389). -/
def State.spares (s : State) (cl : Nat) : List Nat :=
  let pc := 32 * s.part.physCluster cl
  (List.range 20).filter fun p =>
    (s.servedBy cl p).isNone && !s.failedHarvest (pc + p) &&
      (s.quad (spareKey (pc + p))).temp + 1000 ≤ 100 * s.part.tlim.toNat

/-- The target of a migration: the coolest of the spares that qualify, ties to the lowest number (R389). -/
def State.coolest (s : State) (cl : Nat) : Option Nat :=
  let temp (p : Nat) : Nat := ((s.quad (spareKey (32 * s.part.physCluster cl + p))).temp + 100000).toNat
  (sortBy temp (s.spares cl)).head?

/-- Whether L2PSET can move a quad of a cluster to a physical one: a spare, not gated, that did not fail harvest (R316). -/
def State.freeSpare (s : State) (cl pq : Nat) : Bool :=
  let phys := 32 * s.part.physCluster cl + pq
  pq < 20 && (s.servedBy cl pq).isNone && (s.quad (spareKey phys)).gate == .on && !s.failedHarvest phys

/-- What the stall of an L2PSET remembers once its move is refused: the all ones of its result, plus 1 (R316). -/
def refusedMove : Nat := 2 ^ 64

/-- The L2PSET that asked for a move, if it still waits for its turn, learns its result plus 1 (R316). -/
def State.tellAsker (s : State) (r : MoveRequest) (n : Nat) : State :=
  match r.asker with
  | none => s
  | some (p, sfp) =>
    match (s.bank p).status with
    | .stalled .other a 0 =>
      if (s.bank p).live && (s.strand p).sfp == sfp then s.setStatus p (.stalled .other a n) else s
    | _ => s

/-- Whether the L2PSET that asked for a move still waits for it. -/
def State.asks (s : State) (r : MoveRequest) : Bool :=
  match r.asker with
  | none => true
  | some (p, sfp) => (s.bank p).live && (s.strand p).sfp == sfp && (s.bank p).status matches .stalled .other _ 0

/-- The requests of a cluster served in the order of their arrival while none of its quads moves: one by temperature waits while
no spare qualifies, and one of an L2PSET moves its quad or is refused (R316, R389; DEDUCED, log entry 69). `fuel` is the
number of requests. -/
def State.serveMoves (s : State) (cl : Nat) : (fuel : Nat) → State
  | 0 => s
  | n + 1 =>
    if s.clusterMoves cl then s
    else
      match (s.cluster cl).moves.find? fun r => r.target.isSome || (s.coolest cl).isSome with
      | none => s
      | some r =>
        let s := s.modCluster cl fun k => { k with moves := k.moves.erase r }
        match r.target with
        | none =>
          match s.coolest cl with
          | some p => s.beginMove r.quad p false
          | none => s
        | some p =>
          if !s.asks r then s.serveMoves cl n
          else if s.freeSpare cl p then
            (s.tellAsker r ((s.l2pOf r.quad).pq.toNat + 1)).beginMove r.quad p true
          else (s.tellAsker r refusedMove).serveMoves cl n

/-- The next request of a cluster served (R389). -/
def State.nextMove (s : State) (cl : Nat) : State := s.serveMoves cl (s.cluster cl).moves.length

/-- A quad whose TEMP exceeds TLIM requests a migration, unless one is requested or under way; while an L2PSET moves it the
request waits (R316, R389). -/
def State.requestMove (s : State) (q : Nat) : State :=
  let cl := clusterOfQuad q
  if (s.quad q).temp ≤ 100 * s.part.tlim.toNat ∨ ((s.cluster cl).moves.any fun r => r.quad == q && r.target.isNone) ∨
      ((s.quad q).move.any fun m => !m.asked) then s
  else s.modCluster cl fun k => { k with moves := k.moves ++ [⟨q, none, none⟩] }

/-- The power region of a quad, given by its key (R14). -/
def State.regionAt (s : State) (q : Nat) : Nat := s.quadDie q / 2

/-- A region switched off, which is a fatal error (R390). -/
def State.switchOff (s : State) (r : Nat) : State :=
  if (s.region r).off then s
  else (s.modRegion r fun k => { k with off := true }).post (.fatalError (.shutdown r) false)

/-- A change of a quad's power state, after which a quad issues again where no point was present for it and one is (R376). -/
def State.repower (s : State) (q : Nat) (f : Quad → Quad) : State :=
  let t := s.power q false f
  if s.anyPoint q || !t.anyPoint q then t else t.restart q

/-- SENSOR_SAMPLE: the checks of R387, TEMP, PIN and HARD, a migration request, the shutdown at 115 °C (R387–R390).
Readings are in hundredths of a degree; `quad` is a logical quad, or the key of a physical one that serves none. -/
def execSensorSample (quad : Nat) (diode ring : Reading) (s : State) : Outcome :=
  let f := s.quad quad
  let near := s.nearReadings quad
  let power := s.estimate quad f.opp.toNat
  let fd := if f.diode.failed then none else f.diode.broken diode s.now power near
  let fr := if f.ring.failed then none else f.ring.broken ring s.now power near
  let d := f.diode.sample diode s.now power near
  let r := f.ring.sample ring s.now power near
  let s := (s.sensorFailed quad 0 fd).sensorFailed quad 1 fr
  let s := s.repower quad fun f => f.sampled d r near
  let s := if 2 ^ 20 ≤ quad then
      (match s.part.clusterAt ((quad - 2 ^ 20) / 32) with
        | some cl => s.nextMove cl
        | none => s)
    else (s.requestMove quad).nextMove (clusterOfQuad quad)
  .next (if [d.reading, r.reading].any fun v => v.any (decide <| 11500 ≤ ·) then s.switchOff (s.regionAt quad) else s)

/-- ANALOGUE_TRIP: the region is switched off (R390). -/
def execAnalogueTrip (region : Nat) (s : State) : Outcome := .next (s.switchOff region)

/-- AGEING_REPLAN: a new operating-point table with its voltages; its absent points are no longer used, and a quad without point 0
is reported (R376, R393). -/
def execAgeingReplan (quad : Nat) (present : BitVec 8) (s : State) : Outcome :=
  let t := s.repower quad fun f => { f with present := present, plan := f.plan + 1 }
  .next (if present.getLsbD 0 then t else t.zholosEvent 0 (t.physId quad))

/-- Occupied tracks of a core, as numbers. -/
def Core.occupiedTracks (k : Core) : List Nat := (List.range 128).filter k.occupied

/-- The time of a transfer: 20 µs, and 3.5 µs for each occupied track of the core that has the most (R389). -/
def State.transferTime (s : State) (q : Nat) : Nat :=
  24000 + 4200 * (quadCores q).foldl (fun m c => max m (s.core c).occupiedTracks.length) 0

/-- A move past its boundary: issue stops, and the state is copied (R389). -/
def State.startTransfer (s : State) (q : Nat) : State :=
  (s.modQuad q fun f => { f with move := f.move.map fun m => { m with bounded := true } }).after (s.transferTime q)
    (.migrationTransferDone q)

/-- MIGRATION_BOUNDARY: every bank is empty or at a suspension point, and the transfer begins (R389). -/
def execMigrationBoundary (quad : Nat) (s : State) : Outcome :=
  .next (if (s.quad quad).boundaryWanted && s.atBoundary quad then s.startTransfer quad else s)

/-- MIGRATION_FORCE: no boundary within 10 µs; issue stops at an instruction boundary in every bank (R389). -/
def execMigrationForce (quad : Nat) (s : State) : Outcome :=
  .next (if (s.quad quad).boundaryWanted then s.startTransfer quad else s)

/-- `n` bytes from an address up filled with free bytes (log entry 8). -/
def fillFree (m : Memory) (a fresh : Nat) : Nat → Memory
  | 0 => m
  | n + 1 => fillFree (m.write a (Config.freeByte fresh)) (a + 1) (fresh + 1) n

/-- The head of the owner of a track of a core: in its bank, or in its save frame (R82). -/
def State.ownerHead (s : State) (c t : Nat) : Option Nat :=
  match (s.core c).residentHead t, (s.core c).bound.find t with
  | some h, _ => some h
  | none, none => none
  | none, some sfp =>
    (s.peek c sfp 512 512).bind fun f => ((bindsOf f).find? fun e => e.1.toNat == t).map fun e => e.2.toNat

/-- The tracks of a core on the target: a bound track at its owner's head, any other at position 0; unoccupied tracks hold
unspecified bits (R389). The core's own translation caches are empty (R331). SHIFTAC counts none of these shifts (DESIGN
CHOICE, log entry 65). -/
def State.landTracks (s : State) (c : Nat) : State :=
  let k := s.core c
  let s := s.modCore c fun k =>
    { k with trackPos := (List.range 128).map fun t => (t, (s.ownerHead c t).getD 0), shifting := [], itlb := [], dtlb := [] }
  (List.range 128).foldl (fun s t =>
    if k.occupied t then s
    else { s with mem := fillFree s.mem (trackBase c / 8 + t * 2 ^ 17) s.fresh (2 ^ 17), fresh := s.fresh + 2 ^ 17 }) s

/-- The byte of the L2P table in memory for a quad's entry, which Zholos writes (R363). -/
def State.writeL2pByte (s : State) (q : Nat) : State :=
  let cl := clusterOfQuad q
  let e := s.l2pOf q
  let a := s.part.l2pBase +
    BitVec.ofNat 64 (128 * (cl / 128 * (s.part.width / 8) + cl % 128) + 8 * indexInCluster q)
  match s.locate (firstCore cl) false false .load a 8 8 with
  | .ok [⟨key, _⟩] .hbm => s.putBits .outside [(⟨key, 8⟩, (bit1 e.valid ++ (0 : BitVec 1) ++ bit1 e.moving ++ e.pq).toNat)]
  | _ => s

/-- The L2P entry of a quad set, in every copy and in memory (R363). -/
def State.writeL2p (s : State) (q : Nat) (e : L2p) : State :=
  (s.modPart fun p => { p with l2p := p.l2p.set q e }).writeL2pByte q

/-- A swap of a quad's entry begun: MOVING is set, and the swap completes when the messages in flight have been delivered
(R364). -/
def State.beginSwap (s : State) (q target : Nat) : State :=
  (s.writeL2p q { s.l2pOf q with moving := true }).post (.l2pSwapComplete q (BitVec.ofNat 5 target))

/-- L2P_SWAP_BEGIN: MOVING is set in every copy, for the target of the quad's move (R364). -/
def execL2pSwapBegin (quad : Nat) (s : State) : Outcome :=
  .next (match (s.quad quad).move with
    | some m => if m.transferred then s.beginSwap quad m.target else s
    | none => s)

/-- MIGRATION_TRANSFER_DONE: the copy is complete, and the swap starts (R389). -/
def execMigrationTransferDone (quad : Nat) (s : State) : Outcome :=
  .next (match (s.quad quad).move with
    | none => s
    | some m =>
      if m.transferred || !m.bounded then s
      else
        let s := (quadCores quad).foldl State.landTracks s
        let s := s.modQuad quad fun f => { f with move := some { m with transferred := true } }
        s.beginSwap quad m.target)

/-- What stays with the silicon when a logical quad takes another physical one: its sensors, temperature and operating
points (R389). -/
def takeSilicon (f g : Quad) : Quad :=
  { f with
    temp := g.temp, temps := g.temps, rfail := g.rfail, dfail := g.dfail, pin := g.pin, hard := g.hard, opp := g.opp
    vmv := g.vmv, present := g.present, plan := g.plan, diode := g.diode, ring := g.ring, gate := g.gate }

/-- What stays with a column: its spare and dead tracks, shift errors, and spine (R88, R90). -/
def takeColumn (k g : Core) : Core :=
  { k with spares := g.spares, dead := g.dead, slips := g.slips, spine := g.spine, spineBroken := g.spineBroken }

/-- A physical quad that serves a logical one no longer, under its own key. -/
def State.leaveSilicon (s : State) (q phys : Nat) : State :=
  (List.range 4).foldl (fun s i =>
    let k := takeColumn .reset (s.core (coreOfQuad q i))
    let c := coreOfQuad (spareKey phys) i
    { s with cores := if k = .reset then s.cores.erase c else s.cores.set c k })
    (s.setQuad (spareKey phys) (takeSilicon .reset (s.quad q)))

/-- A logical quad served by a physical one. -/
def State.takePhysical (s : State) (q phys : Nat) : State :=
  let s := (List.range 4).foldl (fun s i =>
    let c := coreOfQuad (spareKey phys) i
    let s := s.setCore (coreOfQuad q i) (takeColumn (s.core (coreOfQuad q i)) (s.core c))
    { s with cores := s.cores.erase c }) (s.setQuad q (takeSilicon (s.quad q) (s.quad (spareKey phys))))
  { s with quads := s.quads.erase (spareKey phys) }

/-- The routes with an endpoint on a quad that has moved take their new paths; where a link-cycle is taken, the route is
detoured (R362). -/
def State.recomputeRoutes (s : State) (q : Nat) : State :=
  s.part.routes.foldl (fun s e =>
    let r := e.2
    if quadOf r.decl.src ≠ q ∧ quadOf r.decl.dst ≠ q then s
    else
      let taken := s.part.routes.any fun o => o.1 != e.1 && !o.2.detoured && s.routesClash r.decl o.2.decl
      s.setRoute e.1 { (s.part.routes.find e.1).getD r with
        latency := s.routeLatency r.decl, detoured := r.detoured || taken }) s

/-- L2P_SWAP_COMPLETE: the new PQ is written and MOVING cleared, and the routes are recomputed before (R362, R364). -/
def execL2pSwapComplete (quad : Nat) (pq : BitVec 5) (s : State) : Outcome :=
  let pc := 32 * s.part.physCluster (clusterOfQuad quad)
  let s := (s.leaveSilicon quad (pc + (s.l2pOf quad).pq.toNat)).takePhysical quad (pc + pq.toNat)
  let s := s.writeL2p quad ⟨pq, false, true⟩
  .next ((s.recomputeRoutes quad).post (.migrationResume quad))

/-- MIGRATION_RESUME: the target issues, and a notice with MIG is raised; the cluster's next move may begin (R389, R386,
R405). -/
def execMigrationResume (quad : Nat) (s : State) : Outcome :=
  .next (match (s.quad quad).move with
    | none => s
    | some m =>
      let s := s.modQuad quad fun f => { f with move := none }
      let s := s.logEvent 0x0A (some (coreOfQuad quad 0)) 0 (BitVec.ofNat 64 (m.old + m.target * 2 ^ 8))
      let s := s.power quad true id
      (s.restart quad).nextMove (clusterOfQuad quad))

/-! ## Power gating (R392) -/

/-- Whether a physical quad, given by the key of a spare, is the target of a move under way (R389, R392). -/
def State.isTarget (s : State) (q : Nat) : Bool :=
  2 ^ 20 ≤ q && s.quads.any fun (e : Nat × Quad) =>
    e.2.move.any fun m => spareKey (32 * s.part.physCluster (clusterOfQuad e.1) + m.target) == q

/-- Whether a quad may be gated (R392). -/
def State.mayGate (s : State) (q : Nat) : Bool :=
  let f := s.quad q
  s.quadEmpty q && !s.isTarget q && f.remote.isEmpty && f.out.isEmpty && (f.owners.toList.all fun o => o.holder.isNone) &&
    (f.subs.toList.all fun u => u.all fun x => !x.active && x.slots.all (· == .free)) && f.move.isNone &&
    (quadCores q).all fun c =>
      let k := s.core c
      k.queue.isEmpty && k.latch.isNone && k.rep.isNone && k.parked.isEmpty && k.dqn == 0 && k.spn == 0

/-- GATE_REQUEST: an idle quad stops accepting new work into the gated logic (R392). -/
def execGateRequest (quad : Nat) (s : State) : Outcome :=
  .next (if (s.quad quad).gate = .on ∧ s.mayGate quad then
      (s.modQuad quad fun f => { f with gate := .requested }).after 1 (.gateCommit quad)
    else s)

/-- GATE_COMMIT: power is removed; a wake up to now abandons the gating (R392). -/
def execGateCommit (quad : Nat) (s : State) : Outcome :=
  .next (if (s.quad quad).gate = .requested then
      s.modQuad quad fun f => { f with gate := if s.mayGate quad then .gated else .on }
    else s)

/-- QUAD_WAKE: the quad is powered, and what woke it is delivered. Leaving gating with issue ready is a start; a quad whose
banks have yet to be filled starts as it leaves its empty state (R381, R392). -/
def execQuadWake (quad : Nat) (s : State) : Outcome :=
  .next (if (s.quad quad).gate = .gated then
      let t := s.modQuad quad fun f => { f with gate := .on }
      if t.hasIssue quad then (t.beginStart quad).refill (quadCores quad) else t.restart quad
    else s)

end Sys2Proof.Machine
end

