-- ==== Sys2Proof/Machine/HostLink.lean ====
section
/-! DEFINITION. Events of the host links and of the links to peer modules (R59, R165, R367–R374, R402). -/

namespace Sys2Proof.Machine

/-! ## The two memory BARs (R165, R343, R367) -/

/-- The physical bit of launch word `n` (R342). -/
def State.launchWord (s : State) (n : Nat) : Option Nat :=
  match s.locate 0 false false .store (s.part.lwcfg >>> 9 <<< 9 + BitVec.ofNat 64 (64 * n)) 64 64 with
  | .ok [⟨key, _⟩] _ => some key
  | _ => none

/-- A request to the partition's function: while the partition is reset it completes with Completer Abort, and with no partition
it is not supported (R367, R409). -/
def State.ofFunction (s : State) (f : State → State) : State :=
  if s.dumping then s.toHost .aborted else if s.part.live then f s else s.toHost .unsupported

/-- HOST_PUT_ALIAS_WRITE: a PUT to the launch word; it is discarded and logged where the word does not exist or is full
(R165, R367), and tried again where the replay filter is full (R289). -/
def execHostPutAliasWrite (n : Nat) (v : Word) (s : State) : Outcome :=
  .next (s.ofFunction fun s =>
    let lost := s.logEvent 0x07 none 0 (BitVec.ofNat 64 n)
    if (s.part.lwcfg.extractLsb' 0 5).toNat ≤ n ∨ s.part.lwcfg >>> 9 = 0 then lost
    else
      match s.launchWord n with
      | none => lost
      | some key =>
        if s.placeBusy key then s.after 16 (.hostPutAliasWrite n v)
        else
          match s.traffic.putWord .outside key v.toNat with
          | (t, true) => t
          | (_, false) => lost)

/-- Any other access to BAR0: a read returns zero, and a write is discarded (R367). -/
def State.bar0 (s : State) (write : Bool) : State := s.ofFunction fun s => if write then s else s.toHost (.value 0)

/-- The blocks of the share with their host key selections, as Zholos reports them (R365, R367). -/
def Partition.shareReport (p : Partition) : HostAns := .share p.ident.toNat (p.share.map fun b => (b, p.hostKeys.get 0 b))

/-- The physical bit of an HBM byte under the host key selection of its block (R365, R367). -/
def Partition.hostKey (p : Partition) (byte : Nat) : Nat := 8 * byte + p.hostKeys.get 0 (byte / 2 ^ 30) * 2 ^ 46

/-- Bytes of HBM as the host names them, cut where a block ends. -/
def Partition.hostParts (p : Partition) (byte len : Nat) : List Part :=
  let n := min len (2 ^ 30 - byte % 2 ^ 30)
  ⟨p.hostKey byte, 8 * n⟩ :: if n < len then [⟨p.hostKey (byte + n), 8 * (len - n)⟩] else []

/-- A host access to bytes of HBM at their home: in the share it is performed, outside it completes with Unsupported
Request (R367). -/
def State.hostAccess (s : State) (write : Bool) (byte len : Nat) (v : Word) : State :=
  s.ofFunction fun s =>
    if !s.part.inShare byte len then s.toHost .unsupported
    else if write then s.traffic.storeParts .outside v.toNat (s.part.hostParts byte len)
    else
      let r := s.traffic.loadParts .outside (s.part.hostParts byte len)
      r.2.toHost (.value (BitVec.ofNat 64 r.1))

/-- HOST_BAR2_ACCESS: up to eight bytes through BAR2 (R367). -/
def execHostBar2Access (write : Bool) (byte len : Nat) (v : Word) (s : State) : Outcome :=
  .next (s.hostAccess write byte (min 8 (max 1 len)) v)

/-- HOST_CXL_MEM_ACCESS: the HDM decoders cover exactly the blocks of the share (R369). -/
def execHostCxlMemAccess (write : Bool) (byte len : Nat) (v : Word) (s : State) : Outcome :=
  .next (s.hostAccess write byte (min 8 (max 1 len)) v)

/-- HOST_CXL_SNOOP: a cluster cache gives up its host line; caches hold no state of their own here (R369, log entry 6). -/
def execHostCxlSnoop (_line : Nat) (s : State) : Outcome := .next s

/-- CXL_CACHE_ENABLE (R369). -/
def execCxlCacheEnable (on : Bool) (s : State) : Outcome := .next (s.modPart fun p => { p with cxlCache := on })

/-- The new value of a host atomic (R371). -/
def hostNew (op : HostOp) (w old v : Nat) : Nat :=
  match op with
  | .fetchAdd => (old + v) % 2 ^ w
  | .swap => v % 2 ^ w
  | .cas e => if old = e.toNat % 2 ^ w then v % 2 ^ w else old

/-- HOST_ATOMIC: 32 and 64 bits execute at the HBM home, as one access; other widths complete with Unsupported Request;
one that finds the home's replay filter full is tried again after the backoff of R168 (R289, R371). -/
def execHostAtomic (op : HostOp) (byte width : Nat) (v : Word) (s : State) : Outcome :=
  .next (s.ofFunction fun s =>
    if !(width == 32 || width == 64) || 8 * byte % width != 0 || !s.part.inShare byte (width / 8) then
      s.toHost .unsupported
    else if s.placeBusy (s.part.hostKey byte) then s.after 16 (.hostAtomic op byte width v)
    else
      let r := s.traffic.updateAt .outside 0 ⟨s.part.hostKey byte, width⟩ fun old => some (hostNew op width old v.toNat)
      r.2.toHost (.value (BitVec.ofNat 64 r.1)))

/-- MSIX_VECTOR_UNMASK: a pending message is sent (R370). -/
def execMsixVectorUnmask (vec : Fin 32) (s : State) : Outcome :=
  let b : BitVec 32 := 1#32 <<< vec.val
  let t := s.modPart fun p => { p with masked := p.masked &&& ~~~b, pending := p.pending &&& ~~~b }
  .next (if s.part.pending.getLsbD vec.val then t.toHost (.msix vec.val) else t)

/-! ## Peers (R59, R372–R374) -/

/-- Where a request of a bound peer leads: a mesh place of this partition, checked here, or a bit of its share (R59, R372). -/
def State.peerPlace (s : State) (num : BitVec 12) (addr : Word) (w : Nat) : Found :=
  if !s.part.peers.any (fun b => b.num == num) then .flt ⟨.bounds, addr⟩
  else if space addr = 4 then
    locateMesh s.part false
      (BitVec.ofNat 64 ((addr.extractLsb' 39 10).toNat * 2 ^ 51 + (addr.extractLsb' 29 10).toNat * 2 ^ 41 +
        (addr.extractLsb' 25 4).toNat * 2 ^ 37 + (addr.extractLsb' 0 25).toNat)) w w addr
  else if s.part.inShare (addr.toNat / 8) ((addr.toNat % 8 + w + 7) / 8) then .ok [⟨addr.toNat, w⟩] .hbm
  else .flt ⟨.bounds, addr⟩

/-- A peer's request as a message to its home. -/
def peerMsg (op : PeerOp) (parts : List Part) (addr v : Word) : Msg :=
  ⟨⟨peerCore op.link op.num op.src.core, op.src.bank⟩, 0, op.tag, op.op, parts, addr, v, op.expect, 0, 0, false⟩

/-- PEER_REQUEST: an access of a peer performed here once, by its tag, and answered, or an address fault returned. A space-100
address names a mesh place, another a bit of HBM (R59, R289, R372). -/
def execPeerRequest (op : PeerOp) (addr : Word) (width : Width) (v : Word) (s : State) : Outcome :=
  .next (match s.peerPlace op.num addr (bitsOf width) with
    | .ok ps home =>
      let m := peerMsg op ps addr v
      if needsLayer0 op.op && !inLayer0 addr home then s.peerReply m .peerFault
      else
        match s.traffic.perform m 0 with
        | (t, some a) => t.peerReply m a
        | (t, none) => t
    | _ => s.peerReply (peerMsg op [] addr v) .peerFault)

/-- PEER_BINDING_SETUP: the module's number is set, once until the next cold boot, and the binding made; one that names the
module's own number or no Flakar link, a second one of a module and a seventeenth are refused (R13, R365, R372, R374). -/
def execPeerBindingSetup (p : Peer) (own : BitVec 12) (s : State) : Outcome :=
  let num := if s.modid.getLsbD 63 then s.modid.extractLsb' 0 12 else own
  let s := { s with modid := (1#1 ++ (0 : BitVec 51)) ++ num }
  .next (if p.num = num ∨ !s.part.live ∨ 24 ≤ p.link ∨ 16 ≤ s.part.peers.length ∨ s.part.peers.any (fun b => b.num == p.num) then s
    else s.modPart fun t => { t with peers := t.peers ++ [p] })

/-- Whether a physical bit lies in a peer's memory. -/
def inPeer (num key : Nat) : Bool :=
  (peerBase num ≤ key && key < peerBase (num + 1)) || (peerMeshBase num ≤ key && key < peerMeshBase (num + 1))

/-- Translations without the leaves of a peer's pages. -/
def dropPeer (num : Nat) (t : List TlbEntry) : List TlbEntry :=
  t.filter fun e => !(pteTgt e.leaf == 2 && pteMod e.leaf == num)

/-- PEER_BINDING_REMOVE: later accesses fault at issue, and requests that wait at the peer, or for the peer here, return cause
0x0F (R373). -/
def execPeerBindingRemove (num : BitVec 12) (s : State) : Outcome :=
  let n := num.toNat
  let atPeer (m : Msg) : Bool := m.parts.any fun p => inPeer n p.key
  let ofPeer (m : Msg) : Bool := m.src.core / 2 ^ 24 % 8192 == n + 1
  let waiting := s.quads.flatMap fun (e : Nat × Quad) => e.2.deferred.filter fun m => atPeer m || ofPeer m
  let s := waiting.foldl (fun s m => if ofPeer m then s.peerReply m .peerFault else s.post (.memReply m .peerFault)) s
  let s := s.modPart fun p => { p with peers := p.peers.filter fun b => b.num != num }
  .next { s with
    cores := s.cores.map fun (e : Nat × Core) => (e.1, { e.2 with itlb := dropPeer n e.2.itlb, dtlb := dropPeer n e.2.dtlb })
    clusters := s.clusters.map fun (e : Nat × Cluster) => (e.1, { e.2 with tlb := dropPeer n e.2.tlb })
    quads := s.quads.map fun (e : Nat × Quad) =>
      (e.1, { e.2 with deferred := e.2.deferred.filter fun m => !(atPeer m || ofPeer m) }) }

/-- LINK_BEAT_RETRY: a beat that failed its CRC is resent and counted; after 16 failures the link is dead, a fatal error of the
partition whose paths cross it. A link is numbered 4·(1,024·y + x) + port by its router (R402, R404, R409). -/
def execLinkBeatRetry (link fails : Nat) (s : State) : Outcome :=
  let x := link / 4 % 1024
  let y := link / 4 / 1024
  let t := s.modDie (dieAt (x / 80) (y / 80)) fun d => { d with errd := stepField d.errd 32 32 }
  .next (if fails < 16 then t else t.post (.fatalError (.deadLink link) false))

end Sys2Proof.Machine
end

