-- ==== Sys2Proof/Machine/Tracks.lean ====
section
/-! DEFINITION. Tracks and pages: TBIND, TFREE, THEAD (R79–R82, R182), the page pools (R183, R184), sequence descriptors
(R185, R186), and the track-port commands (R204–R208). -/

namespace Sys2Proof.Machine

/-! ## Bindings (R78–R80, R182) -/

/-- The head of a strand's binding of a track, none when it has not bound it. -/
def Strand.headOf (st : Strand) (t : BitVec 7) : Option Nat :=
  (st.binds.find? fun e => e.1 == t).map (·.2.toNat)

/-- The head of a binding set. -/
def Strand.setHead (st : Strand) (t : BitVec 7) (h : Nat) : Strand :=
  { st with binds := st.binds.map fun e => if e.1 = t then (t, BitVec.ofNat 10 h) else e }

/-- TBIND: nothing moves (R79, R182). -/
def execTbind (t : BitVec 7) (rs1 : Reg) (s : State) : Outcome :=
  let st := s.strand s.here
  let h := (s.reg rs1).toNat
  .next (if 1023 < h ∨ ((s.core s.cur).bound.find t.toNat).isSome ∨ 8 ≤ st.binds.length then s.trap .track s.wordHere
    else
      ((s.modCore s.cur fun k =>
        { k with bound := k.bound.set t.toNat st.sfp }).modStrand s.here fun x =>
          { x with binds := x.binds ++ [(t, BitVec.ofNat 10 h)] }).advance)

/-- A command word that names a track (R204). -/
def namesTrack (t : BitVec 7) (w : BitVec 256) : Bool := engOf w == 1 && w.extractLsb' 233 7 == t

/-- Whether a command of a strand that names a track has not issued (R182). -/
def Core.queuesTrack (k : Core) (sfp : Word) (t : BitVec 7) : Bool :=
  (k.queue.any fun e => e.sfp == sfp && namesTrack t e.word) || k.latch.any fun e => e.sfp == sfp && namesTrack t e.word

/-- TFREE: it waits for the strand's earlier commands on the track to complete (R79, R80). -/
def execTfree (t : BitVec 7) (s : State) : Outcome :=
  let st := s.strand s.here
  .next (if (st.headOf t).isNone then s.trap .track s.wordHere
    else if (s.core s.cur).queuesTrack st.sfp t ||
        (s.quad (quadOf s.cur)).out.any fun i => i.sfp == st.sfp && i.eng == 1 && i.track == t.toNat then
      s.stall .other 0 0
    else
      ((s.modCore s.cur fun k => { k with bound := k.bound.erase t.toNat }).modStrand s.here fun x =>
        { x with binds := x.binds.filter fun e => e.1 != t }).resume.advance)

/-- THEAD: it waits until the strand's earlier commands on the track have issued (R182). -/
def execThead (rd : Reg) (t : BitVec 7) (s : State) : Outcome :=
  let st := s.strand s.here
  .next (match st.headOf t with
    | none => s.trap .track s.wordHere
    | some h =>
      if (s.core s.cur).queuesTrack st.sfp t then s.stall .other 0 0
      else s.resume.complete rd (BitVec.ofNat 64 h))

/-! ## Page pools (R92, R183, R184) -/

/-- Whether an address names a page (R183). -/
def isPage (a : Word) : Bool :=
  space a == 0 && 8 ≤ meshLayer a && meshMbz a == 0 && meshOff a % 2 ^ 18 == 0

/-- The pool key of a page address. -/
def pageKey (a : Word) : Nat :=
  512 * coreId (meshX a) (meshY a) + 64 * (meshLayer a - 8) + meshOff a / 2 ^ 18

/-- The page address of a pool key. -/
def pageAddr (k : Nat) : Word :=
  let c := k / 512
  meshAddr (coreX c) (coreY c) (BitVec.ofNat 64 ((8 + k % 512 / 64) * 2 ^ 37 + k % 64 * 2 ^ 18))

/-- The keys of the pages of a pool in a state. -/
def pagesIn (t : Tbl PageState) (p : PageState) : List Nat := (t.filter fun e => e.2 == p).map (·.1)

/-- The free pages a core's PGALLOC chooses among: in its column, else its quad, cluster or die, else borrowed (R183). -/
def State.freePages (s : State) (c : Nat) : List Nat :=
  let d := s.part.dieOf c
  let own := pagesIn (s.die d).pool .free
  let levels := [own.filter fun k => k / 512 == c, own.filter fun k => quadOf (k / 512) == quadOf c,
    own.filter fun k => clusterOf (k / 512) == clusterOf c, own,
    s.dies.flatMap fun (e : Nat × Die) => pagesIn e.2.pool (.lentFree d)]
  (levels.find? fun l => !l.isEmpty).getD []

/-- One of a list of pages for a core; which one, where there are several, the spec leaves open (log entry 8). -/
def State.pickPage (s : State) (core : Nat) (l : List Nat) : Nat × State :=
  match l with
  | [k] => (k, s)
  | l =>
    (l.getD (Config.freePage core (s.core core).picks % max 1 l.length) 0,
      s.modCore core fun k => { k with picks := k.picks + 1 })

/-- A page's state in the pool of the die that holds it. -/
def State.setPage (s : State) (k : Nat) (p : PageState) : State :=
  s.modDie (s.part.dieOf (k / 512)) fun d => { d with pool := d.pool.set k p }

/-- The place of a core's die on the grid of dies, 8·y + x (R14). -/
def Partition.diePlace (p : Partition) (c : Nat) : Nat :=
  8 * ((p.originY + coreY c) / 80) + (p.originX + coreX c) / 64

/-- The other dies of a partition in the order in which a die asks them for pages, as places of the grid: those that share
an edge, north, east, south, west, then by distance, ties by number (R184). -/
def Partition.lenders (p : Partition) (c : Nat) : List Nat :=
  let me := p.diePlace c
  let all := (p.clusterList.map fun k => p.diePlace (firstCore k)).eraseDups.filter (· != me)
  sortBy (fun d =>
    let n := dist (d % 8) (me % 8) + dist (d / 8) (me / 8)
    if n = 1 then (if d + 8 = me then 0 else if d = me + 1 then 1 else if d = me + 8 then 2 else 3)
    else 64 * n + dieAt (d % 8) (d / 8)) all

/-- PGALLOC: a free page of the die, marked allocated; with none, a batch is borrowed and the strand waits; with no lender
the result is 0 (R183, R184). A die lends pages that it holds, not pages that it has borrowed (DESIGN CHOICE, log entry 60). -/
def execPgalloc (rd : Reg) (s : State) : Outcome :=
  .next (match s.freePages s.cur with
    | [] =>
      match ((s.part.lenders s.cur).map fun d => dieAt (d % 8) (d / 8)).find? fun d =>
          !(pagesIn (s.die d).pool .free).isEmpty with
      | none => s.resume.complete rd 0
      | some d => (s.post (.poolBorrowReply s.here d)).stall .other 0 0
    | l =>
      let r := s.pickPage s.cur l
      let d := s.part.dieOf s.cur
      let st := if s.part.dieOf (r.1 / 512) = d then PageState.allocated else .lentAllocated d
      (r.2.setPage r.1 st).resume.complete rd (pageAddr r.1))

/-- POOL_BORROW_REPLY: the lender's first 64 free pages, in ascending order, belong to the borrower's pool (R184). -/
def execPoolBorrowReply (p : Place) (lender : Nat) (s : State) : Outcome :=
  .next (((pagesIn (s.die lender).pool .free).take 64).foldl
    (fun s k => s.setPage k (.lentFree (s.part.dieOf p.core))) s)

/-- PGFREE: the page returns to the pool of the die that holds it (R183, R184). -/
def execPgfree (rs1 : Reg) (s : State) : Outcome :=
  let a := s.reg rs1
  .next (if isPage a && s.part.inside (meshX a) (meshY a) then
      match (s.die (s.part.dieOf (coreId (meshX a) (meshY a)))).pool.find (pageKey a) with
      | some .allocated => (s.setPage (pageKey a) .free).advance
      | some (.lentAllocated _) => (s.setPage (pageKey a) .free).advance
      | _ => s.trap .pool a
    else s.trap .pool a)

/-! ## Sequence descriptors (R185, R186) -/

/-- Whether an access of the executing strand leaves its quad (R99, R308). -/
def State.leavesQuad (s : State) (a : Word) (home : Home) : Bool :=
  if home = .register then !ownBlock s.cur a else !home.own s.cur

/-- One load of the executing strand made within an instruction that makes several (R58, R190). -/
def State.readPlace (s : State) (a : Word) (ps : List Part) (home : Home) : Nat × State :=
  if home = .register then
    ((s.readRegister a).toNat, if s.leavesQuad a home then s.measure s.here home else s)
  else (s.noteAccess s.cur .load s.user a).readOwn a ps home

/-- Ordinary loads of `w` bits of the executing strand in order: their values, and whether one left the quad; or where the first
that fails does. -/
def State.readWords (s : State) (w : Nat) : List Word → Except Found (List Nat × Bool) × State
  | [] => (.ok ([], false), s)
  | a :: r =>
    match s.locate s.cur s.user true .load a w w with
    | .ok ps home =>
      let l := s.readPlace a ps home
      match l.2.readWords w r with
      | (.ok v, t) => (.ok (l.1 :: v.1, s.leavesQuad a home || v.2), t)
      | (.error f, t) => (.error f, t)
    | f => (.error f, s)

/-- What a descriptor maps a position to: the slot, its generation, and the entry's address (R186). -/
structure KvSlot where
  slot : Nat
  gen : Nat
  addr : Word
  genAddr : Word
  len : Nat
  sink : Nat
  window : Nat
  deriving DecidableEq, Repr

/-- Why a mapping fails: an access at an address of its operand, one at an address that its descriptor gives, or a kv
fault. -/
inductive KvFail where
  | access (f : Found)
  | derived (f : Found)
  | kv

/-- What a descriptor's words give for a position, but for its page: the index of the page in the list and the offset in it
(R185, R186). -/
def kvPlace (w0 w1 w2 w3 p : Nat) : Option (Nat × Word × KvSlot) :=
  let elog := w1 / 2 ^ 32 % 16
  let sink := w1 % 2 ^ 32
  let window := w0 / 2 ^ 32
  if w1 / 2 ^ 36 ≠ 0 ∨ w2 / 2 ^ 32 ≠ 0 ∨ 10 < elog then none
  else if sink ≤ p ∧ window = 0 then none
  else
    let slot := if p < sink then p else sink + (p - sink) % window
    let gen := if p < sink then 0 else (p - sink) / window % 2 ^ 32
    let epp := 1024 / 2 ^ elog
    if w2 ≤ slot / epp then none
    else
      some (slot / epp, BitVec.ofNat 64 (slot % epp * 2 ^ elog * 256),
        ⟨slot, gen, 0, BitVec.ofNat 64 (w3 + 32 * slot), w0 % 2 ^ 32, sink, window⟩)

/-- A mapping through a descriptor, and whether a load left the quad (R186). -/
def State.kvSlot (s : State) (desc : Word) (p : Nat) : Except KvFail (KvSlot × Bool) × State :=
  match s.readWords 64 [desc, desc + 64, desc + 128, desc + 192] with
  | (.error f, s) => (.error (.access f), s)
  | (.ok (w, far), s) =>
    match kvPlace (w.getD 0 0) (w.getD 1 0) (w.getD 2 0) (w.getD 3 0) p with
    | none => (.error .kv, s)
    | some (i, off, k) =>
      match s.readWords 64 [desc + BitVec.ofNat 64 (64 * (4 + i))] with
      | (.error f, s) => (.error (.derived f), s)
      | (.ok (page, far'), s) =>
        let page := BitVec.ofNat 64 (page.headD 0)
        if isPage page then (.ok ({ k with addr := page + off }, far || far'), s) else (.error .kv, s)

/-- A mapping's failure: the access's fault or wait, or the kv fault with TVAL x[rs1] (R186, R310). -/
def State.kvFault (s : State) (desc : Word) (f : KvFail) : State :=
  match f with
  | .access f => s.badAccess .load f
  | .derived f => s.badAccessAs .load f desc
  | .kv => s.trap .kv desc

/-- A mapping completed; the core passes to its next ready bank where an access left the quad (R99). -/
def State.kvDone (s : State) (far : Bool) (rd : Reg) (v : Word) : State :=
  let t := s.complete rd v
  if far then t.switch s.cur else t

/-- KVMAP (R186). -/
def execKvmap (rd rs1 rs2 : Reg) (s : State) : Outcome :=
  let p := (s.reg rs2).toNat
  let desc := s.reg rs1
  .next (match s.kvSlot desc p with
    | (.error f, t) => t.kvFault desc f
    | (.ok (k, far), t) =>
      if p < k.len ∧ (p < k.sink ∨ k.len ≤ p + k.window) then
        match t.readWords 32 [k.genAddr] with
        | (.error f, t) => t.badAccessAs .load f desc
        | (.ok (g, far'), t) => t.kvDone (far || far') rd (if g.headD 0 = k.gen then k.addr else 0)
      else t.kvDone far rd 0)

/-- The generation of a slot stored, as an ordinary store of the strand; a peer that refuses it returns its fault (R186, R339,
R372). -/
def State.storeGen (s : State) (a : Word) (gen : Nat) (ps : List Part) (home : Home) : State :=
  let who := Who.strand s.cur (s.strand s.here).sfp
  let s := s.noteAccess s.cur .store s.user a
  let s := if home.own s.cur then s else s.measure s.here home
  if s.peerRefuses a ps then s.post (.peerFaultReturn s.here (s.strand s.here).sfp)
  else if ps.any fun p => s.guarded p.key then s.discardStore who a gen
  else s.storeParts who gen ps

/-- KVMAP.W (R186): a position of 2^32 or more takes its kv fault before the store's address is checked, as R186's steps have it
(DESIGN CHOICE over R191's order, log entry 82). -/
def execKvmapW (rd rs1 rs2 : Reg) (s : State) : Outcome :=
  let p := (s.reg rs2).toNat
  let desc := s.reg rs1
  .next (match s.kvSlot desc p with
    | (.error f, t) => t.kvFault desc f
    | (.ok (k, far), t) =>
      if 2 ^ 32 ≤ p then t.trap .kv desc
      else
        match t.locate s.cur s.user true .store k.genAddr 32 32 with
        | .ok ps home => (t.storeGen k.genAddr k.gen ps home).kvDone (far || !home.own s.cur) rd k.addr
        | f => t.badAccessAs .store f desc)

/-! ## Track-port commands (R204–R208) -/

/-- The physical bit of a track word. -/
def trackKey (c t pos : Nat) : Nat := trackBase c + t * 2 ^ 20 + 256 * pos

/-- The strand of the command in progress. -/
def State.sender (s : State) : Strand :=
  match s.residentOf s.ctx.sfp with
  | some p => s.strand p
  | none => .reset

/-- The strand of the command in progress changed. -/
def State.modSender (s : State) (f : Strand → Strand) : State :=
  match s.residentOf s.ctx.sfp with
  | some p => s.modStrand p f
  | none => s

/-- The owner's track brought to its head: what came before on the track finishes first, and the marks are read after a shift
(R78, R83, R88). -/
def State.align (s : State) (c t h : Nat) : State :=
  let moved := (s.core c).trackPos.get 0 t != h || ((s.core c).shifting.find t).isSome
  let s := s.modCore c fun k => (k.finishShift t).shiftTo t h
  if moved then s.checkMarks s.who c t h else s

/-- A track word read for its owner (R88, R207, R403). -/
def State.readTrack (s : State) (c t pos : Nat) : Wide × State :=
  let r := s.readHome s.who ⟨trackKey c t pos, 256⟩
  (BitVec.ofNat 256 r.1, r.2)

/-- A track word written for its owner, whose track is then one that has been written (R88, R91, R207, R403). -/
def State.writeTrack (s : State) (c t pos : Nat) (v : Nat) : State :=
  (s.writeHome s.who [(⟨trackKey c t pos, 256⟩, v)]).modCore c fun k => { k with tocc := k.tocc ||| (1#128 <<< t) }

/-- The segments an access covers (R204). -/
def trackSegments (f : TrackF) : List Nat := if f.four then [0, 1, 2, 3] else [f.seg.toNat]

/-- The vector registers of TRD and TWR (R207). -/
def trackRegs (f : TrackF) : List Nat :=
  (List.range (if f.four then 4 else 1)).map fun k => (f.vreg.toNat + k) % 32

/-- The checks of R205 on the binding and the final head, which then is set; the head before it. -/
def State.trackHead (s : State) (t : BitVec 7) (last : Int → Int) (final : Int → Int) : Except Nat (Nat × State) :=
  match s.sender.headOf t with
  | none => .error 0x07
  | some h =>
    let inside (x : Int) : Bool := 0 ≤ x && x ≤ 1023
    if inside (last h) && inside (final h) then .ok (h, s.modSender (·.setHead t (final h).toNat)) else .error 0x08

/-- TSEEK and TREW: the head is set, and the shift runs in the agent (R206). -/
def State.seek (s : State) (t : BitVec 7) (h : Nat) : Ran :=
  match s.trackHead t id fun _ => h with
  | .error c => .fault c s
  | .ok (_, s) =>
    let c := s.ctx.core
    let s := s.modCore c fun k => k.finishShift t.toNat
    let d := dist ((s.core c).trackPos.get 0 t.toNat) h
    let s := s.modCore c fun k => { k with shifting := k.shifting.set t.toNat h }
    .done (s.after d (.trackShiftDone c t)) 0

/-- TSEEK (R205, R206). -/
def execTseek (tagged : Bool) (f : TrackF) (_ : Slots) (s : State) : Outcome :=
  .next (s.runCommand 1 0 0 f.track.toNat tagged [] [] fun s => s.seek f.track f.head.toNat)

/-- TREW (R205, R206). -/
def execTrew (tagged : Bool) (f : TrackF) (_ : Slots) (s : State) : Outcome :=
  .next (s.runCommand 1 3 0 f.track.toNat tagged [] [] fun s => s.seek f.track 0)

/-- TRACK_SHIFT_DONE: the shift finishes, and its marks are read (R76, R88). -/
def execTrackShiftDone (core : Nat) (t : BitVec 7) (s : State) : Outcome :=
  .next (match (s.core core).shifting.find t.toNat with
    | none => s
    | some h =>
      let who : Who := ⟨some core, (s.core core).bound.find t.toNat⟩
      (s.modCore core fun k => k.finishShift t.toNat).checkMarks who core t.toNat h)

/-- TRD: raw track words into the registers, then the head steps (R207). -/
def execTrd (tagged : Bool) (f : TrackF) (_ : Slots) (s : State) : Outcome :=
  .next (s.runCommand 1 1 0 f.track.toNat tagged [] (trackRegs f) fun s =>
    match s.trackHead f.track id (· + f.step.toInt) with
    | .error c => .fault c s
    | .ok (h, s) =>
      let c := s.ctx.core
      let s := s.align c f.track.toNat h
      .done (((trackSegments f).zip (trackRegs f)).foldl (fun (s : State) e =>
        let y := s.readTrack c f.track.toNat (h + 1024 * e.1)
        y.2.modSender fun st => { st with v := st.v.setIfInBounds e.2 y.1 }) s) 0)

/-- TWR: the registers' raw bits into the track words, then the head steps (R207). -/
def execTwr (tagged : Bool) (f : TrackF) (_ : Slots) (s : State) : Outcome :=
  .next (s.runCommand 1 2 0 f.track.toNat tagged (trackRegs f) [] fun s =>
    match s.trackHead f.track id (· + f.step.toInt) with
    | .error c => .fault c s
    | .ok (h, s) =>
      let c := s.ctx.core
      let v := s.sender.v
      let s := s.align c f.track.toNat h
      .done (((trackSegments f).zip (trackRegs f)).foldl (fun (s : State) e =>
        s.writeTrack c f.track.toNat (h + 1024 * e.1) ((v.toList.getD e.2 0).toNat)) s) 0)

/-- Cause of an address fault of a command: space or bounds 0x03, misalignment 0x04, privilege 0x05, translation 0x06
(R199). -/
def addressCause : Found → Nat
  | .flt f => match f.cause with
    | .misaligned => 0x04
    | .privilege => 0x05
    | .translation => 0x06
    | _ => 0x03
  | .absent _ => 0x06
  | .ok _ _ => 0

/-- The cause of an address slot that leads nowhere for an engine: outside the partition, or in device register space; privilege
ranks first (R56, R58, R60). -/
def State.badSlot (s : State) (outside : Bool) (a : Word) : Option Nat :=
  let user := !s.ctx.priv
  if outside then some (if user && inCabinet7 (meshLayer a) (meshOff a) then 0x05 else 0x03)
  else if space a = 3 then some (if user then 0x05 else 0x03)
  else none

/-- The scratchpad address of a burst of `words` track words: layer 0 of the core's own quad, within one cabinet (R205,
R208). -/
def State.burstPlace (s : State) (sl : Slots) (words : Nat) : Except Nat Nat :=
  match s.badSlot sl.ua sl.a with
  | some c => .error c
  | none =>
    if space sl.a = 1 then .error 0x03
    else
      match s.locate s.ctx.core (!s.ctx.priv) false .store sl.a (256 * words) 256 with
      | .ok (⟨key, _⟩ :: _) h => if h = .scratch (quadOf s.ctx.core) then .ok key else .error 0x03
      | .ok [] _ => .error 0x03
      | f => .error (addressCause f)

/-- A burst (R208): the head it starts from, the scratchpad bit it starts at, and the state with the final head set. -/
def State.burst (s : State) (f : TrackF) (sl : Slots) : Except Nat (State × Nat × Nat) :=
  let n := f.npos.toNat + 1
  match s.trackHead f.track (· + (n - 1)) (· + (n - 1) + f.step.toInt) with
  | .error c => .error c
  | .ok (h, t) =>
    match s.burstPlace sl (n * (trackSegments f).length) with
    | .error c => .error c
    | .ok key => .ok (t, h, key)

/-- The positions of a burst in order: the track is brought to each, its marks read, and then the words there move, each given its
position on the track and its place in the burst (R86, R88, R208). -/
def State.eachPosition (s : State) (f : TrackF) (h : Nat) (move : State → (pos k : Nat) → State) : State :=
  let n := f.npos.toNat + 1
  (List.range n).foldl (fun (s : State) i =>
    (trackSegments f).zipIdx.foldl (fun s e => move s (h + i + 1024 * e.1) (e.2 * n + i))
      (s.align s.ctx.core f.track.toNat (h + i))) s

/-- TBLK: a burst from the track to the scratchpad (R208); its words for a hardware area of cabinet 7 are discarded outside the
condition of R339. -/
def execTblk (tagged : Bool) (f : TrackF) (sl : Slots) (s : State) : Outcome :=
  .next (s.runCommand 1 4 0 f.track.toNat tagged [] [] fun s =>
    match s.burst f sl with
    | .error c => .fault c s
    | .ok (t, h, key) =>
      .done (t.eachPosition f h fun s pos k =>
        let y := s.readTrack s.ctx.core f.track.toNat pos
        let place := key + 256 * k
        if y.2.guarded place then y.2.discardStore y.2.who (sl.a + BitVec.ofNat 64 (256 * k)) y.1.toNat
        else y.2.homeStore y.2.who place 256 y.1.toNat) 0)

/-- TBLKW: a burst from the scratchpad to the track (R208). -/
def execTblkw (tagged : Bool) (f : TrackF) (sl : Slots) (s : State) : Outcome :=
  .next (s.runCommand 1 5 0 f.track.toNat tagged [] [] fun s =>
    match s.burst f sl with
    | .error c => .fault c s
    | .ok (t, h, key) =>
      .done (t.eachPosition f h fun s pos k =>
        let y := s.homeLoad s.who (key + 256 * k) 256
        y.2.writeTrack y.2.ctx.core f.track.toNat pos y.1) 0)

end Sys2Proof.Machine
end

