-- ==== Sys2Proof/Machine/Loader.lean ====
section
/-! DEFINITION. The image loader: relocations (R40), strand entries (R44), the sections (R45), and IMAGE_LOAD (R47). -/

namespace Sys2Proof.Machine

/-! ## Relocations (R40) -/

/-- hi(v) before its reduction modulo 2^20: v rounded to a multiple of 4,096 (R38). -/
def hiPart (v : Int) : Int := (v + 2048) / 4096

/-- lo(v), in −2048…2047 (R38). -/
def loPart (v : Int) : Int := v - 4096 * hiPart v

/-- Whether hi() and lo() take a value: a signed 32-bit one (R38). -/
def signed32 (v : Int) : Bool := -(2 ^ 31) ≤ v && v < 2 ^ 31

/-- A bit of a section, by the section's number, as a bit address. -/
def sectionBit (img : Image) (n off : Nat) : Option Int := (img.sections[n]?).map fun x => (x.base.toNat + off : Int)

/-- S + A of a relocation (R40). -/
def relocTarget (r : Reloc) (img : Image) : Option Int :=
  match r.symbol with
  | none => some (r.offset + r.addend)
  | some n => (sectionBit img n 0).map fun b => b + r.offset + r.addend

/-- P of a relocation: the instruction that holds the field, or the AUIPC that it is paired with (R40). -/
def relocPlace (r : Reloc) (img : Image) : Option Int :=
  match r.field with
  | .inSection n off => sectionBit img n (if r.kind = .pclo12i then r.pair else off)
  | _ => none

/-- A value of a signed or unsigned field of `n` bits, as bits. -/
def fieldValue (n : Nat) (v : Int) : Nat := (BitVec.ofInt n v).toNat

/-- lo(v) ÷ w, none where it is not exact (R40). -/
def loScaled (v : Int) (w : Nat) : Option Nat :=
  if signed32 v && w != 0 && loPart v % w == 0 then some (fieldValue 12 (loPart v / w)) else none

/-- A distance in 16-bit units in a range, none where it leaves it or is no multiple of 32 bits (R40). -/
def branchUnits (d : Int) (n : Nat) : Option Nat :=
  if d % 32 = 0 ∧ -(2 ^ (n - 1)) ≤ d / 16 ∧ d / 16 ≤ 2 ^ (n - 1) - 2 then some (fieldValue n (d / 16)) else none

/-- The value a relocation places, none where the loader rejects it (R40). -/
def relocValue (r : Reloc) (img : Image) : Option Nat :=
  (relocTarget r img).bind fun v =>
    match r.kind with
    | .abs64 => if -(2 ^ 63) ≤ v ∧ v < 2 ^ 64 then some (fieldValue 64 v) else none
    | .hi20 => if signed32 v then some (fieldValue 20 (hiPart v)) else none
    | .lo12i => loScaled v r.scale
    | .lo12s => loScaled v r.scale
    | .pchi20 => (relocPlace r img).bind fun p => if signed32 (v - p) then some (fieldValue 20 (hiPart (v - p))) else none
    | .pclo12i => (relocPlace r img).bind fun p => loScaled (v - p) r.scale
    | .br13 => (relocPlace r img).bind fun p => branchUnits (v - p) 13
    | .jal21 => (relocPlace r img).bind fun p => branchUnits (v - p) 21

/-- An instruction word with an immediate field replaced, by its format (R138). -/
def placeField (k : RelocKind) (w : BitVec 32) (v : Nat) : BitVec 32 :=
  let b (lo n : Nat) : BitVec n := BitVec.ofNat n (v / 2 ^ lo)
  match k with
  | .hi20 | .pchi20 => b 0 20 ++ w.extractLsb' 0 12
  | .lo12i | .pclo12i => b 0 12 ++ w.extractLsb' 0 20
  | .lo12s => b 5 7 ++ w.extractLsb' 12 13 ++ b 0 5 ++ w.extractLsb' 0 7
  | .br13 => b 12 1 ++ b 5 6 ++ w.extractLsb' 12 13 ++ b 1 4 ++ b 11 1 ++ w.extractLsb' 0 7
  | .jal21 => b 20 1 ++ b 1 10 ++ b 11 1 ++ b 12 8 ++ w.extractLsb' 0 12
  | .abs64 => w

/-- Contents with a relocation's field placed at a bit (R40). -/
def relocApply (r : Reloc) (v : Nat) (m : Memory) (bit : Nat) : Memory :=
  match r.kind with
  | .abs64 => m.writeBits bit 64 v
  | k => m.writeBits bit 32 (placeField k (BitVec.ofNat 32 (m.readBits bit 32)) v).toNat

/-- Contents with those relocations placed that stand in them, `at_` giving the bit of each. -/
def relocate (img : Image) (at_ : FieldAt → Option Nat) (m : Memory) : Memory :=
  img.relocs.foldl (fun m r =>
    match at_ r.field, relocValue r img with
    | some bit, some v => relocApply r v m bit
    | _, _ => m) m

/-- Bytes as a memory. -/
def bytesMemory (l : List (Nat × Byte)) : Memory := l.foldl (fun m e => m.write e.1 e.2) []

/-- The contents of section `n`, by byte offset; .zero has none but zeros (R45). -/
def imageSection (img : Image) (n : Nat) (x : Section) : List (Nat × Byte) :=
  match x.kind with
  | .zero => (List.range x.size).map fun i => (i, 0)
  | _ =>
    let m := relocate img (fun f => match f with
      | .inSection k off => if k = n then some off else none
      | _ => none) (bytesMemory x.bytes)
    x.bytes.map fun e => (e.1, m.read e.1)

/-- The contents of the cabinets, by layer-0 byte offset. -/
def imageCabinets (img : Image) : List (Nat × Byte) :=
  let m := relocate img (fun f => match f with
    | .inCabinets off => some off
    | _ => none) (bytesMemory img.cabinets)
  img.cabinets.map fun e => (e.1, m.read e.1)

/-- The words of the tracks, each with its track and position. -/
def imageTracks (img : Image) : List (BitVec 7 × Nat × Wide) :=
  let bit (t : BitVec 7) (p : Nat) : Nat := t.toNat * 2 ^ 20 + 256 * p
  let m := relocate img (fun f => match f with
    | .inTrack t off => some (t.toNat * 2 ^ 20 + off)
    | _ => none) (img.tracks.foldl (fun (m : Memory) w => m.writeBits (bit w.1 w.2.1) 256 w.2.2.toNat) [])
  img.tracks.map fun w => (w.1, w.2.1, BitVec.ofNat 256 (m.readBits (bit w.1 w.2.1) 256))

/-! ## What the loader refuses (R40, R44, R45, R47) -/

/-- Whether an image's routes are refused: an end outside the partition, a landing buffer that leaves its cabinet or stands in
cabinet 7, or a link-cycle reserved twice; a detoured route reserves none (R44, R47, R362). A loaded route whose id the image
declares again is replaced by it, and is left out of the comparison (DESIGN CHOICE, log entry 66). -/
def State.routesRefused (s : State) (rs : List RouteDecl) : Bool :=
  let ends (r : RouteDecl) : Bool :=
    s.part.inside (coreX r.src) (coreY r.src) && s.part.inside (coreX r.dst) (coreY r.dst)
  let lands (r : RouteDecl) : Bool :=
    r.land / 2 ^ 17 < 7 && (r.land + 256 * r.beats - 1) / 2 ^ 17 == r.land / 2 ^ 17
  let loaded := (s.part.routes.filter fun (e : Nat × Route) =>
    !e.2.detoured && !rs.any fun r => r.id.toNat == e.1).map (·.2.decl)
  rs.any (fun r => !ends r || !lands r) || rs.zipIdx.any fun r =>
    (rs.drop (r.2 + 1)).any (s.routesClash r.1) || loaded.any (s.routesClash r.1)

/-- Whether a cabinet's type disagrees with that of an image already loaded (R47). -/
def State.formatRefused (s : State) (fs : List (Fin 7 × BitVec 5)) : Bool :=
  fs.any fun f =>
    match s.part.formats.find f.1.val with
    | some t => t != f.2
    | none => fs.any fun g => g.1 == f.1 && g.2 != f.2

/-- Whether a page's leaf has the permissions of a section: those of R45, and no permission to write what is read only (R45,
R136). -/
def sectionPermits (k : SectionKind) (e : Word) : Bool :=
  e.getLsbD 0 &&
    (match k with
      | .text => e.getLsbD 2 && !e.getLsbD 1
      | .rwdata | .zero => e.getLsbD 1
      | .rodata | .launch => !e.getLsbD 1)

/-- Whether a section stands in virtual space, on pages of the partition's tables with its permissions (R45; DESIGN CHOICE, log
entry 72). -/
def State.sectionPlaced (s : State) (x : Section) : Bool :=
  let a := (x.base.extractLsb' 0 61).toNat
  space x.base == 1 && x.base.toNat % 8 == 0 && a + 8 * x.size ≤ 2 ^ 51 &&
    (List.range ((a + 8 * x.size - 1) / 2 ^ 19 - a / 2 ^ 19 + 1)).all fun i =>
      match s.walk ((a / 2 ^ 19 + i) * 2 ^ 19) with
      | .leaf e _ => sectionPermits x.kind e
      | _ => false

/-- The records of the .launch sections with their addresses (R45). -/
def imageLaunches (img : Image) : List (Word × BitVec 512) :=
  img.sections.zipIdx.flatMap fun e =>
    if e.1.kind = .launch then
      let m := bytesMemory (imageSection img e.2 e.1)
      (List.range (e.1.size / 64)).map fun i =>
        (e.1.base + BitVec.ofNat 64 (512 * i), BitVec.ofNat 512 (m.readBits (512 * i) 512))
    else []

/-- Whether a launch record starts a U-mode task at a sys entry (R44). -/
def userAtSys (img : Image) (r : BitVec 512) : Bool :=
  !taskSys r && img.entries.any fun e => e.sys && sectionBit img e.sect e.off == some ((taskEntry r).toNat : Int)

/-- Whether the loader refuses an image: a relocation that it rejects, a cabinet format or a route in conflict, contents in
cabinet 7, a section that its pages do not carry, or a U-mode launch at a sys entry (R40, R44, R45, R47). -/
def State.imageRefused (s : State) (img : Image) : Bool :=
  (img.relocs.any fun r => (relocValue r img).isNone) || s.formatRefused img.formats || s.routesRefused img.routes ||
    (img.cabinets.any fun c => 7 * 2 ^ 14 ≤ c.1) || (img.sections.any fun x => !s.sectionPlaced x) ||
    (imageLaunches img).any fun l => userAtSys img l.2

/-! ## What the loader writes (R45, R47) -/

/-- Bytes that the loader writes, each sector whole, given the physical bit of each (R45, R47, R67). -/
def State.loadBytes (s : State) (l : List (Nat × Byte)) : State :=
  (bySector (l.map fun e => (⟨e.1, 8⟩, e.2.toNat))).foldl (fun s e => s.writeHome .outside e.2) s

/-- A quad's cabinets as an image sets them: formats and contents, the words written left empty (R47, R163). -/
def State.loadQuad (s : State) (img : Image) (q : Nat) : State :=
  let s := s.modQuad q fun k =>
    { k with cfmt := img.formats.foldl (fun v f => v.set f.1 f.2) k.cfmt }
  let l := (imageCabinets img).map fun c => (scratchBase q + 8 * c.1, c.2)
  let s := { s with full := s.full.filter fun w => !l.any fun e => e.1 / 64 == w }
  s.loadBytes l

/-- A core's tracks as an image sets them: the words in ascending order of position, a shift in progress ended before, the track
left where the last write left it, and marked as written (R47, R83, R91). SHIFTAC counts none of these shifts (DESIGN CHOICE, log entry 65). -/
def State.loadTracks (s : State) (img : Image) (c : Nat) : State :=
  let ws := imageTracks img
  ws.foldl (fun s w =>
    let t := w.1.toNat
    let last := (ws.filter fun v => v.1 == w.1).foldl (fun m v => max m v.2.1) 0
    let s := s.writeHome .outside [(⟨trackKey c t (w.2.1 % 4096), 256⟩, w.2.2.toNat)]
    s.modCore c fun k =>
      let k := k.finishShift t
      { k with trackPos := k.trackPos.set t (last % 1024), tocc := k.tocc ||| (1#128 <<< t) }) s

/-- A section written at its place in virtual space (R45). -/
def State.loadSection (s : State) (img : Image) (n : Nat) (x : Section) : State :=
  s.loadBytes ((imageSection img n x).filterMap fun e =>
    let va := (x.base.extractLsb' 0 51).toNat + 8 * e.1
    match s.walk va with
    | .leaf p bits => some ((leafPlace p bits va).1, e.2)
    | _ => none)

/-- IMAGE_LOAD: into a quiesced partition alone; a refused image changes nothing, and the addresses of the launch records are
reported to the host (R45, R47). A route counts its frames from the releases after the load of its own image, and the routes of
images loaded before keep theirs (R112; DEDUCED, log entry 88). -/
def execImageLoad (img : Image) (s : State) : Outcome :=
  .next (if !s.part.live || !s.quiet || s.imageRefused img then s.toZholos (.failed 0)
    else
      let s := s.part.quadList.foldl (fun s q => s.loadQuad img q) s
      let s := s.part.coreList.foldl (fun s c => s.loadTracks img c) s
      let s := img.sections.zipIdx.foldl (fun s e => s.loadSection img e.2 e.1) s
      let s := s.modPart fun p =>
        { p with
          formats := img.formats.foldl (fun (t : Tbl (BitVec 5)) (f : Fin 7 × BitVec 5) => t.set f.1.val f.2) p.formats
          routes := img.routes.foldl (fun (t : Tbl Route) (r : RouteDecl) =>
            t.set r.id.toNat ⟨r, (s.channel r.ch.toNat).phase, s.routeLatency r, none, 0, 0, [], 0, 0, false⟩) p.routes }
      if (imageLaunches img).isEmpty then s else s.toZholos (.launch ((imageLaunches img).map (·.1))))

end Sys2Proof.Machine
end

