-- ==== Sys2Proof/Machine/Zholos.lean ====
section
/-! DEFINITION. Zholos: partitions and their first strand (R325, R365), keys and attestation (R406, R407), cold boot (R408),
fatal errors and colophons (R409, R410), the scrubber (R403). -/

namespace Sys2Proof.Machine

/-! ## Partitions (R365, R406) -/

/-- The physical clusters of a partition's rectangle. -/
def specClusters (p : PartSpec) : List Nat :=
  (List.range (p.height / 8)).flatMap fun y =>
    (List.range (p.width / 8)).map fun x => 128 * (p.originY / 8 + y) + p.originX / 8 + x

/-- Whether a block of 1 GiB lies in HBM and holds no colophon (R365, R410). -/
def shareBlock (b : Nat) : Bool := b < 64 * Config.hbmStacks && !(60 ≤ b && b < 64) && !(828 ≤ b && b < 832)

/-- Whether a physical cluster can serve a partition: on a die that exists, not withdrawn, in a region that is not switched off
(R13, R17, R390, R408). -/
def State.clusterServes (s : State) (c : Nat) : Bool :=
  let gx := c % 128 / 8
  let gy := c / 128 / 10
  !absentDie gx gy && (s.harvest.get [] c).length ≤ 4 && !(s.region (dieAt gx gy / 2)).off

/-- Whether Zholos creates a partition: a rectangle of whole clusters that can serve, an ID that is not zero and was not used, a
share that exists, a host key selection for its blocks, and one of the eight functions of one of the eight host links
(R365–R367, R408). -/
def State.acceptsSpec (s : State) (p : PartSpec) : Bool :=
  !s.part.live && p.ident != 0 && !s.idents.contains p.ident.toNat && 0 < p.width && 0 < p.height &&
    p.width % 8 == 0 && p.height % 8 == 0 && p.originX % 8 == 0 && p.originY % 8 == 0 &&
    p.originX + p.width ≤ 384 && p.originY + p.height ≤ 480 && (specClusters p).all s.clusterServes &&
    p.share.all (fun b => shareBlock b && !s.lost.contains (b / 64)) && !p.share.isEmpty &&
    p.hostKeys.all (fun e => e.2 ≤ 2) && p.link < 8 && 1 ≤ p.function && p.function ≤ 8

/-- The L2P entry of a logical quad of a cluster after harvest: its own physical quad when good, else the lowest-numbered
good spare, one for each failed quad in order (R408). -/
def harvested (failed : List Nat) (i : Nat) : L2p :=
  if failed.contains i then
    let spares := (List.range 20).filter fun n => 16 ≤ n && !failed.contains n
    let nth := ((List.range i).filter failed.contains).length
    ⟨BitVec.ofNat 5 (spares.getD nth i), false, true⟩
  else ⟨BitVec.ofNat 5 i, false, true⟩

/-- The L2P table of a new partition: the entries that harvest has moved (R363, R408). -/
def State.newL2p (s : State) (p : Partition) : Tbl L2p :=
  p.quadList.foldl (fun t q =>
    let failed := s.harvest.get [] (p.physCluster (clusterOfQuad q))
    if failed.contains (indexInCluster q) then t.set q (harvested failed (indexInCluster q)) else t) []

/-- The partition that Zholos creates: every register at its reset value, PCTL.HOLD set (R325, R365). -/
def newPartition (p : PartSpec) (now : Nat) : Partition :=
  { Partition.reset with
    live := true, originX := p.originX, originY := p.originY, width := p.width, height := p.height, owner := p.owner
    share := p.share, hostKeys := p.hostKeys.foldl (fun (t : Tbl Nat) e => t.set e.1 e.2) [], link := p.link
    function := p.function, ident := p.ident, grant := p.grant, l2pBase := p.l2pBase, hold := true, lastTraffic := now
    created := now }

/-- The quads of a new partition at the power state that their silicon and their regions give them: DROOP while a response is in
force, RATE and the width of the vector unit, the point with its voltage; a fail-safe budget that is in force is divided among them
all (R376, R377, R380, R383–R385, R388, R390; DESIGN CHOICE, log entry 89). -/
def State.powerNew (s : State) : State :=
  let s := s.part.quadList.foldl (fun s q =>
    s.power q false fun f => { f with droop := decide (s.now < (s.region (s.quadRegion q)).droopEnd) }) s
  (s.part.quadList.map s.quadRegion).eraseDups.foldl (fun s r =>
    if (s.region r).failsafe then s.divideAmong (s.regionQuads r) r 843750 true else s) s

/-- A partition created: its L2P table, CSTEP of its regions at its reset value, every word empty, its quads on the silicon that
serves them, and its share reported (R325, R365, R367). -/
def State.createPartition (s : State) (p : PartSpec) : State :=
  let q := newPartition p s.now
  let q := { q with l2p := s.newL2p q }
  let s := { s with part := q, idents := s.idents ++ [p.ident.toNat], full := [] }
  let s := (q.quadList.map s.quadRegion).eraseDups.foldl (fun s r => s.modRegion r fun k => { k with cstep := 500 }) s
  (q.quadList.foldl (fun s x => s.takePhysical x (s.physId x)) s).powerNew.toZholos q.shareReport

/-- PARTITION_CREATE (R325, R365). -/
def execPartitionCreate (p : PartSpec) (s : State) : Outcome :=
  .next (if s.acceptsSpec p then s.createPartition p else s.toZholos (.failed 0))

/-- Whether an event belongs to the module and not to the partition: budgets, droop, trips, boots, requests through function 0, and
what concerns a physical quad that serves none. -/
def moduleEvent : Instr → Bool
  | .packageGrant _ | .failsafeBudget _ | .droopAlarm _ | .droopCheck _ _ | .analogueTrip _ => true
  | .fatalError _ _ | .coldBoot _ | .zholosWatchdog | .colophonRead _ | .attestationReport _ | .patrolScrub _ => true
  | .partitionCreate _ => true
  | .sensorSample q _ _ | .ageingReplan q _ | .gateRequest q | .gateCommit q | .quadWake q => 2 ^ 20 ≤ q
  | _ => false

/-- The quads of the partition without it: their silicon under its own keys. -/
def State.leaveAll (s : State) : State := s.part.quadList.foldl (fun s q => s.leaveSilicon q (s.physId q)) s

/-- A partition torn down: its keys discarded, so that what its memory holds reads as noise, and the shared key too, since the
model holds one partition and it is its owner's last (R406, log entry 10); its quads zeroed but for their silicon, its cores and
clusters and its events gone (R365, R406). -/
def State.tearDown (s : State) : State :=
  let s := s.leaveAll
  { s with
    part := .reset
    epoch := s.epoch + 1
    sharedEpoch := s.sharedEpoch + 1
    full := []
    filters := []
    cores := s.cores.filter fun (e : Nat × Core) => 2 ^ 20 ≤ quadOf e.1
    quads := s.quads.filter fun (e : Nat × Quad) => 2 ^ 20 ≤ e.1
    clusters := []
    dies := s.dies.map fun (e : Nat × Die) => (e.1, { e.2 with pool := [] })
    regions := s.regions.map fun (e : Nat × Region) => (e.1, { e.2 with starts := [] })
    agenda := s.agenda.filter fun a => match a with
      | .event i => moduleEvent i
      | .upset _ => true
      | _ => false
    timers := s.timers.filter fun e => moduleEvent e.2
    cur := 0
    ctx := .plain 0 0 0 false
    dumping := false }

/-- What a partition was created from, under the next ID (R365, R409). -/
def State.specAgain (s : State) : PartSpec :=
  let p := s.part
  ⟨BitVec.ofNat 16 (s.idents.foldl max 0 + 1), p.originX, p.originY, p.width, p.height, p.owner, p.share, p.hostKeys, p.link,
    p.function, p.grant, p.l2pBase⟩

/-- PARTITION_TEARDOWN; a reset after a fatal error creates the partition again under a new ID, where Zholos can (R365, R390,
R409). -/
def execPartitionTeardown (s : State) : Outcome :=
  .next (if !s.part.live then s
    else if s.dumping then
      (if s.tearDown.acceptsSpec s.specAgain then s.tearDown.createPartition s.specAgain
        else s.tearDown.toZholos (.failed 0))
    else s.tearDown)

/-! ## The first strand (R325) -/

/-- The first byte of a share's first block. -/
def Partition.bootByte (p : Partition) : Nat := p.share.foldl min (p.share.headD 0) * 2 ^ 30

/-- Word `k` of the boot header (R325). -/
def State.bootWord (s : State) (k : Nat) : Word := BitVec.ofNat 64 (s.bitsAt (s.part.hostKey s.part.bootByte + 64 * k) 64)

/-- The number of the first check of the boot header that fails, 0 when none does (R325). -/
def State.bootFault (s : State) : Nat :=
  let root := (s.bootWord 1).toNat
  if s.bootWord 0 ≠ 0x534B424F then 1
  else if root % 4096 ≠ 0 ∨ !s.part.inShare root 4096 then 2
  else if (s.bootWord 2).toNat % 32 ≠ 0 ∨ (s.bootWord 3).toNat % 32 ≠ 0 then 3
  else if (s.bootWord 4).toNat % 512 ≠ 0 then 4 else 0

/-- A strand has come to a bank of core (0, 0): a gated quad is woken for it, and its quad's start is held as any is (R381,
R392). -/
def State.firstEntered (s before : State) : State :=
  if (s.quad 0).gate = .gated then s.wakeQuad 0 else (s.wakeQuad 0).entered before 0

/-- The first strand started on core (0, 0) with its arguments (R325); the L2P table is
written where the partition's tables, now in force, map it (R363; DESIGN CHOICE, log entry 71). -/
def State.firstStrand (s : State) : State :=
  let head := (List.range 6).map s.bootWord
  let w (k : Nat) : Word := head.getD k 0
  let s := { s with
    part := { s.part with ptbase := w 1 }
    cores := s.part.coreList.foldl (fun (t : Tbl Core) c =>
      Tbl.set t c { Tbl.get t Core.reset c with tvec := w 3 }) s.cores }
  let s := s.part.quadList.foldl (fun s q => s.writeL2pByte q) s
  let s := ((s.poke 0 (w 4) 64 64 0).getD s).modCore 0 fun k => { k with fphead := w 4 >>> 9 <<< 9 }
  match (s.core 0).freeBank with
  | none => s.toZholos (.failed 5)
  | some b =>
    match s.startTask ⟨0, b⟩ 0 with
    | (t, false) => t.toZholos (.failed 5)
    | (t, true) =>
      ((t.modStrand ⟨0, b⟩ fun st =>
        { st with
          pc := w 2
          priv := true
          leafEnded := true
          x := (((st.x.set 10 (w 5)).set 11 (BitVec.ofNat 64 s.part.width)).set 12
            (BitVec.ofNat 64 s.part.height)).set 13 0 }).firstEntered s).toZholos .started

/-- The boot header read: the uncorrectable groups under its words replaced (R325, R403). -/
def State.meetBoot (s : State) : State := s.meetParts .outside [⟨s.part.hostKey s.part.bootByte, 384⟩]

/-- PARTITION_START: a header that fails a check starts nothing (R325). -/
def execPartitionStart (s : State) : Outcome :=
  .next (if !s.part.live then s.toZholos (.failed 0)
    else if s.meetBoot.bootFault ≠ 0 then s.meetBoot.toZholos (.failed s.meetBoot.bootFault)
    else s.meetBoot.firstStrand)

/-! ## Keys, attestation, scrubbing -/

/-- OWNER_KEY_DELIVERY: the keys, which their owner encapsulated to the key of a report of this partition, installed; the
scramble key and KCAP are functions of the owner key (R406, R407, log entry 10). What was stored under an owner key, or under a
shared key, before reads as noise under another of its kind. -/
def execOwnerKeyDelivery (owner shared : BitVec 256) (s : State) : Outcome :=
  .next (if s.part.live && s.part.encap.isSome then
      let s := if s.part.ownerKey = 0 ∨ s.part.ownerKey = owner then s else { s with epoch := s.epoch + 1 }
      let s := if s.part.sharedKey = 0 ∨ s.part.sharedKey = shared then s else { s with sharedEpoch := s.sharedEpoch + 1 }
      s.modPart fun p => { p with ownerKey := owner, sharedKey := shared }
    else s)

/-- The words of a number of `n` words. -/
def wordsOf (n v : Nat) : List Word := (List.range n).map fun k => BitVec.ofNat 64 (v / 2 ^ (64 * k))

/-- The report that Zholos issues for a nonce, with the encapsulation key number `k` of the partition (R407). -/
def State.reportFor (s : State) (k : Nat) (nonce : Word) : Report :=
  let r : Report :=
    { serial := Config.serial, rom := Config.romDigest, firmware := s.firmware.digest, version := s.firmware.version
      harvest := Config.harvestDigest s.harvest, ident := s.part.ident.toNat, nonce := nonce
      encapKey := Config.encapKey k, signature := 0 }
  { r with signature := Config.signature [r.serial.toNat, r.rom.toNat, r.firmware.toNat, r.version, r.harvest.toNat, r.ident,
      r.nonce.toNat, r.encapKey] }

/-- ATTESTATION_REPORT: the report, with the encapsulation key made afresh for the partition at its first report (R407). -/
def execAttestationReport (nonce : Word) (s : State) : Outcome :=
  .next (match s.part.encap with
    | some k => s.toZholos (.report (s.reportFor k nonce))
    | none =>
      let t := { s with fresh := s.fresh + 1 }
      (if s.part.live then t.modPart fun p => { p with encap := some s.fresh } else t).toZholos
        (.report (s.reportFor s.fresh nonce)))

/-- Whether a group belongs to the partition: to its scratchpads, its tracks or its share (R365). -/
def State.ownsGroup (s : State) (g : Nat) : Bool :=
  s.part.live && (match scratchQuad (64 * g), trackOf (64 * g) with
    | some q, _ => s.part.quadList.contains q
    | none, some (c, _, _) => s.part.coreList.contains c
    | none, none => s.part.inShare (8 * g) 8)

/-- PATROL_SCRUB: an uncorrectable group is logged and stays; one of no partition is in the Zholos log (R403, R405). -/
def execPatrolScrub (group : Nat) (s : State) : Outcome :=
  .next (if !s.bad.contains group then s
    else if s.ownsGroup group then
      s.logEvent 0x02 none (meshAddrOf (64 * group)) (BitVec.ofNat 64 (structureOf (64 * group)))
    else s.zholosEvent 0x02 (structureOf (64 * group)))

/-! ## Fatal errors (R409, R410) -/

/-- The code of a fatal cause (R409). -/
def fatalCode : FatalCause → Nat
  | .controlState => 1
  | .deadLink _ => 2
  | .deadRouter _ => 2
  | .shutdown _ => 3
  | .hbmLost _ => 4
  | .watchdog => 5

/-- The router that a link leads to. -/
def linkEnd (l : Nat × Nat) : Nat :=
  match l.2 with
  | 0 => l.1 - 1024
  | 1 => l.1 + 1
  | 2 => l.1 + 1024
  | _ => l.1 - 1

/-- What a fatal error concerns: nothing of this module's partition, the partition, or the module (R409). -/
inductive FatalScope where
  | nothing | partition | module
  deriving DecidableEq, Repr

/-- The scope of a fatal error; `ofModule` says of control state that is lost whether it is the module's (R409). -/
def State.scopeOf (s : State) (c : FatalCause) (ofModule : Bool) : FatalScope :=
  let partition (b : Bool) : FatalScope := if s.part.live && b then .partition else .nothing
  match c with
  | .controlState => if ofModule then .module else partition true
  | .deadLink l => partition (s.pathsCross l fun e => linkNumber e == l)
  | .deadRouter r => partition (s.pathsCross (2 ^ 32 + r) fun e => e.1 == r || linkEnd e == r)
  | .shutdown r => partition (!(s.regionQuads r).isEmpty)
  | .hbmLost k =>
    if s.part.live && s.part.ptbase.toNat / 4096 != 0 && s.part.ptbase.toNat / 2 ^ 36 == k then .module
    else partition (s.part.share.any fun b => b / 64 == k)
  | .watchdog => .module

/-- The last event records of the partition's ring, at most 4,096 (R405, R410). -/
def State.lastEvents (s : State) : List Word :=
  let size := 2 ^ ((s.part.evbase.extractLsb' 0 4).toNat + 6)
  let n := min (min 4096 size) s.part.evhead.toNat
  (List.range n).flatMap fun k =>
    let i := (s.part.evhead.toNat - n + k) % size
    match s.peek 0 (s.part.evbase >>> 9 <<< 9 + BitVec.ofNat 64 (256 * i)) 256 256 with
    | some v => wordsOf 4 v
    | none => []

/-- The bank records of a core, those of empty banks zero (R410). -/
def State.bankDump (s : State) (c : Nat) : List Word :=
  (s.core c).banks.toList.flatMap fun b =>
    wordsOf 8 (if b.live then (recordBits b.strand (s.npend c b.strand)).toNat else 0)

/-- The engine queue of a core, its 64 entries of 256 bits, those without a command zero (R410). -/
def State.queueDump (s : State) (c : Nat) : List Word :=
  (List.range 64).flatMap fun i => wordsOf 4 ((((s.core c).queue[i]?).map fun e => e.word.toNat).getD 0)

/-- The wait-table entries of a core (R115, R410). -/
def State.waitDump (s : State) (c : Nat) : List Word := ((s.coreEntries c).getD []).flatMap fun w => wordsOf 4 w.bits

/-- What a colophon holds of a quad: its 16 bank records, its four engine queues and its wait-table entries (R410). -/
def State.quadDump (s : State) (q : Nat) : List Word :=
  (quadCores q).flatMap s.bankDump ++ (quadCores q).flatMap s.queueDump ++ (quadCores q).flatMap s.waitDump

/-- Words laid out from a byte offset of a slot up. -/
def laidAt (off : Nat) (l : List Word) : List (Nat × Word) := l.zipIdx.map fun e => (off + 8 * e.2, e.1)

/-- The header of a colophon (R410). -/
def State.colophonHeader (s : State) (cause : Nat) : List Word :=
  [0x434F4C4F, BitVec.ofNat 64 (s.colophonSeq + 1), BitVec.ofNat 64 cause, 0, BitVec.ofNat 64 s.now,
    if s.part.live then s.part.ident.setWidth 64 else 0, Config.serial] ++ wordsOf 4 s.firmware.digest.toNat

/-- The physical clusters of the module, in physical order (R14). -/
def moduleClusters : List Nat :=
  (List.range 60).flatMap fun y =>
    ((List.range 48).filter fun x => !absentDie (x / 8) (y / 10)).map fun x => 128 * y + x

/-- ERRQ, ERRC and ERRD of what a fatal error concerns: of the partition's quads, clusters and dies, or of all of the module's;
and the last event records of the partition (R410, log entry 68). -/
def State.errorWords (s : State) (ofModule : Bool) : List Word :=
  (if ofModule then
      (moduleClusters.flatMap fun c => (List.range 20).map fun n => (s.quad (s.quadKey (32 * c + n))).errq) ++
      (moduleClusters.map fun c => ((s.part.clusterAt c).map fun k => (s.cluster k).errc).getD 0) ++
      (List.range 32).map fun d => (s.die d).errd
    else
      (sortBy s.physId s.part.quadList).map (fun q => (s.quad q).errq) ++
      s.part.clusterList.map (fun k => (s.cluster k).errc) ++
      (s.part.coreList.map s.part.dieOf).eraseDups.map fun d => (s.die d).errd) ++
    if s.part.live then s.lastEvents else []

/-- The offsets of a colophon's sections in its slot (R410). -/
def colophonErrors : Nat := 4 * 2 ^ 10
/-- The quads' sections. -/
def colophonQuads : Nat := 4 * 2 ^ 20
/-- The power and thermal history. -/
def colophonHistory : Nat := 448 * 2 ^ 20

/-- The quads' sections of a colophon, encrypted under dump key number `key` (R410). -/
def State.quadSections (s : State) (key : Nat) : List (Nat × Word) :=
  (laidAt colophonQuads (if s.part.live then (sortBy s.physId s.part.quadList).flatMap s.quadDump else [])).map fun w =>
    (w.1, Config.dumpWord key w.1 w.2)

/-- The colophon of a fatal error: its quads' sections encrypted under a dump key made for it, and that key wrapped to the
partition's encapsulation key, where a report has made one (R407, R410, log entry 68). -/
def State.colophonOf (s : State) (cause : Nat) (ofModule : Bool) : Colophon where
  words := laidAt 0 (s.colophonHeader cause) ++ laidAt colophonErrors (s.errorWords ofModule) ++ s.quadSections s.fresh ++
    laidAt colophonHistory ((s.grants.flatMap fun g => g.map (BitVec.ofNat 64)) ++
      s.quads.flatMap fun (e : Nat × Quad) => e.2.temps.map fun t => t.setWidth 64)
  wrapped := if s.part.live then s.part.encap.map (Config.wrapKey s.fresh) else none

/-- The slot of a colophon, by its sequence number: used in turn (R410). -/
def colophonSlot (seq : Nat) : Nat := seq % 8

/-- The physical HBM byte of a slot on a stack: the region is the last 4 GiB of stack 0, mirrored on stack 12 (R410). -/
def colophonAt (stack slot : Nat) : Nat := stack * 2 ^ 36 + 0xF_0000_0000 + slot * 2 ^ 29

/-- A colophon written to its slot on both stacks (R410). -/
def State.writeColophon (s : State) (seq : Nat) (c : Colophon) : State :=
  let i := colophonSlot seq
  { s with colophons := (s.colophons.set (colophonAt 0 i) c).set (colophonAt 12 i) c }

/-- The second cause added to the header of the colophon being written, on both stacks (R409). -/
def State.secondCause (s : State) (cause : Nat) : State :=
  let i := colophonSlot s.colophonSeq
  { s with colophons := s.colophons.map fun (e : Nat × Colophon) =>
      (e.1, if e.1 = colophonAt 0 i ∨ e.1 = colophonAt 12 i then
        { e.2 with words := e.2.words.map fun w => if w.1 = 24 ∧ w.2 = 0 then (24, BitVec.ofNat 64 cause) else w }
      else e.2) }

/-- What the next cold boot finds after a fatal error: the self-test's outcome is a free value (R408, R409, log entry 68). -/
def State.bootAgain (s : State) : Boot := ⟨s.fuses, s.flash, Config.selfTest s.fresh, s.overrides, none⟩

/-- A fatal error in a scope: issue stops there, the colophon is written, and the reset follows; a second one is added to the
header of the colophon being written (R409). -/
def State.fatalIn (s : State) (cause : Nat) (ofModule : Bool) : State :=
  if s.dumping then s.secondCause cause
  else
    let seq := s.colophonSeq + 1
    let s := s.writeColophon seq (s.colophonOf cause ofModule)
    let s := { s with
      fresh := s.fresh + 1
      colophonSeq := seq
      dumping := true
      halted := ofModule
      quads := s.part.quadList.foldl (fun (t : Tbl Quad) q => Tbl.set t q { Tbl.get t Quad.reset q with fatal := true })
        s.quads }
    if ofModule then { s with fresh := s.fresh + 1 }.post (.coldBoot s.bootAgain) else s.post .partitionTeardown

/-- FATAL_ERROR: what it concerns follows from its cause; one that concerns no partition is reported to Zholos alone (R405,
R409). -/
def execFatalError (cause : FatalCause) (ofModule : Bool) (s : State) : Outcome :=
  let s := match cause with
    | .hbmLost k => { s with lost := sortedInsert s.lost k }
    | _ => s
  .next (match s.scopeOf cause ofModule with
    | .nothing => s.zholosEvent (fatalCode cause) 0
    | .partition => s.fatalIn (fatalCode cause) false
    | .module => s.fatalIn (fatalCode cause) true)

/-- ZHOLOS_WATCHDOG: a fatal error of the module (R409). -/
def execZholosWatchdog (s : State) : Outcome := .next (s.fatalIn 5 true)

/-- COLOPHON_READ: a slot read on stack 0, or on the mirror when that stack is lost (R410). -/
def execColophonRead (slot : Fin 8) (s : State) : Outcome :=
  .next (s.toZholos (.colophon (s.colophons.find (colophonAt (if s.lost.contains 0 then 12 else 0) slot.val))))

/-! ## Cold boot (R408) -/

/-- The firmware that the ROM starts: the newest image whose signature verifies and whose version is not below the fuses
(R407). -/
def bootFirmware (b : Boot) : Option Firmware := b.images.find? fun f => f.signed && b.fuses ≤ f.version

/-- Whether a column has lost what the next harvest removes: a dead track, a layer without a spare track, or a spine without a
spare wire (R88, R90, R408). -/
def Core.worn (k : Core) : Bool := !k.dead.isEmpty || (k.spares.any fun e => e.2 == 0) || k.spine == 0

/-- The physical quads that a boot removes for what befell them since the last: worn columns, and no point 0 (R393, R408). -/
def State.wornQuads (s : State) : List Nat :=
  (s.cores.filterMap fun (e : Nat × Core) => if e.2.worn then some (s.physId (quadOf e.1)) else none) ++
    s.quads.filterMap fun (e : Nat × Quad) => if e.2.present.getLsbD 0 then none else some (s.physId e.1)

/-- Failures merged with the harvest map as a union (R408). -/
def mergeHarvest (t : Tbl (List Nat)) (l : List (Nat × List Nat)) : Tbl (List Nat) :=
  l.foldl (fun t f => Tbl.set t f.1 ((t.get [] f.1 ++ f.2).eraseDups)) t

/-- The silicon of a physical quad as a boot leaves it: its operating-point table applied anew, its sensors calibrated (R387, R393,
R408). -/
def Quad.booted (f : Quad) : Quad := { Quad.reset with present := f.present, plan := f.plan }

/-- The column of a core as a boot leaves it: what has worn of it (R88, R90, R408). -/
def Core.booted (k : Core) : Core := { takeColumn .reset k with slips := [] }

/-- The harvest map after the self-test of a boot (R408). -/
def State.harvestAfter (s : State) (b : Boot) : Tbl (List Nat) :=
  mergeHarvest (mergeHarvest s.harvest (b.failed.map fun f => (f.1, f.2.map (·.val))))
    (s.wornQuads.map fun ph => (ph / 32, [ph % 32]))

/-- The module as a boot finds it: after reset, with what stays in its memories, its silicon and in flash, and what it has
reported (R406, R408, R410). -/
def State.powered (s : State) (b : Boot) : State :=
  let s := if s.part.live then s.leaveAll else s
  { State.reset with
    mem := s.mem
    seals := s.seals
    epoch := s.epoch + 1
    sharedEpoch := s.sharedEpoch + 1
    cores := (s.cores.filter fun (e : Nat × Core) => 2 ^ 20 ≤ quadOf e.1).map fun (e : Nat × Core) => (e.1, e.2.booted)
    quads := (s.quads.filter fun (e : Nat × Quad) => 2 ^ 20 ≤ e.1).map fun (e : Nat × Quad) => (e.1, e.2.booted)
    bad := s.bad
    fresh := s.fresh
    harvest := s.harvest
    firmware := s.firmware
    flash := b.images
    fuses := b.fuses
    colophons := s.colophons
    colophonSeq := s.colophonSeq
    zlog := s.zlog
    hostOut := s.hostOut }

/-- A boot that a step has stopped, reported through function 0 (R408). -/
def State.bootStops (s : State) (n : Nat) : State := { s with halted := true }.toZholos (.bootFailed n)

/-- COLD_BOOT: the steps in their order; one that fails stops the boot (R407, R408). -/
def execColdBoot (b : Boot) (s : State) : Outcome :=
  let t := s.powered b
  .next (match bootFirmware b with
    | none => t.bootStops 1
    | some f =>
      let t := { t with firmware := f }
      let harvested := { t with harvest := s.harvestAfter b }
      match b.stops with
      | some n => (if n ≤ 3 then t else harvested).bootStops n
      | none => { harvested with overrides := writtenOverrides b.overrides })

end Sys2Proof.Machine
end

