-- ==== Sys2Proof/Machine/Errors.lean ====
section
/-! DEFINITION. What an error in storage does at the access that finds it (R87, R88, R90, R402–R405). That an error happens
is the outside's doing: an upset stands on the agenda as any other event does (log entry 73). -/

namespace Sys2Proof.Machine

/-- A group of a bit vector, its 64 bits from `64 · g` up, replaced by zero. -/
def zeroGroup {n : Nat} (v : BitVec n) (g : Nat) : BitVec n := v &&& ~~~(BitVec.ofNat n (2 ^ 64 - 1) <<< (64 * g))

/-- A group of a quad's registers, slots or accumulators replaced: counted, logged under its structure, and DLOSS set in the
strand that owns it, if any does (R403–R405). -/
def State.groupLost (s : State) (q structure' : Nat) (owner : Option Word) : State :=
  let core := (owner.bind s.residentOf).map (·.core)
  ((s.modQuad q fun k => { k with errq := stepField k.errq 32 16 }).logEvent 0x01 core 0 (BitVec.ofNat 64 structure')).lose
    ⟨core, owner⟩

/-- The strand of a bank, if one is resident. -/
def State.ownerOf (s : State) (p : Place) : Option Word := if (s.bank p).live then some (s.bank p).strand.sfp else none

/-- A group of a row's state replaced, as its record of R265 divides it: m and l, or the flags (R402, R403; DESIGN CHOICE, log
entry 73). -/
def Row.loseGroup (r : Row) (flags : Bool) : Row :=
  if flags then { r with empty := false, nan := false, inf := false } else { r with m := 0, l := 0 }

/-- A group of an accumulator replaced: group `g` of O, or group `g − 512` of the row states, two of each row (R248, R402,
R403). -/
def Acc.loseGroup (a : Acc) (g : Nat) : Acc :=
  if g < 512 then { a with o := zeroGroup a.o g }
  else
    let i := (g - 512) / 2
    { a with rows := a.rows.set! i ((a.rows[i]?.getD .reset).loseGroup (g % 2 == 1)) }

/-- A group of a slot replaced: of its elements, or of its side arrays (R248, R403). -/
def Slot.loseGroup (x : Slot) (g : Nat) : Slot :=
  if g < 256 then { x with elems := zeroGroup x.elems g } else { x with side := zeroGroup x.side (g - 256) }

/-- Whether a group lies in the deques and run lists of a cabinet 7, whose loss is fatal (R339, R402). -/
def inControlState (g : Nat) : Bool :=
  match scratchQuad (64 * g) with
  | some q =>
    let o := 64 * g - scratchBase q
    7 * 2 ^ 17 ≤ o && o < 7 * 2 ^ 17 + 98304
  | none => false

/-- An entry of a translation cache that covers an address dropped. -/
def dropEntry (l : List TlbEntry) (va : Nat) : List TlbEntry := l.filter fun e => !(e.va ≤ va && va < e.va + 2 ^ e.bits)

/-- What an error in storage does (R88, R90, R402–R404). -/
def State.upset (s : State) (u : Upset) : State :=
  match u with
  | .correctedQuad q => s.modQuad q fun k => { k with errq := stepField k.errq 48 16 }
  | .correctedCache c => s.modCluster c fun k => { k with errc := stepField k.errc 32 32 }
  | .correctedHbm d => s.modDie d fun k => { k with errd := stepField k.errd 16 16 }
  | .group g =>
    if inControlState g then s.post (.fatalError .controlState false)
    else { s with mem := s.mem.writeBits (64 * g) 64 0, bad := sortedInsert s.bad g }
  | .scalarRegister p r => (s.modStrand p fun st => st.setReg r 0).groupLost (quadOf p.core) 4 (s.ownerOf p)
  | .vectorRegister p v g =>
    (s.modStrand p fun st => { st with v := st.v.set v (zeroGroup st.v[v] g.val) }).groupLost (quadOf p.core) 4 (s.ownerOf p)
  | .slotGroup q i g =>
    (s.modQuad q fun k => { k with slots := k.slots.set i (k.slots[i].loseGroup g) }).groupLost q 5
      ((s.quad q).owners[i.val]).holder
  | .accGroup q i g =>
    (s.modQuad q fun k => { k with accs := k.accs.set i (k.accs[i].loseGroup g) }).groupLost q 6
      ((s.quad q).owners[16 + i.val]).holder
  | .cleanLine c => s.modCluster c fun k => { k with errc := stepField k.errc 16 16 }
  | .dirtyGroup c sfp g =>
    ((({ s with mem := s.mem.writeBits (64 * g) 64 0 }).modCluster (clusterOf c) fun k =>
      { k with errc := stepField k.errc 16 16 }).logEvent 0x01 (some c) 0 3).lose ⟨some c, some sfp⟩
  | .parity cl core va =>
    let s := s.modCluster cl fun k =>
      { k with errc := stepField k.errc 0 16, tlb := if core.isNone then dropEntry k.tlb va else k.tlb }
    match core with
    | some c => s.modCore c fun k => { k with itlb := dropEntry k.itlb va, dtlb := dropEntry k.dtlb va }
    | none => s
  | .slip c t d fails => s.modCore c fun k => { k with slips := k.slips.set t.toNat (d, fails) }
  | .spineWire c g => s.spineFails c g

end Sys2Proof.Machine
end

