-- ==== Sys2Proof/Machine/Stream.lean ====
section
/-! DEFINITION. What the engines share: reading and writing lists of places in memory (R62, R211, R231, R337), the type that
a place has (R70–R72), vector groups and masks (R222–R224), checks in order (R227). -/

namespace Sys2Proof.Machine

/-! ## Checks -/

/-- The cause of the first failed check of a list (R227, R252). -/
def firstCause (l : List (Bool × Nat)) : Option Nat := (l.find? (·.1)).map (·.2)

/-- A run after its checks: the first that fails is the fault (R198, R227). -/
def State.checked (s : State) (l : List (Bool × Nat)) (run : State → Ran) : Ran :=
  match firstCause l with
  | some c => .fault c s
  | none => run s

/-- Whether a type code is reserved (R118). -/
def reservedType (t : BitVec 5) : Bool := family t == .reserved

/-! ## Places in memory -/

/-- A place of a stream: its address, its width in bits, and the alignment it needs. -/
structure Spot where
  a : Word
  w : Nat
  align : Nat
  deriving DecidableEq, Repr

/-- Where a place of the command in progress leads (R60, R331). -/
def State.spot (s : State) (acc : Access) (p : Spot) : Found :=
  s.locateEngine s.ctx.home (!s.ctx.priv) acc p.a p.w p.align

/-- The cause of the first place of a list that fails a check made before any access; a translation fault is raised only
when it is met (R211, R231). -/
def State.spotCause (s : State) (acc : Access) (l : List Spot) : Option Nat :=
  l.findSome? fun p =>
    match s.spot acc p with
    | .flt f => if f.cause = .translation then none else some (addressCause (.flt f))
    | _ => none

/-- What stops a stream at a place: a fault, by its cause, or an absent page. -/
inductive Stop where
  | cause (c : Nat)
  | absent (va : Word)
  deriving DecidableEq, Repr

/-- A run that a place stops, the first `n` of its writes performed. -/
def Stop.ran (e : Stop) (s : State) (acc : Access) (n : Nat) : Ran :=
  match e with
  | .cause c => .fault c s
  | .absent va => .page va acc s n

/-- A place that leads somewhere. -/
structure Reached where
  spot : Spot
  parts : List Part
  home : Home
  deriving DecidableEq, Repr

/-- The places of a list in order as far as they lead somewhere, and what stops them: a fault, a peer that refuses, an absent
page (R59, R211, R231, R337, R372). -/
def State.reach (s : State) (acc : Access) : List Spot → List Reached × Option Stop
  | [] => ([], none)
  | p :: r =>
    match s.spot acc p with
    | .ok ps h =>
      if s.peerRefuses p.a ps then ([], some (.cause 0x0F))
      else
        let x := s.reach acc r
        (⟨p, ps, h⟩ :: x.1, x.2)
    | .absent va => ([], some (.absent va))
    | f => ([], some (.cause (addressCause f)))

/-- What the accesses of a stream leave beside their data: the cluster's translation cache filled, the fabric used (R323,
R331). -/
def State.noteReached (s : State) (acc : Access) (l : List Reached) : State :=
  let s := l.foldl (fun s p => s.fillEngine s.ctx.home acc (!s.ctx.priv) p.spot.a) s
  if l.all fun p => p.home.own s.ctx.home then s else s.traffic

/-- Places read in order, a sector as one access: their bits; or the fault or absent page met (R231). -/
def State.readSpots (s : State) (l : List Spot) : Except Ran (List Nat × State) :=
  let r := s.reach .load l
  let s := s.noteReached .load r.1
  let v := s.loadStreamed s.who (r.1.map (·.parts))
  match r.2 with
  | none => .ok v
  | some e => .error (e.ran v.2 .load s.ctx.performed)

/-- The writes of a stream performed, a sector as one access, but those to guarded areas, which are discarded (R231, R235,
R339). -/
def State.storeReached (s : State) (l : List (Reached × Nat)) : State :=
  let held (e : Reached × Nat) : Bool := e.1.parts.any fun p => s.guarded p.key
  let s := (l.filter held).foldl (fun s e => s.discardStore s.who e.1.spot.a e.2) s
  s.storeStreamed s.who ((l.filter fun e => !held e).flatMap fun e => spread e.2 e.1.parts)

/-- Places written in order, of which the first is number `n`; or the fault or absent page met, with what was written before it
performed (R211, R337). -/
def State.writeSpots (s : State) (n : Nat) (l : List (Spot × Nat)) : Except Ran State :=
  let r := s.reach .store (l.map (·.1))
  let s := (s.noteReached .store r.1).storeReached (r.1.zip (l.map (·.2)))
  match r.2 with
  | none => .ok s
  | some e => .error (e.ran s .store (n + r.1.length))

/-- The writes of a command that are still to perform, the earlier ones having been performed before it met an absent page
(R337). -/
def State.writeRest (s : State) (l : List (Spot × Nat)) : Except Ran State :=
  s.writeSpots s.ctx.performed (l.drop s.ctx.performed)

/-- The alignment that a type's width asks of an element's address: none for the packed widths (R61). -/
def elemAlign (w : Nat) : Nat := if packedWidth w then 1 else w

/-- A type's element at an address. -/
def elemSpot (t : BitVec 5) (a : Word) : Spot := ⟨a, typeWidth t, elemAlign (typeWidth t)⟩

/-- A block type's scale record at an address: any base for sbf, a multiple of 8 for mx (R232). -/
def recordSpot (t : BitVec 5) (a : Word) : Spot := ⟨a, recordWidth t, if family t = .sbf then 1 else 8⟩

/-- The type of elements at an address: the cabinet's format register in layer 0 but for cabinet 7, else the type the command names
(R70, R71). A stream or region that runs on into the next cabinet has the type of its base (DESIGN CHOICE, log entry 80). -/
def State.typeAt (s : State) (a : Word) (named : BitVec 5) : BitVec 5 :=
  let cab (q off : Nat) : BitVec 5 := (s.quad q).cfmt.toList.getD (off / 2 ^ 17) named
  match s.locateEngine s.ctx.home false .load a 1 1 with
  | .ok (⟨key, _⟩ :: _) (.scratch q) => cab q ((key - scratchBase q) % 2 ^ 20)
  | .ok (⟨key, _⟩ :: _) (.peer _) =>
    if space a = 4 ∧ a.extractLsb' 25 4 = 0 ∧ (a.extractLsb' 17 7).toNat < 7 then
      Config.peerFormat (key / 2 ^ 17)
    else named
  | _ => named

/-- The type number `k` that a command read when it issued: that of an address now, or the one held through a wait (R72,
R337). -/
def State.typeHeld (s : State) (k : Nat) (a : Word) (named : BitVec 5) : BitVec 5 :=
  if s.ctx.id.isSome then s.ctx.types.getD k named else s.typeAt a named

/-- The types that a command read at issue held for its waits (R72). -/
def State.holdTypes (s : State) (ts : List (BitVec 5)) : State := { s with ctx := { s.ctx with types := ts } }

/-! ## Vector groups and masks (R222, R224) -/

/-- The registers of a group of `n` from a register up (R222). -/
def group (r : BitVec 5) (n : Nat) : List Nat := (List.range n).map fun k => (r.toNat + k) % 32

/-- The bits of a group, its first register lowest (R222). -/
def readGroup (v : Vector Wide 32) (r : BitVec 5) (n : Nat) : Nat :=
  (group r n).foldr (fun k x => (v.toList.getD k 0).toNat + 2 ^ 256 * x) 0

/-- A group's bits written. -/
def writeGroup (v : Vector Wide 32) (r : BitVec 5) (n x : Nat) : Vector Wide 32 :=
  (List.range n).foldl (fun v k => v.setIfInBounds ((r.toNat + k) % 32) (BitVec.ofNat 256 (x / 2 ^ (256 * k)))) v

/-- Element `i` of width `w` of some bits (R222). -/
def element (x w i : Nat) : Nat := x / 2 ^ (w * i) % 2 ^ w

/-- Elements of width `w` packed, element 0 lowest. -/
def packElements (w : Nat) (l : List Nat) : Nat := l.foldr (fun e n => e % 2 ^ w + 2 ^ w * n) 0

/-- `n` bits of a number from bit `lo` up replaced. -/
def replaceBits (x lo n v : Nat) : Nat := x % 2 ^ lo + v % 2 ^ n * 2 ^ lo + x / 2 ^ (lo + n) * 2 ^ (lo + n)

/-- Bit `i` of the mask that starts at a register (R224). -/
def maskBit (v : Vector Wide 32) (mreg : BitVec 3) (i : Nat) : Bool :=
  (v.toList.getD (mreg.toNat + i / 256) 0).getLsbD (i % 256)

/-- The registers of a mask of `n` elements (R224). -/
def maskRegs (mreg : BitVec 3) (n : Nat) : List Nat :=
  (List.range ((n - 1) / 256 + 1)).map fun k => mreg.toNat + k

end Sys2Proof.Machine
end

