-- ==== Sys2Proof/Machine/Press.lean ====
section
/-! DEFINITION. The press: its units and slot formats (R248, R249, R258, R259), ownership (R254–R256), loads, products and
drains (R260–R266). -/

namespace Sys2Proof.Machine

/-! ## Units -/

/-- The units of a unit mask (R252). -/
def maskUnits (c : Word) : List Nat := (List.range 20).filter fun u => c.getLsbD u

/-- q of MMA.SP: how many slots A spans (R264). -/
def spanOf (f : PressF) : Nat := if f.sp8 then 4 else 2

/-- The slots that A of MMA.SP spans, those that exist (R264). -/
def spanSlots (f : PressF) : List Nat := ((List.range (spanOf f)).map fun k => f.sa.toNat + k).filter (· < 16)

/-- The unit of an accumulator, by its place in the owner table. -/
def accUnit (a : BitVec 2) : Nat := 16 + a.toNat

/-- The units that a press command names, by their places in the owner table (R254). -/
def pressNamed (op : Nat) (f : PressF) (c : Word) : List Nat :=
  match op with
  | 0x01 => maskUnits c
  | 0x02 => [if f.dk then accUnit f.acc else f.sa.toNat]
  | 0x03 | 0x08 | 0x09 => [accUnit f.acc]
  | 0x04 => [accUnit f.acc, f.sa.toNat, f.sb.toNat]
  | 0x05 => [accUnit f.acc, f.sb.toNat, f.sm.toNat] ++ spanSlots f
  | 0x06 => [accUnit f.acc, accUnit f.acc2, f.sa.toNat]
  | 0x07 => [accUnit f.acc, accUnit f.acc2]
  | _ => []

/-- The units that a press command reads, and the mask registers of MSOFT (R196, R271, R277). -/
def pressReads (op : Nat) (f : PressF) : List Nat :=
  match op with
  | 0x04 => [32 + f.sa.toNat, 32 + f.sb.toNat, 32 + accUnit f.acc]
  | 0x05 => [32 + f.sb.toNat, 32 + f.sm.toNat, 32 + accUnit f.acc] ++ (spanSlots f).map (32 + ·)
  | 0x06 => [32 + accUnit f.acc, 32 + accUnit f.acc2] ++ (List.range 4).map (f.mreg.toNat + ·)
  | 0x07 => [32 + accUnit f.acc, 32 + accUnit f.acc2]
  | 0x08 | 0x09 | 0x0A => [32 + accUnit f.acc]
  | _ => []

/-- The units that a press command writes (R196, R250, R277). -/
def pressWrites (op : Nat) (f : PressF) (c : Word) : List Nat :=
  match op with
  | 0x00 | 0x01 => (maskUnits c).map (32 + ·)
  | 0x02 => (pressNamed op f c).map (32 + ·)
  | 0x03 | 0x04 | 0x05 | 0x07 | 0x08 => [32 + accUnit f.acc]
  | 0x06 => [32 + accUnit f.acc, 32 + f.sa.toNat]
  | _ => []

/-- The pipe of a press command: 0 load, 1 array (R250). -/
def pressPipe (op : Nat) : Nat := if [0x00, 0x01, 0x02, 0x09, 0x0A].contains op then 0 else 1

/-- Whether a press command names a unit that its sender may not use (R254). -/
def State.notHeld (s : State) (units : List Nat) : Bool :=
  units.any fun u =>
    let o := (s.quad s.ctx.quad).owners.toList.getD u ⟨none, false⟩
    if s.ctx.remote then !o.lent else o.holder != some s.ctx.sfp

/-- A press command after the checks 1 and 2 of R253, which for a remote one were made on its arrival; `undef` says whether it is
undefined where it is sent by CMDR (R267). An MFREE with bits 63:20 set takes cause 0x1D, before a unit that is not held does
(DESIGN CHOICE, log entry 84: R253 and R256 do not rank the two). -/
def State.pressChecked (s : State) (op : Nat) (f : PressF) (sl : Slots) (undef : Bool) (run : State → Ran) : Ran :=
  s.checked [(s.ctx.remote && undef, 0x01), (op == 0x01 && sl.c.extractLsb' 20 44 != 0, 0x1D),
    (!s.ctx.arrived && s.notHeld (pressNamed op f sl.c), 0x0A)] run

/-- A press command issued when the interlock is clear (R195, R196). -/
def State.press (s : State) (op : Nat) (tagged : Bool) (f : PressF) (sl : Slots) (run : State → Ran) : State :=
  s.runCommand 3 op (pressPipe op) 0 tagged (pressReads op f) (pressWrites op f sl.c) run

/-- A slot of the quad of the command in progress. -/
def State.slotAt (s : State) (k : Nat) : Slot := (s.quad s.ctx.quad).slots.toList.getD k .reset

/-- An accumulator of the quad of the command in progress. -/
def State.accAt (s : State) (a : BitVec 2) : Acc := (s.quad s.ctx.quad).accs.toList.getD a.toNat .reset

/-- A slot written. -/
def State.setSlot (s : State) (k : Nat) (v : Slot) : State :=
  s.modQuad s.ctx.quad fun q => { q with slots := q.slots.setIfInBounds k v }

/-- An accumulator written. -/
def State.setAcc (s : State) (a : BitVec 2) (v : Acc) : State :=
  s.modQuad s.ctx.quad fun q => { q with accs := q.accs.setIfInBounds a.toNat v }

/-- The indices of a 32 × 32 tile, row by row. -/
def tileIndices : List (Nat × Nat) := (List.range 32).flatMap fun i => (List.range 32).map fun j => (i, j)

/-- O[i][j] of an accumulator (R248). -/
def Acc.elem (a : Acc) (i j : Nat) : BitVec 32 := a.o.extractLsb' (32 * (32 * i + j)) 32

/-- An accumulator whose elements are given. -/
def Acc.withElems (a : Acc) (e : Nat → Nat → BitVec 32) : Acc :=
  { a with o := BitVec.ofNat 32768 (packElements 32 (tileIndices.map fun x => (e x.1 x.2).toNat)) }

/-- The row state of a row. -/
def Acc.row (a : Acc) (i : Nat) : Row := a.rows.toList.getD i .reset

/-! ## MCLAIM and MFREE (R255, R256) -/

/-- A unit zeroed (R249, R255). -/
def Quad.zeroUnit (q : Quad) (u : Nat) : Quad :=
  if u < 16 then { q with slots := q.slots.setIfInBounds u .reset }
  else { q with accs := q.accs.setIfInBounds (u - 16) .reset }

/-- A unit claimed: zeroed when nobody held it (R255). -/
def Quad.claimUnit (sfp : Word) (lent : Bool) (q : Quad) (u : Nat) : Quad :=
  let fresh := (q.owners.toList.getD u ⟨none, false⟩).holder.isNone
  let q := if fresh then q.zeroUnit u else q
  { q with owners := q.owners.setIfInBounds u ⟨some sfp, lent⟩ }

/-- Whether another strand than `sfp` holds a unit. -/
def Quad.taken (q : Quad) (sfp : Word) (u : Nat) : Bool :=
  match (q.owners.toList.getD u ⟨none, false⟩).holder with
  | none => false
  | some h => h != sfp

/-- The physical bit of a 64-bit word in layer 0 of one of some quads, or the cause of its fault (R255, R266). -/
def State.quadWord (s : State) (quads : List Nat) (a : Word) (unresolved : Bool) : Except Nat Nat :=
  match s.badSlot unresolved a with
  | some c => .error c
  | none =>
    if space a = 1 then .error 0x03
    else
    match s.locateEngine s.ctx.home (!s.ctx.priv) .store a 64 64 with
    | .ok [⟨key, _⟩] (.scratch q) => if quads.contains q then .ok key else .error 0x03
    | .flt f => .error (addressCause (.flt f))
    | _ => .error 0x03

/-- A result word written by a store or by a PUT; a PUT that finds the word full faults with cause 0x0B, and a write to a hardware
area of cabinet 7 is discarded (R255, R266, R339). -/
def State.resultWord (s : State) (put : Bool) (key v : Nat) : Ran :=
  if s.guarded key then .done (s.discardStore s.who (meshAddrOf key) v) 0
  else if put && s.placeBusy key then .busy
  else if put then
    match s.putWord s.who key v with
    | (s, true) => .done s 0
    | (s, false) => .fault 0x0B s
  else .done (s.homeStore s.who key 64 v) 0

/-- MCLAIM (R255). -/
def runMclaim (f : PressF) (sl : Slots) (s : State) : Ran :=
  let us := maskUnits sl.c
  s.pressChecked 0x00 f sl true fun s =>
    s.checked [(sl.c.extractLsb' 20 44 != 0, 0x1D)] fun s =>
      let q := s.quad s.ctx.quad
      let refused := us.any (q.taken s.ctx.sfp)
      let t := if refused then s else s.modQuad s.ctx.quad fun q => us.foldl (Quad.claimUnit s.ctx.sfp f.rmt) q
      let granted : Nat := if refused then 0 else 2 ^ 63 + sl.c.toNat
      if sl.a = 0 then (if refused then .fault 0x0A s else .done t 0)
      else
        match s.quadWord [s.ctx.quad] sl.a sl.ua with
        | .error c => .fault c s
        | .ok key => t.resultWord f.cwput key granted

/-- MFREE (R256). -/
def runMfree (f : PressF) (sl : Slots) (s : State) : Ran :=
  s.pressChecked 0x01 f sl true fun s =>
    .done (s.modQuad s.ctx.quad fun q =>
      { q with owners := (maskUnits sl.c).foldl (fun o u => o.setIfInBounds u ⟨none, false⟩) q.owners }) 0

/-! ## Slot formats (R258, R259) -/

/-- K of a slot type, 0 for a type that no slot holds; 16 for nat32, which holds masks (R258). -/
def slotK (t : BitVec 5) : Nat :=
  match t.toNat with
  | 1 | 2 => 32
  | 3 | 4 | 5 | 9 | 10 | 14 => 64
  | 6 | 11 | 12 => 64
  | 7 | 13 | 8 => 128
  | 24 => 16
  | _ => 0

/-- Whether a slot type is an operand of a product: not nat32 (R263). -/
def operandType (t : BitVec 5) : Bool := slotK t != 0 && t != 24

/-- The code of element (r, k) of a slot (R258). -/
def Slot.code (x : Slot) (r k : Nat) : Nat :=
  let w := typeWidth x.ty
  (x.elems.extractLsb' (r * slotK x.ty * w + k * w) w).toNat

/-- The press scale code of the block of element (r, k) (R258). -/
def Slot.scale (x : Slot) (r k : Nat) : Nat := (x.side.extractLsb' (8 * (r * slotK x.ty / 32 + k / 32)) 8).toNat

/-- The value of an element of a slot type under a press scale code (R259). -/
def slotVal (t : BitVec 5) (c sc : Nat) : Val :=
  match family t with
  | .sbf =>
    let k := typeWidth t
    if sc = 255 then .nan
    else .fin (c / 2 ^ (k - 2) % 2 == 1) (c % 2 ^ (k - 2) * (if c / 2 ^ (k - 1) % 2 = 0 then 2 ^ (k - 2) else 1))
      ((sc : Int) - 127)
  | .mx => decodeMx t c sc
  | _ => decodeElem t c

/-- The value of element (r, k) of a slot. -/
def Slot.val (x : Slot) (r k : Nat) : Val := slotVal x.ty (x.code r k) (x.scale r k)

/-- The press scale code of an sbf block of width `k`; none where its record is not in press form (R259). -/
def pressScale (k : Nat) (cs : List Nat) (record : Nat) : Option Nat :=
  let high (c : Nat) : Bool := c / 2 ^ (k - 1) % 2 == 1
  let e (c : Nat) : Nat := if high c then record % 1024 else record / 1024 % 1024
  if cs.any fun c => e c == 1023 then some 255
  else
    let es := ((cs.filter fun c => c % 2 ^ (k - 2) != 0).map fun c =>
      (e c : Int) - (if high c then 0 else (k - 2 : Nat))).eraseDups
    match es with
    | [] => some 0
    | [x] => if 384 ≤ x ∧ x ≤ 638 then some (x - 384).toNat else none
    | _ => none

/-- The press scale code of a block from its record, which an mx type keeps (R259). -/
def scaleCode (t : BitVec 5) (cs : List Nat) (record : Nat) : Option Nat :=
  if family t = .sbf then pressScale (typeWidth t) cs record else some record

/-! ## MLOAD (R260, R261) -/

/-- The rows that a load or drain moves (R252). -/
def rowCount (f : PressF) : Nat := f.nrow.toNat + 1

/-- The address of element `k` of row `r` of a tile of width `w`, transposed or not (R260). -/
def tileAddr (sl : Slots) (tr : Bool) (w r k : Nat) : Word :=
  let row := if tr then k else r
  let col := if tr then r else k
  sl.a + BitVec.ofInt 64 (row * sl.b.toInt + (col * w : Nat))

/-- The address checks of a tile, as of a vector stream: the base's space, its places and those beside them, then the
alignment of the base and of the pitch (R231, R253). -/
def State.tileChecks (s : State) (sl : Slots) (w : Nat) (acc : Access) (spots aux : List Spot) :
    List (Bool × Nat) :=
  let bad := s.spotCause acc spots
  let badAux := s.spotCause acc aux
  let slot := s.badSlot sl.ua sl.a
  [(slot.isSome, slot.getD 0), (bad.isSome, bad.getD 0), (badAux.isSome, badAux.getD 0),
    (!aligned sl.a.toNat w w, 0x04), (sl.b.toInt % w != 0, 0x04)]

/-- A row of a list cut into rows of `k`. -/
def rowOf {α : Type} (l : List α) (k r : Nat) : List α := (l.drop (k * r)).take k

/-- MLOAD of a slot: raw bits and press scale codes, written when all of the data has arrived (R260). -/
def runMload (f : PressF) (sl : Slots) (s : State) : Ran :=
  s.pressChecked 0x02 f sl (blockType (s.typeHeld 0 sl.a f.ty)) fun s =>
    let t := s.typeHeld 0 sl.a f.ty
    let s := s.holdTypes [t]
    let w := typeWidth t
    let k := slotK t
    let n := rowCount f
    let spots := (List.range n).flatMap fun r => (List.range k).map fun c => elemSpot t (tileAddr sl f.tr w r c)
    let blocks := if blockType t then n * k / 32 else 0
    let recs := (List.range blocks).map fun b => recordSpot t (sl.c + BitVec.ofNat 64 (recordWidth t * b))
    s.checked ([(reservedType t, 0x02), (k == 0, 0x18),
        (f.tr && (blockType t || t == 24), 0x19)] ++ s.tileChecks sl w .load spots recs) fun s =>
      match s.readSpots recs with
      | .error e => e
      | .ok (rs, s) =>
        match s.readSpots spots with
        | .error e => e
        | .ok (es, s) =>
          match (List.range blocks).mapM fun b => scaleCode t (rowOf es 32 b) (rs.getD b 0) with
          | none => .fault 0x1B s
          | some cs =>
            .done (s.setSlot f.sa.toNat
              ⟨BitVec.ofNat 16384 (packElements w es), BitVec.ofNat 1024 (packElements 8 cs), t⟩) 0

/-- A row state from the two words of its record (R261). -/
def Row.ofWords (lo hi : Nat) : Row :=
  ⟨BitVec.ofNat 32 lo, BitVec.ofNat 32 (lo / 2 ^ 32), hi % 2 == 1, hi / 2 % 2 == 1, hi / 4 % 2 == 1⟩

/-- The two words of a row-state record (R261). -/
def Row.words (r : Row) : List Nat :=
  [r.m.toNat + 2 ^ 32 * r.l.toNat, (if r.empty then 1 else 0) + (if r.nan then 2 else 0) + (if r.inf then 4 else 0)]

/-- The two words of the row-state record of row `r` (R261). -/
def rowSpots (c : Word) (r : Nat) : List Spot :=
  [⟨c + BitVec.ofNat 64 (128 * r), 64, 64⟩, ⟨c + BitVec.ofNat 64 (128 * r + 64), 64, 64⟩]

/-- MLOAD of an accumulator (R261). -/
def runMloadAcc (f : PressF) (sl : Slots) (s : State) : Ran :=
  s.pressChecked 0x02 f sl f.rs fun s =>
    let t := s.typeHeld 0 sl.a f.ty
    let s := s.holdTypes [t]
    let n := rowCount f
    let spots := (List.range n).flatMap fun r => (List.range 32).map fun c => elemSpot 0 (tileAddr sl false 32 r c)
    let recs := if f.rs then (List.range n).flatMap (rowSpots sl.c) else []
    s.checked ([(reservedType t, 0x02), (t != 0, 0x18), (f.tr, 0x19)] ++
        s.tileChecks sl 32 .load spots recs) fun s =>
      match s.readSpots recs with
      | .error e => e
      | .ok (rs, s) =>
        match s.readSpots spots with
        | .error e => e
        | .ok (es, s) =>
          let rows := Vector.ofFn fun (i : Fin 32) =>
            if f.rs && decide (i.val < n) then Row.ofWords (rs.getD (2 * i.val) 0) (rs.getD (2 * i.val + 1) 0)
            else .reset
          .done (s.setAcc f.acc ⟨BitVec.ofNat 32768 (packElements 32 es), rows⟩) 0

/-! ## MZERO, MMA, MMA.SP (R131, R262–R264) -/

/-- MZERO (R262). -/
def runMzero (f : PressF) (sl : Slots) (s : State) : Ran :=
  s.pressChecked 0x03 f sl false fun s =>
    .done (s.setAcc f.acc .reset) 0

/-- The exact sum of a block's products (R131). -/
def blockSum : List (Val × Val) → Val
  | [] => .zero
  | (a, b) :: r => r.foldl (fun x e => (x.add (e.1.mul e.2).1).1) (a.mul b).1

/-- An accumulator element after a row of A meets a column of B, `n` products in blocks of 32 (R131). -/
def mmaElem (n : Nat) (a b : Nat → Val) (o : BitVec 32) : BitVec 32 :=
  (List.range (n / 32)).foldl (fun o g =>
    bits32 ((val32 o).add (blockSum ((List.range 32).map fun t => (a (32 * g + t), b (32 * g + t))))).1) o

/-- MMA (R263). -/
def runMma (f : PressF) (sl : Slots) (s : State) : Ran :=
  s.pressChecked 0x04 f sl false fun s =>
    let a := s.slotAt f.sa.toNat
    let b := s.slotAt f.sb.toNat
    let c := s.accAt f.acc
    s.checked [(!operandType a.ty || !operandType b.ty || slotK a.ty != slotK b.ty, 0x1A)] fun s =>
      .done (s.setAcc f.acc (c.withElems fun i j =>
        mmaElem (slotK a.ty) (a.val i) (b.val j) (c.elem i j))) 0

/-- The number of bits set among the low `n` of a mask. -/
def onesBelow (m n : Nat) : Nat := ((List.range n).filter m.testBit).length

/-- The mask of column `j`, group `g` (R264). -/
def Slot.maskAt (x : Slot) (j g : Nat) : Nat := (x.elems.extractLsb' (512 * j + 32 * g) 32).toNat

/-- B[k][j] of a compressed slot: the kept value of logical k, or +0 (R264). -/
def sparseVal (b m : Slot) (q j k : Nat) : Val :=
  let mask := m.maskAt j (k / 32)
  if mask.testBit (k % 32) then b.val j (32 / q * (k / 32) + onesBelow mask (k % 32)) else .zero

/-- A product with a kept value, or the +0 that an omitted entry contributes (R131, R264). -/
def sparseA (m : Slot) (j k : Nat) (a : Val) : Val :=
  if (m.maskAt j (k / 32)).testBit (k % 32) then a else .zero

/-- MMA.SP (R264). -/
def runMmaSp (f : PressF) (sl : Slots) (s : State) : Ran :=
  let q := spanOf f
  s.pressChecked 0x05 f sl false fun s =>
    let as := (spanSlots f).map s.slotAt
    let b := s.slotAt f.sb.toNat
    let m := s.slotAt f.sm.toNat
    let t := (s.slotAt f.sa.toNat).ty
    let k := slotK t
    let c := s.accAt f.acc
    s.checked [(m.ty != 24 || !operandType t || !operandType b.ty || slotK b.ty != k ||
          as.any fun x => x.ty != t, 0x1A),
        (15 < f.sa.toNat + q - 1, 0x19),
        ((List.range 32).any fun j => (List.range (q * k / 32)).any fun g => onesBelow (m.maskAt j g) 32 != 32 / q,
          0x1C)] fun s =>
      .done (s.setAcc f.acc (c.withElems fun i j =>
        mmaElem (q * k) (fun x => sparseA m j x ((as.getD (x / k) .reset).val i (x % k))) (sparseVal b m q j)
          (c.elem i j))) 0

/-! ## MDRAIN and MSTAT (R265, R266) -/

/-- The types that MDRAIN accepts (R265). -/
def drainType (t : BitVec 5) : Bool := t.toNat ≤ 4 || family t == .mx

/-- The writes of a row drained and their flags: a NaN of O that is not the canonical one, as only a load can leave there, drains
as the canonical one (R265, R125; DESIGN CHOICE over R278's exact copy, log entry 85). -/
def drainRow (a : Acc) (f : PressF) (sl : Slots) (t : BitVec 5) (r : Nat) : List (Spot × Nat) × Fx :=
  let vals := (List.range 32).map fun j => val32 (a.elem r j)
  let spots := (List.range 32).map fun j => elemSpot t (tileAddr sl false (typeWidth t) r j)
  if family t = .mx then
    let b := encodeMx t f.rtz vals
    (spots.zip b.1 ++ [(recordSpot t (sl.c + BitVec.ofNat 64 (8 * r)), b.2.1)], b.2.2)
  else
    let cs := vals.map ((typeFmt t).encode f.rtz)
    (spots.zip (cs.map (·.1)) ++ (if f.rs then (rowSpots sl.c r).zip (a.row r).words else []), orFlags (cs.map (·.2)))

/-- MDRAIN (R265). -/
def runMdrain (f : PressF) (sl : Slots) (s : State) : Ran :=
  s.pressChecked 0x09 f sl (f.rs || blockType (s.typeHeld 0 sl.a f.ty)) fun s =>
    let t := s.typeHeld 0 sl.a f.ty
    let s := s.holdTypes [t]
    let rows := (List.range (rowCount f)).map (drainRow (s.accAt f.acc) f sl t)
    let writes := rows.flatMap (·.1)
    let mx := family t == .mx
    s.checked ([(reservedType t, 0x02), (!drainType t, 0x18),
        (f.rs && mx, 0x19)] ++ s.tileChecks sl (typeWidth t) .store (writes.map (·.1)) []) fun s =>
      match s.writeRest writes with
      | .error e => e
      | .ok s => .done s (orFlags (rows.map (·.2)))

/-- The units of a list of owners with a property, as bits. -/
def ownerBits (o : Vector Owner 20) (p : Owner → Bool) : Nat :=
  ((List.range 20).filter fun u => p (o.toList.getD u ⟨none, false⟩)).foldl (fun n u => n + 2 ^ u) 0

/-- The status word of MSTAT (R266). -/
def State.pressStatus (s : State) (a : BitVec 2) : Nat :=
  let o := (s.quad s.ctx.quad).owners
  let mine := ownerBits o fun x => if s.ctx.remote then x.lent else x.holder == some s.ctx.sfp
  let any := ownerBits o fun x => x.holder.isSome
  let rows := (s.accAt a).rows.toList
  mine / 2 ^ 16 * 2 ^ 60 + mine % 2 ^ 16 * 2 ^ 44 + any / 2 ^ 16 * 2 ^ 40 + any % 2 ^ 16 * 2 ^ 24 +
    (rows.filter (·.inf)).length * 2 ^ 12 + (rows.filter (·.nan)).length * 2 ^ 6 + (rows.filter (·.empty)).length

/-- Whether a press command of a source, among those accepted before one, has not completed (R266). -/
def sourceBusy (before : List Issued) (home : Nat) (remote : Bool) : Bool :=
  before.any fun i => i.eng == 3 && i.core == home && i.remote == remote

/-- MSTAT: it starts when the earlier commands of its source have completed, and writes the status word (R253, R266). -/
def runMstat (f : PressF) (sl : Slots) (s : State) : Ran :=
  s.pressChecked 0x0A f sl false fun s =>
    let x := s.ctx
    match s.quadWord (if x.remote then [quadOf x.core, x.quad] else [x.quad]) sl.a sl.ua with
    | .error c => .fault (if x.remote && c != 0x05 then 0x03 else c) s
    | .ok key =>
      if sourceBusy ((s.quad x.quad).before x.id) x.home x.remote then .hold
      else s.resultWord f.cwput key (s.pressStatus f.acc)

/-! ## Issue (R195, R196) -/

/-- MCLAIM (R255). -/
def execMclaim (tagged : Bool) (f : PressF) (sl : Slots) (s : State) : Outcome :=
  .next (s.press 0x00 tagged f sl (runMclaim f sl))

/-- MFREE (R256). -/
def execMfree (tagged : Bool) (f : PressF) (sl : Slots) (s : State) : Outcome :=
  .next (s.press 0x01 tagged f sl (runMfree f sl))

/-- MLOAD (R260). -/
def execMload (tagged : Bool) (f : PressF) (sl : Slots) (s : State) : Outcome :=
  .next (s.press 0x02 tagged f sl (runMload f sl))

/-- MLOAD of an accumulator (R261). -/
def execMloadAcc (tagged : Bool) (f : PressF) (sl : Slots) (s : State) : Outcome :=
  .next (s.press 0x02 tagged f sl (runMloadAcc f sl))

/-- MZERO (R262). -/
def execMzero (tagged : Bool) (f : PressF) (sl : Slots) (s : State) : Outcome :=
  .next (s.press 0x03 tagged f sl (runMzero f sl))

/-- MMA (R263). -/
def execMma (tagged : Bool) (f : PressF) (sl : Slots) (s : State) : Outcome :=
  .next (s.press 0x04 tagged f sl (runMma f sl))

/-- MMA.SP (R264). -/
def execMmaSp (tagged : Bool) (f : PressF) (sl : Slots) (s : State) : Outcome :=
  .next (s.press 0x05 tagged f sl (runMmaSp f sl))

/-- MDRAIN (R265). -/
def execMdrain (tagged : Bool) (f : PressF) (sl : Slots) (s : State) : Outcome :=
  .next (s.press 0x09 tagged f sl (runMdrain f sl))

/-- MSTAT (R266). -/
def execMstat (tagged : Bool) (f : PressF) (sl : Slots) (s : State) : Outcome :=
  .next (s.press 0x0A tagged f sl (runMstat f sl))

end Sys2Proof.Machine
end

