-- ==== Sys2Proof/Machine/Copy.lean ====
section
/-! DEFINITION. The copy engine, the loaders and the storers: shape records (R210, R211), CPY and CFILL (R212, R213),
subscriptions (R214–R218). -/

namespace Sys2Proof.Machine

/-! ## Shape records (R210) -/

/-- The fields of a shape record (R210); `zero` says that its must-be-zero fields are zero, dimensions at or above NDIM have
extent 1. -/
structure ShapeRec where
  stype : BitVec 5
  dtype : BitVec 5
  rtz : Bool
  ndim : Nat
  zero : Bool
  sscale : Word
  dscale : Word
  ext : List Nat
  sstr : List Int
  dstr : List Int
  cwaddr : Word
  cwval : Word
  aux : Word
  rsize : Nat
  tcount : Nat
  deriving DecidableEq, Repr

/-- A shape record of twenty words (R210). -/
def ShapeRec.ofWords (ws : List Word) : ShapeRec :=
  let w (k : Nat) : Word := ws.getD k 0
  let ndim := ((w 0).extractLsb' 26 3).toNat
  let ext := (List.range 6).map fun d => if d < ndim then ((w (3 + d / 2)).extractLsb' (32 * (d % 2)) 32).toNat else 1
  { stype := (w 0).extractLsb' 35 5
    dtype := (w 0).extractLsb' 30 5
    rtz := (w 0).getLsbD 29
    ndim := ndim
    zero := (w 0).extractLsb' 40 24 == 0 && (w 0).extractLsb' 0 26 == 0
    sscale := w 1
    dscale := w 2
    ext := ext
    sstr := (List.range 5).map fun d => (w (6 + 2 * d)).toInt
    dstr := (List.range 5).map fun d => (w (7 + 2 * d)).toInt
    cwaddr := w 16
    cwval := w 17
    aux := w 18
    rsize := ((w 19).extractLsb' 32 32).toNat
    tcount := ((w 19).extractLsb' 0 32).toNat }

/-- Whether a record is valid for a copy (R210). -/
def ShapeRec.valid (r : ShapeRec) : Bool := r.zero && 1 ≤ r.ndim && r.ndim ≤ 6

/-- An address that no access reaches: what an unresolved address of a record stands for. -/
def nowhere : Word := 0xE000000000000000

/-- An address that U mode may not access: what an unresolved address in a cabinet 7 stands for in U mode (R56, R60). -/
def forbidden : Word := 0x6000000000000000

/-- An address of a record, resolved against the core that issued the command (R56, R60, R210). -/
def State.recAddr (s : State) (core : Nat) (a : Word) : Word :=
  let r := resolveSlot s.part core a
  if !r.2 then r.1 else if !s.ctx.priv && inCabinet7 (meshLayer a) (meshOff a) then forbidden else nowhere

/-- The words of the record at an address, or its cause: a multiple of 64 in layer 0 of a quad of the partition (R171, R210). -/
def State.shapeWords (s : State) (a : Word) (unresolved : Bool) : Except Nat (List Word × State) :=
  let spots := (List.range 20).map fun k => (⟨a + BitVec.ofNat 64 (64 * k), 64, 64⟩ : Spot)
  match (if space a = 3 && s.ctx.priv then some 0x0C else s.badSlot unresolved a) with
  | some c => .error c
  | none =>
    if a.toNat % 64 ≠ 0 then .error 0x04
    else
      match spots.findSome? fun p =>
        match s.spot .load p with
        | .ok _ (.scratch _) => none
        | .flt f => some (if f.cause = .privilege then 0x05 else 0x0C)
        | _ => some 0x0C with
      | some c => .error c
      | none =>
        match s.readSpots spots with
        | .ok r => .ok (r.1.map (BitVec.ofNat 64), r.2)
        | .error _ => .error 0x0C

/-! ## Regions (R211) -/

/-- The offsets of the rows of a region, the first of the dimensions varying fastest (R211). -/
def rowOffsets : List (Nat × Int × Int) → List (Int × Int)
  | [] => [(0, 0)]
  | d :: r => (rowOffsets r).flatMap fun o => (List.range d.1).map fun (i : Nat) => (o.1 + (i : Int) * d.2.1, o.2 + (i : Int) * d.2.2)

/-- Elements moved together: a block of a block type written, else one element; with the scale records read and written. -/
structure CopyUnit where
  src : List Spot
  srcRec : List Spot
  dst : List Spot
  dstRec : List Spot
  deriving DecidableEq, Repr

/-- The rows of a record's region. -/
def ShapeRec.rows (r : ShapeRec) : List (Int × Int) := rowOffsets ((r.ext.drop 1).zip (r.sstr.zip r.dstr))

/-- The number of blocks of a region (R211). -/
def ShapeRec.blocks (r : ShapeRec) : Nat := r.rows.length * ((r.ext.headD 1 + 31) / 32)

/-- The units of a region between two bases, with the bases of its scale tensors (R211). -/
def ShapeRec.units (r : ShapeRec) (src dst ss ds : Word) (st dt : BitVec 5) : List CopyUnit :=
  let e := r.ext.headD 1
  let nb := (e + 31) / 32
  r.rows.zipIdx.flatMap fun o => (List.range nb).flatMap fun b =>
    let n := o.2 * nb + b
    let is := (List.range (min 32 (e - 32 * b))).map (32 * b + ·)
    let srcs := is.map fun i => elemSpot st (src + BitVec.ofInt 64 (o.1.1 + (i * typeWidth st : Nat)))
    let dsts := is.map fun i => elemSpot dt (dst + BitVec.ofInt 64 (o.1.2 + (i * typeWidth dt : Nat)))
    let srec := if blockType st then [recordSpot st (ss + BitVec.ofNat 64 (recordWidth st * n))] else []
    if blockType dt then [⟨srcs, srec, dsts, [recordSpot dt (ds + BitVec.ofNat 64 (recordWidth dt * n))]⟩]
    else (srcs.zip dsts).map fun x => ⟨[x.1], srec, [x.2], []⟩

/-- The places that units read. -/
def unitsRead (us : List CopyUnit) : List Spot := us.flatMap fun u => u.srcRec ++ u.src

/-- The places that units write. -/
def unitsWrite (us : List CopyUnit) : List Spot := us.flatMap fun u => u.dst ++ u.dstRec

/-- Whether a stride of a dimension in use breaks the class of a type (R61, R211). -/
def ShapeRec.badStride (r : ShapeRec) (strides : List Int) (t : BitVec 5) : Bool :=
  (strides.take (r.ndim - 1)).any fun x => x % typeWidth t != 0

/-- An element of a block type copied to its own type: its bits, a NaN with a canonical code becoming that (R119, R121). -/
def sameBlock (t : BitVec 5) (sc c : Nat) : Nat :=
  if (t = 9 ∨ t = 10) ∧ decodeAny t c sc = .nan then (typeFmt t).nanCode else c

/-- The codes of a unit converted once, with the scale record and the flags (R119, R125–R128, R211); a block type counts as a float
where an integer does not hold its value (DESIGN CHOICE, log entry 64). -/
def convertUnit (st dt : BitVec 5) (rtz : Bool) (cs : List Nat) (sc : Nat) : List Nat × Nat × Fx :=
  if blockType dt then
    if st = dt then (cs.map (sameBlock st sc), sc, 0) else encodeBlock dt rtz (cs.map fun c => decodeAny st c sc)
  else
    let rs := cs.map fun c => if blockType st then encodeElem dt rtz true (decodeAny st c sc) else convert st dt rtz c
    (rs.map (·.1), 0, orFlags (rs.map (·.2)))

/-- The bits read for a list of units, given unit by unit: the scale record and the codes. -/
def splitUnits : List CopyUnit → List Nat → List (CopyUnit × Nat × List Nat)
  | [], _ => []
  | u :: r, bits =>
    (u, (bits.take u.srcRec.length).headD 0, (bits.drop u.srcRec.length).take u.src.length) ::
      splitUnits r (bits.drop (u.srcRec.length + u.src.length))

/-- The writes of units and their flags. -/
def unitWrites (st dt : BitVec 5) (rtz : Bool) (l : List (CopyUnit × Nat × List Nat)) : List (Spot × Nat) × Fx :=
  l.foldl (fun r x =>
    let c := convertUnit st dt rtz x.2.2 x.2.1
    (r.1 ++ x.1.dst.zip c.1 ++ x.1.dstRec.map (·, c.2.1), r.2 ||| c.2.2)) ([], 0)

/-- The parts that a place of the command in progress leads to. -/
def State.spotParts (s : State) (acc : Access) (p : Spot) : List Part :=
  match s.spot acc p with
  | .ok ps _ => ps
  | _ => []

/-- Whether two lists of parts have a bit in common. -/
def partsMeet (a b : List Part) : Bool :=
  a.any fun x => b.any fun y => x.key < y.key + y.width && y.key < x.key + x.width

/-- A copy whose source and destination overlap: each source place is read at the start or at its turn, which of the two is
free (R212, log entry 8). `n` numbers the places. -/
def State.overlapped (s : State) (st dt : BitVec 5) (rtz : Bool) (n : Nat) :
    List (CopyUnit × Nat × List Nat) → List (CopyUnit × Nat × List Nat)
  | [] => []
  | x :: r =>
    let now (k : Nat) (p : Spot) (old : Nat) : Nat :=
      if Config.readsOld (n + k) then old else s.partsAt (s.spotParts .load p)
    let sc := match x.1.srcRec with
      | p :: _ => now 0 p x.2.1
      | [] => x.2.1
    let cs := (x.1.src.zip x.2.2).zipIdx.map fun e => now (e.2 + 1) e.1.1 e.1.2
    let s' := (unitWrites st dt rtz [(x.1, sc, cs)]).1.foldl (fun (t : State) w =>
      (spread w.2 (t.spotParts .store w.1)).foldl (fun t e => t.setBitsAt e.1.key e.1.width e.2) t) s
    (x.1, sc, cs) :: s'.overlapped st dt rtz (n + x.1.src.length + 1) r

/-! ## CPY and CFILL (R212, R213) -/

/-- What is left of a copy when its payload is performed: the completion word, or nothing (R213). -/
def State.finishCopy (s : State) (op : Nat) (f : CopyF) (word : Option Nat) (value : Nat) (fx : Fx) : Ran :=
  let x := s.ctx
  match word with
  | none => .done s fx
  | some key =>
    .later s fx ⟨some key, value, f.cwput, qerrWord 0 4 op x.iter x.cidx x.inRep x.remote, 0, false, 0⟩
      fun id => some (.copyCompletionWord x.quad id)

/-- The physical bit of a completion word: in layer 0 of a quad of the partition or of a bound peer, at a multiple of 64; none where
the command or its record gives address 0 (R59, R213). -/
def State.completionWord (s : State) (given a : Word) (unresolved : Bool) : Except Nat (Option Nat) :=
  if given = 0 then .ok none
  else
    match s.locateEngine s.ctx.home (!s.ctx.priv) .store a 64 64 with
    | .ok [⟨key, _⟩] (.peer n) => if inLayer0 a (.peer n) && !unresolved then .ok (some key) else .error 0x03
    | _ => (s.quadWord s.part.quadList a unresolved).map some

/-- A copy engine's command with its record, read and checked at issue, and its completion word (R210, R213); one that goes on
after a wait has the record that it read (R337). -/
def State.withRecord (s : State) (a : Word) (unresolved : Bool) (run : State → ShapeRec → Option Nat → Ran) : Ran :=
  match (if s.ctx.id.isSome then .ok (s.ctx.record, s) else s.shapeWords a unresolved) with
  | .error c => .fault c s
  | .ok (ws, s) =>
    let s := { s with ctx := { s.ctx with record := ws } }
    let r := ShapeRec.ofWords ws
    if !r.valid then .fault 0x0C s
    else
      match s.completionWord r.cwaddr (s.recAddr s.ctx.core r.cwaddr) false with
      | .error c => .fault c s
      | .ok w => run s r w

/-- CPY of a region from a source to slot A (R211–R213). -/
def State.copy (s : State) (f : CopyF) (sl : Slots) (rec : Word) (recUn : Bool) (source : ShapeRec → Word × Bool) : Ran :=
  s.withRecord rec recUn fun s r word =>
    let src := source r
    let st := s.typeHeld 0 src.1 r.stype
    let dt := s.typeHeld 1 sl.a r.dtype
    let s := s.holdTypes [st, dt]
    let us := r.units src.1 sl.a (s.recAddr s.ctx.core r.sscale) (s.recAddr s.ctx.core r.dscale) st dt
    let slotSrc := s.badSlot src.2 src.1
    let slotDst := s.badSlot sl.ua sl.a
    let badSrc := s.spotCause .load (unitsRead us)
    let badDst := s.spotCause .store (unitsWrite us)
    s.checked [(reservedType st || reservedType dt, 0x02), (slotSrc.isSome, slotSrc.getD 0),
        (slotDst.isSome, slotDst.getD 0), (badSrc.isSome, badSrc.getD 0), (badDst.isSome, badDst.getD 0),
        (r.badStride r.sstr st || r.badStride r.dstr dt, 0x04)] fun s =>
      let meet := partsMeet ((unitsRead us).flatMap (s.spotParts .load)) ((unitsWrite us).flatMap (s.spotParts .store))
      match s.readSpots (unitsRead us) with
      | .error e => e
      | .ok (bits, s) =>
        let pre := splitUnits us bits
        let w := unitWrites st dt r.rtz (if meet then s.overlapped st dt r.rtz s.fresh pre else pre)
        let s := if meet then { s with fresh := s.fresh + (unitsRead us).length + us.length } else s
        match s.writeRest w.1 with
        | .error e => e
        | .ok s => s.finishCopy 0 f word r.cwval.toNat w.2

/-- CFILL of a region at slot A with a value's low bits (R212, R213). -/
def State.fillRegion (s : State) (f : CopyF) (sl : Slots) (rec : Word) (recUn : Bool) (value : ShapeRec → Word) : Ran :=
  s.withRecord rec recUn fun s r word =>
    let dt := s.typeHeld 0 sl.a r.dtype
    let s := s.holdTypes [dt]
    let spots := (r.units sl.a sl.a 0 0 dt dt).flatMap (·.dst)
    let slot := s.badSlot sl.ua sl.a
    let bad := s.spotCause .store spots
    s.checked [(reservedType dt, 0x02), (slot.isSome, slot.getD 0), (bad.isSome, bad.getD 0),
        (r.badStride r.dstr dt, 0x04)] fun s =>
      match s.writeRest (spots.map (·, (value r).toNat)) with
      | .error e => e
      | .ok s => s.finishCopy 1 f word r.cwval.toNat 0

/-- CPY (R212). -/
def runCpy (f : CopyF) (sl : Slots) (s : State) : Ran := s.copy f sl sl.c false fun _ => (sl.b, sl.ub)

/-- CPY.rb: the record at slot B, the source its AUX (R209). -/
def runCpyRb (f : CopyF) (sl : Slots) (s : State) : Ran :=
  s.copy f sl sl.b sl.ub fun r => resolveSlot s.part s.ctx.core r.aux

/-- CFILL (R212). -/
def runCfill (f : CopyF) (sl : Slots) (s : State) : Ran := s.fillRegion f sl sl.c false fun _ => sl.b

/-- CFILL.rb: the record at slot B, the value its AUX (R209). -/
def runCfillRb (f : CopyF) (sl : Slots) (s : State) : Ran := s.fillRegion f sl sl.b sl.ub (·.aux)

/-- CPY (R212). -/
def execCpy (tagged : Bool) (f : CopyF) (sl : Slots) (s : State) : Outcome :=
  .next (s.runCommand 4 0 0 512 tagged [] [] (runCpy f sl))

/-- CPY.rb (R209, R212). -/
def execCpyRb (tagged : Bool) (f : CopyF) (sl : Slots) (s : State) : Outcome :=
  .next (s.runCommand 4 0 0 512 tagged [] [] (runCpyRb f sl))

/-- CFILL (R212). -/
def execCfill (tagged : Bool) (f : CopyF) (sl : Slots) (s : State) : Outcome :=
  .next (s.runCommand 4 1 0 512 tagged [] [] (runCfill f sl))

/-- CFILL.rb (R209, R212). -/
def execCfillRb (tagged : Bool) (f : CopyF) (sl : Slots) (s : State) : Outcome :=
  .next (s.runCommand 4 1 0 512 tagged [] [] (runCfillRb f sl))

/-- The issued copy command that an event belongs to. -/
def State.issuedWith (s : State) (q : Nat) (p : Issued → Bool) : Option (Issued × Late) :=
  ((s.quad q).out.find? fun i => i.eng == 4 && i.late.isSome && p i).bind fun i => i.late.map fun l => (i, l)

/-- An issued command whose strand is told of a fault with a cause, its QERR but for the cause given (R198). -/
def State.faultLate (s : State) (sfp q : Word) (cause : Nat) : State :=
  s.lateFault sfp (q ||| BitVec.ofNat 64 (cause * 2 ^ 56))

/-- A fault of a command that has issued and leaves its completion word: its strand is told, and its tag is discarded (R173,
R198). -/
def State.wordFault (s : State) (i : Issued) (l : Late) (cause : Nat) : State :=
  (s.faultLate i.sfp l.qerr cause).dropTag i.core i.id

/-- The completion word of an issued command written, and the command completed: a PUT that finds the word full leaves it and
records cause 0x0B (R213), a peer that refuses it returns its fault (R59), a write to a hardware area of cabinet 7 is discarded
(R339). A PUT that finds the replay filter full is tried again by `again` (R289). -/
def State.writeWord (s : State) (q : Nat) (i : Issued) (l : Late) (value : Nat) (again : Instr) : State :=
  let who := Who.strand i.core i.sfp
  if l.put && l.word.any s.placeBusy then s.after 16 again
  else
    let s := s.modIssued q i.id fun i => { i with late := none }
    let s := match l.word with
      | none => s
      | some key =>
        if s.guarded key then s.discardStore who (meshAddrOf key) value
        else if s.refusedWord key then s.wordFault i l 0x0F
        else if l.put then
          match s.putWord who key value with
          | (s, true) => s
          | (s, false) => s.wordFault i l 0x0B
        else s.homeStore who key 64 value
    s.post (.commandCompletion i.core i.id)

/-- COPY_COMPLETION_WORD (R213). -/
def execCopyCompletionWord (quad id : Nat) (s : State) : Outcome :=
  .next (match s.issuedWith quad fun i => i.id == id with
    | none => s
    | some (i, l) => s.writeWord quad i l l.value (.copyCompletionWord quad id))

/-! ## Subscriptions (R214–R218) -/

/-- A subscription of a quad. -/
def State.sub (s : State) (q : Nat) (id : Fin 8) : Option Sub := (s.quad q).subs[id]

/-- A subscription changed. -/
def State.modSub (s : State) (q : Nat) (id : Fin 8) (g : Sub → Sub) : State :=
  s.modQuad q fun k => { k with subs := k.subs.set id (k.subs[id].map g) }

/-- A subscription's record. -/
def Sub.shape (u : Sub) : ShapeRec := .ofWords u.record

/-- The state with the context of a subscription's accesses. -/
def State.asSub (s : State) (q : Nat) (u : Sub) : State := { s with ctx := .plain u.core q u.sfp u.priv }

/-- Whether a range of bits lies in the user cabinets of a quad. -/
def inUserCabinets (q key n : Nat) : Bool := scratchBase q ≤ key && key + n ≤ scratchBase q + 7 * 2 ^ 17

/-- The cause of a fault of a ring or its completion words: layer 0 of the issuing quad, aligned, in user cabinets (R214). -/
def State.ringCause (s : State) (a : Word) (unresolved : Bool) (align n : Nat) : Option Nat :=
  match s.quadWord [s.ctx.quad] a unresolved with
  | .error c => some c
  | .ok key =>
    if a.toNat % align ≠ 0 then some 0x04 else if !inUserCabinets s.ctx.quad key n then some 0x03 else none

/-- The cause of a fault of a SUB's source: that of its address (R60), a translation fault 0x06, and 0x0D where it is no HBM page
(R214, R337). -/
def State.sourceCause (s : State) (a : Word) (unresolved : Bool) : Option Nat :=
  match s.badSlot unresolved a with
  | some c => some c
  | none =>
    match s.spot .load ⟨a, 1, 1⟩ with
    | .ok _ .hbm => none
    | .ok _ _ => some 0x0D
    | f => some (addressCause f)

/-- The start of slot `k` of a ring (R214). -/
def Sub.slotBase (u : Sub) (k : Nat) : Word := u.ring + BitVec.ofNat 64 (k * u.shape.rsize * 256)

/-- The type of slot `k` of a ring, as the SUB read it (R72, R216). -/
def Sub.typeOf (u : Sub) (k : Nat) : BitVec 5 := u.types.getD k u.shape.dtype

/-- A subscription that a new one of its identifier replaces leaves the groups it was merged with (R218). -/
def State.leaveGroups (s : State) (q : Nat) (id : Fin 8) : State :=
  ((List.range 16).map (quadOfCluster (clusterOfQuad q))).foldl (fun s p =>
    s.modQuad p fun k => { k with subs := k.subs.map fun o => o.map fun u =>
      { u with merged := u.merged.filter (· != (q, id)) } }) s

/-- SUB: checked, then accepted by its loader at once, or by the combining node (R214, R218). -/
def runSub (comb : Bool) (f : CopyF) (sl : Slots) (s : State) : Ran :=
  let id : Fin 8 := f.subid.toFin
  let x := s.ctx
  if (s.sub x.quad id).any (·.active) then .fault 0x0D s
  else
    match s.shapeWords sl.c false with
    | .error c => .fault c s
    | .ok (ws, s) =>
      let r := ShapeRec.ofWords ws
      let n := f.ns.toNat + 1
      let src := s.sourceCause sl.a sl.ua
      let ring := s.ringCause sl.b sl.ub 256 (n * r.rsize * 256)
      let word := s.ringCause (s.recAddr x.core r.cwaddr) false 64 (64 * n)
      let types := (List.range n).map fun k => s.typeAt (sl.b + BitVec.ofNat 64 (k * r.rsize * 256)) r.dtype
      s.checked [(!r.valid || r.rsize == 0 || r.tcount == 0 || r.cwaddr == 0, 0x0C), (src.isSome, src.getD 0),
          (ring.isSome, ring.getD 0), (word.isSome, word.getD 0), (reservedType r.stype || types.any reservedType, 0x02),
          (!aligned sl.a.toNat (typeWidth r.stype) (typeWidth r.stype), 0x04),
          (r.badStride r.sstr r.stype || types.any (r.badStride r.dstr), 0x04)] fun s =>
        let qe := qerrWord 0 4 2 x.iter x.cidx x.inRep false
        let u : Sub := ⟨true, sl.a, sl.b, ws, types, List.replicate n .free, 0, r.tcount, x.core, x.sfp, x.priv, qe, comb,
          s.now, []⟩
        let s := (s.leaveGroups x.quad id).modQuad x.quad fun k => { k with subs := k.subs.set id (some u) }
        if comb then
          .later (s.after 64 (.subCombine (clusterOfQuad x.quad) [(x.quad, id)])) 0 ⟨none, 0, false, qe, 0, x.priv, 0⟩
            fun _ => none
        else .done (s.post (.loaderTileStart x.quad id)) 0

/-- SUB (R214, R218). -/
def execSubCommand (tagged comb : Bool) (f : CopyF) (sl : Slots) (s : State) : Outcome :=
  .next (s.runCommand 4 2 0 (256 + f.subid.toNat) tagged [] [] (runSub comb f sl))

/-- Whether the combining node merges two subscriptions: equal in their slots, base, the low 24 bits of ring and completion
words, and the rest of the record (R218). -/
def Sub.sameRequest (p : Partition) (u v : Sub) : Bool :=
  let low (u : Sub) : Nat × Nat :=
    (u.ring.toNat % 2 ^ 24, (resolveSlot p u.core u.shape.cwaddr).1.toNat % 2 ^ 24)
  u.slots.length == v.slots.length && u.base == v.base && low u == low v &&
    u.record.take 16 == v.record.take 16 && u.record.drop 17 == v.record.drop 17

/-- Whether a subscription waits at the combining node. -/
def Sub.waits (u : Sub) : Bool := u.active && u.comb && u.merged.isEmpty

/-- The subscriptions of a cluster. -/
def State.clusterSubs (s : State) (cl : Nat) : List ((Nat × Fin 8) × Sub) :=
  ((List.range 16).map (quadOfCluster cl)).flatMap fun q =>
    (List.finRange 8).filterMap fun id => (s.sub q id).map fun u => ((q, id), u)

/-- SUB_COMBINE: 64 cycles after the first, the node merges the equal requests, and the SUBs complete (R218). -/
def execSubCombine (cluster : Nat) (members : List (Nat × Fin 8)) (s : State) : Outcome :=
  .next (match members with
    | [] => s
    | m :: _ =>
      match s.sub m.1 m.2 with
      | none => s
      | some u =>
        if !u.waits || s.now < u.arrived + 64 then s
        else
          let group := ((s.clusterSubs cluster).filter fun e =>
            e.2.waits && u.sameRequest s.part e.2 && e.2.arrived ≤ u.arrived + 64).map (·.1)
          let s := group.foldl (fun s g => s.modSub g.1 g.2 fun u => { u with merged := group }) s
          let s := group.foldl (fun s g =>
            match s.issuedWith g.1 fun i => i.track == 256 + g.2.val with
            | some (i, _) =>
              (s.modIssued g.1 i.id fun i => { i with late := none }).post (.commandCompletion i.core i.id)
            | none => s) s
          s.post (.loaderTileStart m.1 m.2))

/-- The active members that a loader serves together (R218). -/
def State.group (s : State) (q : Nat) (id : Fin 8) : List ((Nat × Fin 8) × Sub) :=
  match s.sub q id with
  | none => []
  | some u =>
    if u.waits then []
    else
      (if u.merged.isEmpty then [(q, id)] else u.merged).filterMap fun m =>
        (s.sub m.1 m.2).bind fun v => if v.active then some (m, v) else none

/-- The slot of the next tile of a subscription. -/
def Sub.slotOf (u : Sub) (tile : Nat) : Nat := tile % max 1 u.slots.length

/-- LOADER_TILE_START: the next tile begins when its slot is FREE in every ring (R215, R218). -/
def execLoaderTileStart (quad : Nat) (id : Fin 8) (s : State) : Outcome :=
  .next (match s.group quad id with
    | [] => s
    | (m, u) :: r =>
      let t := u.next
      let k := u.slotOf t
      if t < u.tiles ∧ ((m, u) :: r).all fun e => e.2.slots[k]? == some .free then
        (((m, u) :: r).foldl (fun s e => s.modSub e.1.1 e.1.2 fun v =>
          { v with slots := v.slots.set k (.filling t), next := t + 1 }) s).post (.loaderTileComplete m.1 m.2)
      else s)

/-- Subscriptions ended by a fault, recorded in the QERR of every member's strand (R214, R218). -/
def State.endGroup (s : State) (g : List ((Nat × Fin 8) × Sub)) (cause : Nat) : State :=
  g.foldl (fun s e =>
    (s.faultLate e.2.sfp e.2.qerrBits cause).modSub e.1.1 e.1.2 Sub.stop) s

/-- The cause that a run of a loader or storer ends with: an absent page is a translation fault, for it never waits (R337). -/
def Ran.cause : Ran → Nat
  | .fault c _ => c
  | _ => 0x06

/-- The cause with which a list of places that must lie in HBM fails (R214, R215). -/
def State.hbmCause (s : State) (l : List Spot) : Option Nat :=
  l.findSome? fun p =>
    match s.spot .load p with
    | .ok _ .hbm => none
    | .ok _ _ => some 0x0D
    | f => some (addressCause f)

/-- Tile `t` written into a member's ring: the units, and the state or the cause. The first member alone writes the scale
records of a merged subscription (R214, R215, R218). -/
def State.deliver (s : State) (t : Nat) (first : Bool) (e : (Nat × Fin 8) × Sub) : Except Nat State :=
  let u := e.2
  let r := u.shape
  let k := u.slotOf t
  let s := s.asSub e.1.1 u
  let dt := u.typeOf k
  let src := u.base + BitVec.ofNat 64 t * r.aux
  let ss := s.recAddr u.core r.sscale + BitVec.ofNat 64 (t * (recordWidth r.stype * r.blocks))
  let ds := s.recAddr u.core r.dscale + BitVec.ofNat 64 (k * (recordWidth dt * r.blocks))
  let us := (r.units src (u.slotBase k) ss ds r.stype dt).map fun x => if first then x else { x with dstRec := [] }
  match s.hbmCause (us.flatMap (·.src)), s.spotCause .load (unitsRead us), s.spotCause .store (unitsWrite us) with
  | some c, _, _ => .error c
  | _, some c, _ => .error c
  | _, _, some c => .error c
  | _, _, _ =>
    match s.readSpots (unitsRead us) with
    | .error x => .error x.cause
    | .ok (bits, s) =>
      let w := unitWrites r.stype dt r.rtz (splitUnits us bits)
      match s.writeSpots 0 w.1 with
      | .error x => .error x.cause
      | .ok s => .ok (s.addFlags u.sfp w.2)

/-- A tile delivered to every member in turn. -/
def State.deliverAll (s : State) (t : Nat) : Bool → List ((Nat × Fin 8) × Sub) → Except Nat State
  | _, [] => .ok s
  | first, e :: r =>
    match s.deliver t first e with
    | .error c => .error c
    | .ok s => s.deliverAll t false r

/-- The tile number PUT to each member's completion word, the slot READY; false where a word was full (R215). -/
def State.announce (s : State) (t : Nat) : List ((Nat × Fin 8) × Sub) → State × Bool
  | [] => (s, true)
  | e :: r =>
    let u := e.2
    let k := u.slotOf t
    let s := s.asSub e.1.1 u
    match s.quadWord [e.1.1] (s.recAddr u.core u.shape.cwaddr + BitVec.ofNat 64 (64 * k)) false with
    | .error _ => (s, false)
    | .ok key =>
      match s.putWord (.strand u.core u.sfp) key t with
      | (s, false) => (s, false)
      | (s, true) =>
        (s.modSub e.1.1 e.1.2 fun v =>
          { v with slots := v.slots.set k (.ready t), active := decide (t + 1 < v.tiles) }).announce t r

/-- Whether the completion word of a member's slot finds its replay filter full (R289). -/
def State.wordBusy (s : State) (t : Nat) (e : (Nat × Fin 8) × Sub) : Bool :=
  let s := s.asSub e.1.1 e.2
  match s.quadWord [e.1.1] (s.recAddr e.2.core e.2.shape.cwaddr + BitVec.ofNat 64 (64 * e.2.slotOf t)) false with
  | .ok key => s.placeBusy key
  | .error _ => false

/-- LOADER_TILE_COMPLETE: the tile's bits are performed, the flags ORed, the words PUT, and the next tile looked at (R129,
R215); while a word's replay filter is full the tile completes later (R289). -/
def execLoaderTileComplete (quad : Nat) (id : Fin 8) (s : State) : Outcome :=
  .next (match s.group quad id with
    | [] => s
    | (m, u) :: r =>
      let g := ((m, u) :: r).filter fun e => e.2.slots.contains (.filling (u.next - 1))
      let t := u.next - 1
      if g.isEmpty then s
      else if g.any (s.wordBusy t) then s.after 16 (.loaderTileComplete quad id)
      else
        match s.deliverAll t true g with
        | .error c => s.endGroup g c
        | .ok s =>
          match s.announce t g with
          | (s, false) => s.endGroup g 0x0B
          | (s, true) => s.post (.loaderTileStart m.1 m.2))

/-- A SUB that waits at the combining node completed: its subscription is over (R214, R217, R218). -/
def State.endWindow (s : State) (q : Nat) (id : Fin 8) : State :=
  match s.issuedWith q fun i => i.track == 256 + id.val with
  | some (i, _) => (s.modIssued q i.id fun i => { i with late := none }).post (.commandCompletion i.core i.id)
  | none => s

/-- UNSUB: the subscription ends, a tile in FILLING abandoned (R217). -/
def runUnsub (f : CopyF) (_ : Slots) (s : State) : Ran :=
  let id : Fin 8 := f.subid.toFin
  let q := s.ctx.quad
  match s.sub q id with
  | none => .fault 0x0D s
  | some u =>
    if u.active then
      .done (u.merged.foldl (fun s m => s.post (.loaderTileStart m.1 m.2)) ((s.endWindow q id).modSub q id Sub.stop)) 0
    else .fault 0x0D s

/-- UNSUB (R217). -/
def execUnsub (tagged : Bool) (f : CopyF) (sl : Slots) (s : State) : Outcome :=
  .next (s.runCommand 4 3 0 512 tagged [] [] (runUnsub f sl))

/-- The units of the tile that a storer reads from slot `k`: from the ring, laid out by DSTR, in the slot's type, to a base in
memory, laid out by SSTR (R216). -/
def State.storeUnits (s : State) (u : Sub) (tile k : Nat) (dt : BitVec 5) (dst : Word) : List CopyUnit :=
  let r := u.shape
  let ss := s.recAddr u.core r.sscale + BitVec.ofNat 64 (tile * (recordWidth r.stype * r.blocks))
  let ds := s.recAddr u.core r.dscale + BitVec.ofNat 64 (k * (recordWidth dt * r.blocks))
  let back : ShapeRec := { r with sstr := r.dstr, dstr := r.sstr }
  back.units (u.slotBase k) dst ds ss dt r.stype

/-- RETN: with A ≠ 0 the tile is decoded from the type that the slot's cabinet has when it issues (R71, R72, R216). -/
def runRetn (f : CopyF) (sl : Slots) (s : State) : Ran :=
  let id : Fin 8 := f.subid.toFin
  let k := f.ns.toNat
  let x := s.ctx
  match s.sub x.quad id with
  | none => .fault 0x0D s
  | some u =>
    match u.slots[k]? with
    | some (.ready t) =>
      match s.completionWord sl.b sl.b sl.ub with
      | .error c => .fault c s
      | .ok w =>
        let ty := s.typeAt (u.slotBase k) u.shape.dtype
        let late : Late := ⟨w, t, f.cwput, qerrWord 0 4 4 x.iter x.cidx x.inRep x.remote, sl.a, x.priv, ty⟩
        if sl.a = 0 then
          .later ((s.modSub x.quad id fun u => { u with slots := u.slots.set k .free }).post
            (.loaderTileStart x.quad id)) 0 late fun _ => some (.retnStoreComplete x.quad id k)
        else
          let slot := s.badSlot sl.ua sl.a
          let bad := s.spotCause .store ((s.storeUnits u t k ty sl.a).flatMap (·.dst))
          s.checked [(reservedType ty, 0x02), (slot.isSome, slot.getD 0),
              (bad.isSome, bad.getD 0)] fun s =>
            .later (s.modSub x.quad id fun u => { u with slots := u.slots.set k (.reading t) }) 0 late
              fun _ => some (.storerSlotRead x.quad id k)
    | _ => .fault 0x0D s

/-- RETN (R216). -/
def execRetn (tagged : Bool) (f : CopyF) (sl : Slots) (s : State) : Outcome :=
  .next (s.runCommand 4 4 0 (16 * f.subid.toNat + f.ns.toNat) tagged [] [] (runRetn f sl))

/-- The fault of a RETN that has issued, which then completes without its word (R198, R337). -/
def State.failRetn (s : State) (q : Nat) (i : Issued) (l : Late) (cause : Nat) : State :=
  ((s.wordFault i l cause).modIssued q i.id fun i => { i with late := none }).post (.commandCompletion i.core i.id)

/-- STORER_SLOT_READ: the storer reads the tile, the slot becomes FREE, and the tile is written; the loss of data is the
subscribing strand's, the flags are the command's (R129, R216, R403). -/
def execStorerSlotRead (quad : Nat) (id : Fin 8) (slot : Nat) (s : State) : Outcome :=
  .next (match s.issuedWith quad fun i => i.track == 16 * id.val + slot, s.sub quad id with
    | some (i, l), some u =>
      match u.slots[slot]? with
      | some (.reading t) =>
        let s := s.asSub quad u
        let us := s.storeUnits u t slot l.ty l.dst
        match s.readSpots (unitsRead us) with
        | .error x => s.failRetn quad i l x.cause
        | .ok (bits, s) =>
          let s := (s.modSub quad id fun u => { u with slots := u.slots.set slot .free }).post
            (.loaderTileStart quad id)
          let w := unitWrites l.ty u.shape.stype u.shape.rtz (splitUnits us bits)
          match { s with ctx := { s.ctx with priv := l.priv } }.writeSpots 0 w.1 with
          | .error x => s.failRetn quad i l x.cause
          | .ok s =>
            (s.modIssued quad i.id fun i => { i with fx := i.fx ||| w.2 }).post (.retnStoreComplete quad id slot)
      | _ => s.failRetn quad i l 0x0D
    | _, _ => s)

/-- RETN_STORE_COMPLETE: the tile's writes are performed, and its number is written to the completion word (R216). -/
def execRetnStoreComplete (quad : Nat) (id : Fin 8) (slot : Nat) (s : State) : Outcome :=
  .next (match s.issuedWith quad fun i => i.track == 16 * id.val + slot with
    | none => s
    | some (i, l) => s.writeWord quad i l l.value (.retnStoreComplete quad id slot))

end Sys2Proof.Machine
end

