-- ==== Sys2Proof/Machine/Faults.lean ====
section
/-! DEFINITION. Absent pages and forced saves: walks (R329, R331), the outcome of fault-queue slots (R335–R337), and strands
that are forced out (R313, R319–R321, R332). -/

namespace Sys2Proof.Machine

/-- TRANSLATION_WALK: a miss walks the tables, and the uncorrectable groups that it reads are replaced; only a leaf that permits
the access is cached (R329, R331, R403). -/
def execTranslationWalk (core : Nat) (va : Word) (acc : Access) (user : Bool) (s : State) : Outcome :=
  let s := s.meetParts (.hardware core) ((s.walked (va.extractLsb' 0 51).toNat).map fun key => ⟨key, 64⟩)
  .next (s.fillTlb core va acc user)

/-- FAULT_POST_RETRY: the oldest waiting batch of a bank is posted if a slot is free now (R335). -/
def execFaultPostRetry (p : Place) (s : State) : Outcome :=
  let cl := clusterOf p.core
  let s := s.meetSlots cl
  let k := s.cluster cl
  .next (match k.batches.find? fun b => b.core == p.core && b.bank.getD 0 == p.bank with
    | none => s
    | some b =>
      match (List.range k.slotCount).find? fun i => s.slotStatus cl i == 0 with
      | none => s
      | some i => ((s.modCluster cl fun k => { k with batches := k.batches.erase b }).nameSlot i b).fillSlot cl i b)

/-- The outcome of a slot for the strand that posted it, if it still waits: it executes its instruction again, or faults
(R336). -/
def State.strandOutcome (s : State) (p : Place) (sfp : Word) (slot : Nat) (resolved : Bool) : State :=
  let b := s.bank p
  match b.status with
  | .page _ acc (some i) =>
    if b.live && b.strand.sfp == sfp && i == slot then
      let t := s.setStatus p .running
      if resolved then t
      else
        let c : Cause := if acc = .fetch then .fetch else .translation
        t.trapAt p ⟨c, s.tvalAgain p.core b.strand c.code⟩
    else s
  | _ => s

/-- The outcome of a slot for the command that posted it: it tries the access again, or faults with cause 0x06 (R337). -/
def State.engineOutcome (s : State) (b : Batch) (resolved : Bool) : State :=
  let q := quadOf b.core
  match b.cmd with
  | none => s
  | some id =>
    if resolved then s.push (.resume q id)
    else
      match (s.quad q).out.find? fun i => i.id == id with
      | some i => s.discardPaused q i
      | none => s

/-- FAULT_SLOT_OUTCOME: the posting core acquires the slot, frees it, and acts on the outcome, which is dropped where the strand has
left its bank (R336, R337). -/
def execFaultSlotOutcome (cluster slot : Nat) (s : State) : Outcome :=
  let k := s.cluster cluster
  let s := s.meetAt (.hardware (firstCore cluster)) (k.slotWord slot 0) 64 64
  let w := (s.peek (firstCore cluster) (k.slotWord slot 0) 64 64).getD 0
  .next (match k.watched.find? fun e => e.1 == slot with
    | none => s
    | some (_, b) =>
      if w / 2 ^ 62 < 2 then s
      else
        let s := s.modCluster cluster fun k => { k with watched := k.watched.filter fun e => e.1 != slot }
        let s := s.pokeWord cluster (k.slotWord slot 0) (w % 2 ^ 62)
        let resolved : Bool := w / 2 ^ 62 == 2
        match b.bank, b.sfp with
        | some bk, some sfp => s.strandOutcome ⟨b.core, bk⟩ sfp slot resolved
        | some _, none => s
        | none, _ => s.engineOutcome b resolved)

/-- PAGE_WAIT_WRITEBACK: a strand that waits on a page is forced out when a runnable record has waited 1,024 cycles for a
bank, unless TRAP = 1 (R332). -/
def execPageWaitWriteback (p : Place) (s : State) : Outcome :=
  let b := s.bank p
  .next (match b.status with
    | .page _ _ _ =>
      if !b.live then s
      else if !b.strand.trap && s.wanting p.core 1024 then
        (s.setStatus p (.stopped true)).post (.preemptForcedSave p)
      else s.after 1024 (.pageWaitWriteback p)
    | _ => s)

/-- A strand stopped at an instruction boundary is saved in full once its queue has drained (R319, R321). -/
def State.forceOut (s : State) (p : Place) : State :=
  let sfp := (s.strand p).sfp
  if s.busy p.core sfp then
    (((s.setStatus p (.stopped true)).beginDrain p.core sfp false).after 64 (.preemptForcedSave p)).switch p.core
  else s.park p true true .running

/-- PREEMPT_FORCED_SAVE: a window that has ended, a fault with a pre-emption pending, or a strand forced out of its wait on
a page: issue stops at an instruction boundary, a wait that is no suspension point is abandoned, and the whole frame
is saved once the strand's commands have drained. A halted strand is written back so; TRAP = 1 pauses the window (R313, R319, R320, R321, R332). -/
def execPreemptForcedSave (p : Place) (s : State) : Outcome :=
  let b := s.bank p
  .next (if !b.live then s
    else
      match b.status with
      | .halted =>
        if b.mark.isNone then s
        else if s.busy p.core b.strand.sfp then
          (s.beginDrain p.core b.strand.sfp false).after 64 (.preemptForcedSave p)
        else
          (s.modBank p fun b =>
            { b with status := .stopped true, strand := { b.strand with cause := 0x14, pc := b.tepc } }).park p true true
            .running
      | .stopped false => s
      | .stopped true => s.forceOut p
      | st =>
        match b.mark with
        | none => s
        | some due =>
          if b.strand.trap then s.after 64 (.preemptForcedSave p)
          else if b.strand.cause = 0 ∧ s.now < due then s
          else if st.suspended then s.post (.recordWriteback p)
          else
            match st with
            | .reply _ _ _ => s.after 64 (.preemptForcedSave p)
            | _ => s.forceOut p)

end Sys2Proof.Machine
end

