-- ==== Sys2Proof/Machine/Softmax.lean ====
section
/-! DEFINITION. Streaming softmax: MSOFT (R270–R273), MMERGE (R274, R275), MNORM (R276). -/

namespace Sys2Proof.Machine

/-- The canonical NaN of f32. -/
def nan32 : BitVec 32 := 0x7FC00000

/-- The product of two values, rounded. -/
def mul32 (a b : Val) : Val := rne32 (a.mul b).1

/-- The sum of two values, rounded. -/
def add32 (a b : Val) : Val := rne32 (a.add b).1

/-- A row after MSOFT: its O elements, its row state, and its P elements as bf16 (R272). -/
structure SoftRow where
  o : List (BitVec 32)
  row : Row
  p : List Nat
  deriving DecidableEq, Repr

/-- A row that MSOFT turns into NaN (R272). -/
def SoftRow.toNan (r : Row) : SoftRow :=
  ⟨List.replicate 32 nan32, { r with m := nan32, l := nan32, nan := true, empty := false },
    List.replicate 32 fmtBf16.nanCode⟩

/-- A row with the rescaling factor α and the probabilities q: the common end of R272. -/
def softEnd (o : List (BitVec 32)) (r : Row) (mn alpha : Val) (q : List Val) : SoftRow :=
  let p := q.map fun x => (fmtBf16.encode false x).1
  let sum := tree add32 .zero 32 (p.map fmtBf16.decode)
  ⟨o.map fun x => bits32 (mul32 alpha (val32 x)),
    { r with m := bits32 mn, l := bits32 (add32 (mul32 alpha (val32 r.l)) sum), empty := false }, p⟩

/-- MSOFT on a row that the row mask admits: `t` its scaled scores, −inf where masked (R272). -/
def softRow (o : List (BitVec 32)) (r : Row) (t : List Val) : SoftRow :=
  let m := val32 r.m
  if r.nan || m == .nan || t.contains .nan then .toNan r
  else
    let mn := t.foldl Val.max m
    match mn with
    | .inf true => ⟨o, r, List.replicate 32 0⟩
    | .inf false =>
      softEnd o { r with inf := true } mn (if m = .inf false then .one else .zero)
        (t.map fun x => if x = .inf false then .one else .zero)
    | _ => softEnd o r mn (exp2f (rne32 (m.sub mn))) (t.map fun x => exp2f (rne32 (x.sub mn)))

/-- Whether column `j` is live for row `i` under the mask group from a register (R271). -/
def columnLive (v : Vector Wide 32) (mreg : BitVec 3) (i j : Nat) : Bool :=
  (v.toList.getD (mreg.toNat + i / 8) 0).getLsbD (32 * (i % 8) + j)

/-- The elements of a row of an accumulator. -/
def Acc.rowElems (a : Acc) (i : Nat) : List (BitVec 32) := (List.range 32).map (a.elem i)

/-- Row `i` after MSOFT; the row mask leaves a row out (R272). -/
def msoftRow (a sc : Acc) (v : Vector Wide 32) (mreg : BitVec 3) (mask : Word) (tau : Val) (i : Nat) : SoftRow :=
  if mask.getLsbD i then
    softRow (a.rowElems i) (a.row i) ((List.range 32).map fun j =>
      if columnLive v mreg i j then mul32 tau (val32 (sc.elem i j)) else .inf true)
  else ⟨a.rowElems i, a.row i, List.replicate 32 0⟩

/-- Whether a temperature is NaN, infinite, a zero or negative (R270). -/
def badTau (t : Val) : Bool :=
  match t with
  | .fin neg mag _ => neg || mag == 0
  | _ => true

/-- An accumulator from its rows. -/
def accOfRows (l : List (List (BitVec 32) × Row)) : Acc :=
  ⟨BitVec.ofNat 32768 (packElements 32 ((l.flatMap (·.1)).map (·.toNat))),
    Vector.ofFn fun (i : Fin 32) => (l.map (·.2)).getD i.val .reset⟩

/-- MSOFT (R272). -/
def runMsoft (f : PressF) (sl : Slots) (s : State) : Ran :=
  let tau := val32 (sl.c.extractLsb' 0 32)
  s.pressChecked 0x06 f sl true fun s =>
    s.checked [(f.acc == f.acc2 || 4 < f.mreg.toNat || sl.b.extractLsb' 32 32 != 0 || sl.c.extractLsb' 32 32 != 0 ||
        badTau tau, 0x19)] fun s =>
      let rs := (List.range 32).map (msoftRow (s.accAt f.acc) (s.accAt f.acc2) s.sender.v f.mreg sl.b tau)
      let p : Slot := ⟨BitVec.ofNat 16384 (packElements 16 (rs.flatMap (·.p))), 0, 1⟩
      .done ((s.setAcc f.acc (accOfRows (rs.map fun r => (r.o, r.row)))).setSlot f.sa.toNat p) 0

/-- Row 1 merged with row 2 (R274). -/
def mergeRow (o1 : List (BitVec 32)) (r1 : Row) (o2 : List (BitVec 32)) (r2 : Row) : List (BitVec 32) × Row :=
  let m1 := val32 r1.m
  let m2 := val32 r2.m
  if r1.nan || r2.nan || m1 == .nan || m2 == .nan then
    (List.replicate 32 nan32, ⟨nan32, nan32, false, true, r1.inf || r2.inf⟩)
  else if r1.empty && r2.empty then (List.replicate 32 0, .reset)
  else if r2.empty then (o1, r1)
  else if r1.empty then (o2, r2)
  else
    let m := m1.max m2
    let factor (x : Val) : Val :=
      match m with
      | .inf n => if x = .inf n then .one else .zero
      | _ => exp2f (rne32 (x.sub m))
    let a := factor m1
    let b := factor m2
    let join (x y : BitVec 32) : BitVec 32 := bits32 (add32 (mul32 a (val32 x)) (mul32 b (val32 y)))
    ((o1.zip o2).map fun e => join e.1 e.2,
      ⟨bits32 m, join r1.l r2.l, false, r1.nan, r1.inf || r2.inf || m == .inf false⟩)

/-- MMERGE (R274). -/
def runMmerge (f : PressF) (sl : Slots) (s : State) : Ran :=
  s.pressChecked 0x07 f sl true fun s =>
    s.checked [(f.acc == f.acc2, 0x19)] fun s =>
      let d := s.accAt f.acc
      let e := s.accAt f.acc2
      .done (s.setAcc f.acc (accOfRows ((List.range 32).map fun i =>
        mergeRow (d.rowElems i) (d.row i) (e.rowElems i) (e.row i)))) 0

/-- An element of a row divided by the row's sum (R276). -/
def normElem (r : Row) (o : BitVec 32) : BitVec 32 :=
  if r.nan then nan32
  else
    match val32 r.l with
    | .fin n m e => if m = 0 then 0 else bits32 ((val32 o).div (.fin n m e)).1
    | l => bits32 ((val32 o).div l).1

/-- MNORM (R276). -/
def runMnorm (f : PressF) (sl : Slots) (s : State) : Ran :=
  s.pressChecked 0x08 f sl true fun s =>
    let c := s.accAt f.acc
    .done (s.setAcc f.acc (c.withElems fun i j => normElem (c.row i) (c.elem i j))) 0

/-! ## Issue (R195, R196) -/

/-- MSOFT (R272). -/
def execMsoft (tagged : Bool) (f : PressF) (sl : Slots) (s : State) : Outcome :=
  .next (s.press 0x06 tagged f sl (runMsoft f sl))

/-- MMERGE (R274). -/
def execMmerge (tagged : Bool) (f : PressF) (sl : Slots) (s : State) : Outcome :=
  .next (s.press 0x07 tagged f sl (runMmerge f sl))

/-- MNORM (R276). -/
def execMnorm (tagged : Bool) (f : PressF) (sl : Slots) (s : State) : Outcome :=
  .next (s.press 0x08 tagged f sl (runMnorm f sl))

end Sys2Proof.Machine
end

