-- ==== Sys2Proof/Machine/Vector.lean ====
section
/-! DEFINITION. Vector commands (R222–R247). -/

namespace Sys2Proof.Machine

/-! ## Types and shapes (R223, R225) -/

/-- The arithmetic types (R223). -/
def arithType (t : BitVec 5) : Bool := [0, 1, 2, 16, 17, 18, 24, 25, 26].contains t.toNat

/-- The packed types (R223). -/
def packedType (t : BitVec 5) : Bool := [3, 4, 20, 27, 28].contains t.toNat

/-- The block types that a register may hold (R223). -/
def blockRegType (t : BitVec 5) : Bool := [5, 7, 9, 10, 13, 14].contains t.toNat

/-- The float types of arithmetic. -/
def floatType (t : BitVec 5) : Bool := t.toNat ≤ 2

/-- g (R225). -/
def groupCount (f : VecF) : Nat := 2 ^ f.gc.toNat

/-- N = g × 256 ÷ w (R231, R238). -/
def elemCount (f : VecF) : Nat := groupCount f * 256 / max 1 (typeWidth f.rt)

/-- N of a VCVT: by the wider side (R243). -/
def cvtCount (f : VecF) : Nat := groupCount f * 256 / max 1 (max (typeWidth f.rt) (typeWidth f.xt))

/-- The element count of a command that its mask governs. -/
def countOf (op : Nat) (f : VecF) : Nat :=
  if op = 0x0C then cvtCount f else if op = 0x12 then 8 * groupCount f else elemCount f

/-- Registers of one side of a VCVT: g for the wider side, else as many as its bits fill (R243). -/
def cvtRegs (f : VecF) (w other : Nat) : Nat :=
  if other ≤ w then groupCount f else max 1 (cvtCount f * w / 256)

/-- The first bit of one side of a VCVT (R243). -/
def cvtBase (f : VecF) (w other : Nat) : Nat :=
  if other ≤ w ∨ 256 ≤ cvtCount f * w then 0 else f.aux.toNat * (cvtCount f * w)

/-- Whether operand b of a VOP or VCMP is slot C, or there is none (R238, R239). -/
def noVb (op : Nat) (f : VecF) : Bool :=
  ((op == 0x08 || op == 0x0A) && f.aux == 1) || (op == 0x08 && [8, 9, 13].contains f.fn.toNat)

/-- The vector registers that a command reads (R196). -/
def vecReads (op : Nat) (f : VecF) : List Nat :=
  let g := groupCount f
  let n := countOf op f
  (if f.men || op == 0x0B then maskRegs f.mreg n else []) ++
    (match op with
      | 0x02 => group f.vb ((n + 7) / 8)
      | 0x03 | 0x04 => group f.vd g
      | 0x05 => group f.vd g ++ group f.vb ((n + 7) / 8)
      | 0x08 | 0x0A | 0x0B => group f.va g ++ (if noVb op f then [] else group f.vb g)
      | 0x09 | 0x12 => group f.va g ++ group f.vb g ++ group f.vc g
      | 0x0C =>
        group f.va (cvtRegs f (typeWidth f.rt) (typeWidth f.xt)) ++ (if blockType f.rt then [f.vc.toNat] else [])
      | 0x0D | 0x0E | 0x0F | 0x10 => group f.va g
      | 0x11 => group f.va g ++ group f.vb ((n + 31) / 32)
      | _ => [])

/-- The vector registers that a command writes (R196). -/
def vecWrites (op : Nat) (f : VecF) : List Nat :=
  match op with
  | 0x03 | 0x04 | 0x05 => []
  | 0x0A | 0x0D => [f.vd.toNat]
  | 0x0C =>
    group f.vd (cvtRegs f (typeWidth f.xt) (typeWidth f.rt)) ++ (if blockType f.xt then [f.vc.toNat] else [])
  | _ => group f.vd (groupCount f)

/-- A vector command issued when the interlock is clear (R195, R196). -/
def State.vector (s : State) (op : Nat) (tagged : Bool) (f : VecF) (run : State → Ran) : State :=
  s.runCommand 2 op 0 0 tagged (vecReads op f) (vecWrites op f) run

/-- Step 2 of R227 for a register type. -/
def typeChecks (t : BitVec 5) (accepted : Bool) : List (Bool × Nat) := [(reservedType t, 0x02), (!accepted, 0x10)]

/-- Step 3 of R227: the mask registers of `n` elements are v0–v7. -/
def maskCheck (used : Bool) (mreg : BitVec 3) (n : Nat) : Bool × Nat := (used && 7 < mreg.toNat + (n - 1) / 256, 0x11)

/-- Whether element `i` is live (R224). -/
def vecLive (f : VecF) (v : Vector Wide 32) (i : Nat) : Bool := !f.men || maskBit v f.mreg i

/-- The strand of the command takes new vector registers. -/
def State.setVector (s : State) (v : Vector Wide 32) : State := s.modSender fun st => { st with v := v }

/-- The destination of `n` elements of width `w`, from bit `base` of a group of `cnt` registers: live elements take their
results, masked ones stay or become zero (R224, R228). -/
def mergeElems (f : VecF) (v : Vector Wide 32) (cnt base w : Nat) (rs : List Nat) : Vector Wide 32 :=
  let old := readGroup v f.vd cnt
  let l := (List.range rs.length).map fun i =>
    if vecLive f v i then rs.getD i 0 else if f.mz then 0 else old / 2 ^ base / 2 ^ (w * i) % 2 ^ w
  writeGroup v f.vd cnt (replaceBits old base (w * rs.length) (packElements w l))

/-- The flags of the live elements together (R129, R228). -/
def liveFlags (f : VecF) (v : Vector Wide 32) (rs : List (Nat × Fx)) : Fx :=
  orFlags ((List.range rs.length).map fun i => if vecLive f v i then (rs.getD i (0, 0)).2 else 0)

/-- An element-wise command: N results of width `w` into the group at VD (R238). -/
def State.elementwise (s : State) (f : VecF) (n w : Nat) (op : Vector Wide 32 → Nat → Nat × Fx) : Ran :=
  let v := s.sender.v
  let rs := (List.range n).map (op v)
  .done (s.setVector (mergeElems f v (groupCount f) 0 w (rs.map (·.1)))) (liveFlags f v rs)

/-- Element `i` of width `w` of the group at a register. -/
def operand (v : Vector Wide 32) (r : BitVec 5) (g w i : Nat) : Nat := element (readGroup v r g) w i

/-! ## Streams (R231–R236) -/

/-- A stream of a load or store: the row length, the pitch of a row, and whether it is indexed (R233, R234). -/
structure Shape where
  len : Nat
  pitch : Int
  indexed : Bool
  deriving DecidableEq, Repr

/-- The address of element `i` of a stream (R233, R234). -/
def streamAddr (f : VecF) (v : Vector Wide 32) (a : Word) (wm : Nat) (sh : Shape) (i : Nat) : Word :=
  if sh.indexed then
    let x := BitVec.ofNat 32 (operand v f.vb ((elemCount f + 7) / 8) 32 i)
    a + BitVec.ofInt 64 (x.toInt * wm)
  else a + BitVec.ofInt 64 ((i / sh.len : Nat) * sh.pitch + (i % sh.len * wm : Nat))

/-- The block of element `i` of a stream: each row starts a new one (R232, R233). -/
def streamBlock (sh : Shape) (i : Nat) : Nat := (sh.len + 31) / 32 * (i / sh.len) + i % sh.len / 32

/-- The live elements of a command of `n`. -/
def liveList (f : VecF) (v : Vector Wide 32) (n : Nat) : List Nat := (List.range n).filter (vecLive f v)

/-- The checks of a stream but its addresses (R223, R224, R227, R232–R234): those of the register type come before those of the
memory type (DESIGN CHOICE, log entry 61). -/
def streamChecks (f : VecF) (mt : BitVec 5) (sh : Shape) (store : Bool) (strided : Bool) : List (Bool × Nat) :=
  let n := elemCount f
  typeChecks f.rt (arithType f.rt || packedType f.rt) ++
    [(reservedType mt, 0x02), (sh.indexed && blockType mt, 0x10), maskCheck f.men f.mreg n,
      (strided && (11 < f.aux.toNat || n % sh.len != 0), 0x12), (sh.indexed && 64 < n, 0x12),
      (store && blockType mt && f.men, 0x12)]

/-- The checks of a stream's addresses: the base, the places of its live elements and of their scale records, and the pitch
(R227, R231–R233). -/
def State.streamAddrChecks (s : State) (sl : Slots) (mt : BitVec 5) (sh : Shape) (acc : Access)
    (spots recs : List Spot) : List (Bool × Nat) :=
  let wm := typeWidth mt
  let bad := s.spotCause acc spots
  let badRec := s.spotCause acc recs
  let slot := s.badSlot sl.ua sl.a
  [(slot.isSome, slot.getD 0), (bad.isSome, bad.getD 0), (badRec.isSome, badRec.getD 0),
    (!aligned sl.a.toNat wm wm, 0x04), (sh.pitch % wm != 0, 0x04)]

/-- A loaded element in the register type, `sc` its block's scale record (R232); a block type counts as a float where an integer
does not hold its value (DESIGN CHOICE, log entry 64). -/
def loadElem (f : VecF) (mt : BitVec 5) (c sc : Nat) : Nat × Fx :=
  if blockType mt then encodeElem f.rt f.rtz true (decodeAny mt c sc) else convert mt f.rt f.rtz c

/-- A load stream (R231–R234). -/
def State.loadStream (s : State) (f : VecF) (sl : Slots) (sh : Shape) (strided : Bool) : Ran :=
  let v := s.sender.v
  let n := elemCount f
  let mt := s.typeHeld 0 sl.a f.xt
  let s := s.holdTypes [mt]
  let live := liveList f v n
  let spots := live.map fun i => elemSpot mt (streamAddr f v sl.a (typeWidth mt) sh i)
  let blocks := if blockType mt then (live.map (streamBlock sh)).eraseDups else []
  let recs := blocks.map fun k => recordSpot mt (sl.c + BitVec.ofNat 64 (recordWidth mt * k))
  s.checked (streamChecks f mt sh false strided ++ s.streamAddrChecks sl mt sh .load spots recs) fun s =>
    match s.readSpots recs with
    | .error e => e
    | .ok (rs, s) =>
      match s.readSpots spots with
      | .error e => e
      | .ok (es, s) =>
        let scale (i : Nat) : Nat := ((blocks.zip rs).find? fun e => e.1 == streamBlock sh i).elim 0 (·.2)
        let vals := (live.zip es).map fun e => (e.1, loadElem f mt e.2 (scale e.1))
        let rs := (List.range n).map fun i => (vals.find? fun e => e.1 == i).elim (0, 0) (·.2)
        .done (s.setVector (mergeElems f v (groupCount f) 0 (typeWidth f.rt) (rs.map (·.1)))) (liveFlags f v rs)

/-- The writes of a store stream to a type without blocks, and their flags (R232, R235). -/
def plainWrites (f : VecF) (mt : BitVec 5) (spots : List Spot) (data : List Nat) : List (Spot × Nat) × Fx :=
  let cs := data.map (convert f.rt mt f.rtz)
  (spots.zip (cs.map (·.1)), orFlags (cs.map (·.2)))

/-- The writes of a store stream to a block type: each block's codes, then its record (R127, R128, R232). -/
def blockWrites (f : VecF) (mt : BitVec 5) (sh : Shape) (c : Word) (live : List Nat) (spots : List Spot)
    (data : List Nat) : List (Spot × Nat) × Fx :=
  let all := live.zip (spots.zip data)
  let blocks := (live.map (streamBlock sh)).eraseDups
  blocks.foldl (fun r k =>
    let es := all.filter fun e => streamBlock sh e.1 == k
    let b := encodeBlock mt f.rtz (es.map fun e => decodeElem f.rt e.2.2)
    (r.1 ++ (es.map fun e => e.2.1).zip b.1 ++
      [(recordSpot mt (c + BitVec.ofNat 64 (recordWidth mt * k)), b.2.1)], r.2 ||| b.2.2)) ([], 0)

/-- A store stream (R231–R235). -/
def State.storeStream (s : State) (f : VecF) (sl : Slots) (sh : Shape) (strided : Bool) : Ran :=
  let v := s.sender.v
  let n := elemCount f
  let mt := s.typeHeld 0 sl.a f.xt
  let s := s.holdTypes [mt]
  let live := liveList f v n
  let spots := live.map fun i => elemSpot mt (streamAddr f v sl.a (typeWidth mt) sh i)
  let data := live.map (operand v f.vd (groupCount f) (typeWidth f.rt))
  let blocks := if blockType mt then (live.map (streamBlock sh)).eraseDups else []
  let recs := blocks.map fun k => recordSpot mt (sl.c + BitVec.ofNat 64 (recordWidth mt * k))
  s.checked (streamChecks f mt sh true strided ++ s.streamAddrChecks sl mt sh .store spots recs) fun s =>
    let w := if blockType mt then blockWrites f mt sh sl.c live spots data else plainWrites f mt spots data
    match s.writeRest w.1 with
    | .error e => e
    | .ok s => .done s w.2

/-- The shape of VLD and VST: one row (R233). -/
def oneRow (f : VecF) : Shape := ⟨max 1 (elemCount f), 0, false⟩

/-- The shape of VLDS and VSTS: rows of 2^AUX elements, slot B their pitch (R233). -/
def rows (f : VecF) (sl : Slots) : Shape := ⟨2 ^ f.aux.toNat, sl.b.toInt, false⟩

/-- The shape of VGATH and VSCAT (R234). -/
def byIndex (f : VecF) : Shape := ⟨max 1 (elemCount f), 0, true⟩

/-- VLD (R233). -/
def runVld (f : VecF) (sl : Slots) (s : State) : Ran :=
  s.loadStream f sl (oneRow f) false

/-- VLDS (R233). -/
def runVlds (f : VecF) (sl : Slots) (s : State) : Ran :=
  s.loadStream f sl (rows f sl) true

/-- VGATH (R234). -/
def runVgath (f : VecF) (sl : Slots) (s : State) : Ran :=
  s.loadStream f sl (byIndex f) false

/-- VST (R235). -/
def runVst (f : VecF) (sl : Slots) (s : State) : Ran :=
  s.storeStream f sl (oneRow f) false

/-- VSTS (R235). -/
def runVsts (f : VecF) (sl : Slots) (s : State) : Ran :=
  s.storeStream f sl (rows f sl) true

/-- VSCAT (R235). -/
def runVscat (f : VecF) (sl : Slots) (s : State) : Ran :=
  s.storeStream f sl (byIndex f) false

/-- VBCAST: one element to every live element (R236). -/
def runVbcast (f : VecF) (sl : Slots) (s : State) : Ran :=
  let n := elemCount f
  let mt := s.typeHeld 0 sl.a f.xt
  let s := s.holdTypes [mt]
  let live := !(liveList f s.sender.v n).isEmpty
  let spots := if live then [elemSpot mt sl.a] else []
  let recs := if live && blockType mt then [recordSpot mt sl.c] else []
  s.checked (streamChecks f mt (oneRow f) false false ++ s.streamAddrChecks sl mt (oneRow f) .load spots recs)
    fun s =>
      match s.readSpots recs with
      | .error e => e
      | .ok (rs, s) =>
        match s.readSpots spots with
        | .error e => e
        | .ok (es, s) => s.elementwise f n (typeWidth f.rt) fun _ _ => loadElem f mt (es.headD 0) (rs.headD 0)

/-! ## Register commands (R237–R247) -/

/-- VMOVX.bc: raw bits of slot C to every live element (R237). -/
def runVmovxBc (f : VecF) (sl : Slots) (s : State) : Ran :=
  s.checked (typeChecks f.rt (arithType f.rt || packedType f.rt) ++ [maskCheck f.men f.mreg (elemCount f)]) fun s =>
    s.elementwise f (elemCount f) (typeWidth f.rt) fun _ _ => (sl.c.toNat, 0)

/-- VMOVX.ins: raw bits of slot C to element slot B alone (R237). -/
def runVmovxIns (f : VecF) (sl : Slots) (s : State) : Ran :=
  let n := elemCount f
  let w := typeWidth f.rt
  s.checked (typeChecks f.rt (arithType f.rt || packedType f.rt) ++
      [maskCheck f.men f.mreg n, (n ≤ sl.b.toNat, 0x12)]) fun s =>
    let v := s.sender.v
    let g := groupCount f
    let i := sl.b.toNat
    let e := if vecLive f v i then some sl.c.toNat else if f.mz then some 0 else none
    .done (match e with
      | some e => s.setVector (writeGroup v f.vd g (replaceBits (readGroup v f.vd g) (w * i) w e))
      | none => s) 0

/-- A number of `w` bits as two's complement. -/
def signedOf (w c : Nat) : Int := (BitVec.ofNat w c).toInt

/-- A number as an integer of a type: signed for intN, unsigned for natN (R122). -/
def intOf (t : BitVec 5) (c : Nat) : Int :=
  if family t = .int then signedOf (typeWidth t) c else (c % 2 ^ typeWidth t : Nat)

/-- An integer modulo 2^w. -/
def wrap (w : Nat) (n : Int) : Nat := (n % 2 ^ w).toNat

/-- SAT to the range of a type, with OF when it clamps (R239). -/
def saturate (t : BitVec 5) (n : Int) : Nat × Fx :=
  let w := typeWidth t
  let lo : Int := if family t = .int then -(2 ^ (w - 1)) else 0
  let hi : Int := if family t = .int then 2 ^ (w - 1) - 1 else 2 ^ w - 1
  if n < lo then (wrap w lo, fxOF) else if hi < n then (wrap w hi, fxOF) else (wrap w n, 0)

/-- A float result rounded once, with its flags (R125, R238). -/
def roundTo (t : BitVec 5) (rtz : Bool) (r : Val × Fx) : Nat × Fx :=
  let e := (typeFmt t).encode rtz r.1
  (e.1, r.2 ||| e.2)

/-- An element of a float VOP (R239). -/
def vopFloat (t : BitVec 5) (rtz : Bool) (fn a b : Nat) : Nat × Fx :=
  let f := typeFmt t
  let w := typeWidth t
  let x := f.decode a
  let y := f.decode b
  match fn with
  | 0 => roundTo t rtz (x.add y)
  | 1 => roundTo t rtz (x.add y.negate)
  | 2 => roundTo t rtz (x.mul y)
  | 3 => ((f.encode rtz (x.min y)).1, 0)
  | 4 => ((f.encode rtz (x.max y)).1, 0)
  | 8 => (if x = .nan then f.nanCode else a % 2 ^ (w - 1), 0)
  | _ => (if x = .nan then f.nanCode else a ^^^ 2 ^ (w - 1), 0)

/-- An element of an integer VOP (R239). -/
def vopInt (t : BitVec 5) (fn a b : Nat) : Nat × Fx :=
  let w := typeWidth t
  let x := intOf t a
  let y := intOf t b
  match fn with
  | 0 => (wrap w (x + y), 0)
  | 1 => (wrap w (x - y), 0)
  | 2 => (wrap w (x * y), 0)
  | 3 => (wrap w (min x y), 0)
  | 4 => (wrap w (max x y), 0)
  | 5 => saturate t (x + y)
  | 6 => saturate t (x - y)
  | 7 => (wrap w (x * y / 2 ^ w), 0)
  | 8 => (wrap w x.natAbs, 0)
  | 9 => (wrap w (-x), 0)
  | 14 => (if w ≤ b then 0 else wrap w (x * 2 ^ b), 0)
  | _ => (if w ≤ b then (if x < 0 then wrap w (-1) else 0) else wrap w (x / 2 ^ b), 0)

/-- An element of a VOP (R239). -/
def vopElem (t : BitVec 5) (rtz : Bool) (fn a b : Nat) : Nat × Fx :=
  let w := typeWidth t
  match fn with
  | 10 => (a &&& b, 0)
  | 11 => (a ||| b, 0)
  | 12 => (a ^^^ b, 0)
  | 13 => (2 ^ w - 1 - a, 0)
  | fn => if family t = .float then vopFloat t rtz fn a b else vopInt t fn a b

/-- Whether VOP accepts a type for an operation (R223, R239). -/
def vopAccepts (t : BitVec 5) (fn : Nat) : Bool :=
  if 10 ≤ fn ∧ fn ≤ 13 then arithType t || packedType t
  else arithType t && !(floatType t && [5, 6, 7, 14, 15].contains fn)

/-- Operand b of a VOP or VCMP (R238). -/
def operandB (f : VecF) (sl : Slots) (v : Vector Wide 32) (i : Nat) : Nat :=
  let w := typeWidth f.rt
  if f.aux = 1 then sl.c.toNat % 2 ^ w else operand v f.vb (groupCount f) w i

/-- VOP (R239). -/
def runVop (f : VecF) (sl : Slots) (s : State) : Ran :=
  let n := elemCount f
  let w := typeWidth f.rt
  s.checked (typeChecks f.rt (vopAccepts f.rt f.fn.toNat) ++ [maskCheck f.men f.mreg n]) fun s =>
    s.elementwise f n w fun v i =>
      vopElem f.rt f.rtz f.fn.toNat (operand v f.va (groupCount f) w i) (operandB f sl v i)

/-- An element of a VFMA: one rounding of ±(a × b) ± c; the flag of an infinity times zero stands beside a NaN addend (R240; DESIGN
CHOICE, log entry 63). -/
def vfmaElem (t : BitVec 5) (rtz : Bool) (fn a b c : Nat) : Nat × Fx :=
  let f := typeFmt t
  let p := (f.decode a).mul (f.decode b)
  let x := if 2 ≤ fn then p.1.negate else p.1
  let z := f.decode c
  let y := x.add (if fn % 2 = 1 then z.negate else z)
  roundTo t rtz (y.1, p.2 ||| y.2)

/-- VFMA (R240). -/
def runVfma (f : VecF) (_ : Slots) (s : State) : Ran :=
  let n := elemCount f
  let w := typeWidth f.rt
  let g := groupCount f
  s.checked (typeChecks f.rt (floatType f.rt) ++ [maskCheck f.men f.mreg n]) fun s =>
    s.elementwise f n w fun v i =>
      vfmaElem f.rt f.rtz f.fn.toNat (operand v f.va g w i) (operand v f.vb g w i) (operand v f.vc g w i)

/-- Whether a condition of VCMP holds of two operands of a type (R241). -/
def vcmpHolds (t : BitVec 5) (fn a b : Nat) : Bool :=
  let o : Option Ordering :=
    if family t = .float then
      let x := (typeFmt t).decode a
      let y := (typeFmt t).decode b
      if x = .nan ∨ y = .nan then none else some (x.compare y)
    else some (Ord.compare (intOf t a) (intOf t b))
  match o with
  | none => fn == 1 || fn == 6
  | some o =>
    match fn with
    | 0 => o == .eq
    | 1 => o != .eq
    | 2 => o == .lt
    | 3 => o != .gt
    | 4 => o == .gt
    | 5 => o != .lt
    | _ => false

/-- VCMP: one bit per element into a mask register (R241). -/
def runVcmp (f : VecF) (sl : Slots) (s : State) : Ran :=
  let n := elemCount f
  let w := typeWidth f.rt
  s.checked (typeChecks f.rt (arithType f.rt && (f.fn != 6 || floatType f.rt)) ++
      [maskCheck f.men f.mreg n, (7 < f.vd.toNat, 0x11)]) fun s =>
    let v := s.sender.v
    let bits := (List.range n).map fun i =>
      if vcmpHolds f.rt f.fn.toNat (operand v f.va (groupCount f) w i) (operandB f sl v i) then 1 else 0
    .done (s.setVector (mergeElems f v 1 0 1 bits)) 0

/-- VSEL: raw bits by the mask (R242). -/
def runVsel (f : VecF) (_ : Slots) (s : State) : Ran :=
  let n := elemCount f
  let w := typeWidth f.rt
  let g := groupCount f
  s.checked (typeChecks f.rt (arithType f.rt || packedType f.rt) ++ [maskCheck true f.mreg n]) fun s =>
    s.elementwise f n w fun v i =>
      (if maskBit v f.mreg i then operand v f.va g w i else operand v f.vb g w i, 0)

/-- The codes, scale records and flags of values encoded into a block type in blocks of 32, masked elements left out of
their block (R243). -/
def cvtBlocks (t : BitVec 5) (rtz : Bool) (n : Nat) (vals : List (Nat × Val)) : List (Nat × Nat) × List Nat × Fx :=
  (List.range ((n + 31) / 32)).foldl (fun r k =>
    let es := vals.filter fun e => e.1 / 32 == k
    let b := encodeBlock t rtz (es.map (·.2))
    (r.1 ++ (es.map (·.1)).zip b.1, r.2.1 ++ [b.2.1], r.2.2 ||| b.2.2)) ([], [], 0)

/-- VCVT (R243); a block type counts as a float where an integer does not hold its value (DESIGN CHOICE, log entry 64). Where N is
512 and sbf4 is on one side, the 16 records take 320 bits: those past bit 255 of VC are not written, and are read as zero (DESIGN
CHOICE, log entry 87: R243 does not say). -/
def runVcvt (f : VecF) (_ : Slots) (s : State) : Ran :=
  let n := cvtCount f
  let ws := typeWidth f.rt
  let wd := typeWidth f.xt
  let b := n * min ws wd
  let ok (t : BitVec 5) : Bool := arithType t || packedType t || blockRegType t
  s.checked ([(!blockType f.rt && !blockType f.xt && f.vc != 0, 0x01)] ++ typeChecks f.rt (ok f.rt) ++
      typeChecks f.xt (ok f.xt) ++ [(blockType f.rt && blockType f.xt, 0x10), maskCheck f.men f.mreg n,
        (max 1 (256 / max 1 b) ≤ f.aux.toNat, 0x12)]) fun s =>
    let v := s.sender.v
    let src := readGroup v f.va (cvtRegs f ws wd) / 2 ^ cvtBase f ws wd
    let recs := (v.toList.getD f.vc.toNat 0).toNat
    let cnt := cvtRegs f wd ws
    let base := cvtBase f wd ws
    if blockType f.xt then
      let live := liveList f v n
      let r := cvtBlocks f.xt f.rtz n (live.map fun i => (i, decodeElem f.rt (element src ws i)))
      let codes := (List.range n).map fun i => (r.1.find? fun e => e.1 == i).elim 0 (·.2)
      let v' := mergeElems f v cnt base wd codes
      .done (s.setVector (writeGroup v' f.vc 1 (packElements (recordWidth f.xt) r.2.1))) r.2.2
    else
      let rs := (List.range n).map fun i =>
        let c := element src ws i
        if blockType f.rt then
          encodeElem f.xt f.rtz true (decodeAny f.rt c (element recs (recordWidth f.rt) (i / 32)))
        else convert f.rt f.xt f.rtz c
      .done (s.setVector (mergeElems f v cnt base wd (rs.map (·.1)))) (liveFlags f v rs)

/-- The result of a sum over the live elements, and its flags (R132, R244). -/
def redSum (f : VecF) (l : List Nat) : Nat × Fx :=
  if floatType f.rt then
    let r := tree (fun (a b : Val × Fx) =>
      let t := a.1.add b.1
      let r := round32 f.rtz t.1
      (r.1, a.2 ||| b.2 ||| t.2 ||| r.2)) (Val.zero, 0) l.length
        (l.map fun c => ((typeFmt f.rt).decode c, (0 : Fx)))
    ((fmtF32.encode f.rtz r.1).1, r.2)
  else (wrap 32 ((l.map (intOf f.rt)).foldl (· + ·) 0), 0)

/-- The result of a min or max over the live elements; with none, the identity (R244). -/
def redBound (f : VecF) (most : Bool) (l : List Nat) : Nat :=
  let w := typeWidth f.rt
  if floatType f.rt then
    let v := tree (if most then Val.max else Val.min) (.inf most) l.length (l.map (typeFmt f.rt).decode)
    ((typeFmt f.rt).encode false v).1
  else
    let lo : Int := if family f.rt = .int then -(2 ^ (w - 1)) else 0
    let hi : Int := if family f.rt = .int then 2 ^ (w - 1) - 1 else 2 ^ w - 1
    wrap w (tree (if most then max else min) (if most then lo else hi) l.length (l.map (intOf f.rt)))

/-- VRED: the live elements reduced by TREE into element 0 (R132, R244). -/
def runVred (f : VecF) (_ : Slots) (s : State) : Ran :=
  let n := elemCount f
  let w := typeWidth f.rt
  s.checked (typeChecks f.rt (arithType f.rt || (packedType f.rt && 3 ≤ f.fn.toNat)) ++
      [maskCheck f.men f.mreg n]) fun s =>
    let v := s.sender.v
    let l := (liveList f v n).map (operand v f.va (groupCount f) w)
    let r : Nat × Nat × Fx := match f.fn.toNat with
      | 0 => let t := redSum f l; (32, t.1, t.2)
      | 1 => (w, redBound f false l, 0)
      | 2 => (w, redBound f true l, 0)
      | 3 => (w, l.foldl (· &&& ·) (2 ^ w - 1), 0)
      | 4 => (w, l.foldl (· ||| ·) 0, 0)
      | _ => (w, l.foldl (· ^^^ ·) 0, 0)
    .done (s.setVector (writeGroup v f.vd 1 (replaceBits (readGroup v f.vd 1) 0 r.1 r.2.1))) r.2.2

/-- An element-wise function of f32 (R245). -/
def State.unaryF32 (s : State) (f : VecF) (g : Val → Val × Fx) : Ran :=
  s.checked (typeChecks f.rt (f.rt == 0) ++ [maskCheck f.men f.mreg (elemCount f)]) fun s =>
    s.elementwise f (elemCount f) 32 fun v i =>
      let r := g (fmtF32.decode (operand v f.va (groupCount f) 32 i))
      ((fmtF32.encode false r.1).1, r.2)

/-- VEXP (R133, R245). -/
def runVexp (f : VecF) (_ : Slots) (s : State) : Ran := s.unaryF32 f fun x => (exp2f x, 0)

/-- VRCP (R134, R245). -/
def runVrcp (f : VecF) (_ : Slots) (s : State) : Ran := s.unaryF32 f rcpf

/-- VRSQ (R134, R245). -/
def runVrsq (f : VecF) (_ : Slots) (s : State) : Ran := s.unaryF32 f rsqf

/-- VPERM (R246). -/
def runVperm (f : VecF) (_ : Slots) (s : State) : Ran :=
  let n := elemCount f
  let w := typeWidth f.rt
  s.checked (typeChecks f.rt (arithType f.rt || packedType f.rt) ++
      [maskCheck f.men f.mreg n, (256 < n, 0x12)]) fun s =>
    s.elementwise f n w fun v i =>
      let x := operand v f.vb ((n + 31) / 32) 8 i
      (if x < n then operand v f.va (groupCount f) w x else 0, 0)

/-- The types that VDOT accepts (R247). -/
def dotType (t : BitVec 5) : Bool := [17, 18, 20, 25, 26, 27].contains t.toNat

/-- An output element of a VDOT (R247). -/
def vdotElem (f : VecF) (v : Vector Wide 32) (j : Nat) : Nat × Fx :=
  let w := typeWidth f.rt
  let g := groupCount f
  let q := 32 / max 1 w
  let sum := (List.range q).foldl (fun s k =>
    s + intOf f.rt (operand v f.va g w (q * j + k)) * intOf f.xt (operand v f.vb g w (q * j + k)))
    (signedOf 32 (operand v f.vc g 32 j))
  if f.fn = 1 then saturate 16 sum else (wrap 32 sum, 0)

/-- VDOT (R247). -/
def runVdot (f : VecF) (_ : Slots) (s : State) : Ran :=
  let n := 8 * groupCount f
  s.checked (typeChecks f.rt (dotType f.rt) ++
      typeChecks f.xt (dotType f.xt && typeWidth f.xt == typeWidth f.rt) ++ [maskCheck f.men f.mreg n]) fun s =>
    s.elementwise f n 32 (vdotElem f)

/-! ## Issue (R195, R196) -/

/-- VLD (R233). -/
def execVld (tagged : Bool) (f : VecF) (sl : Slots) (s : State) : Outcome :=
  .next (s.vector 0x00 tagged f (runVld f sl))

/-- VLDS (R233). -/
def execVlds (tagged : Bool) (f : VecF) (sl : Slots) (s : State) : Outcome :=
  .next (s.vector 0x01 tagged f (runVlds f sl))

/-- VGATH (R234). -/
def execVgath (tagged : Bool) (f : VecF) (sl : Slots) (s : State) : Outcome :=
  .next (s.vector 0x02 tagged f (runVgath f sl))

/-- VST (R235). -/
def execVst (tagged : Bool) (f : VecF) (sl : Slots) (s : State) : Outcome :=
  .next (s.vector 0x03 tagged f (runVst f sl))

/-- VSTS (R235). -/
def execVsts (tagged : Bool) (f : VecF) (sl : Slots) (s : State) : Outcome :=
  .next (s.vector 0x04 tagged f (runVsts f sl))

/-- VSCAT (R235). -/
def execVscat (tagged : Bool) (f : VecF) (sl : Slots) (s : State) : Outcome :=
  .next (s.vector 0x05 tagged f (runVscat f sl))

/-- VBCAST (R236). -/
def execVbcast (tagged : Bool) (f : VecF) (sl : Slots) (s : State) : Outcome :=
  .next (s.vector 0x06 tagged f (runVbcast f sl))

/-- VMOVX.bc (R237). -/
def execVmovxBc (tagged : Bool) (f : VecF) (sl : Slots) (s : State) : Outcome :=
  .next (s.vector 0x07 tagged f (runVmovxBc f sl))

/-- VMOVX.ins (R237). -/
def execVmovxIns (tagged : Bool) (f : VecF) (sl : Slots) (s : State) : Outcome :=
  .next (s.vector 0x07 tagged f (runVmovxIns f sl))

/-- VOP (R239). -/
def execVop (tagged : Bool) (f : VecF) (sl : Slots) (s : State) : Outcome :=
  .next (s.vector 0x08 tagged f (runVop f sl))

/-- VFMA (R240). -/
def execVfma (tagged : Bool) (f : VecF) (sl : Slots) (s : State) : Outcome :=
  .next (s.vector 0x09 tagged f (runVfma f sl))

/-- VCMP (R241). -/
def execVcmp (tagged : Bool) (f : VecF) (sl : Slots) (s : State) : Outcome :=
  .next (s.vector 0x0A tagged f (runVcmp f sl))

/-- VSEL (R242). -/
def execVsel (tagged : Bool) (f : VecF) (sl : Slots) (s : State) : Outcome :=
  .next (s.vector 0x0B tagged f (runVsel f sl))

/-- VCVT (R243); a block type counts as a float where an integer does not hold its value (DESIGN CHOICE, log entry 64). -/
def execVcvt (tagged : Bool) (f : VecF) (sl : Slots) (s : State) : Outcome :=
  .next (s.vector 0x0C tagged f (runVcvt f sl))

/-- VRED (R244). -/
def execVred (tagged : Bool) (f : VecF) (sl : Slots) (s : State) : Outcome :=
  .next (s.vector 0x0D tagged f (runVred f sl))

/-- VEXP (R245). -/
def execVexp (tagged : Bool) (f : VecF) (sl : Slots) (s : State) : Outcome :=
  .next (s.vector 0x0E tagged f (runVexp f sl))

/-- VRCP (R245). -/
def execVrcp (tagged : Bool) (f : VecF) (sl : Slots) (s : State) : Outcome :=
  .next (s.vector 0x0F tagged f (runVrcp f sl))

/-- VRSQ (R245). -/
def execVrsq (tagged : Bool) (f : VecF) (sl : Slots) (s : State) : Outcome :=
  .next (s.vector 0x10 tagged f (runVrsq f sl))

/-- VPERM (R246). -/
def execVperm (tagged : Bool) (f : VecF) (sl : Slots) (s : State) : Outcome :=
  .next (s.vector 0x11 tagged f (runVperm f sl))

/-- VDOT (R247). -/
def execVdot (tagged : Bool) (f : VecF) (sl : Slots) (s : State) : Outcome :=
  .next (s.vector 0x12 tagged f (runVdot f sl))

end Sys2Proof.Machine
end

