-- ==== Sys2Proof/Machine/Heads.lean ====
section
/-! DEFINITION. The heads of the queues: their checks before any engine takes them (R195, R198, R227, R253), the arbiter of the
vector unit (R229, R350, R351), the acceptance of the press and of the copy engine (R250, R352), and the arrival of remote
commands (R220, R221). -/

namespace Sys2Proof.Machine

/-! ## Checks at the head -/

/-- What the vector unit, the press or the copy engine does with a command; none for a command of another engine. -/
def headRun : Instr → Option (State → Ran)
  | .vld _ f sl => some (runVld f sl)
  | .vlds _ f sl => some (runVlds f sl)
  | .vgath _ f sl => some (runVgath f sl)
  | .vst _ f sl => some (runVst f sl)
  | .vsts _ f sl => some (runVsts f sl)
  | .vscat _ f sl => some (runVscat f sl)
  | .vbcast _ f sl => some (runVbcast f sl)
  | .vmovxBc _ f sl => some (runVmovxBc f sl)
  | .vmovxIns _ f sl => some (runVmovxIns f sl)
  | .vop _ f sl => some (runVop f sl)
  | .vfma _ f sl => some (runVfma f sl)
  | .vcmp _ f sl => some (runVcmp f sl)
  | .vsel _ f sl => some (runVsel f sl)
  | .vcvt _ f sl => some (runVcvt f sl)
  | .vred _ f sl => some (runVred f sl)
  | .vexp _ f sl => some (runVexp f sl)
  | .vrcp _ f sl => some (runVrcp f sl)
  | .vrsq _ f sl => some (runVrsq f sl)
  | .vperm _ f sl => some (runVperm f sl)
  | .vdot _ f sl => some (runVdot f sl)
  | .mclaim _ f sl => some (runMclaim f sl)
  | .mfree _ f sl => some (runMfree f sl)
  | .mload _ f sl => some (runMload f sl)
  | .mloadAcc _ f sl => some (runMloadAcc f sl)
  | .mzero _ f sl => some (runMzero f sl)
  | .mma _ f sl => some (runMma f sl)
  | .mmaSp _ f sl => some (runMmaSp f sl)
  | .msoft _ f sl => some (runMsoft f sl)
  | .mmerge _ f sl => some (runMmerge f sl)
  | .mnorm _ f sl => some (runMnorm f sl)
  | .mdrain _ f sl => some (runMdrain f sl)
  | .mstat _ f sl => some (runMstat f sl)
  | .cpy _ f sl => some (runCpy f sl)
  | .cpyRb _ f sl => some (runCpyRb f sl)
  | .cfill _ f sl => some (runCfill f sl)
  | .cfillRb _ f sl => some (runCfillRb f sl)
  | .subCommand _ comb f sl => some (runSub comb f sl)
  | .unsub _ f sl => some (runUnsub f sl)
  | .retn _ f sl => some (runRetn f sl)
  | _ => none

/-- The cause with which a command in a context fails its checks, if it does. -/
def State.checkCause (s : State) (ctx : Ctx) (e : QEntry) : Option Nat :=
  (e.decode.bind headRun).bind fun run =>
    match run { s with ctx := ctx } with
    | .fault c _ => if foundByCheck e.word c then some c else none
    | _ => none

/-- FIELDS of a vector command word. -/
def vecFieldsOf (w : BitVec 256) : VecF := VecF.split (w.extractLsb' 192 48)

/-- The units that a command reads and those that it writes (R196). -/
def headUnits (w : BitVec 256) : List Nat × List Nat :=
  match engOf w with
  | 2 => (vecReads (opOf w) (vecFieldsOf w), vecWrites (opOf w) (vecFieldsOf w))
  | 3 =>
    let f := PressF.split (w.extractLsb' 192 48)
    (pressReads (opOf w) f, pressWrites (opOf w) f (w.extractLsb' 128 64))
  | _ => ([], [])

/-- Whether the interlock of a head is clear, and it waits behind no earlier command of its strand (R196, R197, R221, R337). -/
def Quad.clear (q : Quad) (e : QEntry) (remote : Bool) : Bool :=
  let u := headUnits e.word
  !q.hazard e.sfp u.1 u.2 && !q.waitsBehind e.sfp (engOf e.word) remote

/-- The heads that a quad's sources offer to an engine, with their contexts: the sources 0–3 are its cores, 4 is its remote
commands (R352). -/
def State.engineHeads (s : State) (q eng : Nat) : List (Nat × QEntry × Ctx) :=
  ((List.range 4).filterMap fun i =>
    let c := coreOfQuad q i
    match (s.core c).head with
    | some e => if engOf e.word = eng ∧ s.qerrOf e.sfp = 0 then some (i, e, s.headCtx c e) else none
    | none => none) ++
    (match (s.quad q).remote with
      | r :: _ => if engOf r.word = eng then [(4, remoteEntry r, remoteContext r q true)] else []
      | [] => [])

/-- The activity that issues the head of a source. -/
def issueFrom (q i : Nat) : Activity := if i = 4 then .issueRemote q else .issue (coreOfQuad q i)

/-- Whether a head that an engine of a quad has taken has not left its queue. -/
def State.taking (s : State) (q eng : Nat) : Bool :=
  (s.engineHeads q eng).any fun x => s.agenda.contains (issueFrom q x.1)

/-- The heads of an engine that are ready, and the state in which those that fail their checks are on their way to fault, with no
turn of the engine (R195, R198). A remote press command, which was checked on its arrival, is checked here again but for its units
(DESIGN CHOICE, log entry 83). -/
def State.screened (s : State) (q eng : Nat) : List (Nat × QEntry) × State :=
  let l := (s.engineHeads q eng).filter fun x => x.2.1.decode.isSome && (s.quad q).clear x.2.1 x.2.2.remote
  let bad := l.filter fun x => (s.checkCause x.2.2 x.2.1).isSome
  (((l.filter fun x => (s.checkCause x.2.2 x.2.1).isNone).map fun x => (x.1, x.2.1)),
    bad.foldl (fun s x => s.push (issueFrom q x.1)) s)

/-- The head of a core's queue offered to its engine: discarded while QERR ≠ 0, a fault when it is undefined, a track or
queue-control command issued, any other left to the arbiter of its engine (R194, R195, R198). -/
def State.offer (s : State) (core : Nat) : State :=
  match (s.core core).head with
  | none => s
  | some e =>
    if s.stopped (quadOf core) || s.agenda.contains (.issue core) then s
    else
      let s := { s with ctx := s.headCtx core e }
      if (s.qerrOf e.sfp).toNat ≠ 0 then (s.modCore core (·.discard e.sfp)).pushOffer core
      else if e.decode.isNone then s.engineFault 0x01 (engOf e.word) (opOf e.word)
      else
        match engOf e.word with
        | 2 => s.post (.vectorArbiterCycle (quadOf core))
        | 3 => s.post (.pressAccept (quadOf core))
        | 4 => s.post (.copyEngineAccept (quadOf core))
        | _ => s.push (.issue core)

/-! ## The arbiter of the vector unit (R350, R351) -/

/-- The share of a strand (R190, R350). -/
def State.shareOf (s : State) (sfp : Word) : Nat :=
  match s.residentOf sfp with
  | some p => (s.strand p).share.toNat
  | none => 1

/-- Lane groups and the cycles they are held (R229, R351). -/
def laneCost (w : BitVec 256) : Nat × Nat :=
  (groupCount (vecFieldsOf w), if 0x0E ≤ opOf w ∧ opOf w ≤ 0x10 then 4 else 1)

/-- A deficit charged. -/
def charge (d : Vector Int 4) (i : Nat) (cost : Nat) : Vector Int 4 := d.setIfInBounds i (d.toList.getD i 0 - cost)

/-- One pass of the binding loop: the cores in order from the first, the free lane groups, the deficits, and the cores
bound (R350). -/
def bindLoop (first : Nat) : List (Nat × QEntry) → (free : Nat) → (d : Vector Int 4) → List Nat →
    List Nat × Vector Int 4
  | [], _, d, bound => (bound, d)
  | (i, e) :: r, free, d, bound =>
    let g := (laneCost e.word).1
    if 0 < d.toList.getD i 0 ∧ g ≤ free then
      bindLoop first r (free - g) (charge d i (g * (laneCost e.word).2)) (bound ++ [i])
    else if i = first then (bound, d)
    else bindLoop first r free d bound

/-- What a cycle of the arbiter binds: the cores whose heads issue, the deficits, the pointer, and the core of whose head the first
half is bound. -/
structure Binding where
  bound : List Nat
  deficit : Vector Int 4
  pointer : Fin 4
  half : Option (Fin 4)
  deriving DecidableEq, Repr

/-- The ready heads of a quad in ring order from a core. -/
def ringFrom (e : List (Nat × QEntry)) (p : Nat) : List (Nat × QEntry) :=
  (List.range 4).filterMap fun k => e.find? fun x => x.1 == (p + k) % 4

/-- A cycle of weighted deficit round-robin over ready heads with `pool` lane groups; at half width a head of eight groups is bound
as its two halves in consecutive bindings, the second whatever the deficit is (R230, R350, R351; DESIGN CHOICE, log entry 67). -/
def bindCycle (e : List (Nat × QEntry)) (pool : Nat) (d : Vector Int 4) (ptr : Fin 4) (half : Option (Fin 4)) : Binding :=
  match half.bind fun c => (e.find? fun x => x.1 == c.val).map fun x => (c, x.2) with
  | some (c, h) =>
    let r := bindLoop 4 ((ringFrom e (c.val + 1)).filter fun x => x.1 != c.val) (pool - 4)
      (charge d c.val (4 * (laneCost h.word).2)) [c.val]
    ⟨r.1, r.2, c + 1, none⟩
  | none =>
    let order := ringFrom e ptr.val
    match order.find? fun x => 0 < d.toList.getD x.1 0 with
    | none => ⟨[], d, ptr, none⟩
    | some (i, h) =>
      if pool < (laneCost h.word).1 then
        ⟨[], charge d i (4 * (laneCost h.word).2), ptr, some (Fin.ofNat 4 i)⟩
      else
        let r := bindLoop i (order.dropWhile fun x => x.1 != i) pool d []
        ⟨r.1, r.2, if r.1.contains i then Fin.ofNat 4 (i + 1) else ptr, none⟩

/-- The deficits refilled when none of the ready cores has any left (R350). -/
def State.refillDeficits (s : State) (e : List (Nat × QEntry)) (d : Vector Int 4) : Vector Int 4 :=
  if e.all fun x => d.toList.getD x.1 0 ≤ 0 then
    e.foldl (fun d x => d.setIfInBounds x.1 (d.toList.getD x.1 0 + 8 * s.shareOf x.2.sfp)) d
  else d

/-- VECTOR_ARBITER_CYCLE: the ready heads share the lane groups; a head that was bound leaves its queue before the next cycle
(R229, R350, R351). -/
def execVectorArbiterCycle (quad : Nat) (s : State) : Outcome :=
  .next (if s.stopped quad then s
    else if s.taking quad 2 then s.post (.vectorArbiterCycle quad)
    else
      let r := (quadCores quad).foldl State.idleDeficit s |>.screened quad 2
      let s := r.2
      match r.1 with
      | [] => s.modQuad quad fun q => { q with half := none }
      | e =>
        let q := s.quad quad
        let b := bindCycle e (if q.halfw then 4 else 8) (s.refillDeficits e q.deficit) q.arbPtr q.half
        let s := s.modQuad quad fun q => { q with deficit := b.deficit, arbPtr := b.pointer, half := b.half }
        let s := b.bound.foldl (fun s i => s.push (.issue (coreOfQuad quad i))) s
        if b.bound.length < e.length then s.post (.vectorArbiterCycle quad) else s)

/-! ## Acceptance (R250, R352) -/

/-- Whether a pipe of an engine has room: fewer than 4 accepted commands that have not completed (R352). -/
def Quad.room (q : Quad) (eng pipe : Nat) : Bool := (q.out.filter fun i => i.eng == eng && i.pipe == pipe).length < 4

/-- Whether an engine accepts a source's head: its pipe has room (R352). A hazard delays the start of a press command, not its
acceptance (R250). -/
def State.accepts (s : State) (q eng : Nat) (x : Nat × QEntry) : Bool :=
  (s.quad q).room eng (if eng = 3 then pressPipe (opOf x.2.word) else 0)

/-- One acceptance of an engine: the first source at or after its pointer whose head it accepts is issued, and it looks again while
others offer; a head that was accepted leaves its queue before the next one is (R352). -/
def State.acceptOne (s : State) (q eng : Nat) (again : Instr) : State :=
  if s.stopped q then s
  else if s.taking q eng then s.post again
  else
    let r := s.screened q eng
    let ready := r.1.filter (s.accepts q eng)
    let ptr := if eng = 3 then (s.quad q).pressPtr.val else (s.quad q).copyPtr.val
    match (List.range 5).findSome? fun k => ready.find? fun x => x.1 == (ptr + k) % 5 with
    | none => r.2
    | some x =>
      let s := r.2.push (issueFrom q x.1)
      if 1 < ready.length then s.post again else s

/-- PRESS_ACCEPT (R250, R352). -/
def execPressAccept (quad : Nat) (s : State) : Outcome := .next (s.acceptOne quad 3 (.pressAccept quad))

/-- COPY_ENGINE_ACCEPT (R352). -/
def execCopyEngineAccept (quad : Nat) (s : State) : Outcome := .next (s.acceptOne quad 4 (.copyEngineAccept quad))

/-! ## Remote commands (R220, R221) -/

/-- The cause with which a target refuses a remote command on its arrival: a capability that is not its own, no remote form, an
undefined command, or a press command that fails its checks (R220, R221, R253). -/
def State.arrivalCause (s : State) (q : Nat) (r : Remote) : Option Nat :=
  let e := remoteEntry r
  if r.word.extractLsb' 128 64 ≠ s.part.capability (q / 512) (q % 512) then some 0x09
  else if !remoteForm r.word || e.decode.isNone then some 0x01
  else if engOf r.word = 3 then s.checkCause (remoteContext r q false) e
  else none

/-- A remote command arrives at its target quad: it waits behind an earlier one of its sender that was answered busy, it is
refused, it is answered busy while the entries are full or closed, or it takes an entry (R168, R220, R221, R324). `k` counts
the retries. -/
def State.arriveRemote (s : State) (q : Nat) (r : Remote) (k : Nat) (first : Bool) : State :=
  match s.senderWaits q r first with
  | some d => { s with timers := insertTimer s.timers d (.remoteBusyRetry q r k) }
  | none =>
    match s.arrivalCause q r with
    | some c => s.refuseRemote r c
    | none =>
      if 16 ≤ (s.quad q).remote.length || (s.quad q).noRemote then s.after (backoff k) (.remoteBusyRetry q r (k + 1))
      else ((s.wakeQuad q).modQuad q fun x => { x with remote := x.remote ++ [r] }).offerRemote q

/-- REMOTE_COMMAND: a command sent by CMDR arrives (R220, R221). -/
def execRemoteCommand (quad : Nat) (r : Remote) (s : State) : Outcome := .next (s.arriveRemote quad r 0 true)

/-- REMOTE_BUSY_RETRY: a command answered busy is sent again (R221). -/
def execRemoteBusyRetry (quad : Nat) (r : Remote) (k : Nat) (s : State) : Outcome :=
  .next (s.arriveRemote quad r k false)

end Sys2Proof.Machine
end

