-- ==== Sys2Proof/Machine/System.lean ====
section
/-! DEFINITION. The system opcode: ECALL, EBREAK, SLEEP (R188), the CSRs (R189, R190, R307, R309), and the privileged
instructions (R312–R322). -/

namespace Sys2Proof.Machine

/-- ECALL (R188). -/
def execEcall (s : State) : Outcome := .next (s.trap (if s.user then .ecallU else .ecallS) 0)

/-- EBREAK (R188). -/
def execEbreak (s : State) : Outcome := .next (s.trap .breakpoint s.pc)

/-- SLEEP: it completes when NPEND is set or its limit has passed, and is no suspension point (R188). -/
def execSleep (rs1 : Reg) (s : State) : Outcome :=
  let st := s.strand s.here
  let n := (s.reg rs1).toNat
  .next (if s.npend s.cur st then s.resume.advance
    else
      match s.stalled with
      | some d => if d ≠ 0 ∧ d ≤ s.now then s.resume.advance else s.stall .sleep st.notice d
      | none =>
        if n = 0 then s.stall .sleep st.notice 0
        else (s.stall .sleep st.notice (s.now + n)).after n (.sleepTimeout s.here (s.now + n)))

/-- SLEEP_TIMEOUT: the limit of the SLEEP in a bank has passed, and it completes (R188). -/
def execSleepTimeout (p : Place) (tag : Nat) (s : State) : Outcome :=
  .next (match (s.bank p).status with
    | .stalled .sleep _ d =>
      if (s.bank p).live && d == tag && decide (d ≤ s.now) then
        (s.setStatus p .running).modStrand p fun st => { st with pc := st.pc + 32 }
      else s
    | _ => s)

/-! ## CSRs -/

/-- How a strand may use a CSR number: not at all (an illegal instruction), not in its mode (a privilege fault), to read, or
to read and write (R189, R190, R307). -/
inductive CsrUse where
  | illegal
  | privileged
  | read
  | write
  deriving DecidableEq, Repr

/-- The use of a CSR number in a mode (R189, R190, R307). -/
def csrUse (n : Nat) (user : Bool) : CsrUse :=
  if 0x800 ≤ n ∧ n ≤ 0x803 then .write
  else if 0xC00 ≤ n ∧ n ≤ 0xC0C then
    (if !user && [0xC04, 0xC05, 0xC09, 0xC0A, 0xC0C].contains n then .write else .read)
  else if 0x100 ≤ n ∧ n ≤ 0x108 then (if user then .privileged else .write)
  else .illegal

/-- The value of a CSR (R190, R307, R309). -/
def State.readCsr (s : State) (n : Nat) : Word :=
  let st := s.strand s.here
  let b := s.bank s.here
  let k := s.core s.cur
  match n with
  | 0x800 => skstat st (s.npend s.cur st)
  | 0x801 => at64 st.fx 0
  | 0x802 => at64 st.hkey 0
  | 0x803 => at64 st.share 0
  | 0xC00 => BitVec.ofNat 64 (s.now - s.part.created)
  | 0xC01 => BitVec.ofNat 64 s.now
  | 0xC02 => pairForm s.cur
  | 0xC03 => at64 s.part.ident 0
  | 0xC04 => s.part.atomode
  | 0xC05 => k.bmaskNew
  | 0xC06 => k.shiftct
  | 0xC07 => k.shiftac
  | 0xC08 => st.msglat
  | 0xC09 => st.qerr
  | 0xC0A => st.qprog
  | 0xC0B => st.sfp
  | 0xC0C => st.notice
  | 0x100 => k.tvec
  | 0x101 => at64 b.tcause 0
  | 0x102 => b.tval
  | 0x103 => b.tepc
  | 0x104 => b.tscratch
  | 0x105 => st.notice
  | 0x106 => st.qerr
  | 0x107 => st.qprog
  | 0x108 => k.bmaskNew
  | _ => 0

/-- NOTICE as stored: 0 unless a layer-0 address at a multiple of 64; one outside the partition counts as none (R309; DESIGN
CHOICE, log entry 26). -/
def State.storedNotice (s : State) (v : Word) : Word :=
  match s.locate s.cur false false .store v 64 64 with
  | .ok [_] (.scratch _) => v
  | _ => 0

/-- QERR written by the handler: its commands' tags and the heads are looked at again (R198, R199, R309). -/
def State.writeQerr (s : State) (v : Word) : State :=
  let s := s.modStrand s.here fun st => { st with qerr := v &&& qerrFields }
  (s.post (.qtagAdvance s.cur)).pushOffer s.cur

/-- A CSR written field by field under the access codes of its map (R10, R189, R309): a U-mode write of SKSTAT changes FX and
DLOSS, and leaves PPRIV as it is (R190, R309; over R305's list, log entry 70); SHARE 0 is stored as 1. -/
def State.writeCsr (s : State) (n : Nat) (v : Word) : State :=
  match n with
  | 0x800 =>
    let user := s.user
    s.modStrand s.here fun st =>
      { st with fx := v.extractLsb' 0 5, dloss := v.getLsbD 8, ppriv := if user then st.ppriv else v.getLsbD 14 }
  | 0x801 => s.modStrand s.here fun st => { st with fx := v.extractLsb' 0 5 }
  | 0x802 => s.modStrand s.here fun st => { st with hkey := v.extractLsb' 0 15 }
  | 0x803 =>
    let n : BitVec 4 := v.extractLsb' 0 4
    s.modStrand s.here fun st => { st with share := if n = 0 then 1 else n }
  | 0xC04 => s.post (.atomodeWrite v)
  | 0xC05 | 0x108 => s.writeBmask s.cur v
  | 0xC09 | 0x106 => s.writeQerr v
  | 0xC0A | 0x107 => s.modStrand s.here fun st => { st with qprog := v }
  | 0xC0C | 0x105 =>
    let a := s.storedNotice v
    s.modStrand s.here fun st => { st with notice := a }
  | 0x100 => s.modCore s.cur fun k => { k with tvec := v >>> 5 <<< 5 }
  | 0x101 => s.modBank s.here fun b => { b with tcause := v.extractLsb' 0 8 }
  | 0x102 => s.modBank s.here fun b => { b with tval := v }
  | 0x103 => s.modBank s.here fun b => { b with tepc := v }
  | 0x104 => s.modBank s.here fun b => { b with tscratch := v }
  | _ => s

/-- The CSRs that hold FX: an instruction that reads or writes one waits until the commands that its strand pushed before have
completed (R129). -/
def holdsFlags (n : Nat) : Bool := n == 0x800 || n == 0x801

/-- A CSR instruction that its number and its mode allow: it waits for the flags of its strand's commands, then reads and
writes (R129, R189). -/
def State.csrDone (s : State) (rd : Reg) (n : Nat) (new : Option (Word → Word)) : State :=
  if holdsFlags n && s.mustDrain then s.stall .other 0 0
  else
    let s := if s.stalled.isSome then s.resume else s
    match new with
    | none => s.complete rd (s.readCsr n)
    | some f => (s.writeCsr n (f (s.readCsr n))).complete rd (s.readCsr n)

/-- A CSR instruction: the value it writes, none when it only reads (R189). -/
def State.csr (s : State) (rd : Reg) (csr : BitVec 12) (new : Option (Word → Word)) : State :=
  let n := csr.toNat
  match csrUse n s.user, new with
  | .illegal, _ => s.trap .illegal s.wordHere
  | .privileged, _ => s.trap .privilege s.wordHere
  | .read, some _ => s.trap .illegal s.wordHere
  | _, new => s.csrDone rd n new

/-- CSRRW (R189). -/
def execCsrrw (rd rs1 : Reg) (csr : BitVec 12) (s : State) : Outcome :=
  let v := s.reg rs1
  .next (s.csr rd csr (some fun _ => v))

/-- CSRRS: with rs1 = x0 it does not write (R189). -/
def execCsrrs (rd rs1 : Reg) (csr : BitVec 12) (s : State) : Outcome :=
  let v := s.reg rs1
  .next (s.csr rd csr (if rs1 = 0 then none else some fun t => t ||| v))

/-- CSRRC: with rs1 = x0 it does not write (R189). -/
def execCsrrc (rd rs1 : Reg) (csr : BitVec 12) (s : State) : Outcome :=
  let v := s.reg rs1
  .next (s.csr rd csr (if rs1 = 0 then none else some fun t => t &&& ~~~v))

/-- CSRRWI (R189). -/
def execCsrrwi (rd : Reg) (u : BitVec 5) (csr : BitVec 12) (s : State) : Outcome :=
  .next (s.csr rd csr (some fun _ => u.setWidth 64))

/-- CSRRSI: with uimm = 0 it does not write (R189). -/
def execCsrrsi (rd : Reg) (u : BitVec 5) (csr : BitVec 12) (s : State) : Outcome :=
  .next (s.csr rd csr (if u = 0 then none else some fun t => t ||| u.setWidth 64))

/-- CSRRCI: with uimm = 0 it does not write (R189). -/
def execCsrrci (rd : Reg) (u : BitVec 5) (csr : BitVec 12) (s : State) : Outcome :=
  .next (s.csr rd csr (if u = 0 then none else some fun t => t &&& ~~~(u.setWidth 64)))

/-! ## Privileged instructions -/

/-- A privileged instruction raises a privilege fault in U mode (R315). -/
def State.privileged (s : State) (f : State → State) : State := if s.user then s.trap .privilege s.wordHere else f s

/-- TRET (R312); in U mode a privilege fault, outside a handler an illegal instruction. -/
def execTret (s : State) : Outcome :=
  .next (s.privileged fun s =>
    if (s.strand s.here).trap then s.trapReturn else s.trap .illegal s.wordHere)

/-- The core that an operand names in bits 19:0, none outside the partition (R315). -/
def State.operandCore (s : State) (v : Word) : Option Nat :=
  let x := (v.extractLsb' 0 10).toNat
  let y := (v.extractLsb' 10 10).toNat
  if s.part.inside x y then some (coreId x y) else none

/-- L2PSET: it moves a logical quad to a spare and completes when the swap is performed. While another move of the cluster is
under way it waits its turn, the stall holding 0; then the stall holds its result plus 1 (R316, R389). -/
def execL2pset (rd rs1 : Reg) (s : State) : Outcome :=
  let v := s.reg rs1
  .next (s.privileged fun s =>
    match s.operandCore v with
    | none => s.trap .bounds v
    | some c =>
      if v >>> 25 ≠ 0 then s.trap .bounds v
      else
        let q := quadOf c
        let cl := clusterOfQuad q
        let pq := (v.extractLsb' 20 5).toNat
        let old := (s.l2pOf q).pq.toNat
        match s.stalled with
        | some (n + 1) =>
          if n + 1 ≠ refusedMove ∧ (s.quad q).move.isSome then s.stall .other v (n + 1)
          else s.resume.complete rd (BitVec.ofNat 64 n)
        | some 0 => (s.stall .other v 0).nextMove cl
        | none =>
          if s.clusterMoves cl then
            (s.modCluster cl fun k =>
              { k with moves := k.moves ++ [⟨q, some pq, some (s.here, (s.strand s.here).sfp)⟩] }).stall .other v 0
          else if s.freeSpare cl pq then (s.beginMove q pq true).stall .other v (old + 1)
          else s.complete rd (BitVec.allOnes 64))

/-- TLBINV.PAGE: the entries that cover the page of a space-001 address are dropped everywhere (R317). -/
def execTlbinvPage (rs1 : Reg) (s : State) : Outcome :=
  let a := s.reg rs1
  .next (s.privileged fun s =>
    if space a ≠ 1 then s.trap .space a
    else
      let va := (a.extractLsb' 0 51).toNat
      let keep (t : List TlbEntry) := t.filter fun e => va / 2 ^ e.bits != e.va / 2 ^ e.bits
      ({ s with
          cores := s.cores.map fun (e : Nat × Core) => (e.1, { e.2 with itlb := keep e.2.itlb, dtlb := keep e.2.dtlb })
          clusters := s.clusters.map fun (e : Nat × Cluster) => (e.1, { e.2 with tlb := keep e.2.tlb }) }).advance)

/-- TLBINV.ALL (R317). -/
def execTlbinvAll (s : State) : Outcome :=
  .next (s.privileged fun s =>
    ({ s with
        cores := s.cores.map fun (e : Nat × Core) => (e.1, { e.2 with itlb := [], dtlb := [] })
        clusters := s.clusters.map fun (e : Nat × Cluster) => (e.1, { e.2 with tlb := [] }) }).advance)

/-- CAPMINT (R318). -/
def execCapmint (rd rs1 : Reg) (s : State) : Outcome :=
  let v := s.reg rs1
  .next (s.privileged fun s =>
    if v &&& 0xFFFF0000FFFFFFFF ≠ 0 ∨ !s.part.capInside v then s.trap .bounds v
    else s.complete rd (s.part.capability (v.extractLsb' 40 8).toNat (v.extractLsb' 32 8).toNat))

/-- The core and the banks of a selector, none where R315 refuses it. -/
def State.selector (s : State) (v : Word) : Option (Nat × List (Fin 4)) :=
  match s.operandCore v with
  | none => none
  | some c =>
    if v >>> 23 ≠ 0 then none
    else if v.getLsbD 22 then (if v.extractLsb' 20 2 = 0 then some (c, List.finRange 4) else none)
    else some (c, [(v.extractLsb' 20 2).toFin])

/-- A strand marked, and its window started; a strand at a suspension point is written back at once, and a halted one forced
(R313, R319). -/
def State.mark (s : State) (p : Place) : State :=
  let b := s.bank p
  let win := s.part.prewin.toNat
  let s := if b.mark.isSome then s
    else
      let s := s.modBank p fun b => { b with mark := some (s.now + win) }
      if win = 0 then s.post (.preemptForcedSave p) else s.after win (.preemptForcedSave p)
  if b.status = .halted then s.post (.preemptForcedSave p)
  else if b.status.suspended && !b.strand.trap then s.post (.recordWriteback p) else s

/-- PREEMPT: it marks the selected strands but the issuer's and waits until they have left; the stall remembers which banks
it marked (R319). -/
def execPreempt (rd rs1 : Reg) (s : State) : Outcome :=
  let v := s.reg rs1
  .next (s.privileged fun s =>
    match s.selector v with
    | none => s.trap .bounds v
    | some (c, bs) =>
      let s' := match s.stalled with
        | some _ => s
        | none => bs.foldl (fun s b =>
            if (s.bank ⟨c, b⟩).live && (⟨c, b⟩ : Place) != s.here then s.mark ⟨c, b⟩ else s) s
      let mask := match s.stalled with
        | some m => m
        | none => ((List.finRange 4).map fun b =>
            if bs.contains b && (s.bank ⟨c, b⟩).live && (⟨c, b⟩ : Place) != s.here then 2 ^ b.val else 0).sum
      let chosen := (List.finRange 4).filter fun b => mask / 2 ^ b.val % 2 == 1
      if chosen.any fun b => (s'.bank ⟨c, b⟩).live && (s'.bank ⟨c, b⟩).mark.isSome then s'.stall .other v mask
      else
        s'.resume.complete rd (BitVec.ofNat 64
          ((chosen.map fun b => (s'.bank ⟨c, b⟩).outcome.toNat * 4 ^ b.val).sum)))

/-- QDRAIN: it waits until no command of the selected strands is left in the queue; their drain begins once, and commands that are
pushed later are waited for too (R322). -/
def execQdrain (rs1 : Reg) (s : State) : Outcome :=
  let v := s.reg rs1
  .next (s.privileged fun s =>
    match s.selector v with
    | none => s.trap .bounds v
    | some (c, bs) =>
      let live := bs.filter fun b => (s.bank ⟨c, b⟩).live
      let left := live.filter fun b => s.busy c (s.strand ⟨c, b⟩).sfp
      if left.isEmpty then
        (live.foldl (fun s b => s.closeDrain c ((s.strand ⟨c, b⟩).sfp, false)) s).resume.advance
      else
        (if s.stalled.isSome then s
          else left.foldl (fun s b => s.beginDrain c (s.strand ⟨c, b⟩).sfp false) s).stall .other v 0)

end Sys2Proof.Machine
end

