-- ==== Sys2Proof/Machine/Dispatch.lean ====
section
/-! DEFINITION. The dispatch: one arm per instruction. -/

namespace Sys2Proof.Machine

/-- What an instruction does to a state. -/
def exec (i : Instr) (s : State) : Host.Outcome State Fault Refusal :=
  match i with
  | .addi rd rs1 imm => Sys2Proof.Machine.execAddi rd rs1 imm s
  | .slti rd rs1 imm => Sys2Proof.Machine.execSlti rd rs1 imm s
  | .sltiu rd rs1 imm => Sys2Proof.Machine.execSltiu rd rs1 imm s
  | .xori rd rs1 imm => Sys2Proof.Machine.execXori rd rs1 imm s
  | .ori rd rs1 imm => Sys2Proof.Machine.execOri rd rs1 imm s
  | .andi rd rs1 imm => Sys2Proof.Machine.execAndi rd rs1 imm s
  | .slli rd rs1 sh => Sys2Proof.Machine.execSlli rd rs1 sh s
  | .srli rd rs1 sh => Sys2Proof.Machine.execSrli rd rs1 sh s
  | .srai rd rs1 sh => Sys2Proof.Machine.execSrai rd rs1 sh s
  | .add rd rs1 rs2 => Sys2Proof.Machine.execAdd rd rs1 rs2 s
  | .sub rd rs1 rs2 => Sys2Proof.Machine.execSub rd rs1 rs2 s
  | .mul rd rs1 rs2 => Sys2Proof.Machine.execMul rd rs1 rs2 s
  | .sll rd rs1 rs2 => Sys2Proof.Machine.execSll rd rs1 rs2 s
  | .mulh rd rs1 rs2 => Sys2Proof.Machine.execMulh rd rs1 rs2 s
  | .slt rd rs1 rs2 => Sys2Proof.Machine.execSlt rd rs1 rs2 s
  | .mulhsu rd rs1 rs2 => Sys2Proof.Machine.execMulhsu rd rs1 rs2 s
  | .sltu rd rs1 rs2 => Sys2Proof.Machine.execSltu rd rs1 rs2 s
  | .mulhu rd rs1 rs2 => Sys2Proof.Machine.execMulhu rd rs1 rs2 s
  | .xor rd rs1 rs2 => Sys2Proof.Machine.execXor rd rs1 rs2 s
  | .div rd rs1 rs2 => Sys2Proof.Machine.execDiv rd rs1 rs2 s
  | .srl rd rs1 rs2 => Sys2Proof.Machine.execSrl rd rs1 rs2 s
  | .sra rd rs1 rs2 => Sys2Proof.Machine.execSra rd rs1 rs2 s
  | .divu rd rs1 rs2 => Sys2Proof.Machine.execDivu rd rs1 rs2 s
  | .or rd rs1 rs2 => Sys2Proof.Machine.execOr rd rs1 rs2 s
  | .rem rd rs1 rs2 => Sys2Proof.Machine.execRem rd rs1 rs2 s
  | .and rd rs1 rs2 => Sys2Proof.Machine.execAnd rd rs1 rs2 s
  | .remu rd rs1 rs2 => Sys2Proof.Machine.execRemu rd rs1 rs2 s
  | .addw rd rs1 rs2 => Sys2Proof.Machine.execAddw rd rs1 rs2 s
  | .subw rd rs1 rs2 => Sys2Proof.Machine.execSubw rd rs1 rs2 s
  | .mulw rd rs1 rs2 => Sys2Proof.Machine.execMulw rd rs1 rs2 s
  | .sllw rd rs1 rs2 => Sys2Proof.Machine.execSllw rd rs1 rs2 s
  | .divw rd rs1 rs2 => Sys2Proof.Machine.execDivw rd rs1 rs2 s
  | .srlw rd rs1 rs2 => Sys2Proof.Machine.execSrlw rd rs1 rs2 s
  | .sraw rd rs1 rs2 => Sys2Proof.Machine.execSraw rd rs1 rs2 s
  | .divuw rd rs1 rs2 => Sys2Proof.Machine.execDivuw rd rs1 rs2 s
  | .remw rd rs1 rs2 => Sys2Proof.Machine.execRemw rd rs1 rs2 s
  | .remuw rd rs1 rs2 => Sys2Proof.Machine.execRemuw rd rs1 rs2 s
  | .addiw rd rs1 imm => Sys2Proof.Machine.execAddiw rd rs1 imm s
  | .slliw rd rs1 sh => Sys2Proof.Machine.execSlliw rd rs1 sh s
  | .srliw rd rs1 sh => Sys2Proof.Machine.execSrliw rd rs1 sh s
  | .sraiw rd rs1 sh => Sys2Proof.Machine.execSraiw rd rs1 sh s
  | .lui rd imm => Sys2Proof.Machine.execLui rd imm s
  | .auipc rd imm => Sys2Proof.Machine.execAuipc rd imm s
  | .beq rs1 rs2 imm => Sys2Proof.Machine.execBeq rs1 rs2 imm s
  | .bne rs1 rs2 imm => Sys2Proof.Machine.execBne rs1 rs2 imm s
  | .blt rs1 rs2 imm => Sys2Proof.Machine.execBlt rs1 rs2 imm s
  | .bge rs1 rs2 imm => Sys2Proof.Machine.execBge rs1 rs2 imm s
  | .bltu rs1 rs2 imm => Sys2Proof.Machine.execBltu rs1 rs2 imm s
  | .bgeu rs1 rs2 imm => Sys2Proof.Machine.execBgeu rs1 rs2 imm s
  | .jal rd imm => Sys2Proof.Machine.execJal rd imm s
  | .jalr rd rs1 imm => Sys2Proof.Machine.execJalr rd rs1 imm s
  | .ld w rd rs1 imm => Sys2Proof.Machine.execLd w rd rs1 imm s
  | .lds w rd rs1 imm => Sys2Proof.Machine.execLds w rd rs1 imm s
  | .st w rs2 rs1 imm => Sys2Proof.Machine.execSt w rs2 rs1 imm s
  | .ldx w rd rs1 rs2 => Sys2Proof.Machine.execLdx w rd rs1 rs2 s
  | .ldxs w rd rs1 rs2 => Sys2Proof.Machine.execLdxs w rd rs1 rs2 s
  | .stx w rd rs1 rs2 => Sys2Proof.Machine.execStx w rd rs1 rs2 s
  | .padd w rd rs1 rs2 => Sys2Proof.Machine.execPadd w rd rs1 rs2 s
  | .pdiff w rd rs1 rs2 => Sys2Proof.Machine.execPdiff w rd rs1 rs2 s
  | .paln w rd rs1 c => Sys2Proof.Machine.execPaln w rd rs1 c s
  | .pxy rd rs1 => Sys2Proof.Machine.execPxy rd rs1 s
  | .psetxy rd rs1 rs2 => Sys2Proof.Machine.execPsetxy rd rs1 rs2 s
  | .play rd rs1 => Sys2Proof.Machine.execPlay rd rs1 s
  | .playS rd rs1 rs2 => Sys2Proof.Machine.execPlayS rd rs1 rs2 s
  | .prelA rd rs1 => Sys2Proof.Machine.execPrelA rd rs1 s
  | .prelR rd rs1 => Sys2Proof.Machine.execPrelR rd rs1 s
  | .amoAdd o w rd rs2 rs1 => Sys2Proof.Machine.execAmoAdd o w rd rs2 rs1 s
  | .amoAnd o w rd rs2 rs1 => Sys2Proof.Machine.execAmoAnd o w rd rs2 rs1 s
  | .amoOr o w rd rs2 rs1 => Sys2Proof.Machine.execAmoOr o w rd rs2 rs1 s
  | .amoXor o w rd rs2 rs1 => Sys2Proof.Machine.execAmoXor o w rd rs2 rs1 s
  | .amoMin o w rd rs2 rs1 => Sys2Proof.Machine.execAmoMin o w rd rs2 rs1 s
  | .amoMax o w rd rs2 rs1 => Sys2Proof.Machine.execAmoMax o w rd rs2 rs1 s
  | .amoMinn o w rd rs2 rs1 => Sys2Proof.Machine.execAmoMinn o w rd rs2 rs1 s
  | .amoMaxn o w rd rs2 rs1 => Sys2Proof.Machine.execAmoMaxn o w rd rs2 rs1 s
  | .amoSwap o w rd rs2 rs1 => Sys2Proof.Machine.execAmoSwap o w rd rs2 rs1 s
  | .amoFadd o w rd rs2 rs1 => Sys2Proof.Machine.execAmoFadd o w rd rs2 rs1 s
  | .cas o w rd rs2 rs1 => Sys2Proof.Machine.execCas o w rd rs2 rs1 s
  | .take o w rd rs1 => Sys2Proof.Machine.execTake o w rd rs1 s
  | .put o w rs2 rs1 => Sys2Proof.Machine.execPut o w rs2 rs1 s
  | .festat rd rs1 => Sys2Proof.Machine.execFestat rd rs1 s
  | .await cmp aq w rd rs2 rs1 => Sys2Proof.Machine.execAwait cmp aq w rd rs2 rs1 s
  | .takeNb o w rd rt rs1 => Sys2Proof.Machine.execTakeNb o w rd rt rs1 s
  | .deferredRetry m k => Sys2Proof.Machine.execDeferredRetry m k s
  | .atomicResend m => Sys2Proof.Machine.execAtomicResend m s
  | .fenceAcq sc => Sys2Proof.Machine.execFenceAcq sc s
  | .fenceRel sc => Sys2Proof.Machine.execFenceRel sc s
  | .fenceAr sc => Sys2Proof.Machine.execFenceAr sc s
  | .fenceSc sc => Sys2Proof.Machine.execFenceSc sc s
  | .cmd p rs1 rs2 => Sys2Proof.Machine.execCmd p rs1 rs2 s
  | .cmdr p rs1 rs2 => Sys2Proof.Machine.execCmdr p rs1 rs2 s
  | .qwait rs1 => Sys2Proof.Machine.execQwait rs1 s
  | .spawn rs1 => Sys2Proof.Machine.execSpawn rs1 s
  | .spawnW rd rs1 => Sys2Proof.Machine.execSpawnW rd rs1 s
  | .spawnAt rs1 rs2 => Sys2Proof.Machine.execSpawnAt rs1 rs2 s
  | .spawnAtW rd rs1 rs2 => Sys2Proof.Machine.execSpawnAtW rd rs1 rs2 s
  | .popt rd => Sys2Proof.Machine.execPopt rd s
  | .rnext rd re => Sys2Proof.Machine.execRnext rd re s
  | .suspend => Sys2Proof.Machine.execSuspend s
  | .yield => Sys2Proof.Machine.execYield s
  | .exit => Sys2Proof.Machine.execExit s
  | .barrNone ch => Sys2Proof.Machine.execBarrNone ch s
  | .barrNamed ch => Sys2Proof.Machine.execBarrNamed ch s
  | .barrAll ch => Sys2Proof.Machine.execBarrAll ch s
  | .bwait ch => Sys2Proof.Machine.execBwait ch s
  | .barrierRelease ch => Sys2Proof.Machine.execBarrierRelease ch s
  | .sxmit route rs1 rs2 => Sys2Proof.Machine.execSxmit route rs1 rs2 s
  | .sxwait route rs1 => Sys2Proof.Machine.execSxwait route rs1 s
  | .routeSlotInject route => Sys2Proof.Machine.execRouteSlotInject route s
  | .routeLand route => Sys2Proof.Machine.execRouteLand route s
  | .tbind t rs1 => Sys2Proof.Machine.execTbind t rs1 s
  | .tfree t => Sys2Proof.Machine.execTfree t s
  | .thead rd t => Sys2Proof.Machine.execThead rd t s
  | .pgalloc rd => Sys2Proof.Machine.execPgalloc rd s
  | .poolBorrowReply p lender => Sys2Proof.Machine.execPoolBorrowReply p lender s
  | .pgfree rs1 => Sys2Proof.Machine.execPgfree rs1 s
  | .kvmap rd rs1 rs2 => Sys2Proof.Machine.execKvmap rd rs1 rs2 s
  | .kvmapW rd rs1 rs2 => Sys2Proof.Machine.execKvmapW rd rs1 rs2 s
  | .ecall => Sys2Proof.Machine.execEcall s
  | .ebreak => Sys2Proof.Machine.execEbreak s
  | .sleep rs1 => Sys2Proof.Machine.execSleep rs1 s
  | .sleepTimeout p tag => Sys2Proof.Machine.execSleepTimeout p tag s
  | .csrrw rd rs1 csr => Sys2Proof.Machine.execCsrrw rd rs1 csr s
  | .csrrs rd rs1 csr => Sys2Proof.Machine.execCsrrs rd rs1 csr s
  | .csrrc rd rs1 csr => Sys2Proof.Machine.execCsrrc rd rs1 csr s
  | .csrrwi rd u csr => Sys2Proof.Machine.execCsrrwi rd u csr s
  | .csrrsi rd u csr => Sys2Proof.Machine.execCsrrsi rd u csr s
  | .csrrci rd u csr => Sys2Proof.Machine.execCsrrci rd u csr s
  | .tret => Sys2Proof.Machine.execTret s
  | .l2pset rd rs1 => Sys2Proof.Machine.execL2pset rd rs1 s
  | .tlbinvPage rs1 => Sys2Proof.Machine.execTlbinvPage rs1 s
  | .tlbinvAll => Sys2Proof.Machine.execTlbinvAll s
  | .capmint rd rs1 => Sys2Proof.Machine.execCapmint rd rs1 s
  | .preempt rd rs1 => Sys2Proof.Machine.execPreempt rd rs1 s
  | .preemptForcedSave p => Sys2Proof.Machine.execPreemptForcedSave p s
  | .qdrain rs1 => Sys2Proof.Machine.execQdrain rs1 s
  | .qnop tagged f sl => Sys2Proof.Machine.execQnop tagged f sl s
  | .qtag tagged f sl => Sys2Proof.Machine.execQtag tagged f sl s
  | .qtagAdvance core => Sys2Proof.Machine.execQtagAdvance core s
  | .qord tagged f sl => Sys2Proof.Machine.execQord tagged f sl s
  | .rep tagged f sl => Sys2Proof.Machine.execRep tagged f sl s
  | .repInstance core => Sys2Proof.Machine.execRepInstance core s
  | .tseek tagged f sl => Sys2Proof.Machine.execTseek tagged f sl s
  | .trew tagged f sl => Sys2Proof.Machine.execTrew tagged f sl s
  | .trackShiftDone core t => Sys2Proof.Machine.execTrackShiftDone core t s
  | .trd tagged f sl => Sys2Proof.Machine.execTrd tagged f sl s
  | .twr tagged f sl => Sys2Proof.Machine.execTwr tagged f sl s
  | .tblk tagged f sl => Sys2Proof.Machine.execTblk tagged f sl s
  | .tblkw tagged f sl => Sys2Proof.Machine.execTblkw tagged f sl s
  | .trackAccess m => Sys2Proof.Machine.execTrackAccess m s
  | .vld tagged f sl => Sys2Proof.Machine.execVld tagged f sl s
  | .vlds tagged f sl => Sys2Proof.Machine.execVlds tagged f sl s
  | .vgath tagged f sl => Sys2Proof.Machine.execVgath tagged f sl s
  | .vst tagged f sl => Sys2Proof.Machine.execVst tagged f sl s
  | .vsts tagged f sl => Sys2Proof.Machine.execVsts tagged f sl s
  | .vscat tagged f sl => Sys2Proof.Machine.execVscat tagged f sl s
  | .vbcast tagged f sl => Sys2Proof.Machine.execVbcast tagged f sl s
  | .vmovxBc tagged f sl => Sys2Proof.Machine.execVmovxBc tagged f sl s
  | .vmovxIns tagged f sl => Sys2Proof.Machine.execVmovxIns tagged f sl s
  | .vop tagged f sl => Sys2Proof.Machine.execVop tagged f sl s
  | .vfma tagged f sl => Sys2Proof.Machine.execVfma tagged f sl s
  | .vcmp tagged f sl => Sys2Proof.Machine.execVcmp tagged f sl s
  | .vsel tagged f sl => Sys2Proof.Machine.execVsel tagged f sl s
  | .vcvt tagged f sl => Sys2Proof.Machine.execVcvt tagged f sl s
  | .vred tagged f sl => Sys2Proof.Machine.execVred tagged f sl s
  | .vexp tagged f sl => Sys2Proof.Machine.execVexp tagged f sl s
  | .vrcp tagged f sl => Sys2Proof.Machine.execVrcp tagged f sl s
  | .vrsq tagged f sl => Sys2Proof.Machine.execVrsq tagged f sl s
  | .vperm tagged f sl => Sys2Proof.Machine.execVperm tagged f sl s
  | .vdot tagged f sl => Sys2Proof.Machine.execVdot tagged f sl s
  | .vectorArbiterCycle quad => Sys2Proof.Machine.execVectorArbiterCycle quad s
  | .mclaim tagged f sl => Sys2Proof.Machine.execMclaim tagged f sl s
  | .mfree tagged f sl => Sys2Proof.Machine.execMfree tagged f sl s
  | .mload tagged f sl => Sys2Proof.Machine.execMload tagged f sl s
  | .mloadAcc tagged f sl => Sys2Proof.Machine.execMloadAcc tagged f sl s
  | .mzero tagged f sl => Sys2Proof.Machine.execMzero tagged f sl s
  | .mma tagged f sl => Sys2Proof.Machine.execMma tagged f sl s
  | .mmaSp tagged f sl => Sys2Proof.Machine.execMmaSp tagged f sl s
  | .msoft tagged f sl => Sys2Proof.Machine.execMsoft tagged f sl s
  | .mmerge tagged f sl => Sys2Proof.Machine.execMmerge tagged f sl s
  | .mnorm tagged f sl => Sys2Proof.Machine.execMnorm tagged f sl s
  | .mdrain tagged f sl => Sys2Proof.Machine.execMdrain tagged f sl s
  | .mstat tagged f sl => Sys2Proof.Machine.execMstat tagged f sl s
  | .pressAccept quad => Sys2Proof.Machine.execPressAccept quad s
  | .copyEngineAccept quad => Sys2Proof.Machine.execCopyEngineAccept quad s
  | .cpy tagged f sl => Sys2Proof.Machine.execCpy tagged f sl s
  | .cpyRb tagged f sl => Sys2Proof.Machine.execCpyRb tagged f sl s
  | .cfill tagged f sl => Sys2Proof.Machine.execCfill tagged f sl s
  | .cfillRb tagged f sl => Sys2Proof.Machine.execCfillRb tagged f sl s
  | .copyCompletionWord quad id => Sys2Proof.Machine.execCopyCompletionWord quad id s
  | .subCommand tagged comb f sl => Sys2Proof.Machine.execSubCommand tagged comb f sl s
  | .subCombine cluster members => Sys2Proof.Machine.execSubCombine cluster members s
  | .unsub tagged f sl => Sys2Proof.Machine.execUnsub tagged f sl s
  | .retn tagged f sl => Sys2Proof.Machine.execRetn tagged f sl s
  | .loaderTileStart quad id => Sys2Proof.Machine.execLoaderTileStart quad id s
  | .loaderTileComplete quad id => Sys2Proof.Machine.execLoaderTileComplete quad id s
  | .storerSlotRead quad id slot => Sys2Proof.Machine.execStorerSlotRead quad id slot s
  | .retnStoreComplete quad id slot => Sys2Proof.Machine.execRetnStoreComplete quad id slot s
  | .remoteCommand quad r => Sys2Proof.Machine.execRemoteCommand quad r s
  | .remoteBusyRetry quad r k => Sys2Proof.Machine.execRemoteBusyRetry quad r k s
  | .memRequest m => Sys2Proof.Machine.execMemRequest m s
  | .memReply m ans => Sys2Proof.Machine.execMemReply m ans s
  | .issueGuardExpiry core => Sys2Proof.Machine.execIssueGuardExpiry core s
  | .bankFill core => Sys2Proof.Machine.execBankFill core s
  | .recordLoadDone p => Sys2Proof.Machine.execRecordLoadDone p s
  | .recordWriteback p => Sys2Proof.Machine.execRecordWriteback p s
  | .waitWritebackTimeout p => Sys2Proof.Machine.execWaitWritebackTimeout p s
  | .stealRequest thief => Sys2Proof.Machine.execStealRequest thief s
  | .stealAnswer thief victim => Sys2Proof.Machine.execStealAnswer thief victim s
  | .splitJoinReply thief victim record => Sys2Proof.Machine.execSplitJoinReply thief victim record s
  | .stealReply thief work => Sys2Proof.Machine.execStealReply thief work s
  | .stealRoundTimer core => Sys2Proof.Machine.execStealRoundTimer core s
  | .hangTrap => Sys2Proof.Machine.execHangTrap s
  | .translationWalk core va acc user => Sys2Proof.Machine.execTranslationWalk core va acc user s
  | .faultPostRetry p => Sys2Proof.Machine.execFaultPostRetry p s
  | .faultSlotOutcome cluster slot => Sys2Proof.Machine.execFaultSlotOutcome cluster slot s
  | .pageWaitWriteback p => Sys2Proof.Machine.execPageWaitWriteback p s
  | .fpheadWrite core addr v => Sys2Proof.Machine.execFpheadWrite core addr v s
  | .pgasnWrite core hi addr v => Sys2Proof.Machine.execPgasnWrite core hi addr v s
  | .toccWrite core hi v => Sys2Proof.Machine.execToccWrite core hi v s
  | .fqbaseWrite cluster v => Sys2Proof.Machine.execFqbaseWrite cluster v s
  | .lwcfgWrite v => Sys2Proof.Machine.execLwcfgWrite v s
  | .msixtrigWrite v => Sys2Proof.Machine.execMsixtrigWrite v s
  | .opreqWrite core v => Sys2Proof.Machine.execOpreqWrite core v s
  | .atomodeWrite v => Sys2Proof.Machine.execAtomodeWrite v s
  | .atomodeSwitch => Sys2Proof.Machine.execAtomodeSwitch s
  | .registerWrite core block off v => Sys2Proof.Machine.execRegisterWrite core block off v s
  | .peerFaultReturn p sfp => Sys2Proof.Machine.execPeerFaultReturn p sfp s
  | .l2pSwapComplete quad pq => Sys2Proof.Machine.execL2pSwapComplete quad pq s
  | .failsafeBudget region => Sys2Proof.Machine.execFailsafeBudget region s
  | .startAdmission region => Sys2Proof.Machine.execStartAdmission region s
  | .oppVoltageSettled quad => Sys2Proof.Machine.execOppVoltageSettled quad s
  | .droopCheck region below => Sys2Proof.Machine.execDroopCheck region below s
  | .migrationBoundary quad => Sys2Proof.Machine.execMigrationBoundary quad s
  | .migrationForce quad => Sys2Proof.Machine.execMigrationForce quad s
  | .migrationTransferDone quad => Sys2Proof.Machine.execMigrationTransferDone quad s
  | .migrationResume quad => Sys2Proof.Machine.execMigrationResume quad s
  | .gateCommit quad => Sys2Proof.Machine.execGateCommit quad s
  | .quadWake quad => Sys2Proof.Machine.execQuadWake quad s
  | .fatalError cause ofModule => Sys2Proof.Machine.execFatalError cause ofModule s
  | .illegalInstruction word => Sys2Proof.Machine.execIllegalInstruction word s
  | .fetchFault addr why => Sys2Proof.Machine.execFetchFault addr why s
  | .commandCompletion core id => Sys2Proof.Machine.execCommandCompletion core id s
  | .replayFilterAck quad src tag => Sys2Proof.Machine.execReplayFilterAck quad src tag s
  | .coldBoot b => Sys2Proof.Machine.execColdBoot b s
  | .gateRequest quad => Sys2Proof.Machine.execGateRequest quad s
  | .hostPutAliasWrite n v => Sys2Proof.Machine.execHostPutAliasWrite n v s
  | .hostBar2Access write byte len v => Sys2Proof.Machine.execHostBar2Access write byte len v s
  | .hostAtomic op byte width v => Sys2Proof.Machine.execHostAtomic op byte width v s
  | .peerRequest op addr width v => Sys2Proof.Machine.execPeerRequest op addr width v s
  | .peerBindingRemove num => Sys2Proof.Machine.execPeerBindingRemove num s
  | .linkBeatRetry link fails => Sys2Proof.Machine.execLinkBeatRetry link fails s
  | .packageGrant watts => Sys2Proof.Machine.execPackageGrant watts s
  | .sensorSample quad diode ring => Sys2Proof.Machine.execSensorSample quad diode ring s
  | .analogueTrip region => Sys2Proof.Machine.execAnalogueTrip region s
  | .droopAlarm region => Sys2Proof.Machine.execDroopAlarm region s
  | .patrolScrub group => Sys2Proof.Machine.execPatrolScrub group s
  | .ageingReplan quad present => Sys2Proof.Machine.execAgeingReplan quad present s
  | .imageLoad img => Sys2Proof.Machine.execImageLoad img s
  | .partitionCreate p => Sys2Proof.Machine.execPartitionCreate p s
  | .partitionStart => Sys2Proof.Machine.execPartitionStart s
  | .partitionTeardown => Sys2Proof.Machine.execPartitionTeardown s
  | .attestationReport nonce => Sys2Proof.Machine.execAttestationReport nonce s
  | .peerBindingSetup p own => Sys2Proof.Machine.execPeerBindingSetup p own s
  | .zholosWatchdog => Sys2Proof.Machine.execZholosWatchdog s
  | .colophonRead slot => Sys2Proof.Machine.execColophonRead slot s
  | .hostCxlMemAccess write byte len v => Sys2Proof.Machine.execHostCxlMemAccess write byte len v s
  | .hostCxlSnoop line => Sys2Proof.Machine.execHostCxlSnoop line s
  | .cxlCacheEnable on => Sys2Proof.Machine.execCxlCacheEnable on s
  | .msixVectorUnmask vec => Sys2Proof.Machine.execMsixVectorUnmask vec s
  | .ownerKeyDelivery owner shared => Sys2Proof.Machine.execOwnerKeyDelivery owner shared s
  | .l2pSwapBegin quad => Sys2Proof.Machine.execL2pSwapBegin quad s

end Sys2Proof.Machine
end

