-- ==== Sys2Proof/Machine/RunAhead.lean ====
section
/-! DEFINITION. Run-ahead past an absent page (R332, R333). It works on a copy of the state, of which nothing but the batch
of pages is kept. -/

namespace Sys2Proof.Machine

/-- A run-ahead: the copy of the state in which the strand executes, the registers whose value is unknown, and the page
records of the batch (R333). -/
structure Ahead where
  s : State
  unknown : List Reg
  pages : List Word

/-- The result register and the operands of an instruction that run-ahead computes: the integer, pointer and AUIPC
instructions (R333). -/
def computedForm : Instr → Option (Reg × List Reg)
  | .addi rd a _ | .slti rd a _ | .sltiu rd a _ | .xori rd a _ | .ori rd a _ | .andi rd a _ | .addiw rd a _
  | .slli rd a _ | .srli rd a _ | .srai rd a _ | .slliw rd a _ | .srliw rd a _ | .sraiw rd a _
  | .paln _ rd a _ | .pxy rd a | .play rd a | .prelA rd a | .prelR rd a => some (rd, [a])
  | .add rd a b | .sub rd a b | .mul rd a b | .sll rd a b | .mulh rd a b | .slt rd a b | .mulhsu rd a b
  | .sltu rd a b | .mulhu rd a b | .xor rd a b | .div rd a b | .srl rd a b | .sra rd a b | .divu rd a b
  | .or rd a b | .rem rd a b | .and rd a b | .remu rd a b | .addw rd a b | .subw rd a b | .mulw rd a b
  | .sllw rd a b | .divw rd a b | .srlw rd a b | .sraw rd a b | .divuw rd a b | .remw rd a b | .remuw rd a b
  | .padd _ rd a b | .pdiff _ rd a b | .psetxy rd a b | .playS rd a b => some (rd, [a, b])
  | .lui rd _ | .auipc rd _ => some (rd, [])
  | _ => none

/-- The operands of a branch or jump (R333). -/
def followedForm : Instr → Option (Reg × List Reg)
  | .beq a b _ | .bne a b _ | .blt a b _ | .bge a b _ | .bltu a b _ | .bgeu a b _ => some (0, [a, b])
  | .jal rd _ => some (rd, [])
  | .jalr rd a _ => some (rd, [a])
  | _ => none

/-- Sign, width, result register and address operands of a load. -/
def loadForm : Instr → Option (Bool × Width × Reg × List Reg)
  | .ld w rd a _ => some (false, w, rd, [a])
  | .lds w rd a _ => some (true, w, rd, [a])
  | .ldx w rd a b => some (false, w, rd, [a, b])
  | .ldxs w rd a b => some (true, w, rd, [a, b])
  | _ => none

/-- Access, width, result registers and address operands of an instruction that run-ahead holds back (R333). -/
def heldForm : Instr → Option (MemOp × Width × List Reg × List Reg)
  | .st w _ a _ => some (.store, w, [], [a])
  | .stx w _ a b => some (.store, w, [], [a, b])
  | .amoAdd _ w rd _ a => some (.amoAdd, w, [rd], [a])
  | .amoAnd _ w rd _ a => some (.amoAnd, w, [rd], [a])
  | .amoOr _ w rd _ a => some (.amoOr, w, [rd], [a])
  | .amoXor _ w rd _ a => some (.amoXor, w, [rd], [a])
  | .amoMin _ w rd _ a => some (.amoMin, w, [rd], [a])
  | .amoMax _ w rd _ a => some (.amoMax, w, [rd], [a])
  | .amoMinn _ w rd _ a => some (.amoMinn, w, [rd], [a])
  | .amoMaxn _ w rd _ a => some (.amoMaxn, w, [rd], [a])
  | .amoSwap _ w rd _ a => some (.amoSwap, w, [rd], [a])
  | .amoFadd _ w rd _ a => some (.amoFadd, w, [rd], [a])
  | .cas _ w rd _ a => some (.cas, w, [rd], [a])
  | .put _ w _ a => some (.put, w, [], [a])
  | .takeNb _ w rd rt a => some (.takeNb, w, [rd, rt], [a])
  | _ => none

/-- Whether every register of a list is known. -/
def Ahead.knows (a : Ahead) (rs : List Reg) : Bool := rs.all fun r => !a.unknown.contains r

/-- A register known again. -/
def Ahead.known (a : Ahead) (rd : Reg) : Ahead := { a with unknown := a.unknown.filter (· != rd) }

/-- A register unknown; x0 always reads as zero. -/
def Ahead.lose (a : Ahead) (rd : Reg) : Ahead := if rd = 0 then a else { a with unknown := rd :: a.unknown }

/-- The instruction's registers unknown, and the PC past it. -/
def Ahead.skip (a : Ahead) (rs : List Reg) : Ahead :=
  let b := rs.foldl Ahead.lose a
  { b with s := b.s.advance }

/-- A page added to the batch unless it is there (R333). -/
def Ahead.page (a : Ahead) (va : Word) (acc : Access) : Ahead :=
  let r := pageRecord va acc a.s.user
  if a.pages.any fun p => p.extractLsb' 32 32 == r.extractLsb' 32 32 then a else { a with pages := a.pages ++ [r] }

/-- The absent pages of an access of space 001, by the first bits of its parts (R62, R63). -/
def State.absentParts (s : State) (acc : Access) (a : Word) (w : Nat) : List Word :=
  if space a = 1 then
    let off := (a.extractLsb' 0 61).toNat
    (((splitParts off w).flatMap (pageParts off)).map fun o => a + BitVec.ofNat 64 o.1).filter fun b =>
      match translatePart (s.translation s.cur acc) acc s.user b 1 with
      | .absent _ => true
      | _ => false
  else []

/-- An instruction executed in the copy; none where it raises a fault (R333). -/
def Ahead.execute (a : Ahead) (i : Instr) : Option Ahead :=
  match exec i a.s with
  | .next t => if (t.strand t.here).trap then none else some { a with s := t }
  | _ => none

/-- An instruction held back, with the absent pages of its known address; none where it raises another fault (R333). -/
def Ahead.hold (a : Ahead) (op : MemOp) (w : Width) (rds ras : List Reg) (addr : Word) : Option Ahead :=
  let acc := accessOf op
  if a.knows ras then
    match a.s.locate a.s.cur a.s.user (op == .store) acc addr (bitsOf w) (bitsOf w) with
    | .flt _ => none
    | .absent _ => some (((a.s.absentParts acc addr (bitsOf w)).foldl (fun b p => b.page p acc) a).skip rds)
    | .ok _ home =>
      if a.s.hostDenied op w addr home || (needsLayer0 op && !inLayer0 addr home) then none else some (a.skip rds)
  else some (a.skip rds)

/-- A load: read where its page is translated or it is in the own quad's scratchpad, unknown where its page is absent or
its address unknown; none where it stops run-ahead (R333). -/
def Ahead.read (a : Ahead) (signed : Bool) (w : Width) (rd : Reg) (ras : List Reg) (addr : Word) : Option Ahead :=
  let n := bitsOf w
  if a.knows ras then
    match a.s.locate a.s.cur a.s.user false .load addr n n with
    | .flt _ => none
    | .absent _ => some (((a.s.absentParts .load addr n).foldl (fun b p => b.page p .load) a).skip [rd])
    | .ok ps home =>
      if space addr = 1 ∨ home = .scratch (quadOf a.s.cur) then
        let v := a.s.partsAt ps
        let b := a.known rd
        some { b with s := b.s.complete rd (if signed then sext64 n v else BitVec.ofNat 64 v) }
      else none
  else some (a.skip [rd])

/-- CMD and CMDR: held back; the absent pages of the inline words are added; with QERR ≠ 0 they would fault, which stops the
run-ahead (R171, R172, R333). -/
def Ahead.command (a : Ahead) : Option Ahead :=
  let words := (List.range 8).map fun i => a.s.pc + BitVec.ofNat 64 (32 + 32 * i)
  if (a.s.strand a.s.here).qerr ≠ 0 then none
  else
    words.foldl (fun o p => o.bind fun (b : Ahead) =>
        match b.s.fetch b.s.cur b.s.user p with
        | .ok _ => some b
        | .error .absent => some (b.page p .fetch)
        | .error _ => none) (some a)
    |>.map fun b => { b with s := b.s.setPc (b.s.pc + 288) }

/-- One instruction of the run-ahead; none where it stops (R333). -/
def Ahead.one (a : Ahead) (i : Instr) : Option Ahead :=
  match computedForm i, followedForm i, loadForm i, heldForm i, i with
  | some (rd, rs), _, _, _, _ => if a.knows rs then (a.known rd).execute i else some (a.skip [rd])
  | _, some (rd, rs), _, _, _ => if a.knows rs then (a.known rd).execute i else none
  | _, _, some (sg, w, rd, rs), _, _ => a.read sg w rd rs (addressIn a.s.cur a.s.part (a.s.strand a.s.here) i)
  | _, _, _, some (op, w, rds, rs), _ => a.hold op w rds rs (addressIn a.s.cur a.s.part (a.s.strand a.s.here) i)
  | _, _, _, _, .cmd _ _ _ => a.command
  | _, _, _, _, .cmdr _ _ _ => a.command
  | _, _, _, _, _ => none

/-- The pages of a run-ahead of at most `n` instructions; an absent page of the stream is added and ends it (R332). -/
def Ahead.run : Nat → Ahead → List Word
  | 0, a => a.pages
  | n + 1, a =>
    if 16 ≤ a.pages.length then a.pages
    else
      match a.s.fetch a.s.cur a.s.user a.s.pc with
      | .error .absent => (a.page a.s.pc .fetch).pages
      | .error _ => a.pages
      | .ok w =>
        match (decodeWord w).bind a.one with
        | some b => Ahead.run n b
        | none => a.pages

/-- The copy in which the strand of a bank runs ahead: its turn, no fault and no mark in the way. -/
def State.aheadCopy (s : State) (p : Place) : State :=
  ({ s with cur := p.core }.modCore p.core fun k => { k with cur := p.bank }).modBank p fun b =>
    { b with status := .running, mark := none, strand := { b.strand with trap := false } }

/-- A strand that met an absent page runs ahead, and its batch is posted, the page it met first; a fetch that met it, of an
instruction or of an inline word, posts that page alone (R332, R335). -/
def State.runAhead (s : State) (p : Place) : State :=
  let b := s.bank p
  match b.status with
  | .page va acc none =>
    if b.live then
      let first := pageRecord va acc (!b.strand.priv)
      let pages :=
        if acc = .fetch then [first] else Ahead.run 256 ⟨s.aheadCopy p, [], [first]⟩
      s.postBatch ⟨p.core, some p.bank, none, some b.strand.sfp, b.strand.pc, pages.take 16⟩
    else s
  | _ => s

end Sys2Proof.Machine
end

