-- ==== Sys2Proof/Machine/Turn.lean ====
section
/-! DEFINITION. What the next step is (log entries 4 and 5): a change of ATOMODE that is due, else the head of the agenda, else a
timer that is due, else a hang trap, else one instruction of a ready strand, else time passes. And how an instruction is placed where the machine
fetches it (log entry 1). -/

namespace Sys2Proof.Machine

/-- The head of the agenda performed. -/
def State.act (s : State) : Activity → Outcome
  | .event i => exec i s
  | .offer c => .next (s.offer c)
  | .issue c =>
    match s.issueOf c with
    | some (i, t) => exec i t
    | none => .next (s.pushOffer c)
  | .issueRemote q =>
    match s.remoteIssueOf q with
    | some (i, t) => exec i t
    | none => .next (s.dropUndefinedRemote q)
  | .resume q id =>
    match if s.frozen q then none else s.resumeOf q id with
    | some (i, t) => exec i t
    | none => .next s
  | .partitionTrap kind p => .next (s.partitionTrap kind p)
  | .runAhead p => .next (s.runAhead p)
  | .upset u => .next (s.upset u)
  | .bar0 write => .next (s.bar0 write)
  | .shareReport => .next (if s.part.live then s.toZholos s.part.shareReport else s)

/-- Whether a core can issue an instruction: a bank is ready, and its quad is not stopped (R99, R381, R389, R392, R409). -/
def State.canIssue (s : State) (e : Nat × Core) : Bool :=
  s.part.live && !s.stopped (quadOf e.1) && (List.finRange 4).any fun b => (e.2.banks[b]).ready

/-- The core whose turn is next: the first after the one that issued last, in a ring over the cores (R100). -/
def State.nextCore (s : State) : Option Nat :=
  let after := s.cores.find? fun (e : Nat × Core) => decide (s.cur < e.1) && s.canIssue e
  match after with
  | some e => some e.1
  | none => (s.cores.find? fun (e : Nat × Core) => s.canIssue e).map (·.1)

/-- The bank that issues on a core: the current one, or the next ready one (R99). -/
def Core.turnBank (k : Core) : Fin 4 := if (k.banks[k.cur]).ready then k.cur else k.nextBank k.cur

/-- A strand that is in no wait of the tables issues, so that its core has left them: detection re-arms (R116). -/
def State.rearm (s : State) (c : Nat) : State :=
  let b := (s.core c).banks[(s.core c).turnBank]
  if s.part.reported.isEmpty || (waitOf b.strand b.tepc b.status).isSome then s
  else s.modPart fun p => { p with reported := [] }

/-- A core takes its turn: its bank, one cycle of its issue guard, one fabric cycle (R99, log entry 5). -/
def State.takeTurn (s : State) (c : Nat) : State :=
  { s.rearm c with cur := c, now := s.now + 1 }.modCore c fun k =>
    { k with cur := k.turnBank, guard := if k.turnBank = k.cur then k.guard + 1 else 1 }

/-- The instruction at the PC of the executing strand fetched, with the uncorrectable groups under it replaced, decoded and executed:
a failed fetch and an undefined word take their faults (R136, R139, R403). -/
def State.issueHere (s : State) : Outcome :=
  let s := if s.bad.isEmpty then s else s.meetFetch s.pc
  match s.fetch s.cur s.user s.pc with
  | .error e => exec (.fetchFault s.pc e) s
  | .ok w =>
    let t := s.noteAccess s.cur .fetch s.user s.pc
    match decodeWord w with
    | some i => exec i t
    | none => exec (.illegalInstruction w) t

/-- A core issues one instruction; after 4,096 consecutive cycles of one strand it passes to the next ready bank first
(R99). -/
def State.issueOn (s : State) (c : Nat) : Outcome :=
  if 4096 ≤ (s.core c).guard then exec (.issueGuardExpiry c) s else (s.takeTurn c).issueHere

/-- Time passes: to the next timer, or by one fabric cycle. -/
def State.idle (s : State) : State :=
  match s.timers with
  | (d, _) :: _ => { s with now := max d (s.now + 1) }
  | [] => { s with now := s.now + 1 }

/-- What happens when nothing is on the agenda and no timer is due. -/
def State.proceed (s : State) : Outcome :=
  if s.hangs.isSome then .next (s.post .hangTrap)
  else
    match s.nextCore with
    | some c => s.issueOn c
    | none => .next s.idle

/-- One step of the machine: the quiescence that a written mode waits for is met as soon as it comes (R69); while issue is
stopped for good, time passes (R408, R409). -/
def State.turn (s : State) : Outcome :=
  if s.modeDue then exec .atomodeSwitch s
  else match s.agenda with
  | a :: r => { s with agenda := r }.act a
  | [] =>
    if s.halted then .next s.idle
    else
      match s.timers with
      | (d, i) :: r => if d ≤ s.now then exec i { s with timers := r } else s.proceed
      | [] => s.proceed

/-! ## A program placed (log entry 1) -/

/-- HBM byte address of the root table of the placed program; its level-1 table follows. -/
def placedRoot : Nat := 0x1000

/-- HBM byte address of the placed instruction. -/
def placedCode : Nat := 0x10000

/-- The memory with page tables that map the first GiB of HBM, readable, writable and executable, and `n` bytes of `v` at
the placed address. -/
def placedMemory (m : Memory) (n v : Nat) : Memory :=
  let m := m.writeNat placedRoot 8 (2 ^ 63 + (placedRoot + 0x1000) / 256 * 256)
  let m := m.writeNat (placedRoot + 0x1000) 8 (2 ^ 63 + 2 ^ 62 + 0xF)
  m.writeNat placedCode n v

/-- A strand in S mode at the placed instruction. -/
def placedStrand : Strand :=
  { Strand.reset with priv := true, sfp := 0x40000, pc := BitVec.ofNat 64 (2 ^ 61 + 8 * placedCode) }

/-- A partition of one cluster with one GiB of HBM, its tables at the placed root. -/
def placedPartition (p : Partition) (now : Nat) : Partition :=
  { p with
    live := true, ident := 1, modeNew := p.mode, originX := 64, originY := 0, width := 8, height := 8, share := [0]
    ptbase := BitVec.ofNat 64 placedRoot, lastTraffic := now, created := now }

/-- The state with a partition whose core (0, 0) executes a placed strand next; `e` is the head of its engine queue, if the
next step is to issue a command. -/
def State.placed (s : State) (mem : Memory) (e : Option QEntry) : State :=
  let k := s.core 0
  let bank : Bank := { Bank.reset with live := true, strand := placedStrand }
  { s with
    mem := mem
    seals := []
    epoch := 0
    cur := 2 ^ 20
    agenda := if e.isSome then [.issue 0] else []
    timers := s.timers.filter fun t => decide (s.now < t.1)
    halted := false
    part := placedPartition s.part s.now
    cores := s.cores.set 0 { k with banks := k.banks.set 0 bank, cur := 0, guard := 0, itlb := [], dtlb := [], latch := none
                                    rep := none, queue := e.toList ++ k.queue }
    quads := s.quads.set 0 { s.quad 0 with fatal := false, held := false, gate := .on, move := none }
    clusters := s.clusters.set 0 { s.cluster 0 with tlb := [] } }

/-- An instruction placed where the next step runs it: a scalar word in memory at the PC, followed by zero words; a command
word at the head of an engine queue. -/
def State.placeWord (s : State) (nbits w : Nat) : State :=
  if nbits ≤ 32 then s.placed (placedMemory s.mem 36 (w % 2 ^ 32)) none
  else
    s.placed (placedMemory s.mem 36 0) (some ⟨BitVec.ofNat 256 w, false, false, placedStrand.sfp, true, false⟩)

end Sys2Proof.Machine
end

