-- ==== Sys2Proof/Machine/Step.lean ====
section
/-! DEFINITION. The step, and an instruction placed where it fetches its next one. -/

namespace Sys2Proof.Machine

/-- One step of the module (log entry 4). -/
def step (s : State) : Host.Outcome State Fault Refusal := s.turn

/-- The state whose next step runs the instruction with bits `w` (log entry 1). -/
def State.withFetchWord (s : State) (nbits w : Nat) : State := s.placeWord nbits w

end Sys2Proof.Machine
end

