-- ==== Sys2Proof/Safety.lean ====
section
/-! DEFINITION. What counts as a safe outcome and a sound state, and what an instruction leaves unchanged, in the terms the
statements use. -/

namespace Sys2Proof.Machine

/-- The machine went on to a state with a property. -/
def Done (o : Outcome) (P : State → Prop) : Prop := ∃ t, o = .next t ∧ P t

/-- A state whose memory is in canonical form. -/
def State.MemoryWf (s : State) : Prop := Memory.wf s.mem = true

/-- No bank but the one at a place differs, and no other register of its core. -/
def State.SameElsewhere (s t : State) (p : Place) : Prop :=
  (∀ c, c ≠ p.core → t.core c = s.core c) ∧ t.core p.core = { s.core p.core with banks := (t.core p.core).banks } ∧
  ∀ b, b ≠ p.bank → t.bank ⟨p.core, b⟩ = s.bank ⟨p.core, b⟩

/-- Nothing but the bank at a place differs: every other bank and core, every other register of its core, memory, quads,
clusters, dies, regions, the partition, the agenda and the timers stay as they were. -/
def State.OnlyBank (s t : State) (p : Place) : Prop := t = { s with cores := t.cores } ∧ s.SameElsewhere t p

/-- A register-only instruction completed: `rd` holds `v`, unless it is x0; the PC is PC + 32; and every other register,
every CSR and all else is unchanged. -/
def State.Wrote (s t : State) (rd : Reg) (v : Word) : Prop :=
  s.OnlyBank t s.here ∧ (∀ r, t.reg r = if r = rd ∧ rd ≠ 0 then v else s.reg r) ∧ t.pc = s.pc + 32 ∧
  t.bank s.here = { s.bank s.here with strand :=
    { s.strand s.here with x := (t.strand s.here).x, pc := (t.strand s.here).pc } }

/-- The executing strand goes on at an address, and nothing else differs. -/
def State.WentTo (s t : State) (a : Word) : Prop :=
  s.OnlyBank t s.here ∧ t.bank s.here = { s.bank s.here with strand := { s.strand s.here with pc := a } }

/-- The executing strand has entered its handler: TEPC, TCAUSE, TVAL and TSCRATCH are written, PPRIV holds PRIV, PRIV and
TRAP are set, the PC is TVEC, and nothing else differs (R311). -/
def State.Trapped (s t : State) (cause : BitVec 8) (tval : Word) : Prop :=
  s.OnlyBank t s.here ∧
  t.bank s.here = { s.bank s.here with
    tepc := s.pc, tcause := cause, tval := tval, tscratch := (s.strand s.here).sfp, status := .running
    strand := { s.strand s.here with
      ppriv := (s.strand s.here).priv, priv := true, trap := true, pc := (s.core s.cur).tvec } }

/-- A fault of the executing strand enters its handler: it is in none, and no pre-emption is pending (R311, R313, R321). -/
def State.Handles (s : State) : Prop := (s.strand s.here).trap = false ∧ (s.bank s.here).mark = none

/-! ## Accesses -/

/-- An address names `w` bits of cabinets 0 to 6 of a core's own quad, as space 000 names them, at a multiple of `align`;
`key` is the first of their physical bits (R49, R52, R53, R61, R63). -/
def State.Names (s : State) (core : Nat) (a : Word) (w align key : Nat) : Prop :=
  ∃ x y off, x < 1024 ∧ y < 1024 ∧ s.part.inside x y = true ∧ quadOf (coreId x y) = quadOf core ∧ off < 7 * 2 ^ 17 ∧
    off % 2 ^ 17 + w ≤ 2 ^ 17 ∧ off % align = 0 ∧ a.toNat = x * 2 ^ 51 + y * 2 ^ 41 + off ∧
    key = scratchBase (quadOf core) + off

/-- The same of the executing core, aligned as a width asks: widths 3 and 6 at any bit, every other at its multiples. -/
def State.NamesOwn (s : State) (a : Word) (w key : Nat) : Prop :=
  s.Names s.cur a w (if w = 3 ∨ w = 6 then 1 else w) key

/-- The requests with a tag that a replay filter has a place for: those it has answered and those that wait (R289). -/
def State.filterRoom (s : State) (q place : Nat) : Nat :=
  256 - (s.filter place).length - ((s.quad q).deferred.filter fun m => hasTag m.op && filterPlace m == place).length

/-- The executing strand is at an instruction, no 64-bit group of memory is uncorrectable, and its quad's home has a place in its
replay filter, and neither an answer saved nor a request waiting under the number that the strand's next access carries. -/
def State.Issues (s : State) : Prop :=
  (s.bank s.here).status = .running ∧ s.bad = [] ∧ 0 < s.filterRoom (quadOf s.cur) (4 * quadOf s.cur) ∧
  (∀ e ∈ s.filter (4 * quadOf s.cur), ¬(e.1 = s.here ∧ e.2.1 = s.seq + 1)) ∧
  ∀ m ∈ (s.quad (quadOf s.cur)).deferred, ¬(m.src = s.here ∧ m.tag = s.seq + 1)

/-- No drain of the executing strand's commands is in progress (R97, R98). -/
def State.NoDrain (s : State) : Prop := ∀ e ∈ (s.core s.cur).draining, e.1 ≠ (s.strand s.here).sfp

/-- The executing strand's registers are `regs`, its PC is PC + 32, and no other register, bank or core differs. -/
def State.Continued (s t : State) (regs : Reg → Word) : Prop :=
  s.SameElsewhere t s.here ∧ (∀ r, t.reg r = regs r) ∧ t.pc = s.pc + 32 ∧
  t.bank s.here = { s.bank s.here with strand :=
    { s.strand s.here with x := (t.strand s.here).x, pc := (t.strand s.here).pc } }

/-- The registers with `rd` holding `v`, unless it is x0. -/
def State.with (s : State) (rd : Reg) (v : Word) : Reg → Word := fun r => if r = rd ∧ rd ≠ 0 then v else s.reg r

/-- An access changed memory and the keys under which its sectors stand, full/empty bits, the requests that a home holds, the
answers of its filter and the agenda at most: no other field of the state but the cores differs. -/
def State.OnlyMemory (s t : State) : Prop :=
  t = { s with
    cores := t.cores, mem := t.mem, seals := t.seals, full := t.full, filters := t.filters, quads := t.quads
    agenda := t.agenda, seq := t.seq } ∧
  ∀ q, t.quad q = { s.quad q with deferred := (t.quad q).deferred }

/-- Every bit of memory outside `w` bits from a physical bit up, of a scratchpad or a track, reads as it did. -/
def State.SameOutside (s t : State) (key w : Nat) : Prop := ∀ k, k < key ∨ key + w ≤ k → t.bitsAt k 1 = s.bitsAt k 1

/-- The `w` bits from a physical bit up hold `v`, and every other bit of memory reads as it did. -/
def State.Stored (s t : State) (key w v : Nat) : Prop := t.bitsAt key w = v % 2 ^ w ∧ s.SameOutside t key w

/-- The effect of the instruction is `P`, and then the core passes to its next ready bank (R99). -/
def State.Passes (s : State) (P : State → Prop) (t : State) : Prop := ∃ u, P u ∧ t = u.switch s.cur

/-! ## The end of a leaf -/

/-- JOIN, DONE and GATE of a task are each 0 or a word of the executing core's own quad, no two the same, on which nothing waits;
the sequence of R105 can be performed on them, and a GATE that is full is counted in no log that stands in memory. `j`, `d`
and `g` are their physical bits. -/
def State.LeafWords (s : State) (r : BitVec 512) (j d g : Nat) : Prop :=
  (taskJoin r ≠ 0 → s.NamesOwn (taskJoin r) 64 j) ∧ (taskDone r ≠ 0 → s.NamesOwn (taskDone r) 64 d) ∧
  (taskGate r ≠ 0 → s.NamesOwn (taskGate r) 64 g) ∧ j ≠ d ∧ j ≠ g ∧ d ≠ g ∧ s.bad = [] ∧ s.MemoryWf ∧
  s.leafBusy s.cur r = false ∧ (s.quad (quadOf s.cur)).deferred = [] ∧ (g / 64 ∉ s.full ∨ s.part.evbase >>> 9 = 0)

/-- No word of a leaf's end lies in `w` bits from a physical bit up. -/
def LeafClear (key w j d g : Nat) : Prop := ∀ k ∈ [j, d, g], k + 64 ≤ key ∨ key + w ≤ k

/-- The leaf of a task has ended, JOIN having held `join` (R105): JOIN is one less, modulo 2⁶⁴; where it came to 0, or there is
none, DONE is one less; where that came to 0 and GATE is an empty word, GATE holds 1 and is full. Otherwise DONE and GATE are
as they were. -/
def State.LeafEnded (s t : State) (r : BitVec 512) (join j d g : Nat) : Prop :=
  let last : Prop := taskJoin r = 0 ∨ join = 1
  let opens : Prop := last ∧ taskDone r ≠ 0 ∧ s.bitsAt d 64 = 1 ∧ g / 64 ∉ s.full
  (taskJoin r ≠ 0 → t.bitsAt j 64 = (join + 2 ^ 64 - 1) % 2 ^ 64) ∧
  (taskDone r ≠ 0 → (last → t.bitsAt d 64 = (s.bitsAt d 64 + 2 ^ 64 - 1) % 2 ^ 64) ∧
    (¬ last → t.bitsAt d 64 = s.bitsAt d 64)) ∧
  (taskGate r ≠ 0 → (opens → t.bitsAt g 64 = 1 ∧ g / 64 ∈ t.full) ∧
    (¬ opens → t.bitsAt g 64 = s.bitsAt g 64 ∧ (g / 64 ∈ t.full ↔ g / 64 ∈ s.full)))

/-! ## Suspension points, places -/

/-- The registers a strand keeps at a suspension point: a0–a3 (R97). -/
def Strand.kept (a : Strand) (r : Reg) : Word := if 10 ≤ r.toNat ∧ r.toNat ≤ 13 then a.reg r else 0

/-- A strand that has passed a suspension point: its registers are `regs`, its vector registers zero, its PC past the
instruction, and the rest as it was (R97). -/
def Strand.Passed (a b : Strand) (regs : Reg → Word) : Prop :=
  b = { a with x := b.x, v := Vector.replicate 32 0, pc := a.pc + 32 } ∧ ∀ r, b.reg r = regs r

/-- The only difference of two states is a bank, which is the old one with another strand and status. -/
def State.NowHolds (s t : State) (p : Place) (st : Strand) (status : Status) : Prop :=
  s.OnlyBank t p ∧ t.bank p = { s.bank p with strand := st, status := status }

/-- Whether an event is on the agenda. -/
def State.Posted (s : State) (i : Instr) : Prop := .event i ∈ s.agenda

/-- Whether an event is to happen `n` fabric cycles from the present of an earlier state. -/
def State.Timed (s t : State) (n : Nat) (i : Instr) : Prop := (s.now + n, i) ∈ t.timers

/-! ## Notices -/

/-- One resident strand of a quad asks for notices, at `p`, in a word of its own quad at a physical bit; nothing waits on a word, no
group of memory is uncorrectable, and there is no event ring. -/
def State.OneNotice (s : State) (q : Nat) (p : Place) (key : Nat) : Prop :=
  (p.core ∈ quadCores q ∧ (s.bank p).live = true ∧ (s.strand p).notice ≠ 0 ∧
    s.Names p.core (s.strand p).notice 64 64 key ∧
    ∀ c ∈ quadCores q, ∀ b, (s.bank ⟨c, b⟩).live = true → (⟨c, b⟩ : Place) ≠ p → (s.strand ⟨c, b⟩).notice = 0) ∧
  s.bad = [] ∧ s.MemoryWf ∧ (∀ r, (s.quad r).deferred = []) ∧ s.part.evbase.toNat / 512 = 0

/-- A notice of a quad's power state has been written to the word at a physical bit: with COUNT 1 where the word was empty, which it
fills; merged into it where it was full. No other bit of memory differs (R386). -/
def State.Noticed (s t : State) (q key : Nat) (mig : Bool) : Prop :=
  let z := t.quad q
  let full : Prop := key / 64 ∈ s.full
  let old := s.bitsAt key 64
  let new := t.bitsAt key 64
  let flag (n : Nat) (b : Bool) : Prop := new.testBit n = (b || (decide full && old.testBit n))
  new / 2 ^ 48 = (if full then min 65535 (old / 2 ^ 48 + 1) else 1) ∧ new / 2 ^ 40 % 2 ^ 8 = (tempField z.temp).toNat ∧
  new / 2 ^ 33 % 2 ^ 7 = z.rate.toNat ∧ new / 2 ^ 30 % 2 ^ 3 = z.opp.toNat ∧
  new / 2 ^ 6 % 2 ^ 24 = (if full then old / 2 ^ 6 % 2 ^ 24 else 0) ∧
  (flag 0 (z.opcap.toNat < t.requested q) ∧ flag 1 z.droop ∧ flag 2 z.hard ∧ flag 3 z.pin ∧ flag 4 z.fsafe ∧ flag 5 mig) ∧
  key / 64 ∈ t.full ∧ s.SameOutside t key 64

/-! ## Engine commands -/

/-- No uncompleted press command of a quad holds one of a strand, a pipe and some units at its start (R197, R250). -/
def Quad.Starts (q : Quad) (sfp : Word) (pipe : Nat) (reads writes : List Nat) : Prop :=
  startHeld q.out sfp pipe reads writes = false

/-- The strand with a save-frame pointer is resident at a place, and at no other. -/
def State.Resident (s : State) (sfp : Word) (p : Place) : Prop :=
  ((s.bank p).live = true ∧ (s.strand p).sfp = sfp) ∧
  ∀ q, (s.bank q).live = true → (s.strand q).sfp = sfp → q = p

/-- The command in progress stands at the head of its own core's queue, outside a repetition, and has not issued before; its strand
is resident at a place; nothing that it reads or writes is in the way of an uncompleted command, and no command of its
strand waits on a page; no 64-bit group of memory is uncorrectable (R195, R196, R337). -/
def State.AtHead (s : State) (p : Place) (reads writes : List Nat) : Prop :=
  (s.ctx.remote = false ∧ s.ctx.inRep = false ∧ s.ctx.id = none ∧ s.ctx.performed = 0) ∧
  s.ctx.quad = quadOf s.ctx.core ∧ s.Resident s.ctx.sfp p ∧ s.bad = [] ∧
  (s.quad s.ctx.quad).hazard s.ctx.sfp reads writes = false ∧ ∀ i ∈ (s.quad s.ctx.quad).out, i.sfp = s.ctx.sfp → i.paused = none

/-- The entry of the command in progress among its quad's uncompleted commands. -/
def State.entry (s : State) (eng pipe track : Nat) (reads writes : List Nat) (fx : Fx) : Issued :=
  ⟨s.seq + 1, s.ctx.core, s.ctx.sfp, eng, pipe, track, false, reads, writes, fx, none, none⟩

/-- The command in progress has issued as `i`: it has left its queue, which gains its tag, its strand, at `p`, is `a`, its core
`c` and its quad `k` but for these, and nothing else differs but the context, in which its types and its record are kept
(R72, R195, R202). -/
def State.Left (s t : State) (p : Place) (i : Issued) (tagged : Bool) (a : Strand) (c : Core) (k : Quad) : Prop :=
  t = { s with seq := s.seq + 1, ctx := t.ctx, cores := t.cores, quads := t.quads, agenda := t.agenda } ∧
  t.bank p = { s.bank p with strand := a } ∧ (∀ b, b ≠ p → t.bank b = s.bank b) ∧
  t.core s.ctx.core = { c with
    banks := (t.core s.ctx.core).banks, queue := (s.core s.ctx.core).queue.tail
    tags := (s.core s.ctx.core).tags ++ if tagged then [⟨s.ctx.sfp, s.seq + 1, some i.id⟩] else [] } ∧
  (∀ n, n ≠ s.ctx.core → t.core n = { s.core n with banks := (t.core n).banks }) ∧
  t.quad s.ctx.quad = { k with out := (s.quad s.ctx.quad).out ++ [i] } ∧
  ∀ r, r ≠ s.ctx.quad → t.quad r = s.quad r

/-- The command in progress has issued as `i`, and its completion is to happen. -/
def State.Took (s t : State) (p : Place) (i : Issued) (tagged : Bool) (a : Strand) (c : Core) (k : Quad) : Prop :=
  s.Left t p i tagged a c k ∧ t.Posted (.commandCompletion s.ctx.core (s.seq + 1))

/-- A vector command has issued and leaves its strand's vector registers as `v`. -/
def State.VectorDone (s t : State) (p : Place) (op : Nat) (tagged : Bool) (f : VecF) (fx : Fx) (v : Vector Wide 32) : Prop :=
  s.Took t p (s.entry 2 0 0 (vecReads op f) (vecWrites op f) fx) tagged { s.strand p with v := v } (s.core s.ctx.core)
    (s.quad s.ctx.quad)

/-- `n` results of width `w` in the group of `g` registers at VD, from its bit `base` up: a live element takes its result, a
masked one its old bits, or zero with MZ; every other bit of a vector register is as it was (R222, R224, R228). -/
def Results (f : VecF) (v v' : Vector Wide 32) (g base w n : Nat) (result : Nat → Nat) : Prop :=
  let old := readGroup v f.vd g
  let new := readGroup v' f.vd g
  (∀ i < n, element (new / 2 ^ base) w i =
    if vecLive f v i then result i % 2 ^ w else if f.mz then 0 else element (old / 2 ^ base) w i) ∧
  new % 2 ^ base = old % 2 ^ base ∧ new / 2 ^ (base + w * n) = old / 2 ^ (base + w * n) ∧
  ∀ r : Fin 32, r.val ∉ group f.vd g → v'[r] = v[r]

/-- The mask of `n` elements lies in v0 to v7, where it is used (R224). -/
def MaskFits (f : VecF) (n : Nat) : Prop := f.men = true → f.mreg.toNat + (n - 1) / 256 ≤ 7

end Sys2Proof.Machine
end

