-- ==== Sys2Proof/Certificates/Slice0/Obligations.lean ====
section
/-! DEFINITION. The statements for the provers. -/

open Sys2Proof Sys2Proof.Machine

/-! ## The integer subset and control transfer -/

/-- R140, the immediate forms: ADDI, SLTI, SLTIU, XORI, ORI, ANDI, SLLI, SRLI, SRAI, ADDIW, SLLIW, SRLIW, SRAIW and LUI
write their result into rd, a write to x0 being discarded, go on at PC + 32 and change nothing else. -/
def Obligations.ImmediateForms : Prop :=
  ∀ (s : State) (rd rs1 : Reg) (imm : BitVec 12) (sh : BitVec 6) (shw : BitVec 5) (up : BitVec 20),
    let x := s.reg rs1
    let i : Word := imm.signExtend 64
    let w : BitVec 32 := x.extractLsb' 0 32
    Done (exec (.addi rd rs1 imm) s) (s.Wrote · rd (x + i)) ∧
    Done (exec (.slti rd rs1 imm) s) (s.Wrote · rd (if x.toInt < i.toInt then 1 else 0)) ∧
    Done (exec (.sltiu rd rs1 imm) s) (s.Wrote · rd (if x.toNat < i.toNat then 1 else 0)) ∧
    Done (exec (.xori rd rs1 imm) s) (s.Wrote · rd (x ^^^ i)) ∧
    Done (exec (.ori rd rs1 imm) s) (s.Wrote · rd (x ||| i)) ∧
    Done (exec (.andi rd rs1 imm) s) (s.Wrote · rd (x &&& i)) ∧
    Done (exec (.slli rd rs1 sh) s) (s.Wrote · rd (BitVec.ofNat 64 (x.toNat * 2 ^ sh.toNat))) ∧
    Done (exec (.srli rd rs1 sh) s) (s.Wrote · rd (BitVec.ofNat 64 (x.toNat / 2 ^ sh.toNat))) ∧
    Done (exec (.srai rd rs1 sh) s) (s.Wrote · rd (BitVec.ofInt 64 (x.toInt / 2 ^ sh.toNat))) ∧
    Done (exec (.addiw rd rs1 imm) s) (s.Wrote · rd ((w + imm.signExtend 32).signExtend 64)) ∧
    Done (exec (.slliw rd rs1 shw) s) (s.Wrote · rd ((BitVec.ofNat 32 (w.toNat * 2 ^ shw.toNat)).signExtend 64)) ∧
    Done (exec (.srliw rd rs1 shw) s) (s.Wrote · rd ((BitVec.ofNat 32 (w.toNat / 2 ^ shw.toNat)).signExtend 64)) ∧
    Done (exec (.sraiw rd rs1 shw) s) (s.Wrote · rd (BitVec.ofInt 64 (w.toInt / 2 ^ shw.toNat))) ∧
    Done (exec (.lui rd up) s) (s.Wrote · rd (BitVec.ofInt 64 (up.toInt * 2 ^ 12)))

/-- R140, the register forms of 64 bits: arithmetic modulo 2⁶⁴, register shifts by bits 5:0 of rs2, comparisons that write 1
or 0, and the high halves of the three kinds of product. R140, the W register forms: they work on bits 31:0 of their
operands, shift by bits 4:0 of rs2, and sign-extend their 32-bit result to 64 bits. -/
def Obligations.RegisterForms : Prop :=
  (∀ (s : State) (rd rs1 rs2 : Reg),
     let x := s.reg rs1
     let y := s.reg rs2
     let n := y.toNat % 64
     Done (exec (.add rd rs1 rs2) s) (s.Wrote · rd (BitVec.ofNat 64 (x.toNat + y.toNat))) ∧
     Done (exec (.sub rd rs1 rs2) s) (s.Wrote · rd (BitVec.ofInt 64 (x.toInt - y.toInt))) ∧
     Done (exec (.mul rd rs1 rs2) s) (s.Wrote · rd (BitVec.ofInt 64 (x.toInt * y.toInt))) ∧
     Done (exec (.sll rd rs1 rs2) s) (s.Wrote · rd (BitVec.ofNat 64 (x.toNat * 2 ^ n))) ∧
     Done (exec (.slt rd rs1 rs2) s) (s.Wrote · rd (if x.toInt < y.toInt then 1 else 0)) ∧
     Done (exec (.sltu rd rs1 rs2) s) (s.Wrote · rd (if x.toNat < y.toNat then 1 else 0)) ∧
     Done (exec (.xor rd rs1 rs2) s) (s.Wrote · rd (x ^^^ y)) ∧
     Done (exec (.srl rd rs1 rs2) s) (s.Wrote · rd (BitVec.ofNat 64 (x.toNat / 2 ^ n))) ∧
     Done (exec (.sra rd rs1 rs2) s) (s.Wrote · rd (BitVec.ofInt 64 (x.toInt / 2 ^ n))) ∧
     Done (exec (.or rd rs1 rs2) s) (s.Wrote · rd (x ||| y)) ∧
     Done (exec (.and rd rs1 rs2) s) (s.Wrote · rd (x &&& y)) ∧
     Done (exec (.mulh rd rs1 rs2) s)
       (s.Wrote · rd ((x.signExtend 128 * y.signExtend 128).extractLsb' 64 64)) ∧
     Done (exec (.mulhsu rd rs1 rs2) s)
       (s.Wrote · rd ((x.signExtend 128 * y.setWidth 128).extractLsb' 64 64)) ∧
     Done (exec (.mulhu rd rs1 rs2) s)
       (s.Wrote · rd ((x.setWidth 128 * y.setWidth 128).extractLsb' 64 64))) ∧
  (∀ (s : State) (rd rs1 rs2 : Reg),
     let x : BitVec 32 := (s.reg rs1).extractLsb' 0 32
     let y : BitVec 32 := (s.reg rs2).extractLsb' 0 32
     let n := y.toNat % 32
     Done (exec (.addw rd rs1 rs2) s) (s.Wrote · rd ((BitVec.ofNat 32 (x.toNat + y.toNat)).signExtend 64)) ∧
     Done (exec (.subw rd rs1 rs2) s) (s.Wrote · rd ((BitVec.ofInt 32 (x.toInt - y.toInt)).signExtend 64)) ∧
     Done (exec (.mulw rd rs1 rs2) s) (s.Wrote · rd ((BitVec.ofInt 32 (x.toInt * y.toInt)).signExtend 64)) ∧
     Done (exec (.sllw rd rs1 rs2) s) (s.Wrote · rd ((BitVec.ofNat 32 (x.toNat * 2 ^ n)).signExtend 64)) ∧
     Done (exec (.srlw rd rs1 rs2) s) (s.Wrote · rd ((BitVec.ofNat 32 (x.toNat / 2 ^ n)).signExtend 64)) ∧
     Done (exec (.sraw rd rs1 rs2) s) (s.Wrote · rd (BitVec.ofInt 64 (x.toInt / 2 ^ n))))

/-- R141: division never faults. By zero the quotient is all ones and the remainder the dividend; −2ⁿ⁻¹ ÷ −1 gives −2ⁿ⁻¹
and 0; otherwise the quotient is rounded toward zero and the remainder is dividend − divisor × quotient. A W form
sign-extends its 32-bit result, including those cases. -/
def Obligations.DivisionNeverFaults : Prop :=
  ∀ (s : State) (rd rs1 rs2 : Reg),
    let x := s.reg rs1
    let y := s.reg rs2
    let xw : BitVec 32 := x.extractLsb' 0 32
    let yw : BitVec 32 := y.extractLsb' 0 32
    let quo (n : Nat) (a b : Int) : BitVec n := if b = 0 then BitVec.ofInt n (-1) else BitVec.ofInt n (a.tdiv b)
    let rem (n : Nat) (a b : Int) : BitVec n := BitVec.ofInt n (a - b * a.tdiv b)
    Done (exec (.div rd rs1 rs2) s) (s.Wrote · rd (quo 64 x.toInt y.toInt)) ∧
    Done (exec (.divu rd rs1 rs2) s) (s.Wrote · rd (quo 64 x.toNat y.toNat)) ∧
    Done (exec (.rem rd rs1 rs2) s) (s.Wrote · rd (rem 64 x.toInt y.toInt)) ∧
    Done (exec (.remu rd rs1 rs2) s) (s.Wrote · rd (rem 64 x.toNat y.toNat)) ∧
    Done (exec (.divw rd rs1 rs2) s) (s.Wrote · rd ((quo 32 xw.toInt yw.toInt).signExtend 64)) ∧
    Done (exec (.divuw rd rs1 rs2) s) (s.Wrote · rd ((quo 32 xw.toNat yw.toNat).signExtend 64)) ∧
    Done (exec (.remw rd rs1 rs2) s) (s.Wrote · rd ((rem 32 xw.toInt yw.toInt).signExtend 64)) ∧
    Done (exec (.remuw rd rs1 rs2) s) (s.Wrote · rd ((rem 32 xw.toNat yw.toNat).signExtend 64))

/-- R142: a branch whose condition holds goes to PC + sext(imm) × 16, where imm has bit 0 zero; one whose condition does
not hold goes on at PC + 32; nothing else differs. JAL goes to PC + sext(imm) × 16 and writes PC + 32 into rd, a write to x0
being discarded; nothing else differs. A target whose bits 4:0 are not zero raises the misaligned-target fault, with the
target as TVAL, and nothing is written; from a PC that is a multiple of 32, as R136 has every instruction start, no target is
such. -/
def Obligations.BranchesAndJal : Prop :=
  ∀ (s : State) (rs1 rs2 rd : Reg) (b : BitVec 12) (j : BitVec 20),
    let x := s.reg rs1
    let y := s.reg rs2
    let there : Word := s.pc + (b ++ 0#1).signExtend 64 * 16
    let away : Word := s.pc + (j ++ 0#1).signExtend 64 * 16
    let next : Word := s.pc + 32
    (s.pc.toNat % 32 = 0 → there.toNat % 32 = 0 ∧ away.toNat % 32 = 0) ∧
    (there.toNat % 32 = 0 →
      (x = y → Done (exec (.beq rs1 rs2 b) s) (s.WentTo · there)) ∧
      (x ≠ y → Done (exec (.bne rs1 rs2 b) s) (s.WentTo · there)) ∧
      (x.toInt < y.toInt → Done (exec (.blt rs1 rs2 b) s) (s.WentTo · there)) ∧
      (y.toInt ≤ x.toInt → Done (exec (.bge rs1 rs2 b) s) (s.WentTo · there)) ∧
      (x.toNat < y.toNat → Done (exec (.bltu rs1 rs2 b) s) (s.WentTo · there)) ∧
      (y.toNat ≤ x.toNat → Done (exec (.bgeu rs1 rs2 b) s) (s.WentTo · there))) ∧
    (x ≠ y → Done (exec (.beq rs1 rs2 b) s) (s.WentTo · next)) ∧
    (x = y → Done (exec (.bne rs1 rs2 b) s) (s.WentTo · next)) ∧
    (y.toInt ≤ x.toInt → Done (exec (.blt rs1 rs2 b) s) (s.WentTo · next)) ∧
    (x.toInt < y.toInt → Done (exec (.bge rs1 rs2 b) s) (s.WentTo · next)) ∧
    (y.toNat ≤ x.toNat → Done (exec (.bltu rs1 rs2 b) s) (s.WentTo · next)) ∧
    (x.toNat < y.toNat → Done (exec (.bgeu rs1 rs2 b) s) (s.WentTo · next)) ∧
    (away.toNat % 32 = 0 → Done (exec (.jal rd j) s) fun t => s.OnlyBank t s.here ∧
      (∀ r, t.reg r = if r = rd ∧ rd ≠ 0 then next else s.reg r) ∧
      t.bank s.here = { s.bank s.here with strand :=
        { s.strand s.here with x := (t.strand s.here).x, pc := away } }) ∧
    (s.Handles →
      (there.toNat % 32 ≠ 0 →
        (x = y → Done (exec (.beq rs1 rs2 b) s) (s.Trapped · 0x06 there)) ∧
        (x ≠ y → Done (exec (.bne rs1 rs2 b) s) (s.Trapped · 0x06 there)) ∧
        (x.toInt < y.toInt → Done (exec (.blt rs1 rs2 b) s) (s.Trapped · 0x06 there)) ∧
        (y.toInt ≤ x.toInt → Done (exec (.bge rs1 rs2 b) s) (s.Trapped · 0x06 there)) ∧
        (x.toNat < y.toNat → Done (exec (.bltu rs1 rs2 b) s) (s.Trapped · 0x06 there)) ∧
        (y.toNat ≤ x.toNat → Done (exec (.bgeu rs1 rs2 b) s) (s.Trapped · 0x06 there))) ∧
      (away.toNat % 32 ≠ 0 → Done (exec (.jal rd j) s) (s.Trapped · 0x06 away)))

/-- R143: AUIPC writes PC + sext(imm20 · 2¹²) and goes on at PC + 32; JALR goes to x[rs1] + sext(imm12), rs1 being read before rd
is written, and writes PC + 32 into rd; a write to x0 is discarded, and nothing else differs. Where bits 4:0 of the target
are not zero JALR takes the misaligned-target fault, with the target as TVAL, and writes no register. -/
def Obligations.AuipcAndJalr : Prop :=
  ∀ (s : State) (rd rs1 : Reg) (up : BitVec 20) (imm : BitVec 12),
    let t := s.reg rs1 + imm.signExtend 64
    Done (exec (.auipc rd up) s) (s.Wrote · rd (s.pc + BitVec.ofInt 64 (up.toInt * 2 ^ 12))) ∧
    (t.toNat % 32 = 0 → Done (exec (.jalr rd rs1 imm) s) fun u => s.OnlyBank u s.here ∧
      (∀ r, u.reg r = if r = rd ∧ rd ≠ 0 then s.pc + 32 else s.reg r) ∧
      u.bank s.here = { s.bank s.here with strand := { s.strand s.here with x := (u.strand s.here).x, pc := t } }) ∧
    (t.toNat % 32 ≠ 0 → s.Handles → Done (exec (.jalr rd rs1 imm) s) (s.Trapped · 0x06 t))

/-! ## Pointer arithmetic -/

/-- R153 to R155. The offset field is bits 60:0 in space 001, 36:0 in 011 and 23:0 otherwise. PADD adds index × w exactly
and faults, kind bounds, when the result leaves the field; PDIFF gives the exact difference in elements, or faults when the
operands differ outside the field (bounds, TVAL the second) or the distance is no multiple of w (misalignment, TVAL the
first); PALN gives the least offset from the present one up that is a multiple of the unit, for widths 3 and 6 with code 0
the least at which an element lies within one 64-bit word, or a bounds fault. A space from 101 up is a fault of kind space. A
result keeps every bit outside the field. -/
def Obligations.PointerOffsets : Prop :=
  ∀ (s : State) (w : Width) (rd rs1 rs2 : Reg) (c : BitVec 2), s.Handles →
    let a := s.reg rs1
    let b := s.reg rs2
    let sp := a.toNat / 2 ^ 61
    let f : Nat := 2 ^ (if sp = 1 then 61 else if sp = 3 then 37 else 24)
    let n : Int := a.toNat % f + b.toInt * bitsOf w
    let d : Int := (a.toNat % f : Int) - (b.toNat % f : Int)
    let set (n : Nat) : Word := BitVec.ofNat 64 (a.toNat / f * f + n)
    let whole (n : Nat) : Prop :=
      if c = 0 then (if w = .b3 ∨ w = .b6 then n / 64 = (n + bitsOf w - 1) / 64 else n % bitsOf w = 0)
      else n % (if c = 1 then 64 else if c = 2 then 256 else 512) = 0
    (5 ≤ sp → Done (exec (.padd w rd rs1 rs2) s) (s.Trapped · 0x04 a) ∧
      Done (exec (.pdiff w rd rs1 rs2) s) (s.Trapped · 0x04 a) ∧ Done (exec (.paln w rd rs1 c) s) (s.Trapped · 0x04 a)) ∧
    (sp < 5 →
      (0 ≤ n ∧ n < f → Done (exec (.padd w rd rs1 rs2) s) (s.Wrote · rd (set n.toNat))) ∧
      (n < 0 ∨ f ≤ n → Done (exec (.padd w rd rs1 rs2) s) (s.Trapped · 0x05 a)) ∧
      (5 ≤ b.toNat / 2 ^ 61 → Done (exec (.pdiff w rd rs1 rs2) s) (s.Trapped · 0x04 b)) ∧
      (b.toNat / 2 ^ 61 < 5 → a.toNat / f ≠ b.toNat / f → Done (exec (.pdiff w rd rs1 rs2) s) (s.Trapped · 0x05 b)) ∧
      (a.toNat / f = b.toNat / f → d % bitsOf w ≠ 0 → Done (exec (.pdiff w rd rs1 rs2) s) (s.Trapped · 0x06 a)) ∧
      (a.toNat / f = b.toNat / f → d % bitsOf w = 0 →
        Done (exec (.pdiff w rd rs1 rs2) s) (s.Wrote · rd (BitVec.ofInt 64 (d / bitsOf w)))) ∧
      ∀ m : Nat, a.toNat % f ≤ m → whole m → (∀ k : Nat, a.toNat % f ≤ k → k < m → ¬ whole k) →
        (m < f → Done (exec (.paln w rd rs1 c) s) (s.Wrote · rd (set m))) ∧
        (f ≤ m → Done (exec (.paln w rd rs1 c) s) (s.Trapped · 0x05 a)))

/-- R156 to R158. PXY reads the coordinates, sign-extended in space 010; PSETXY replaces both, PLAY reads LAYER (BLOCK in
space 011) and PLAY.S replaces it; the fields stand at bits 51, 41 and 37, in space 100 at 39, 29 and 25. A space without
coordinates, 001 or 101 up, is a fault of kind space; a coordinate out of range, or a layer above 15, one of kind bounds.
PREL.A resolves a relative address against the executing core, PREL.R makes an absolute address relative to it. -/
def Obligations.PointerFields : Prop :=
  ∀ (s : State) (rd rs1 rs2 : Reg), s.Handles →
    let a := s.reg rs1
    let b := s.reg rs2
    let sp := a.toNat / 2 ^ 61
    let lo := if sp = 4 then (39, 29, 25) else (51, 41, 37)
    let coord (k : Nat) : Int := if sp = 2 then (a.extractLsb' k 10).toInt else (a.extractLsb' k 10).toNat
    let put (v k n x : Nat) : Nat := v / 2 ^ (k + n) * 2 ^ (k + n) + x * 2 ^ k + v % 2 ^ k
    let nx := (b.extractLsb' 0 32).toInt
    let ny := (b.extractLsb' 32 32).toInt
    let fits (n : Int) : Prop := if sp = 2 then -512 ≤ n ∧ n ≤ 511 else 0 ≤ n ∧ n ≤ 1023
    let x : Int := coreX s.cur + (a.extractLsb' 51 10).toInt
    let y : Int := coreY s.cur + (a.extractLsb' 41 10).toInt
    let dx : Int := (a.toNat / 2 ^ 51 % 1024 : Nat) - (coreX s.cur : Int)
    let dy : Int := (a.toNat / 2 ^ 41 % 1024 : Nat) - (coreY s.cur : Int)
    let near (n : Int) : Prop := -512 ≤ n ∧ n ≤ 511
    (sp = 1 ∨ 5 ≤ sp → ∀ i ∈ [Instr.pxy rd rs1, .psetxy rd rs1 rs2, .play rd rs1, .playS rd rs1 rs2],
      Done (exec i s) (s.Trapped · 0x04 a)) ∧
    (sp ≠ 1 → sp < 5 →
      Done (exec (.pxy rd rs1) s) (s.Wrote · rd (BitVec.ofInt 32 (coord lo.2.1) ++ BitVec.ofInt 32 (coord lo.1))) ∧
      (fits nx ∧ fits ny → Done (exec (.psetxy rd rs1 rs2) s)
        (s.Wrote · rd (BitVec.ofNat 64
          (put (put a.toNat lo.1 10 (nx % 1024).toNat) lo.2.1 10 (ny % 1024).toNat)))) ∧
      (¬ (fits nx ∧ fits ny) → Done (exec (.psetxy rd rs1 rs2) s) (s.Trapped · 0x05 a)) ∧
      Done (exec (.play rd rs1) s) (s.Wrote · rd (BitVec.ofNat 64 (a.toNat / 2 ^ lo.2.2 % 16))) ∧
      (b.toNat ≤ 15 → Done (exec (.playS rd rs1 rs2) s)
        (s.Wrote · rd (BitVec.ofNat 64 (put a.toNat lo.2.2 4 b.toNat)))) ∧
      (15 < b.toNat → Done (exec (.playS rd rs1 rs2) s) (s.Trapped · 0x05 a))) ∧
    (sp = 0 → Done (exec (.prelA rd rs1) s) (s.Wrote · rd a)) ∧
    (sp = 2 → 0 ≤ x ∧ x < s.part.width ∧ 0 ≤ y ∧ y < s.part.height → Done (exec (.prelA rd rs1) s)
      (s.Wrote · rd (BitVec.ofNat 64 (x.toNat * 2 ^ 51 + y.toNat * 2 ^ 41 + a.toNat % 2 ^ 41)))) ∧
    (sp = 2 → ¬ (0 ≤ x ∧ x < s.part.width ∧ 0 ≤ y ∧ y < s.part.height) →
      Done (exec (.prelA rd rs1) s) (s.Trapped · 0x05 a)) ∧
    (sp = 2 → Done (exec (.prelR rd rs1) s) (s.Wrote · rd a)) ∧
    (sp = 0 → near dx ∧ near dy → Done (exec (.prelR rd rs1) s)
      (s.Wrote · rd (BitVec.ofNat 64
        (2 * 2 ^ 61 + (dx % 1024).toNat * 2 ^ 51 + (dy % 1024).toNat * 2 ^ 41 + a.toNat % 2 ^ 41)))) ∧
    (sp = 0 → ¬ (near dx ∧ near dy) → Done (exec (.prelR rd rs1) s) (s.Trapped · 0x05 a)) ∧
    (sp ≠ 0 → sp ≠ 2 → ∀ i ∈ [Instr.prelA rd rs1, .prelR rd rs1], Done (exec i s) (s.Trapped · 0x04 a))

/-! ## Loads, stores, atomics and full/empty words -/

/-- R145, R146: a load from the own quad's scratchpad computes its address modulo 2⁶⁴ from a displacement or an index times
the width, writes the bits there into rd, zero-extended by LD and LDX and sign-extended by LDS and LDXS, and changes
nothing else but the number that the next access carries (log entry 4): no byte of memory. A class P access that straddles a word is
assembled in bit order (R62). -/
def Obligations.OwnQuadLoads : Prop :=
  ∀ (s : State) (w : Width) (rd rs1 rs2 : Reg) (imm : BitVec 12) (key : Nat), s.Issues →
    let n := bitsOf w
    let a := s.reg rs1 + BitVec.ofInt 64 (imm.toInt * n)
    let b := s.reg rs1 + BitVec.ofNat 64 ((s.reg rs2).toNat * n)
    let loads (v : Word) (t : State) : Prop := { s with seq := t.seq }.Wrote t rd v
    (s.NamesOwn a n key →
      Done (exec (.ld w rd rs1 imm) s) (loads (BitVec.ofNat 64 (s.bitsAt key n))) ∧
      Done (exec (.lds w rd rs1 imm) s) (loads ((BitVec.ofNat n (s.bitsAt key n)).signExtend 64))) ∧
    (s.NamesOwn b n key →
      Done (exec (.ldx w rd rs1 rs2) s) (loads (BitVec.ofNat 64 (s.bitsAt key n))) ∧
      Done (exec (.ldxs w rd rs1 rs2) s) (loads ((BitVec.ofNat n (s.bitsAt key n)).signExtend 64)))

/-- R145, R147: a store to the own quad's scratchpad writes the low w bits of its data register, of ST the register in
bits 24:20 and of STX the one in bits 11:7, to the bits at its address and no other bit of memory; it goes on at PC + 32 and
writes no register; and where no request waits at the home, full/empty bits stay as they were (R163). -/
def Obligations.OwnQuadStores : Prop :=
  ∀ (s : State) (w : Width) (rd rs1 rs2 : Reg) (imm : BitVec 12) (key : Nat), s.Issues → s.MemoryWf →
    let n := bitsOf w
    let a := s.reg rs1 + BitVec.ofInt 64 (imm.toInt * n)
    let b := s.reg rs1 + BitVec.ofNat 64 ((s.reg rs2).toNat * n)
    let stores (v : Word) (t : State) : Prop :=
      s.Continued t s.reg ∧ s.OnlyMemory t ∧ s.Stored t key n v.toNat ∧
      ((s.quad (quadOf s.cur)).deferred = [] → t.full = s.full)
    (s.NamesOwn a n key → Done (exec (.st w rs2 rs1 imm) s) (stores (s.reg rs2))) ∧
    (s.NamesOwn b n key → Done (exec (.stx w rd rs1 rs2) s) (stores (s.reg rd)))

/-- R161, R162: an atomic on the own quad's scratchpad reads the old value of the w bits at x[rs1] and writes the new one
in one step, writing the old value to rd, sign-extended for min and max and zero-extended otherwise; CAS writes only where
the old value equals the low w bits of x[rd]. The strand goes on at PC + 32; no other bit of memory and no other register
changes; and the core passes to its next ready bank, as it does while a strand waits for a reply (R99, R160). AMO.fadd adds
with the one rounding of R161 (`fadd`). -/
def Obligations.OwnQuadAtomics : Prop :=
  ∀ (s : State) (o : Order) (w : Width) (rd rs1 rs2 : Reg) (key : Nat), s.Issues → s.MemoryWf →
    s.NamesOwn (s.reg rs1) (bitsOf w) key →
    let n := bitsOf w
    let old := s.bitsAt key n
    let d := (s.reg rs2).toNat % 2 ^ n
    let zero : Word := BitVec.ofNat 64 old
    let sign : Word := (BitVec.ofNat n old).signExtend 64
    let less : Prop := (BitVec.ofNat n old).toInt < (BitVec.ofNat n d).toInt
    let does (v : Word) (new : Nat) : State → Prop := s.Passes fun t =>
      s.Continued t (s.with rd v) ∧ s.OnlyMemory t ∧ s.Stored t key n new
    Done (exec (.amoAdd o w rd rs2 rs1) s) (does zero (old + d)) ∧
    Done (exec (.amoAnd o w rd rs2 rs1) s) (does zero (old &&& d)) ∧
    Done (exec (.amoOr o w rd rs2 rs1) s) (does zero (old ||| d)) ∧
    Done (exec (.amoXor o w rd rs2 rs1) s) (does zero (old ^^^ d)) ∧
    (less → Done (exec (.amoMin o w rd rs2 rs1) s) (does sign old) ∧
      Done (exec (.amoMax o w rd rs2 rs1) s) (does sign d)) ∧
    (¬ less → Done (exec (.amoMin o w rd rs2 rs1) s) (does sign d) ∧
      Done (exec (.amoMax o w rd rs2 rs1) s) (does sign old)) ∧
    Done (exec (.amoMinn o w rd rs2 rs1) s) (does zero (min old d)) ∧
    Done (exec (.amoMaxn o w rd rs2 rs1) s) (does zero (max old d)) ∧
    Done (exec (.amoSwap o w rd rs2 rs1) s) (does zero d) ∧
    Done (exec (.amoFadd o w rd rs2 rs1) s) (does zero (fadd n old d)) ∧
    (old = (s.reg rd).toNat % 2 ^ n → Done (exec (.cas o w rd rs2 rs1) s) (does zero d)) ∧
    (old ≠ (s.reg rd).toNat % 2 ^ n → Done (exec (.cas o w rd rs2 rs1) s) (does zero old))

/-- R164 to R167 on the own quad's scratchpad, where no request waits. TAKE and TAKE.NB of a full word read the bits and
empty the word; TAKE.NB of an empty one writes 0 to rd and then 0 to rt; PUT to an empty word writes the bits and fills
it, and to a full one changes nothing and takes the put-on-full fault; FESTAT reads the bit; AWAIT completes at once where
its condition holds. TAKE and AWAIT pass a suspension point, so every register but a0–a3 reads as zero after them (R97); and
each of the five hands the core to its next ready bank (R99, R160). -/
def Obligations.FullEmptyWords : Prop :=
  ∀ (s : State) (o : Order) (w : Width) (aq : Bool) (c : AwaitCmp) (rd rt rs1 rs2 : Reg) (key : Nat), s.Issues →
    s.MemoryWf → s.NamesOwn (s.reg rs1) (bitsOf w) key → key / 64 = (key + bitsOf w - 1) / 64 →
    (s.quad (quadOf s.cur)).deferred = [] → s.mustDrainVectors = false → s.NoDrain → (s.bank s.here).mark = none →
    let n := bitsOf w
    let v : Word := BitVec.ofNat 64 (s.bitsAt key n)
    let d := BitVec.ofNat n (s.reg rs2).toNat
    let x := BitVec.ofNat n (s.bitsAt key n)
    let kept (r : Reg) : Word := if 10 ≤ r.toNat ∧ r.toNat ≤ 13 then s.reg r else 0
    let sameBits (t : State) : Prop := t.mem = s.mem ∧ t.seals = s.seals ∧ s.OnlyMemory t
    let emptied (t : State) : Prop := ∀ k, k ∈ t.full ↔ k ∈ s.full ∧ k ≠ key / 64
    let passed (t : State) : Prop := s.SameElsewhere t s.here ∧ t.pc = s.pc + 32 ∧ sameBits t ∧
      (∀ r, t.reg r = if r = rd ∧ rd ≠ 0 then v else kept r) ∧
      t.bank s.here = { s.bank s.here with strand := { s.strand s.here with
        x := (t.strand s.here).x, v := Vector.replicate 32 0, pc := (t.strand s.here).pc } }
    let holds : Prop := match c with
      | .eq => x = d | .ne => x ≠ d | .geu => d.toNat ≤ x.toNat | .ges => d.toInt ≤ x.toInt
    (key / 64 ∈ s.full →
      Done (exec (.take o w rd rs1) s) (s.Passes fun t => passed t ∧ emptied t) ∧
      Done (exec (.takeNb o w rd rt rs1) s) (s.Passes fun t =>
        s.Continued t (fun r => if r = rt ∧ rt ≠ 0 then 1 else s.with rd v r) ∧ sameBits t ∧ emptied t) ∧
      (s.Handles → Done (exec (.put o w rs2 rs1) s) (s.Passes fun t =>
        { s with seq := t.seq, agenda := t.agenda, filters := t.filters }.Trapped t 0x0A (s.reg rs1))) ∧
      (n = 64 → Done (exec (.festat rd rs1) s) (s.Passes fun t => { s with seq := t.seq }.Wrote t rd 1))) ∧
    (key / 64 ∉ s.full →
      Done (exec (.takeNb o w rd rt rs1) s) (s.Passes fun t =>
        s.Continued t (fun r => if r = rt ∧ rt ≠ 0 then 0 else s.with rd 0 r) ∧ sameBits t ∧ t.full = s.full) ∧
      Done (exec (.put o w rs2 rs1) s) (s.Passes fun t => s.Continued t s.reg ∧ s.OnlyMemory t ∧
        s.Stored t key n (s.reg rs2).toNat ∧ ∀ k, k ∈ t.full ↔ k ∈ s.full ∨ k = key / 64) ∧
      (n = 64 → Done (exec (.festat rd rs1) s) (s.Passes fun t => { s with seq := t.seq }.Wrote t rd 0))) ∧
    (holds → Done (exec (.await c aq w rd rs2 rs1) s) (s.Passes fun t => passed t ∧ t.full = s.full))

/-- R52, R54 to R61, R63, R330: what an address that cannot be used raises, for every instruction that accesses memory at one,
at the address that it computes. From U mode in cabinet 7, a privilege fault, before the coordinates are looked at; space 101
or above, kind space; coordinates outside the partition, in space 010 those that it resolves to on the executing core, or a peer
module that is not bound, kind bounds; a must-be-zero field, a reserved layer, an offset past the cabinets, or an access that
runs past the end of its cabinet, bank or track, kind bounds; a class N address that is no multiple of the width,
misalignment. Space 100 with the module's own number is space 000. In space 001 an access past the end of the space is kind bounds,
a class N address that is no multiple misalignment, and one with bits 60:51 set, or whose first bit has no valid leaf or one
that does not permit it, or no page where there is no fault queue, a translation fault. In space 011 all but loads and stores
are a privilege fault from U mode and kind space from S mode. TVAL holds the address, and nothing else changes. -/
def Obligations.AddressFaults : Prop :=
  ∀ (s : State) (o : Order) (w : Width) (aq : Bool) (c : AwaitCmp) (rd rt rs1 rs2 : Reg) (imm : BitVec 12), s.Handles →
    let faults (plain : Bool) (acc : Access) (n : Nat) (a : Word) (i : Instr) : Prop :=
      let f (cause : BitVec 8) : Prop := Done (exec i s) (s.Trapped · cause a)
      let at' (lo k : Nat) : Nat := a.toNat / 2 ^ lo % 2 ^ k
      let packed : Prop := n = 3 ∨ n = 6
      let sp := at' 61 3
      let off := at' 0 24
      let mesh (inside fits : Prop) (layer mbz : Nat) : Prop :=
        let private7 : Prop := s.user = true ∧ layer = 0 ∧ off / 2 ^ 17 % 8 = 7
        let unit := if layer = 0 then 2 ^ 17 else 2 ^ 20
        let malformed : Prop := mbz ≠ 0 ∨ (1 ≤ layer ∧ layer ≤ 7) ∨ (layer = 0 ∧ 2 ^ 20 ≤ off) ∨ unit < off % unit + n
        (private7 → f 0x03) ∧ (¬ private7 → ¬ inside ∨ malformed → f 0x05) ∧
        (¬ private7 → inside → fits → ¬ malformed → ¬ packed → off % n ≠ 0 → f 0x06)
      let x : Int := coreX s.cur + (a.extractLsb' 51 10).toInt
      let y : Int := coreY s.cur + (a.extractLsb' 41 10).toInt
      let own : Prop := s.modid.getLsbD 63 = true ∧ s.modid.toNat % 2 ^ 12 = at' 49 12
      let bound : Prop := ∃ b ∈ s.part.peers, b.num.toNat = at' 49 12
      let va := at' 0 51
      (5 ≤ sp → f 0x04) ∧
      (sp = 0 → mesh (s.part.inside (at' 51 10) (at' 41 10) = true) True (at' 37 4) (at' 24 13)) ∧
      (sp = 2 → mesh (0 ≤ x ∧ x < s.part.width ∧ 0 ≤ y ∧ y < s.part.height) (x < 1024 ∧ y < 1024) (at' 37 4) (at' 24 13)) ∧
      (sp = 4 → (own → mesh (s.part.inside (at' 39 10) (at' 29 10) = true) True (at' 25 4) (at' 24 1)) ∧
        (¬ own → mesh bound True (at' 25 4) (at' 24 1))) ∧
      (sp = 3 → plain = false → (s.user = true → f 0x03) ∧ (s.user = false → f 0x04)) ∧
      (sp = 1 →
        (2 ^ 61 < at' 0 61 + n → f 0x05) ∧
        (at' 0 61 + n ≤ 2 ^ 61 → ¬ packed → at' 0 61 % n ≠ 0 → f 0x06) ∧
        (at' 0 61 + n ≤ 2 ^ 61 → packed ∨ at' 0 61 % n = 0 →
          (at' 51 10 ≠ 0 → f 0x07) ∧
          (at' 51 10 = 0 → s.translation s.cur acc va = .bad → f 0x07) ∧
          (∀ e bits, at' 51 10 = 0 → s.translation s.cur acc va = .leaf e bits → permits e acc s.user = false → f 0x07) ∧
          (at' 51 10 = 0 → s.translation s.cur acc va = .absent → (s.cluster (clusterOf s.cur)).fqbase >>> 9 = 0 → f 0x07)))
    let n := bitsOf w
    let a := s.reg rs1
    let disp := a + BitVec.ofInt 64 (imm.toInt * n)
    let idx := a + BitVec.ofNat 64 ((s.reg rs2).toNat * n)
    (∀ i ∈ [Instr.ld w rd rs1 imm, .lds w rd rs1 imm], faults true .load n disp i) ∧ faults true .store n disp (.st w rs2 rs1 imm) ∧
    (∀ i ∈ [Instr.ldx w rd rs1 rs2, .ldxs w rd rs1 rs2], faults true .load n idx i) ∧ faults true .store n idx (.stx w rd rs1 rs2) ∧
    (∀ i ∈ [Instr.amoAdd o w rd rs2 rs1, .amoAnd o w rd rs2 rs1, .amoOr o w rd rs2 rs1, .amoXor o w rd rs2 rs1,
        .amoMin o w rd rs2 rs1, .amoMax o w rd rs2 rs1, .amoMinn o w rd rs2 rs1, .amoMaxn o w rd rs2 rs1,
        .amoSwap o w rd rs2 rs1, .amoFadd o w rd rs2 rs1, .cas o w rd rs2 rs1, .takeNb o w rd rt rs1, .put o w rs2 rs1],
      faults false .atomic n a i) ∧
    faults false .load 64 a (.festat rd rs1) ∧
    (s.mustDrainVectors = false → s.NoDrain →
      faults false .atomic n a (.take o w rd rs1) ∧ faults false .load n a (.await c aq w rd rs2 rs1))

/-- R58, R99: in S mode a 64-bit load from device register space reads a register, and a 64-bit store there hands its value to
the write of that register. At a core or quad block of the own quad (log entry 57) both are done at once; at any other the
access is sent as a request, the load waiting for its reply and the store going on at PC + 32. From U mode both are
privilege faults; from S mode a load or store of another width is a fault of kind space. -/
def Obligations.RegisterSpace : Prop :=
  ∀ (s : State) (w : Width) (rd rs1 rs2 : Reg),
    let a := s.reg rs1
    let x := a.toNat / 2 ^ 51 % 1024
    let y := a.toNat / 2 ^ 41 % 1024
    let block := a.toNat / 2 ^ 37 % 16
    let near : Prop := block ≤ 1 ∧ quadOf (coreId x y) = quadOf s.cur
    a.toNat / 2 ^ 61 = 3 →
    (s.user = true → s.Handles → Done (exec (.ld w rd rs1 0) s) (s.Trapped · 0x03 a) ∧
      Done (exec (.st w rs2 rs1 0) s) (s.Trapped · 0x03 a)) ∧
    (s.user = false → s.Handles → w ≠ .b64 → Done (exec (.ld w rd rs1 0) s) (s.Trapped · 0x04 a) ∧
      Done (exec (.st w rs2 rs1 0) s) (s.Trapped · 0x04 a)) ∧
    (s.user = false → s.part.inside x y = true → block ≤ 4 → a.toNat % 64 = 0 →
      (near →
        Done (exec (.ld .b64 rd rs1 0) s) (s.Wrote · rd (s.readRegister a)) ∧
        Done (exec (.st .b64 rs2 rs1 0) s) fun t =>
          t.agenda = s.agenda ++ [.event (registerStore s.cur a (s.reg rs2))] ∧
          { s with agenda := t.agenda }.WentTo t (s.pc + 32)) ∧
      (¬ near →
        (Done (exec (.ld .b64 rd rs1 0) s) fun t =>
          (t.bank s.here).status = .reply .other a (s.seq + 1) ∧ (t.strand s.here).pc = s.pc ∧ t.mem = s.mem ∧
          ∃ m, t.Posted (.memRequest m) ∧ m.src = s.here ∧ m.op = .load false ∧ m.addr = a ∧ m.rd = rd) ∧
        Done (exec (.st .b64 rs2 rs1 0) s) fun t =>
          (t.strand s.here).pc = s.pc + 32 ∧ (t.strand s.here).x = (s.strand s.here).x ∧ t.mem = s.mem ∧
          ∃ m, t.Posted (.memRequest m) ∧ m.op = .store ∧ m.addr = a ∧ m.data = s.reg rs2))

/-! ## Messages -/

/-- R83, R99, R279, R308: a load that arrives at a scratchpad is answered with the bits there, zero- or sign-extended, and
changes nothing; a request for a track goes to the column's memory agent, which answers it with the bits there and leaves
memory as it was; a request for a register block reads the register, or hands its value to its write. A reply gives the
waiting strand its result, moves its PC by 32 and makes it ready. R168, R289: a TAKE that was answered busy arrives again: a
full word is read and emptied, and the answer kept in the home's replay filter; at an empty word it is held, or, where the
64 entries are taken, it is tried again after the next backoff. An atomic without a reply is sent again under the same
tag, and its source's acknowledgement removes the answer that its home saved. -/
def Obligations.MessagesAndReplies : Prop :=
  ∀ (s : State) (m : Msg) (sg ok : Bool) (key n k : Nat) (v : Word) (place : Nat) (src : Place) (tag : Nat),
    let bits := s.bitsAt key n
    let got : Word := if sg then (BitVec.ofNat n bits).signExtend 64 else BitVec.ofNat 64 bits
    let sp := m.addr.toNat / 2 ^ 61
    let new : Prop := (∀ q, ∀ e ∈ (s.quad q).deferred, ¬(e.src = m.src ∧ e.tag = m.tag)) ∧
      ∀ e ∈ s.filter (filterPlace m), ¬(e.1 = m.src ∧ e.2.1 = m.tag)
    let sound : Prop := s.bad = [] ∧ ∀ c, (s.core c).slips = [] ∧ (s.core c).spineBroken = [] ∧ (s.core c).dead = []
    m.parts = [⟨key, n⟩] →
    (m.op = .load sg → new → sound → (sp = 0 ∨ sp = 2) → m.src.core < 2 ^ 24 →
      (scratchBase 0 ≤ key → key + n ≤ trackBase 0 →
        exec (.memRequest m) s = .next { s with agenda := s.agenda ++ [.event (.memReply m (.value got true))] }) ∧
      (trackBase 0 ≤ key → key + n ≤ peerBase 0 →
        exec (.memRequest m) s = .next { s with agenda := s.agenda ++ [.event (.trackAccess m)] } ∧
        Done (exec (.trackAccess m) s) fun t =>
          t = { s with cores := t.cores, agenda := s.agenda ++ [.event (.memReply m (.value got true))] })) ∧
    (m.op = .load sg → sp = 3 → exec (.memRequest m) s = .next { s with
      agenda := s.agenda ++ [.event (.memReply m (.value (s.readRegister m.addr) true))] }) ∧
    (m.op = .store → sp = 3 → exec (.memRequest m) s = .next { s with
      agenda := s.agenda ++ [.event (registerStore m.src.core m.addr m.data)] }) ∧
    (m.op = .load sg → m.src.core < 2 ^ 24 → s.waiting m = true → Done (exec (.memReply m (.value v ok)) s)
      (s.NowHolds · m.src { (s.strand m.src).setReg m.rd v with pc := (s.strand m.src).pc + 32 } .running)) ∧
    (m.op = .take → new → sound → (sp = 0 ∨ sp = 2) → m.src.core < 2 ^ 24 → s.filterLoad m < 256 →
      scratchBase 0 ≤ key → key + n ≤ trackBase 0 → 0 < n → n ≤ 64 → key / 64 = (key + n - 1) / 64 →
      let q := waitQuad m
      (key / 64 ∈ s.full → Done (exec (.deferredRetry m k) s) fun t =>
        t = { s with
          full := t.full, filters := t.filters
          agenda := s.agenda ++ [.event (.memReply m (.value (BitVec.ofNat 64 bits) true))] } ∧
        (∀ i, i ∈ t.full ↔ i ∈ s.full ∧ i ≠ key / 64) ∧
        (m.src, m.tag, Answer.value (BitVec.ofNat 64 bits) true) ∈ t.filter (filterPlace m)) ∧
      (key / 64 ∉ s.full → (s.quad q).deferred.length < 64 → Done (exec (.deferredRetry m k) s) fun t =>
        t = { s with quads := t.quads } ∧ (∀ r, r ≠ q → t.quad r = s.quad r) ∧
        t.quad q = { s.quad q with deferred := (s.quad q).deferred ++ [m] }) ∧
      (key / 64 ∉ s.full → 64 ≤ (s.quad q).deferred.length → Done (exec (.deferredRetry m k) s) fun t =>
        t = { s with timers := t.timers } ∧ s.Timed t (16 * 2 ^ min k 6) (.deferredRetry m (k + 1)))) ∧
    (s.waiting m = true → s.retrying m = false → Done (exec (.atomicResend m) s) fun t =>
      t = { s with timers := t.timers, agenda := s.agenda ++ [.event (.memRequest m)] } ∧
      s.Timed t (resendAfter m) (.atomicResend m)) ∧
    Done (exec (.replayFilterAck place src tag) s) fun t => t = { s with filters := t.filters } ∧
      (∀ r, r ≠ place → t.filter r = s.filter r) ∧
      ∀ e, e ∈ t.filter place ↔ e ∈ s.filter place ∧ ¬(e.1 = src ∧ e.2.1 = tag)

/-- A fence of any kind and scope goes on at PC + 32 and changes nothing else. That is the model's own choice (log entry 4): every
access that a strand issued is performed before it issues again, so what R169 and R282 order is in order already. -/
def Obligations.FencesGoOn : Prop :=
  ∀ (s : State) (sc : Scope), ∀ i ∈ [Instr.fenceAcq sc, .fenceRel sc, .fenceAr sc, .fenceSc sc],
    Done (exec i s) (s.WentTo · (s.pc + 32))

/-! ## Strands and tasks -/

/-- R97, R98, R178: at SUSPEND, outside a handler and with no command of the strand outstanding, the strand passes a
suspension point, stops at the next instruction, and is to be written back. YIELD passes one and goes on, or is to be
written back where a runnable record waits for a bank. Both hand the core to its next ready bank and change neither memory
nor another bank. EXIT ends the strand: its bank is free, its frame, whose first word can be written, is the head of the
pool, no track is bound to it and no press unit is held by it, its bank is to be filled, and the core passes to its next
ready bank. R105: a leaf that has not ended ends, on words of the own quad that the frame does not cover: JOIN is one less; where
it came to 0, or there is none, DONE is one less; and where that came to 0 an empty GATE is filled with 1. -/
def Obligations.LeavingTheCore : Prop :=
  ∀ (s : State), (s.bank s.here).mark = none → (s.strand s.here).trap = false → s.NoDrain →
    let p := s.here
    let a := s.strand p
    let next (t : State) : Prop := (t.core s.cur).cur = (t.core s.cur).nextBank (s.core s.cur).cur
    let passed (st : Status) (t : State) : Prop := a.Passed (t.strand p) a.kept ∧
      t.bank p = { s.bank p with strand := t.strand p, status := st } ∧ next t ∧
      t = { s with cores := t.cores, agenda := t.agenda } ∧ ∀ q, q ≠ p → t.bank q = s.bank q
    (s.mustDrain = false → Done (exec .suspend s) fun t => passed (.stopped false) t ∧ t.Posted (.recordWriteback p)) ∧
    (s.mustDrainVectors = false →
      (s.wanting s.cur 0 = false → Done (exec .yield s) fun t => passed .running t ∧ t.agenda = s.agenda) ∧
      (s.wanting s.cur 0 = true →
        Done (exec .yield s) fun t => passed (.stopped false) t ∧ t.Posted (.recordWriteback p))) ∧
    (∀ key, s.mustDrain = false → s.leafWaits = false → s.NamesOwn a.sfp 64 key → s.bad = [] → Done (exec .exit s) fun t =>
      (t.bank p).live = false ∧ (t.core s.cur).fphead = a.sfp >>> 9 <<< 9 ∧
      (∀ e ∈ (t.core s.cur).bound, e.2 ≠ a.sfp) ∧ (t.quad (quadOf s.cur)).holds a.sfp = false ∧
      t.Posted (.bankFill s.cur) ∧ next t ∧
      ∀ j d g, a.leafEnded = false → s.LeafWords a.task j d g → LeafClear key 64 j d g →
        s.LeafEnded t a.task (s.bitsAt j 64) j d g)

/-- R176, R177: POPT with an empty deque writes 0 and is no suspension point. With a record in the deque, where the core may start
it, POPT performs EXIT and the strand of R103 of the record starts in the same bank: the oldest in breadth-first mode, the newest
in depth-first mode, leaves the deque; the new strand has the frame just returned, the next frame is the head of the pool, and it
issues 40 cycles later; and the leaf that had not ended has ended. RNEXT of a range that has indices left writes the first to rd and
the end of the chunk, GRAIN further or HI, to re, and steps the range; of an empty range it ends the leaf if that has not ended
(R105), writes HI to both and passes a suspension point. -/
def Obligations.RangesAndDeques : Prop :=
  ∀ (s : State) (rd re : Reg) (j d g key : Nat), (s.bank s.here).status = .running →
    let a := s.strand s.here
    let k := s.core s.cur
    let grain := max 1 (a.task.toNat / 2 ^ 480)
    let e := min (a.next.toNat + grain) a.hi.toNat
    let record := s.dequeBits s.cur (if k.depthFirst then k.old.toNat + k.dqn.toNat - 1 else k.old.toNat)
    let both (r : Reg) : Word := if r ≠ 0 ∧ (r = rd ∨ r = re) then a.hi else a.kept r
    (k.dqn = 0 → k.spn = 0 → Done (exec (.popt rd) s) (s.Wrote · rd 0)) ∧
    (k.dqn ≠ 0 → k.spn = 0 → s.mustDrain = false → s.NoDrain → (s.bank s.here).mark = none → s.holding s.cur = false →
      a.leafEnded = true ∨ (s.LeafWords a.task j d g ∧ LeafClear key 1024 j d g) →
      s.Names s.cur a.sfp 1024 512 key → a.sfp ≠ 0 → s.bad = [] → s.MemoryWf →
      k.fphead >>> 9 ≠ 0 ∨ s.part.evbase >>> 9 = 0 →
      Done (exec (.popt rd) s) fun t => s.Timed t 40 (.recordLoadDone s.here) ∧
        t.bank s.here = { s.bank s.here with
          live := true, strand := strandOf record a.sfp (s.seq + 1), status := .reply .other 0 0 } ∧
        (t.core s.cur).dqn = k.dqn - 1 ∧ (t.core s.cur).old = (if k.depthFirst then k.old else k.old + 1) ∧
        (t.core s.cur).fphead = k.fphead >>> 9 <<< 9 ∧ (∀ b ∈ (t.core s.cur).bound, b.2 ≠ a.sfp) ∧
        (t.quad (quadOf s.cur)).holds a.sfp = false ∧
        (a.leafEnded = false → s.LeafEnded t a.task (s.bitsAt j 64) j d g)) ∧
    (a.next.toNat < a.hi.toNat → Done (exec (.rnext rd re) s) fun t => s.OnlyBank t s.here ∧
      t.pc = s.pc + 32 ∧ (∀ r, t.reg r = if r = re ∧ re ≠ 0 then BitVec.ofNat 64 e else s.with rd a.next r) ∧
      t.bank s.here = { s.bank s.here with strand := { a with
        x := (t.strand s.here).x, pc := (t.strand s.here).pc, next := BitVec.ofNat 64 e } }) ∧
    (a.hi.toNat ≤ a.next.toNat → s.mustDrainVectors = false → s.NoDrain → (s.bank s.here).mark = none →
      (a.leafEnded = true → Done (exec (.rnext rd re) s) fun t => s.OnlyBank t s.here ∧
        t.bank s.here = { s.bank s.here with strand := t.strand s.here } ∧ a.Passed (t.strand s.here) both) ∧
      (a.leafEnded = false → s.LeafWords a.task j d g → Done (exec (.rnext rd re) s) fun t => s.SameElsewhere t s.here ∧
        t.bank s.here = { s.bank s.here with strand := t.strand s.here } ∧
        { a with leafEnded := true }.Passed (t.strand s.here) both ∧
        s.LeafEnded t a.task (s.bitsAt j 64) j d g))

/-- R175, R345: a record in the own quad's scratchpad, well formed, of U privilege or of S privilege from S mode, with an
interval that is not empty, is pushed by SPAWN on the executing core's deque and by SPAWN.AT on that of the core in x[rs2]: the
deque has one record more, the record stands at its tail, JOIN, where there is one, a word of the own quad, holds 1, no
other bit of memory changes, and a bank of the core is to be filled. R346: a record with an empty interval is pushed nowhere: JOIN is
written 1, and its leaf ends at once (R105). Either way the strand goes on at PC + 32 with its registers unchanged, and the core passes to
its next ready bank (R99). A record of S privilege from U mode is a privilege fault, with x[rs1] as TVAL. -/
def Obligations.SpawnPushesRecord : Prop :=
  ∀ (s : State) (rs1 rs2 : Reg) (key target j d g : Nat), s.Issues → s.MemoryWf → s.NamesOwn (s.reg rs1) 512 key →
    let r : BitVec 512 := BitVec.ofNat 512 (s.bitsAt key 512)
    let k := s.core target
    let dk := dequeKey target ((k.old.toNat + k.dqn.toNat) % 32)
    let outside (key w b : Nat) : Prop := b < key ∨ key + w ≤ b
    let aimed : Prop := ∃ x y : Nat, x < 1024 ∧ y < 1024 ∧ s.part.inside x y = true ∧ target = coreId x y ∧
      s.reg rs2 = BitVec.ofNat 64 (y * 2 ^ 32 + x)
    let goesOn (same : Prop) (t : State) : Prop :=
      t.strand s.here = { s.strand s.here with pc := s.pc + 32, msglat := (t.strand s.here).msglat } ∧
      (same → (t.strand s.here).msglat = (s.strand s.here).msglat)
    let pushes : State → Prop := s.Passes fun t => goesOn (quadOf target = quadOf s.cur) t ∧ t.full = s.full ∧
      (t.core target).dqn = k.dqn + 1 ∧ (t.core target).old = k.old ∧ t.Posted (.bankFill target) ∧
      t.bitsAt dk 512 = r.toNat ∧ (taskJoin r ≠ 0 → t.bitsAt j 64 = 1) ∧
      ∀ b, outside dk 512 b → (taskJoin r = 0 ∨ outside j 64 b) → t.bitsAt b 1 = s.bitsAt b 1
    let ends : State → Prop := s.Passes fun t => goesOn True t ∧
      (∀ c, (t.core c).dqn = (s.core c).dqn ∧ (t.core c).old = (s.core c).old) ∧ s.LeafEnded t r 1 j d g
    (taskSys r = true → s.user = true → s.Handles →
      Done (exec (.spawn rs1) s) (s.Trapped · 0x03 (s.reg rs1)) ∧
      Done (exec (.spawnAt rs1 rs2) s) (s.Trapped · 0x03 (s.reg rs1))) ∧
    ((taskSys r = true → s.user = false) → r.extractLsb' 474 6 = 0 → (taskEntry r).toNat % 32 = 0 →
      ((taskLo r).toNat < (taskHi r).toNat → k.dqn.toNat < 32 → (taskJoin r ≠ 0 → s.NamesOwn (taskJoin r) 64 j) →
        (s.quad (quadOf s.cur)).deferred = [] → (s.quad (quadOf target)).deferred = [] →
        (target = s.cur → Done (exec (.spawn rs1) s) pushes) ∧ (aimed → Done (exec (.spawnAt rs1 rs2) s) pushes)) ∧
      ((taskHi r).toNat ≤ (taskLo r).toNat → s.LeafWords r j d g →
        Done (exec (.spawn rs1) s) ends ∧ (aimed → Done (exec (.spawnAt rs1 rs2) s) ends)))

/-- R175: SPAWN.W and SPAWN.AT.W push the record as the other forms do and then do as TAKE.b64 does on GATE, here a word
of the own quad on which nothing waits. Full, it is read into rd and emptied, and the strand passes a suspension point;
empty, the strand waits at its instruction, and its request is held at the home. -/
def Obligations.SpawnThenTakesGate : Prop :=
  ∀ (s : State) (rd rs1 rs2 : Reg) (key gate target : Nat), s.Issues → s.MemoryWf → s.mustDrainVectors = false →
    s.NoDrain → (s.bank s.here).mark = none → s.NamesOwn (s.reg rs1) 512 key →
    let r : BitVec 512 := BitVec.ofNat 512 (s.bitsAt key 512)
    s.NamesOwn (taskGate r) 64 gate → taskGate r ≠ 0 →
    (taskSys r = true → s.user = false) → r.extractLsb' 474 6 = 0 → (taskEntry r).toNat % 32 = 0 → taskJoin r = 0 →
    (taskLo r).toNat < (taskHi r).toNat → (s.core target).dqn.toNat < 32 →
    (s.quad (quadOf target)).deferred = [] → (s.quad (quadOf s.cur)).deferred = [] →
    let a := s.strand s.here
    let pushed (t : State) : Prop :=
      (t.core target).dqn = (s.core target).dqn + 1 ∧
      t.bitsAt (dequeKey target (((s.core target).old.toNat + (s.core target).dqn.toNat) % 32)) 512 = r.toNat
    let measured (t : State) : Strand :=
      { a with msglat := if quadOf target = quadOf s.cur then a.msglat else (t.strand s.here).msglat }
    let does (t : State) : Prop := pushed t ∧
      if gate / 64 ∈ s.full then
        (measured t).Passed (t.strand s.here) (fun x => if x = rd ∧ rd ≠ 0 then BitVec.ofNat 64 (s.bitsAt gate 64)
          else a.kept x) ∧ gate / 64 ∉ t.full ∧ (t.bank s.here).status = .running
      else t.strand s.here = measured t ∧ (t.bank s.here).status = .reply .spawn (taskGate r) (s.seq + 1) ∧
        ∃ m, m ∈ (t.quad (quadOf s.cur)).deferred ∧ m.op = .take ∧ m.src = s.here ∧ m.parts = [⟨gate, 64⟩] ∧ m.rd = rd
    (target = s.cur → Done (exec (.spawnW rd rs1) s) does) ∧
    (∀ x y : Nat, x < 1024 → y < 1024 → s.part.inside x y = true → target = coreId x y →
      s.reg rs2 = BitVec.ofNat 64 (y * 2 ^ 32 + x) → Done (exec (.spawnAtW rd rs1 rs2) s) does)

/-! ## Barriers and routes -/

/-- R108, R109, R179: at a BARR of any kind on a granted channel of which the core is a member and in whose present phase it
has not arrived, the core's arrival count rises by one, BPEND records the phase, and the strand goes on at PC + 32. BWAIT
with no phase recorded, or one that has been released, passes a suspension point and forgets the phase. R108, R109, R112: at
a release the channel's next phase begins, no core has arrived in it, the frames of its routes are counted from now, and
every bank keeps its strand. A channel the partition was not granted, or of which the core is no member, raises a barrier
fault at BARR and BWAIT. -/
def Obligations.Barriers : Prop :=
  (∀ (s : State) (c : BitVec 4), let ch := c.toNat
     s.part.grant.getLsbD ch = true → (s.core s.cur).bcnt ch ≠ 0 →
     let a := s.strand s.here
     let phase := (s.channel ch).phase
     (s.barrWaits ch = false → (s.bank s.here).status = .running →
       ∀ i ∈ [Instr.barrNone c, .barrNamed c, .barrAll c], Done (exec i s) fun t =>
         t.core s.cur = { s.core s.cur with
           banks := (t.core s.cur).banks, arrivals := (t.core s.cur).arrivals } ∧
         (∀ k, (t.core s.cur).arrivals.get 0 k = (s.core s.cur).arrivals.get 0 k + if k = ch then 1 else 0) ∧
         t.bank s.here = { s.bank s.here with strand :=
           { a with pc := a.pc + 32, bpend := (t.strand s.here).bpend, joined := a.joined.set ch phase } } ∧
         nibble (t.strand s.here).bpend ch = 8 + phase % 8 ∧
         (∀ k < 16, k ≠ ch → nibble (t.strand s.here).bpend k = nibble a.bpend k) ∧
         (∀ q, q ≠ s.here → t.bank q = s.bank q) ∧ t = { s with cores := t.cores, timers := t.timers }) ∧
     (s.mustDrainVectors = false → s.NoDrain →
       (nibble a.bpend ch < 8 ∨ ∃ n, a.joined.find ch = some n ∧ n % 8 = nibble a.bpend ch % 8 ∧ n < phase) →
       (s.bank s.here).mark = none → Done (exec (.bwait c) s) fun t =>
         s.OnlyBank t s.here ∧ nibble (t.strand s.here).bpend ch < 8 ∧
         (∀ k < 16, k ≠ ch → nibble (t.strand s.here).bpend k = nibble a.bpend k) ∧
         t.bank s.here = { s.bank s.here with strand := t.strand s.here, status := .running } ∧
         { a with bpend := (t.strand s.here).bpend, joined := a.joined.erase ch }.Passed (t.strand s.here) a.kept)) ∧
  (∀ (s : State) (c : BitVec 4), let ch := c.toNat
     (Done (exec (.barrierRelease c) s) fun t =>
       (t.channel ch).phase = (s.channel ch).phase + 1 ∧ (t.channel ch).lastRelease = some s.now ∧
       (∀ k, k ≠ ch → t.channel k = s.channel k) ∧ (∀ k, (t.core k).arrivals.get 0 ch = 0) ∧
       (∀ p, (t.bank p).strand = (s.bank p).strand) ∧ t.mem = s.mem) ∧
     (s.part.grant.getLsbD ch = false ∨ (s.core s.cur).bcnt ch = 0 → s.Handles →
       ∀ i ∈ [Instr.barrNone c, .barrNamed c, .barrAll c, .bwait c],
         Done (exec i s) (s.Trapped · 0x0C s.wordHere)))

/-- R113, R114, R361, R362: SXMIT of one beat in the own quad's scratchpad, on a route whose buffer is free, copies it into the
route's send buffer for the first frame from x[rs2] on whose slot has not passed, counting a miss where that is a later one,
and the strand goes on; in its slot the payload leaves the buffer; it is landed in the destination's scratchpad after the
route's latency, and the arrival count rises by one, and the miss count too where it entered as a dynamic message; SXWAIT goes
on once the count has reached x[rs1], modulo 2³². -/
def Obligations.RoutesCarryPayloads : Prop :=
  ∀ (s : State) (id : BitVec 8) (rs1 rs2 : Reg) (r : Route) (rel key : Nat), s.part.routes.find id.toNat = some r →
    s.frameBase r = some rel → rel ≤ s.now → r.decl.slot < 1024 → s.bad = [] →
    (s.bank s.here).status = .running →
    let f := (s.reg rs2).toNat
    let due (g : Nat) : Nat := rel + 1024 * g + r.decl.slot
    (r.decl.src = s.cur → r.buffer = none → r.freeAt ≤ s.now → r.decl.beats = 1 → s.Names s.cur (s.reg rs1) 256 256 key →
      Done (exec (.sxmit id rs1 rs2) s) fun t => ∃ g, f ≤ g ∧ s.now ≤ due g ∧
        (∀ h, f ≤ h → h < g → due h < s.now) ∧
        t.part.routes.find id.toNat = some { r with
          buffer := some [BitVec.ofNat 256 (s.bitsAt key 256)], leave := g, freeAt := due g + 1
          misses := r.misses + if g = f then 0 else 1 } ∧
        s.Timed t (due g - s.now) (.routeSlotInject id) ∧ { s with part := t.part, timers := t.timers }.WentTo t (s.pc + 32)) ∧
    (∀ b, r.buffer = some b → due r.leave ≤ s.now → Done (exec (.routeSlotInject id) s) fun t =>
      t.part.routes.find id.toNat = some { r with
        buffer := none, flying := r.flying ++ [(r.detoured, b)], freeAt := s.now + r.decl.beats } ∧
      s.Timed t (r.latency + r.decl.beats - 1) (.routeLand id) ∧ t = { s with part := t.part, timers := t.timers }) ∧
    (∀ dynamic w rest, r.flying = (dynamic, [w]) :: rest → s.MemoryWf → r.decl.land < 7 * 2 ^ 17 → r.decl.dst < 2 ^ 20 →
      (∀ q, (s.quad q).deferred = [] ∧ (s.cluster q).watched = [] ∧ (s.cluster q).batches = []) →
      Done (exec (.routeLand id) s) fun t =>
        s.Stored t (scratchBase (quadOf r.decl.dst) + r.decl.land) 256 w.toNat ∧
        t.part.routes.find id.toNat = some { r with
          flying := rest, arrivals := r.arrivals + 1, misses := r.misses + if dynamic then 1 else 0 }) ∧
    (r.decl.dst = s.cur → (r.arrivals - (s.reg rs1).extractLsb' 0 32).toNat < 2 ^ 31 →
      Done (exec (.sxwait id rs1) s) (s.WentTo · (s.pc + 32)))

/-! ## Residency and stealing -/

/-- R95, R96, R98, R99, R101, R104, R107, R347 to R349, the steps that bring strands to banks and take them away: what each
leaves where it acts. A bank that is filled from a deque in breadth-first mode takes its oldest record: the strand of R103
starts with the frame at the head of the pool, issues 40 cycles later, and the next frame is the head. A record that is
loaded issues, with CAUSE 0. A strand that has stopped to be written back, its queue drained, a slot of the pool free, is in
its core's run list as runnable, and its bank is free. A strand that waits is looked at again 1,024 cycles later, and
written back where a runnable record has waited as long. After its 4,096 cycles a strand's core passes to the next ready bank.
A thief asks the next victim; a victim gives its oldest record, where it may be taken and is not split; the thief starts
it, or asks the next victim after a refusal; and after its 512 cycles a thief looks again. -/
def Obligations.ResidencySteps : Prop :=
  ∀ (s : State) (c v key i : Nat) (b : Fin 4) (r : BitVec 512),
    let p : Place := ⟨c, b⟩
    let frame := (s.core c).fphead >>> 9 <<< 9
    let sound : Prop := s.MemoryWf ∧ s.bad = []
    let starts (r : BitVec 512) (t : State) : Prop :=
      (t.bank p).live = true ∧ (t.bank p).strand = strandOf r frame (s.seq + 1) ∧ s.Timed t 40 (.recordLoadDone p) ∧
      (t.core c).fphead = BitVec.ofNat 64 (s.bitsAt key 64) >>> 9 <<< 9 ∧ t.Posted (.bankFill c)
    ((s.core c).freeBank = some b → (s.quad (quadOf c)).gate = .on → s.holding c = false → (s.core c).parked = [] →
      (s.core c).depthFirst = false → (s.core c).spn = 0 → 0 < (s.core c).dqn.toNat → frame ≠ 0 →
      s.Names c frame 1024 512 key → sound → Done (exec (.bankFill c) s) fun t =>
        starts (s.dequeBits c (s.core c).old.toNat) t ∧
        (t.core c).dqn = (s.core c).dqn - 1 ∧ (t.core c).old = (s.core c).old + 1) ∧
    ((s.bank p).live = true → (s.bank p).status = .reply .other 0 0 → (s.strand p).cause = 0 →
      Done (exec (.recordLoadDone p) s) (s.NowHolds · p (s.strand p) .running)) ∧
    ((s.bank p).live = true → (s.strand p).trap = false → (s.bank p).status = .stopped false →
      s.busy c (s.strand p).sfp = false → s.Names c (s.strand p).sfp 1024 512 key → sound →
      (s.core c).rln.toNat < 32 → (s.quad (quadOf c)).freePool = some i →
      Done (exec (.recordWriteback p) s) fun t => (t.bank p).live = false ∧
        ∃ x ∈ (t.core c).parked, x.sfp = (s.strand p).sfp ∧ x.runnable = true ∧ x.place = i) ∧
    ((s.bank p).live = true → (s.bank p).status.suspended = true → (s.strand p).trap = false →
      Done (exec (.waitWritebackTimeout p) s) fun t => s.Timed t 1024 (.waitWritebackTimeout p) ∧
        t = { s with timers := t.timers, agenda := t.agenda } ∧
        (t.Posted (.recordWriteback p) ↔ s.Posted (.recordWriteback p) ∨ s.wanting c 1024 = true)) ∧
    (Done (exec (.issueGuardExpiry c) s) fun t => t = { s with cores := t.cores } ∧
      (t.core c).cur = (s.core c).nextBank (s.core c).cur ∧ (t.core c).guard = 0 ∧ (t.core c).banks = (s.core c).banks) ∧
    (∀ i, (s.core c).steal = some i → s.idleCore c = true → (s.victims c)[i]? = some v →
      Done (exec (.stealRequest c) s) (· = { s with agenda := s.agenda ++ [.event (.stealAnswer c v)] })) ∧
    (let r := s.dequeBits v (s.core v).old.toNat
     (s.quad (quadOf v)).noSteal = false → s.frozen (quadOf v) = false → (s.core v).spn = 0 →
      0 < (s.core v).dqn.toNat → s.part.placed r c = true → splitPoint r (taskLo r) (taskHi r) = none →
      Done (exec (.stealAnswer c v) s) fun t =>
        t = { s with cores := t.cores, agenda := s.agenda ++ [.event (.stealReply c (.task r))] } ∧
        t.core v = { s.core v with dqn := (s.core v).dqn - 1, old := (s.core v).old + 1 } ∧
        ∀ d, d ≠ v → t.core d = s.core d) ∧
    Done (exec (.splitJoinReply c v r) s) (· = { s with agenda := s.agenda ++ [.event (.stealReply c (.task r))] }) ∧
    ((s.core c).freeBank = some b → s.holding c = false → frame ≠ 0 → s.Names c frame 1024 512 key → sound →
      Done (exec (.stealReply c (.task r)) s) (starts r)) ∧
    (Done (exec (.stealReply c .refusal) s) fun t => t = { s with
        cores := t.cores, agenda := s.agenda ++ [.event (.stealRequest c)] } ∧
      t.core c = { s.core c with steal := (s.core c).steal.map (· + 1) } ∧ ∀ d, d ≠ c → t.core d = s.core d) ∧
    Done (exec (.stealRoundTimer c) s) fun t => t = { s with
        cores := t.cores, agenda := s.agenda ++ [.event (.bankFill c)] } ∧
      t.core c = { s.core c with stealIdle := false } ∧ ∀ d, d ≠ c → t.core d = s.core d

/-- R115, R116, R314: where every core is listed in the wait tables, a strand of U mode waits, the fabric has been idle for
10,000 cycles and the tables have changed since the last trap, the hang trap is of kind 1: with no snapshot buffer and
HANGW naming an empty word, 1 is PUT there and the word is full. -/
def Obligations.HangTrapSignals : Prop :=
  ∀ (s : State) (l : List WaitEntry) (key q : Nat), s.hangs = some l → s.part.hangbuf = 0 → s.part.hangw ≠ 0 →
    s.MemoryWf → s.bad = [] → s.locate 0 false false .atomic s.part.hangw 64 64 = .ok [⟨key, 64⟩] (.scratch q) →
    scratchBase 0 ≤ key → key < trackBase 0 → key / 64 ∉ s.full → (∀ q, (s.quad q).deferred = []) →
    Done (exec .hangTrap s) fun t => s.Stored t key 64 1 ∧ key / 64 ∈ t.full ∧ t.part = { s.part with reported := l } ∧
      t.cores = s.cores

/-! ## Traps, CSRs and privileged instructions -/

/-- R311, R312, R313, R188, R310: ECALL and EBREAK enter the handler, with cause 0x12 from U mode, 0x13 from S mode and TVAL 0,
or 0x11 and the PC; an undefined word enters it with cause 0x02 and the word. TRET of S mode in a handler returns: PRIV is
PPRIV, TRAP 0, the PC TEPC, and nothing else differs. A fault in a handler halts the strand, its registers as they were,
and raises a partition trap of kind 2. -/
def Obligations.TrapEntryAndReturn : Prop :=
  ∀ (s : State) (w : BitVec 32),
    (s.Handles →
      Done (exec .ecall s) (s.Trapped · (if s.user then 0x12 else 0x13) 0) ∧
      Done (exec .ebreak s) (s.Trapped · 0x11 s.pc) ∧
      Done (exec (.illegalInstruction w) s) (s.Trapped · 0x02 (w.setWidth 64))) ∧
    ((s.strand s.here).trap = true → (s.bank s.here).mark = none →
      (s.user = false → Done (exec .tret s) (s.NowHolds · s.here { s.strand s.here with
        priv := (s.strand s.here).ppriv, trap := false, pc := (s.bank s.here).tepc } .running)) ∧
      ∀ i ∈ [Instr.ecall, .ebreak, .illegalInstruction w], Done (exec i s) fun t =>
        t.bank s.here = { s.bank s.here with status := .halted } ∧
        t = { s with cores := t.cores, agenda := s.agenda ++ [.partitionTrap 2 s.here] })

/-- R129, R189: a CSR instruction writes the old value of the CSR to rd and to the CSR its operand, the operand or'ed in, or the
operand's bits cleared; CSRRS, CSRRC, CSRRSI and CSRRCI whose rs1 or immediate is 0 only read. One that names SKSTAT or FX
waits while a command of its strand has not completed. A number that is not defined, or a write to one that may only be
read, is an illegal instruction, a trap CSR from U mode a privilege fault. R190, R307, R309: what the CSRs read as, and what
writing them changes: SKSTAT takes FX and DLOSS, and PPRIV in S mode only; FX takes its five flags; HKEY 15 bits; SHARE 4 bits, 0
being stored as 1; TVEC keeps bits 63:5; TCAUSE 8 bits; TVAL, TEPC, TSCRATCH and QPROG all of the value; each of these leaves
every other register, memory and the partition as they were. QERR keeps bit 0 and bits 63:28, its commands' tags and the heads being
looked at again; NOTICE keeps an address of a layer-0 word of the partition that is a multiple of 64, and stores 0 for every other value;
BMASK is written for the core, for the channels that may adopt it; ATOMODE hands the value to its own write. Four points are the
model's choice: that CYCLE counts fabric cycles from the partition's creation (log entry 5), that BMASK reads as the value written last
(log entry 14), that a NOTICE outside the partition is stored as 0 (log entry 26), and that a U-mode write of SKSTAT raises
no fault (log entry 70). -/
def Obligations.ControlRegisters : Prop :=
  (∀ (s : State) (rd rs1 : Reg) (u : BitVec 5) (csr : BitVec 12),
     let n := csr.toNat
     let old := s.readCsr n
     let x := s.reg rs1
     let i : Word := u.setWidth 64
     let flags : Prop := n = 0x800 ∨ n = 0x801
     let writes (v : Word) (t : State) : Prop := t = (s.writeCsr n v).complete rd old
     let all := [Instr.csrrw rd rs1 csr, .csrrs rd rs1 csr, .csrrc rd rs1 csr, .csrrwi rd u csr, .csrrsi rd u csr,
       .csrrci rd u csr]
     (csrUse n s.user = .write ↔ (0x800 ≤ n ∧ n ≤ 0x803) ∨ (s.user = false ∧ n ∈ [0xC04, 0xC05, 0xC09, 0xC0A, 0xC0C]) ∨
       (s.user = false ∧ 0x100 ≤ n ∧ n ≤ 0x108)) ∧
     (csrUse n s.user = .read ↔ 0xC00 ≤ n ∧ n ≤ 0xC0C ∧ ¬ (s.user = false ∧ n ∈ [0xC04, 0xC05, 0xC09, 0xC0A, 0xC0C])) ∧
     (csrUse n s.user = .privileged ↔ s.user = true ∧ 0x100 ≤ n ∧ n ≤ 0x108) ∧
     ((s.bank s.here).status = .running → (flags → s.mustDrain = false) →
       (csrUse n s.user = .write →
         Done (exec (.csrrw rd rs1 csr) s) (writes x) ∧ Done (exec (.csrrwi rd u csr) s) (writes i) ∧
         (rs1 ≠ 0 → Done (exec (.csrrs rd rs1 csr) s) (writes (old ||| x)) ∧
           Done (exec (.csrrc rd rs1 csr) s) (writes (old &&& ~~~x))) ∧
         (u ≠ 0 → Done (exec (.csrrsi rd u csr) s) (writes (old ||| i)) ∧
           Done (exec (.csrrci rd u csr) s) (writes (old &&& ~~~i)))) ∧
       (csrUse n s.user = .write ∨ csrUse n s.user = .read →
         (rs1 = 0 → Done (exec (.csrrs rd rs1 csr) s) (s.Wrote · rd old) ∧
           Done (exec (.csrrc rd rs1 csr) s) (s.Wrote · rd old)) ∧
         (u = 0 → Done (exec (.csrrsi rd u csr) s) (s.Wrote · rd old) ∧
           Done (exec (.csrrci rd u csr) s) (s.Wrote · rd old)))) ∧
     (flags → s.mustDrain = true → ∀ j ∈ all, Done (exec j s) fun t => t = { s with cores := t.cores } ∧
       t.bank s.here = { s.bank s.here with status := .stalled .other 0 0 }) ∧
     (s.Handles →
       (csrUse n s.user = .illegal → ∀ j ∈ all, Done (exec j s) (s.Trapped · 0x02 s.wordHere)) ∧
       (csrUse n s.user = .privileged → ∀ j ∈ all, Done (exec j s) (s.Trapped · 0x03 s.wordHere)) ∧
       (csrUse n s.user = .read →
         (∀ j ∈ [Instr.csrrw rd rs1 csr, .csrrwi rd u csr], Done (exec j s) (s.Trapped · 0x02 s.wordHere)) ∧
         (rs1 ≠ 0 → ∀ j ∈ [Instr.csrrs rd rs1 csr, .csrrc rd rs1 csr], Done (exec j s) (s.Trapped · 0x02 s.wordHere)) ∧
         (u ≠ 0 → ∀ j ∈ [Instr.csrrsi rd u csr, .csrrci rd u csr], Done (exec j s) (s.Trapped · 0x02 s.wordHere))))) ∧
  (∀ (s : State) (v : Word), let p := s.here
     let a := s.strand p
     let k := s.core s.cur
     let only (t : State) (b : Strand) : Prop := s.OnlyBank t p ∧ t.bank p = { s.bank p with strand := b }
     let holds (t : State) (b : Bank) : Prop := s.OnlyBank t p ∧ t.bank p = b
     (∀ n ∈ [0xC09, 0x106], s.readCsr n = a.qerr) ∧ (∀ n ∈ [0xC0A, 0x107], s.readCsr n = a.qprog) ∧
     (∀ n ∈ [0xC0C, 0x105], s.readCsr n = a.notice) ∧ (∀ n ∈ [0xC05, 0x108], s.readCsr n = k.bmaskNew) ∧
     s.readCsr 0x801 = a.fx.setWidth 64 ∧ s.readCsr 0x802 = a.hkey.setWidth 64 ∧ s.readCsr 0x803 = a.share.setWidth 64 ∧
     s.readCsr 0xC00 = BitVec.ofNat 64 (s.now - s.part.created) ∧ s.readCsr 0xC01 = BitVec.ofNat 64 s.now ∧
     s.readCsr 0xC02 = BitVec.ofNat 64 (s.cur / 1024 * 2 ^ 32 + s.cur % 1024) ∧ s.readCsr 0xC03 = s.part.ident.setWidth 64 ∧
     s.readCsr 0xC06 = k.shiftct ∧ s.readCsr 0xC07 = k.shiftac ∧ s.readCsr 0xC08 = a.msglat ∧ s.readCsr 0xC0B = a.sfp ∧
     s.readCsr 0x100 = k.tvec ∧ s.readCsr 0x101 = (s.bank p).tcause.setWidth 64 ∧ s.readCsr 0x102 = (s.bank p).tval ∧
     s.readCsr 0x103 = (s.bank p).tepc ∧ s.readCsr 0x104 = (s.bank p).tscratch ∧ s.readCsr 0xC04 = s.part.atomode ∧
     s.readCsr 0x800 = BitVec.ofNat 64 (a.fx.toNat + 2 ^ 8 * a.dloss.toNat + 2 ^ 12 * (s.npend s.cur a).toNat +
       2 ^ 13 * a.priv.toNat + 2 ^ 14 * a.ppriv.toNat + 2 ^ 15 * a.trap.toNat) ∧
     only (s.writeCsr 0x800 v) { a with
       fx := BitVec.ofNat 5 v.toNat, dloss := v.getLsbD 8, ppriv := if s.user then a.ppriv else v.getLsbD 14 } ∧
     only (s.writeCsr 0x801 v) { a with fx := BitVec.ofNat 5 v.toNat } ∧
     only (s.writeCsr 0x802 v) { a with hkey := BitVec.ofNat 15 v.toNat } ∧
     only (s.writeCsr 0x803 v) { a with share := if v.toNat % 16 = 0 then 1 else BitVec.ofNat 4 v.toNat } ∧
     (∀ n ∈ [0xC0A, 0x107], only (s.writeCsr n v) { a with qprog := v }) ∧
     s.writeCsr 0x100 v = { s with cores := (s.writeCsr 0x100 v).cores } ∧
     (∀ c, (s.writeCsr 0x100 v).core c =
       if c = s.cur then { k with tvec := BitVec.ofNat 64 (v.toNat / 32 * 32) } else s.core c) ∧
     holds (s.writeCsr 0x101 v) { s.bank p with tcause := BitVec.ofNat 8 v.toNat } ∧
     holds (s.writeCsr 0x102 v) { s.bank p with tval := v } ∧ holds (s.writeCsr 0x103 v) { s.bank p with tepc := v } ∧
     holds (s.writeCsr 0x104 v) { s.bank p with tscratch := v } ∧
     s.writeCsr 0xC04 v = { s with agenda := s.agenda ++ [.event (.atomodeWrite v)] } ∧
     (∀ n ∈ [0xC09, 0x106], let t := s.writeCsr n v
       { s with agenda := t.agenda }.OnlyBank t p ∧
       t.bank p = { s.bank p with strand := { a with qerr := v &&& 0xFFFFFFFFF0000001 } } ∧
       t.Posted (.qtagAdvance s.cur) ∧ .offer s.cur ∈ t.agenda) ∧
     (∀ n ∈ [0xC05, 0x108], let t := s.writeCsr n v
       t = { s with cores := t.cores, part := { s.part with orKind := t.part.orKind, cbw := t.part.cbw } } ∧
       ∀ c, t.core c = { s.core c with
         bmask := (t.core c).bmask, bmaskNew := if c = s.cur then v else (s.core c).bmaskNew }) ∧
     (∀ n ∈ [0xC0C, 0x105],
       let at' (lo k : Nat) : Nat := v.toNat / 2 ^ lo % 2 ^ k
       let sp := at' 61 3
       let x : Int := coreX s.cur + (v.extractLsb' 51 10).toInt
       let y : Int := coreY s.cur + (v.extractLsb' 41 10).toInt
       let own : Prop := s.modid.getLsbD 63 = true ∧ s.modid.toNat % 2 ^ 12 = at' 49 12
       let keeps (ok : Prop) : Prop := (ok → only (s.writeCsr n v) { a with notice := v }) ∧
         (¬ ok → only (s.writeCsr n v) { a with notice := 0 })
       (sp = 0 → keeps (s.part.inside (at' 51 10) (at' 41 10) = true ∧ at' 0 41 < 2 ^ 20 ∧ v.toNat % 64 = 0)) ∧
       (sp = 2 → x < 1024 → y < 1024 →
         keeps (0 ≤ x ∧ x < s.part.width ∧ 0 ≤ y ∧ y < s.part.height ∧ at' 0 41 < 2 ^ 20 ∧ v.toNat % 64 = 0)) ∧
       (sp = 4 → keeps (own ∧ s.part.inside (at' 39 10) (at' 29 10) = true ∧ at' 0 29 < 2 ^ 20 ∧ v.toNat % 64 = 0)) ∧
       (sp = 1 ∨ sp = 3 ∨ 5 ≤ sp → keeps False)))

/-- R315: each privileged instruction raises a privilege fault in U mode, with the instruction word as TVAL and no effect.
R316 to R319, R322, in S mode. L2PSET whose target is no spare that is on and did not fail harvest writes all ones; one that
may move begins the move of the quad and waits; one that meets another move of its cluster joins the cluster's requests and
waits; when the move it waits for is over it writes the physical quad that served before, and where it was refused then, all
ones. TLBINV drops the cached translations that cover a page, or all of them, and no other. CAPMINT writes the capability of
a rectangle inside the partition. PREEMPT marks a strand that runs on the bank it selects, sets the end of the window, and
waits; of a core with no other live strand it writes 0. QDRAIN waits while a command of a selected strand is left, and goes
on once none is. -/
def Obligations.PrivilegedInstructions : Prop :=
  (∀ (s : State) (rd rs1 : Reg), s.user = true → s.Handles →
     ∀ i ∈ [Instr.tret, .l2pset rd rs1, .tlbinvPage rs1, .tlbinvAll, .capmint rd rs1, .preempt rd rs1, .qdrain rs1],
       Done (exec i s) (s.Trapped · 0x03 s.wordHere)) ∧
  (∀ (s : State) (rd rs1 : Reg) (c : Nat) (n : Nat), s.user = false → (s.bank s.here).status = .running →
     let v := s.reg rs1
     let q := quadOf c
     let cl := clusterOfQuad q
     let pq := v.toNat / 2 ^ 20 % 32
     let phys := 32 * s.part.physCluster cl + pq
     let old := (s.l2pOf q).pq.toNat
     let may : Prop := pq < 20 ∧ (s.servedBy cl pq).isSome = false ∧ (s.quad (spareKey phys)).gate = .on ∧
       s.failedHarvest phys = false
     let waits (t : State) (d : Nat) : Prop := (t.bank s.here).status = .stalled .other v d ∧ t.strand s.here = s.strand s.here
     let goesOn (t : State) : Prop :=
       t.bank s.here = { s.bank s.here with strand := { s.strand s.here with pc := s.pc + 32 } } ∧
       (∀ p, p ≠ s.here → t.bank p = s.bank p) ∧ ∀ k, t.core k = { s.core k with
         banks := (t.core k).banks, itlb := (t.core k).itlb, dtlb := (t.core k).dtlb, draining := (t.core k).draining }
     let covers (e : TlbEntry) : Prop := v.toNat % 2 ^ 51 / 2 ^ e.bits = e.va / 2 ^ e.bits
     (s.operandCore v = some c → v.toNat < 2 ^ 25 →
       (s.clusterMoves cl = false →
         (¬ may → Done (exec (.l2pset rd rs1) s) (s.Wrote · rd (BitVec.allOnes 64))) ∧
         (may → Done (exec (.l2pset rd rs1) s) fun t => (t.quad q).move = some ⟨pq, old, false, false, true⟩ ∧
           waits t (old + 1) ∧ t.Posted (.migrationBoundary q) ∧ s.Timed t 12000 (.migrationForce q))) ∧
       (s.clusterMoves cl = true → Done (exec (.l2pset rd rs1) s) fun t => waits t 0 ∧
         (t.cluster cl).moves = (s.cluster cl).moves ++ [⟨q, some pq, some (s.here, (s.strand s.here).sfp)⟩]) ∧
       ((s.quad q).move = none → n < 2 ^ 64 → Done (exec (.l2pset rd rs1) (s.setStatus s.here (.stalled .other v (n + 1))))
         (s.Wrote · rd (BitVec.ofNat 64 n))) ∧
       Done (exec (.l2pset rd rs1) (s.setStatus s.here (.stalled .other v (2 ^ 64))))
         (s.Wrote · rd (BitVec.allOnes 64))) ∧
     (v.toNat / 2 ^ 61 = 1 → Done (exec (.tlbinvPage rs1) s) fun t => goesOn t ∧
       t = { s with cores := t.cores, clusters := t.clusters } ∧
       ∀ k, (∀ e, e ∈ (t.core k).itlb ↔ e ∈ (s.core k).itlb ∧ ¬ covers e) ∧
         (∀ e, e ∈ (t.core k).dtlb ↔ e ∈ (s.core k).dtlb ∧ ¬ covers e) ∧
         ∀ e, e ∈ (t.cluster k).tlb ↔ e ∈ (s.cluster k).tlb ∧ ¬ covers e) ∧
     (Done (exec .tlbinvAll s) fun t => goesOn t ∧ t = { s with cores := t.cores, clusters := t.clusters } ∧
       ∀ k, (t.core k).itlb = [] ∧ (t.core k).dtlb = [] ∧ (t.cluster k).tlb = []) ∧
     (v &&& 0xFFFF0000FFFFFFFF = 0 → s.part.capInside v = true → Done (exec (.capmint rd rs1) s)
       (s.Wrote · rd (s.part.capability (v.toNat / 2 ^ 40 % 256) (v.toNat / 2 ^ 32 % 256)))) ∧
     (s.selector v = some (c, List.finRange 4) → (∀ b, (s.bank ⟨c, b⟩).live = true → (⟨c, b⟩ : Place) = s.here) →
       Done (exec (.preempt rd rs1) s) (s.Wrote · rd 0)) ∧
     (∀ b, s.selector v = some (c, [b]) → (⟨c, b⟩ : Place) ≠ s.here → (s.bank ⟨c, b⟩).live = true →
       (s.bank ⟨c, b⟩).mark = none → (s.bank ⟨c, b⟩).status = .running → s.part.prewin ≠ 0 →
       Done (exec (.preempt rd rs1) s) fun t => waits t (2 ^ b.val) ∧ s.Timed t s.part.prewin.toNat (.preemptForcedSave ⟨c, b⟩) ∧
         t.bank ⟨c, b⟩ = { s.bank ⟨c, b⟩ with mark := some (s.now + s.part.prewin.toNat) }) ∧
     (∀ bs, s.selector v = some (c, bs) →
       let left : Prop := ∃ b ∈ bs, (s.bank ⟨c, b⟩).live = true ∧ s.busy c (s.strand ⟨c, b⟩).sfp = true
       (¬ left → Done (exec (.qdrain rs1) s) fun t => goesOn t ∧ t = { s with cores := t.cores }) ∧
       (left → Done (exec (.qdrain rs1) s) fun t => (t.bank s.here).status = .stalled .other v 0 ∧ t.pc = s.pc)))

/-- R188, R313, R319 to R321, R332: a SLEEP whose notice word is full goes on at once; one with a limit waits and is woken when
the limit has passed; both keep every register. A strand whose pre-emption window has ended, that runs and has nothing in
its queue, is saved in full: its registers stand in its frame, its record is a runnable one of its core's run list, and its
bank is free and reports 2. -/
def Obligations.SleepAndForcedSave : Prop :=
  ∀ (s : State) (rs1 : Reg) (p : Place) (d due key i : Nat),
    (s.npend s.cur (s.strand s.here) = true → (s.bank s.here).status = .running →
      Done (exec (.sleep rs1) s) (s.WentTo · (s.pc + 32))) ∧
    (s.npend s.cur (s.strand s.here) = false → (s.bank s.here).status = .running → s.reg rs1 ≠ 0 →
      Done (exec (.sleep rs1) s) fun t => t.strand s.here = s.strand s.here ∧
        (t.bank s.here).status = .stalled .sleep (s.strand s.here).notice (s.now + (s.reg rs1).toNat) ∧
        s.Timed t (s.reg rs1).toNat (.sleepTimeout s.here (s.now + (s.reg rs1).toNat))) ∧
    (∀ a, (s.bank p).status = .stalled .sleep a d → (s.bank p).live = true → d ≤ s.now →
      Done (exec (.sleepTimeout p d) s)
        (s.NowHolds · p { s.strand p with pc := (s.strand p).pc + 32 } .running)) ∧
    ((s.bank p).live = true → (s.bank p).status = .running → (s.bank p).mark = some due → due ≤ s.now →
      (s.strand p).trap = false → s.busy p.core (s.strand p).sfp = false →
      s.Names p.core (s.strand p).sfp 11264 512 key → s.MemoryWf → s.bad = [] → (∀ q, (s.quad q).deferred = []) →
      (s.core p.core).rln.toNat < 32 → (s.quad (quadOf p.core)).freePool = some i →
      Done (exec (.preemptForcedSave p) s) fun t => (t.bank p).live = false ∧ (t.bank p).outcome = 2 ∧
        (∀ r : Fin 32, r ≠ 0 → t.bitsAt (key + 1024 + 64 * r.val) 64 = ((s.strand p).x[r]).toNat) ∧
        (∀ r : Fin 32, t.bitsAt (key + 3072 + 256 * r.val) 256 = ((s.strand p).v[r]).toNat) ∧
        ∃ x ∈ (t.core p.core).parked, x.sfp = (s.strand p).sfp ∧ x.runnable = true ∧ x.place = i)

/-! ## Tracks, pages and descriptors -/

/-- R79, R80, R182: TBIND of an unbound track, with fewer than eight bindings and a head from 0 to 1,023, binds it to the strand
at that head and marks it occupied, and nothing moves; TFREE releases it, and it stays occupied only where it has
been written (R91); THEAD reads the head. Each goes on at PC + 32 and changes nothing else. TFREE waits while a track command of
the strand on the track has not completed, and THEAD while one has not issued. A track that is not the strand's, or
cannot be bound, is a track fault. -/
def Obligations.TrackBindings : Prop :=
  ∀ (s : State) (t : BitVec 7) (rd rs1 : Reg), (s.bank s.here).status = .running →
    let a := s.strand s.here
    let k := s.core s.cur
    let h := (s.reg rs1).toNat
    let queued : Prop := k.queuesTrack a.sfp t = true
    let issued : Prop := ∃ i ∈ (s.quad (quadOf s.cur)).out, i.sfp = a.sfp ∧ i.eng = 1 ∧ i.track = t.toNat
    let now (u : State) (b : Strand) (c : Core) : Prop := u = { s with cores := u.cores } ∧
      u.bank s.here = { s.bank s.here with strand := b } ∧ u.core s.cur = { c with banks := (u.core s.cur).banks } ∧
      (∀ j, j ≠ s.cur → u.core j = s.core j) ∧ ∀ q, q ≠ s.here → u.bank q = s.bank q
    let waits (u : State) : Prop := u = { s with cores := u.cores } ∧
      u.bank s.here = { s.bank s.here with status := .stalled .other 0 0 }
    (h ≤ 1023 → k.bound.find t.toNat = none → a.binds.length < 8 → a.headOf t = none →
      Done (exec (.tbind t rs1) s) fun u =>
        now u { a with binds := a.binds ++ [(t, BitVec.ofNat 10 h)], pc := a.pc + 32 } { k with bound := (u.core s.cur).bound } ∧
        (u.strand s.here).headOf t = some h ∧ (u.core s.cur).occupied t.toNat = true ∧
        ∀ j, (u.core s.cur).bound.find j = if j = t.toNat then some a.sfp else k.bound.find j) ∧
    ((a.headOf t).isSome = true →
      (¬ queued → ¬ issued → Done (exec (.tfree t) s) fun u =>
        now u { a with binds := a.binds.filter (·.1 != t), pc := a.pc + 32 } { k with bound := (u.core s.cur).bound } ∧
        (u.strand s.here).headOf t = none ∧ (u.core s.cur).occupied t.toNat = k.tocc.getLsbD t.toNat ∧
        ∀ j, (u.core s.cur).bound.find j = if j = t.toNat then none else k.bound.find j) ∧
      (queued ∨ issued → Done (exec (.tfree t) s) waits)) ∧
    (∀ n, a.headOf t = some n →
      (¬ queued → Done (exec (.thead rd t) s) (s.Wrote · rd (BitVec.ofNat 64 n))) ∧
      (queued → Done (exec (.thead rd t) s) waits)) ∧
    (s.Handles →
      (1023 < h ∨ (k.bound.find t.toNat).isSome = true ∨ 8 ≤ a.binds.length →
        Done (exec (.tbind t rs1) s) (s.Trapped · 0x08 s.wordHere)) ∧
      (a.headOf t = none → Done (exec (.tfree t) s) (s.Trapped · 0x08 s.wordHere) ∧
        Done (exec (.thead rd t) s) (s.Trapped · 0x08 s.wordHere)))

/-- R183, R184: PGALLOC takes a free page of its die's pool, in the own column where there is one, else in the own quad, else in
the own cluster, else anywhere in the pool, else one that the die has borrowed; it writes the page's address and marks the
page allocated. With no such page it waits for a batch from the first die of R184's order whose pool holds a free page; with
no such die it writes 0. A borrowing moves the lender's first 64 free pages. PGFREE of an allocated page, borrowed or not,
makes it free in the pool of the die that holds it; of anything else it is a pool fault with TVAL x[rs1]. None of these
changes memory. -/
def Obligations.PagePools : Prop :=
  ∀ (s : State) (rd rs1 : Reg) (p : Place) (lender : Nat), (s.bank s.here).status = .running →
    let a := s.reg rs1
    let d := s.part.dieOf s.cur
    let free := pagesIn (s.die d).pool .free
    let lent : Prop := ∃ e ∈ s.dies, pagesIn e.2.pool (.lentFree d) ≠ []
    let near (n : Nat) (k : Nat) : Prop := k ∈ free ∧ (n = 0 → k / 512 = s.cur) ∧ (n = 1 → quadOf (k / 512) = quadOf s.cur) ∧
      (n = 2 → clusterOf (k / 512) = clusterOf s.cur)
    let puts (t : State) (k : Nat) (x : PageState) : Prop := ∀ e, t.die e =
      if e = s.part.dieOf (k / 512) then { s.die e with pool := (s.die e).pool.set k x } else s.die e
    let takes (k : Nat) (t : State) : Prop :=
      puts t k (if s.part.dieOf (k / 512) = d then .allocated else .lentAllocated d) ∧
      t = { s with cores := t.cores, dies := t.dies } ∧ t.pc = s.pc + 32 ∧
      ∃ x : Word, (∀ r, t.reg r = s.with rd x r) ∧ (k < 2 ^ 29 →
        x.toNat = k / 512 % 1024 * 2 ^ 51 + k / 512 / 1024 * 2 ^ 41 + (8 + k % 512 / 64) * 2 ^ 37 + k % 64 * 2 ^ 18)
    let asked := ((s.part.lenders s.cur).map fun e => dieAt (e % 8) (e / 8)).find? fun e =>
      !(pagesIn (s.die e).pool .free).isEmpty
    let owner := s.part.dieOf (coreId (meshX a) (meshY a))
    let taken : Prop := isPage a = true ∧ s.part.inside (meshX a) (meshY a) = true ∧
      ((s.die owner).pool.find (pageKey a) = some .allocated ∨
        ∃ e, (s.die owner).pool.find (pageKey a) = some (.lentAllocated e))
    (∀ n < 4, (∃ k, near n k) → (∀ m < n, ∀ k, ¬ near m k) →
      Done (exec (.pgalloc rd) s) fun t => ∃ k, near n k ∧ takes k t) ∧
    (free = [] → lent → Done (exec (.pgalloc rd) s) fun t => ∃ k, (∃ e ∈ s.dies, k ∈ pagesIn e.2.pool (.lentFree d)) ∧
      takes k t) ∧
    (free = [] → ¬ lent →
      (∀ e, asked = some e → Done (exec (.pgalloc rd) s) fun t =>
        t = { s with cores := t.cores, agenda := s.agenda ++ [.event (.poolBorrowReply s.here e)] } ∧
        t.bank s.here = { s.bank s.here with status := .stalled .other 0 0 }) ∧
      (asked = none → Done (exec (.pgalloc rd) s) (s.Wrote · rd 0))) ∧
    (Done (exec (.poolBorrowReply p lender) s) fun t => t = { s with dies := t.dies } ∧
      (∀ k ∈ (pagesIn (s.die lender).pool .free).take 64,
        (t.die (s.part.dieOf (k / 512))).pool.find k = some (.lentFree (s.part.dieOf p.core))) ∧
      ∀ e k, k ∉ (pagesIn (s.die lender).pool .free).take 64 → (t.die e).pool.find k = (s.die e).pool.find k) ∧
    (taken → Done (exec (.pgfree rs1) s) fun t => { s with dies := t.dies }.WentTo t (s.pc + 32) ∧ puts t (pageKey a) .free) ∧
    (¬ taken → s.Handles → Done (exec (.pgfree rs1) s) (s.Trapped · 0x0E a))

/-- R186, on a descriptor, a page word and a generation that stand in the own quad's scratchpad, with the fields of R185 and the
slot, generation and address as R186 computes them. KVMAP writes the entry's address where the position is below L, in the
sink or the window, and the generation word holds the position's generation, and 0 otherwise; KVMAP.W of a position below
2³² stores the generation in the slot's word and writes the entry's address. A descriptor that is not valid, and for
KVMAP.W a position of 2³² or more, is a kv fault with TVAL x[rs1]. -/
def Obligations.SequenceDescriptors : Prop :=
  ∀ (s : State) (rd rs1 rs2 : Reg) (key : Nat → Nat) (gkey : Nat), s.bad = [] → s.MemoryWf →
    let desc := s.reg rs1
    let p := (s.reg rs2).toNat
    let w (i : Nat) : Nat := s.bitsAt (key i) 64
    let len := w 0 % 2 ^ 32
    let window := w 0 / 2 ^ 32
    let sink := w 1 % 2 ^ 32
    let elog := w 1 / 2 ^ 32 % 16
    let slot := if p < sink then p else sink + (p - sink) % window
    let gen := if p < sink then 0 else (p - sink) / window % 2 ^ 32
    let epp := 1024 / 2 ^ elog
    let page : Word := BitVec.ofNat 64 (w (4 + slot / epp))
    let entry : Word := page + BitVec.ofNat 64 (slot % epp * 2 ^ elog * 256)
    let valid : Prop := w 1 / 2 ^ 36 = 0 ∧ w 2 / 2 ^ 32 = 0 ∧ elog ≤ 10 ∧ (p < sink ∨ window ≠ 0) ∧ slot / epp < w 2 % 2 ^ 32 ∧
      isPage page = true
    let inRange : Prop := p < len ∧ (p < sink ∨ len ≤ p + window)
    (∀ i, i < 4 ∨ i = 4 + slot / epp → s.Names s.cur (desc + BitVec.ofNat 64 (64 * i)) 64 64 (key i)) →
    (¬ valid → s.Handles → Done (exec (.kvmap rd rs1 rs2) s) (s.Trapped · 0x0F desc) ∧
      Done (exec (.kvmapW rd rs1 rs2) s) (s.Trapped · 0x0F desc)) ∧
    (valid →
      (¬ inRange → Done (exec (.kvmap rd rs1 rs2) s) (s.Wrote · rd 0)) ∧
      (2 ^ 32 ≤ p → s.Handles → Done (exec (.kvmapW rd rs1 rs2) s) (s.Trapped · 0x0F desc)) ∧
      (s.Names s.cur (BitVec.ofNat 64 (w 3 + 32 * slot)) 32 32 gkey →
        (inRange → s.bitsAt gkey 32 = gen → Done (exec (.kvmap rd rs1 rs2) s) (s.Wrote · rd entry)) ∧
        (inRange → s.bitsAt gkey 32 ≠ gen → Done (exec (.kvmap rd rs1 rs2) s) (s.Wrote · rd 0)) ∧
        (p < 2 ^ 32 → Done (exec (.kvmapW rd rs1 rs2) s) fun t =>
          s.Continued t (s.with rd entry) ∧ s.OnlyMemory t ∧ s.Stored t gkey 32 gen)))

/-! ## Vector commands -/

/-- R222, R224, R237, R238, R239, R242, R246, on raw bits: VMOVX.bc gives the low bits of slot C to every live element, VMOVX.ins to
element slot B alone; VSEL takes an element of A where its mask bit is set and of B where not; VPERM the element of A that
an index byte of B names, 0 where there is none; VOP AND, OR, XOR and NOT. No flag is set. A command issues, and its
results stand in the group at VD (log entry 7: at issue). -/
def Obligations.VectorRawBits : Prop :=
  ∀ (s : State) (p : Place) (tg : Bool) (f : VecF) (sl : Slots), arithType f.rt || packedType f.rt →
    let v := (s.strand p).v
    let w := typeWidth f.rt
    let g := 2 ^ f.gc.toNat
    let n := g * 256 / w
    let at' (r : BitVec 5) (i : Nat) : Nat := element (readGroup v r g) w i
    let b (i : Nat) : Nat := if f.aux = 1 then sl.c.toNat % 2 ^ w else at' f.vb i
    let gives (op : Nat) (o : Outcome) (result : Nat → Nat) : Prop :=
      s.AtHead p (vecReads op f) (vecWrites op f) → Done o fun t => ∃ v', s.VectorDone t p op tg f 0 v' ∧
        Results f v v' g 0 w n result
    (MaskFits f n →
      gives 0x07 (exec (.vmovxBc tg f sl) s) (fun _ => sl.c.toNat) ∧
      (sl.b.toNat < n → s.AtHead p (vecReads 0x07 f) (vecWrites 0x07 f) →
        Done (exec (.vmovxIns tg f sl) s) fun t => ∃ v', s.VectorDone t p 0x07 tg f 0 v' ∧
          (∀ r : Fin 32, r.val ∉ group f.vd g → v'[r] = v[r]) ∧ ∀ i < n, element (readGroup v' f.vd g) w i =
            if i ≠ sl.b.toNat then at' f.vd i else if vecLive f v i then sl.c.toNat % 2 ^ w else if f.mz then 0 else at' f.vd i) ∧
      (n ≤ 256 → gives 0x11 (exec (.vperm tg f sl) s) fun i =>
        let x := element (readGroup v f.vb ((n + 31) / 32)) 8 i
        if x < n then at' f.va x else 0) ∧
      (f.fn.toNat = 10 → gives 0x08 (exec (.vop tg f sl) s) fun i => at' f.va i &&& b i) ∧
      (f.fn.toNat = 11 → gives 0x08 (exec (.vop tg f sl) s) fun i => at' f.va i ||| b i) ∧
      (f.fn.toNat = 12 → gives 0x08 (exec (.vop tg f sl) s) fun i => at' f.va i ^^^ b i) ∧
      (f.fn.toNat = 13 → gives 0x08 (exec (.vop tg f sl) s) fun i => 2 ^ w - 1 - at' f.va i)) ∧
    (f.mreg.toNat + (n - 1) / 256 ≤ 7 → gives 0x0B (exec (.vsel tg f sl) s) fun i =>
      if maskBit v f.mreg i then at' f.va i else at' f.vb i)

/-- R122, R223, R239, R241, R247, on integers, signed for intN and unsigned for natN. VOP adds, subtracts and multiplies modulo
2ʷ, takes minima, maxima, high halves, absolute values and negatives, shifts by the amount in b, or saturates, with OF where
a live result is out of range; VCMP writes one bit per element into a mask register; VDOT adds 32 ÷ w products to a 32-bit
element, modulo 2³² or saturated. -/
def Obligations.VectorIntegers : Prop :=
  ∀ (s : State) (p : Place) (tg : Bool) (f : VecF) (sl : Slots),
    let v := (s.strand p).v
    let w := typeWidth f.rt
    let g := 2 ^ f.gc.toNat
    let n := g * 256 / w
    let code (r : BitVec 5) (i : Nat) : Nat := element (readGroup v r g) w i
    let raw (i : Nat) : Nat := if f.aux = 1 then sl.c.toNat % 2 ^ w else code f.vb i
    let int (t : BitVec 5) (c : Nat) : Int := if 16 ≤ t.toNat ∧ t.toNat < 24 then (BitVec.ofNat (typeWidth t) c).toInt else c
    let a (i : Nat) : Int := int f.rt (code f.va i)
    let b (i : Nat) : Int := int f.rt (raw i)
    let lo : Int := if f.rt.toNat < 24 then -(2 ^ (w - 1)) else 0
    let hi : Int := if f.rt.toNat < 24 then 2 ^ (w - 1) - 1 else 2 ^ w - 1
    let bits (w : Nat) (x : Int) : Nat := (x % 2 ^ w).toNat
    (f.rt ∈ [16#5, 17, 18, 24, 25, 26] → MaskFits f n →
      (s.AtHead p (vecReads 0x08 f) (vecWrites 0x08 f) →
        (∀ x : Nat → Int, (f.fn.toNat = 0 ∧ x = fun i => a i + b i) ∨ (f.fn.toNat = 1 ∧ x = fun i => a i - b i) ∨
          (f.fn.toNat = 2 ∧ x = fun i => a i * b i) ∨ (f.fn.toNat = 3 ∧ x = fun i => min (a i) (b i)) ∨
          (f.fn.toNat = 4 ∧ x = fun i => max (a i) (b i)) ∨ (f.fn.toNat = 7 ∧ x = fun i => a i * b i / 2 ^ w) ∨
          (f.fn.toNat = 8 ∧ x = fun i => if a i < 0 then -a i else a i) ∨ (f.fn.toNat = 9 ∧ x = fun i => -a i) ∨
          (f.fn.toNat = 14 ∧ x = fun i => a i * 2 ^ raw i) ∨ (f.fn.toNat = 15 ∧ x = fun i => a i / 2 ^ raw i) →
          Done (exec (.vop tg f sl) s) fun t => ∃ v', s.VectorDone t p 0x08 tg f 0 v' ∧
            Results f v v' g 0 w n fun i => bits w (x i)) ∧
        ∀ x : Nat → Int, (f.fn.toNat = 5 ∧ x = fun i => a i + b i) ∨ (f.fn.toNat = 6 ∧ x = fun i => a i - b i) →
          Done (exec (.vop tg f sl) s) fun t => ∃ fx v', s.VectorDone t p 0x08 tg f fx v' ∧
            (Results f v v' g 0 w n fun i => bits w (max lo (min hi (x i)))) ∧
            ((∃ i < n, vecLive f v i = true ∧ ¬ (lo ≤ x i ∧ x i ≤ hi)) → fx = fxOF) ∧
            ((∀ i < n, vecLive f v i = true → lo ≤ x i ∧ x i ≤ hi) → fx = 0)) ∧
      (f.vd.toNat ≤ 7 → s.AtHead p (vecReads 0x0A f) (vecWrites 0x0A f) →
        ∀ x : Nat → Bool, (f.fn = 0 ∧ x = fun i => a i == b i) ∨ (f.fn = 1 ∧ x = fun i => a i != b i) ∨
          (f.fn = 2 ∧ x = fun i => decide (a i < b i)) ∨ (f.fn = 3 ∧ x = fun i => decide (a i ≤ b i)) ∨
          (f.fn = 4 ∧ x = fun i => decide (b i < a i)) ∨ (f.fn = 5 ∧ x = fun i => decide (b i ≤ a i)) →
          Done (exec (.vcmp tg f sl) s) fun t => ∃ v', s.VectorDone t p 0x0A tg f 0 v' ∧
            Results f v v' 1 0 1 n fun i => (x i).toNat)) ∧
    (f.rt ∈ [17#5, 18, 20, 25, 26, 27] → f.xt ∈ [17#5, 18, 20, 25, 26, 27] → typeWidth f.xt = w → MaskFits f (8 * g) →
      s.AtHead p (vecReads 0x12 f) (vecWrites 0x12 f) →
      let dot (j : Nat) : Int := (BitVec.ofNat 32 (element (readGroup v f.vc g) 32 j)).toInt +
        ((List.range (32 / w)).map fun k =>
          int f.rt (code f.va (32 / w * j + k)) * int f.xt (code f.vb (32 / w * j + k))).sum
      (f.fn = 0 → Done (exec (.vdot tg f sl) s) fun t => ∃ v', s.VectorDone t p 0x12 tg f 0 v' ∧
        Results f v v' g 0 32 (8 * g) fun j => bits 32 (dot j)) ∧
      (f.fn = 1 → Done (exec (.vdot tg f sl) s) fun t => ∃ fx v', s.VectorDone t p 0x12 tg f fx v' ∧
        (Results f v v' g 0 32 (8 * g) fun j => bits 32 (max (-2 ^ 31) (min (2 ^ 31 - 1) (dot j)))) ∧
        ((∃ j < 8 * g, vecLive f v j = true ∧ ¬ (-2 ^ 31 ≤ dot j ∧ dot j < 2 ^ 31)) → fx = fxOF) ∧
        ((∀ j < 8 * g, vecLive f v j = true → -2 ^ 31 ≤ dot j ∧ dot j < 2 ^ 31) → fx = 0)))

/-- R124, R125, R133, R134, R238, R240, R241, R243, R245, on floats: each live element is rounded once from its exact result, with
the flags of the live elements together. VFMA gives ±(a × b) ± c; VEXP, VRCP and VRSQ are the functions of R133 and R134 on
f32; VCMP of a NaN holds for "not equal" and "unordered" alone; VCVT of two types without blocks converts each element, the
narrower side taken from, or put at, the place that AUX names in its register. -/
def Obligations.VectorFloats : Prop :=
  ∀ (s : State) (p : Place) (tg : Bool) (f : VecF) (sl : Slots),
    let v := (s.strand p).v
    let w := typeWidth f.rt
    let g := 2 ^ f.gc.toNat
    let n := g * 256 / w
    let fm := typeFmt f.rt
    let code (r : BitVec 5) (i : Nat) : Nat := element (readGroup v r g) w i
    let val (r : BitVec 5) (i : Nat) : Val := fm.decode (code r i)
    let b (i : Nat) : Val := if f.aux = 1 then fm.decode (sl.c.toNat % 2 ^ w) else val f.vb i
    let rounds (op : Nat) (o : Outcome) (rtz : Bool) (x : Nat → Val × Fx) : Prop :=
      s.AtHead p (vecReads op f) (vecWrites op f) → Done o fun t => ∃ v',
        s.VectorDone t p op tg f (orFlags ((List.range n).map fun i =>
          if vecLive f v i then (x i).2 ||| (fm.encode rtz (x i).1).2 else 0)) v' ∧
        Results f v v' g 0 w n fun i => (fm.encode rtz (x i).1).1
    (f.rt.toNat ≤ 2 → MaskFits f n →
      (f.fn = 0 → rounds 0x08 (exec (.vop tg f sl) s) f.rtz fun i => (val f.va i).add (b i)) ∧
      (f.fn = 1 → rounds 0x08 (exec (.vop tg f sl) s) f.rtz fun i => (val f.va i).add (b i).negate) ∧
      (f.fn = 2 → rounds 0x08 (exec (.vop tg f sl) s) f.rtz fun i => (val f.va i).mul (b i)) ∧
      (∀ neg1 neg2 : Bool, f.fn.toNat = 2 * neg1.toNat + neg2.toNat →
        rounds 0x09 (exec (.vfma tg f sl) s) f.rtz fun i =>
          let m := (val f.va i).mul (val f.vb i)
          let x := (if neg1 then m.1.negate else m.1).add (if neg2 then (val f.vc i).negate else val f.vc i)
          (x.1, m.2 ||| x.2)) ∧
      (f.vd.toNat ≤ 7 → s.AtHead p (vecReads 0x0A f) (vecWrites 0x0A f) →
        let nan (i : Nat) : Prop := val f.va i = .nan ∨ b i = .nan
        let is (i : Nat) (o : Ordering) : Prop := (val f.va i).compare (b i) = o
        ∀ x : Nat → Bool, (∀ i < n, x i = true ↔
            (f.fn = 0 ∧ ¬ nan i ∧ is i .eq) ∨ (f.fn = 1 ∧ (nan i ∨ ¬ is i .eq)) ∨ (f.fn = 2 ∧ ¬ nan i ∧ is i .lt) ∨
            (f.fn = 3 ∧ ¬ nan i ∧ ¬ is i .gt) ∨ (f.fn = 4 ∧ ¬ nan i ∧ is i .gt) ∨
            (f.fn = 5 ∧ ¬ nan i ∧ ¬ is i .lt) ∨ (f.fn = 6 ∧ nan i)) →
          Done (exec (.vcmp tg f sl) s) fun t => ∃ v', s.VectorDone t p 0x0A tg f 0 v' ∧
            Results f v v' 1 0 1 n fun i => (x i).toNat)) ∧
    (f.rt = 0 → MaskFits f n →
      let unary (op : Nat) (o : Outcome) (x : Nat → Val × Fx) : Prop :=
        s.AtHead p (vecReads op f) (vecWrites op f) → Done o fun t => ∃ v',
          s.VectorDone t p op tg f (orFlags ((List.range n).map fun i => if vecLive f v i then (x i).2 else 0)) v' ∧
          Results f v v' g 0 w n fun i => (fmtF32.encode false (x i).1).1
      unary 0x0E (exec (.vexp tg f sl) s) (fun i => (exp2f (val f.va i), 0)) ∧
      unary 0x0F (exec (.vrcp tg f sl) s) (fun i => rcpf (val f.va i)) ∧
      unary 0x10 (exec (.vrsq tg f sl) s) (fun i => rsqf (val f.va i))) ∧
    (let wd := typeWidth f.xt
      let n := g * 256 / max w wd
      let side (x y : Nat) : Nat × Nat := if y ≤ x then (g, 0) else (max 1 (n * x / 256), if 256 ≤ n * x then 0 else
        f.aux.toNat * (n * x))
      let src := side w wd
      let dst := side wd w
      let at' (i : Nat) : Nat := element (readGroup v f.va src.1 / 2 ^ src.2) w i
      arithType f.rt || packedType f.rt → arithType f.xt || packedType f.xt → f.vc = 0 → MaskFits f n →
      f.aux.toNat < max 1 (256 / (n * min w wd)) → s.AtHead p (vecReads 0x0C f) (vecWrites 0x0C f) →
      Done (exec (.vcvt tg f sl) s) fun t => ∃ v',
        s.VectorDone t p 0x0C tg f (orFlags ((List.range n).map fun i =>
          if vecLive f v i then (convert f.rt f.xt f.rtz (at' i)).2 else 0)) v' ∧
        Results f v v' dst.1 dst.2 wd n fun i => (convert f.rt f.xt f.rtz (at' i)).1)

/-- R132, R244: VRED reduces the live elements and writes element 0 alone: the sum of an integer type modulo 2³², of a float type
by TREE with each addition rounded to f32; the minimum or maximum; or the bitwise and, or, exclusive or. With no live
element it writes the identity. -/
def Obligations.VectorReductions : Prop :=
  ∀ (s : State) (p : Place) (tg : Bool) (f : VecF) (sl : Slots),
    let v := (s.strand p).v
    let w := typeWidth f.rt
    let g := 2 ^ f.gc.toNat
    let n := g * 256 / w
    let l := ((List.range n).filter (vecLive f v)).map fun i => element (readGroup v f.va g) w i
    let int (c : Nat) : Int := if f.rt.toNat < 24 then (BitVec.ofNat w c).toInt else c
    let writes (x : Nat) (width : Nat) (o : Outcome) : Prop := Done o fun t => ∃ v' fx, s.VectorDone t p 0x0D tg f fx v' ∧
      (∀ r : Fin 32, r.val ≠ f.vd.toNat → v'[r] = v[r]) ∧ v'[f.vd.toFin].toNat % 2 ^ width = x ∧
      v'[f.vd.toFin].toNat / 2 ^ width = v[f.vd.toFin].toNat / 2 ^ width
    MaskFits f n → s.AtHead p (vecReads 0x0D f) (vecWrites 0x0D f) →
    (f.rt ∈ [16#5, 17, 18, 24, 25, 26] →
      (f.fn = 0 → writes (((l.map int).sum % 2 ^ 32).toNat) 32 (exec (.vred tg f sl) s)) ∧
      (∀ m, m ∈ l → (f.fn = 1 ∧ ∀ x ∈ l, int m ≤ int x) ∨ (f.fn = 2 ∧ ∀ x ∈ l, int x ≤ int m) →
        writes m w (exec (.vred tg f sl) s)) ∧
      (l = [] → f.fn = 1 → writes (if f.rt.toNat < 24 then 2 ^ (w - 1) - 1 else 2 ^ w - 1) w (exec (.vred tg f sl) s)) ∧
      (l = [] → f.fn = 2 → writes (if f.rt.toNat < 24 then 2 ^ (w - 1) else 0) w (exec (.vred tg f sl) s))) ∧
    (f.rt.toNat ≤ 2 →
      let fm := typeFmt f.rt
      let folds (op : Val → Val → Val) (d : Val) : Val := tree op d l.length (l.map fm.decode)
      (f.fn = 0 → writes (fmtF32.encode f.rtz (folds (fun a b => (round32 f.rtz (a.add b).1).1) .zero)).1 32
        (exec (.vred tg f sl) s)) ∧
      (f.fn = 1 → writes (fm.encode false (folds Val.min (.inf false))).1 w (exec (.vred tg f sl) s)) ∧
      (f.fn = 2 → writes (fm.encode false (folds Val.max (.inf true))).1 w (exec (.vred tg f sl) s))) ∧
    (arithType f.rt || packedType f.rt →
      (f.fn = 3 → writes (l.foldl (· &&& ·) (2 ^ w - 1)) w (exec (.vred tg f sl) s)) ∧
      (f.fn = 4 → writes (l.foldl (· ||| ·) 0) w (exec (.vred tg f sl) s)) ∧
      (f.fn = 5 → writes (l.foldl (· ^^^ ·) 0) w (exec (.vred tg f sl) s)))

/-- R70, R71, R222, R231 to R236 on the own quad's scratchpad: VLD, VLDS and VGATH read each live element at its place, of
the type that the base's cabinet holds, with its block's scale record where that is a block type, converted to the register
type; VBCAST gives every live element the one at slot A. Memory does not change. R222, R232 to R235 on the own quad's
scratchpad, with nothing waiting at a home: VST, VSTS and VSCAT write each live element in order, converted to the type of
the base's cabinet, to its place, and no other bit of memory; to a block type, each block's codes and then its scale record.
No vector register changes. -/
def Obligations.VectorLoadsAndStores : Prop :=
  (∀ (s : State) (p : Place) (tg : Bool) (f : VecF) (sl : Slots) (mt : BitVec 5) (base : Nat) (key rkey : Nat → Nat),
     let v := (s.strand p).v
     let w := typeWidth f.rt
     let wm := typeWidth mt
     let wr := recordWidth mt
     let g := 2 ^ f.gc.toNat
     let n := g * 256 / w
     let q := quadOf s.ctx.core
     let index (i : Nat) : Int := (BitVec.ofNat 32 (element (readGroup v f.vb ((n + 7) / 8)) 32 i)).toInt
     arithType f.rt || packedType f.rt → reservedType mt = false → MaskFits f n →
     s.Names s.ctx.core sl.a wm (elemAlign wm) base → (s.quad q).cfmt.toList[(base - scratchBase q) / 2 ^ 17]? = some mt →
     let reads (op : Nat) (o : Outcome) (at' : Nat → Int) (block : Nat → Nat) : Prop :=
       s.AtHead p (vecReads op f) (vecWrites op f) →
       (∀ i < n, s.Names s.ctx.core (sl.a + BitVec.ofInt 64 (at' i)) wm (elemAlign wm) (key i)) →
       (blockType mt = true → ∀ i < n, s.Names s.ctx.core (sl.c + BitVec.ofNat 64 (wr * block i)) wr
         (if family mt = .sbf then 1 else 8) (rkey (block i))) →
       let r (i : Nat) : Nat × Fx := loadElem f mt (s.bitsAt (key i) wm) (s.bitsAt (rkey (block i)) wr)
       Done o fun t => ∃ v', s.VectorDone t p op tg f (orFlags ((List.range n).map fun i =>
         if vecLive f v i then (r i).2 else 0)) v' ∧ Results f v v' g 0 w n fun i => (r i).1
     let row := 2 ^ f.aux.toNat
     reads 0x00 (exec (.vld tg f sl) s) (fun i => i * wm) (· / 32) ∧
     (f.aux.toNat ≤ 11 → n % row = 0 → sl.b.toInt % wm = 0 →
       reads 0x01 (exec (.vlds tg f sl) s) (fun i => (i / row : Nat) * sl.b.toInt + (i % row * wm : Nat))
         fun i => i / row * ((row + 31) / 32) + i % row / 32) ∧
     (n ≤ 64 → blockType mt = false → reads 0x02 (exec (.vgath tg f sl) s) (fun i => index i * wm) fun _ => 0) ∧
     reads 0x06 (exec (.vbcast tg f sl) s) (fun _ => 0) fun _ => 0) ∧
  (∀ (s : State) (p : Place) (tg : Bool) (f : VecF) (sl : Slots) (mt : BitVec 5) (base : Nat) (key rkey : Nat → Nat),
     let v := (s.strand p).v
     let w := typeWidth f.rt
     let wm := typeWidth mt
     let wr := recordWidth mt
     let g := 2 ^ f.gc.toNat
     let n := g * 256 / w
     let q := quadOf s.ctx.core
     let index (i : Nat) : Int := (BitVec.ofNat 32 (element (readGroup v f.vb ((n + 7) / 8)) 32 i)).toInt
     let code (i : Nat) : Nat := element (readGroup v f.vd g) w i
     arithType f.rt || packedType f.rt → reservedType mt = false → MaskFits f n → (∀ q, (s.quad q).deferred = []) →
     s.MemoryWf → s.Names s.ctx.core sl.a wm (elemAlign wm) base → (s.quad q).cfmt.toList[(base - scratchBase q) / 2 ^ 17]? = some mt →
     let plain : State :=
       ((List.range n).filter (vecLive f v)).foldl (fun u i => u.setBitsAt (key i) wm (convert f.rt mt f.rtz (code i)).1) s
     let blocks (block : Nat → Nat) : State :=
       ((List.range n).map block).eraseDups.foldl (fun u k =>
         let es := (List.range n).filter fun i => block i == k
         let b := encodeBlock mt f.rtz (es.map fun i => decodeElem f.rt (code i))
         ((es.zip b.1).foldl (fun u e => u.setBitsAt (key e.1) wm e.2) u).setBitsAt (rkey k) wr b.2.1) s
     let writes (op : Nat) (o : Outcome) (at' : Nat → Int) (block : Nat → Nat) : Prop :=
       s.AtHead p (vecReads op f) (vecWrites op f) → (blockType mt = true → f.men = false) →
       (∀ i < n, s.Names s.ctx.core (sl.a + BitVec.ofInt 64 (at' i)) wm (elemAlign wm) (key i)) →
       (blockType mt = true → ∀ i < n, s.Names s.ctx.core (sl.c + BitVec.ofNat 64 (wr * block i)) wr
         (if family mt = .sbf then 1 else 8) (rkey (block i))) →
       Done o fun t => t.MemoryWf ∧
         (∀ k, t.bitsAt k 1 = (if blockType mt then blocks block else plain).bitsAt k 1) ∧
         ∃ fx, { s with mem := t.mem, seals := t.seals }.VectorDone t p op tg f fx v
     let row := 2 ^ f.aux.toNat
     writes 0x03 (exec (.vst tg f sl) s) (fun i => i * wm) (· / 32) ∧
     (f.aux.toNat ≤ 11 → n % row = 0 → sl.b.toInt % wm = 0 →
       writes 0x04 (exec (.vsts tg f sl) s) (fun i => (i / row : Nat) * sl.b.toInt + (i % row * wm : Nat))
         fun i => i / row * ((row + 31) / 32) + i % row / 32) ∧
     (n ≤ 64 → blockType mt = false → writes 0x05 (exec (.vscat tg f sl) s) (fun i => index i * wm) fun _ => 0))

/-! ## The engine queue -/

/-- R171 to R173, R220, on CMD, CMDR and QWAIT. CMD builds a command from the eight words after it, slots patched with rs1
then rs2 and relative addresses resolved against the executing core, puts it at the tail of the queue, or waits while the
queue is full; CMDR sends it to the quad of its capability, and where that is another quad the core passes to its next
ready bank; a quad outside the partition is a fault of the sender, with cause 0x09 and REM set. Both go on past the inline
words. QWAIT goes on once QPROG has reached x[rs1], waits, or faults where the pending tags cannot reach it. Each raises an
engine fault while QERR holds one; an inline word that cannot be fetched is a fetch fault before that. R198, R199, R220,
R221: a remote command whose capability is its target's, whose form a remote one may have and which passes its checks joins
the 16 of the target in order; one that finds no room, or the target closed, is sent again; one of another capability is a
fault in its sender's QERR with cause 0x09, one of another form with 0x01, a press command that fails its checks with their
cause, each with REM set; and the sender's queued commands are discarded. An address fault of a peer is recorded there with
cause 0x0F, and likewise. QWAIT's fault of tags that cannot reach it discards what its strand has in the queue. CMD leaves a
core's deficit 0 while its queue holds no vector command (R350). Two points are the model's choice: that the fetch fault of an
inline word comes before the test of QERR (log entry 13), and that REM is 0 for the fault of a peer (log entry 58). -/
def Obligations.PushingCommands : Prop :=
  (∀ (s : State) (pa : Patch) (rs1 rs2 : Reg) (n : Nat), (s.bank s.here).status = .running → s.bad = [] →
     let a := s.strand s.here
     let w := BitVec.ofNat 256 n
     let slot (w : BitVec 256) (k : Nat) : Word := w.extractLsb' (64 * k) 64
     let wanted (k : Nat) : Word :=
       if pa.p2.toNat = k + 1 then s.reg rs2 else if pa.p1.toNat = k + 1 then s.reg rs1 else slot w k
     let resolved (e : QEntry) (k : Nat) (mark : Bool) : Prop :=
       (space (wanted k) ≠ 2 → slot e.word k = wanted k ∧ mark = false) ∧
       (space (wanted k) = 2 → (∀ b, resolveRel s.part s.cur (wanted k) = some b → slot e.word k = b ∧ mark = false) ∧
         (resolveRel s.part s.cur (wanted k) = none → slot e.word k = wanted k ∧ mark = true))
     let built (e : QEntry) : Prop := e.sfp = a.sfp ∧ e.priv = a.priv ∧ e.short = false ∧ slot e.word 3 = slot w 3 ∧
       slot e.word 2 = wanted 2 ∧ resolved e 0 e.ua ∧ resolved e 1 e.ub
     let cap := wanted 2
     let q := 512 * (cap.toNat / 2 ^ 40 % 256) + cap.toNat / 2 ^ 32 % 256
     let inside : Prop := s.part.inside (2 * (cap.toNat / 2 ^ 32 % 256)) (2 * (cap.toNat / 2 ^ 40 % 256)) = true
     let k := s.core s.cur
     let now (t : State) (b : Bank) (c : Core) : Prop := t.bank s.here = b ∧ (∀ p, p ≠ s.here → t.bank p = s.bank p) ∧
       t.core s.cur = { c with banks := (t.core s.cur).banks } ∧ ∀ j, j ≠ s.cur → t.core j = s.core j
     let past : Bank := { s.bank s.here with strand := { a with pc := a.pc + 288 } }
     let waits (t : State) : Prop := t = { s with cores := t.cores } ∧
       t.bank s.here = { s.bank s.here with status := .stalled .other 0 0 } ∧ (t.core s.cur).queue = k.queue
     (a.qerr = 0 → s.fetchWords (s.pc + 32) 8 = .ok n →
       (k.queue.length < 64 → Done (exec (.cmd pa rs1 rs2) s) fun t => ∃ e, built e ∧
         t = { s with cores := t.cores, quads := t.quads, agenda := t.agenda } ∧
         now t past { k with queue := k.queue ++ [e] } ∧ ∀ r, t.quad r =
           if r = quadOf s.cur ∧ k.queuesVector = false then
             { s.quad r with deficit := (s.quad r).deficit.setIfInBounds (indexInQuad s.cur) 0 }
           else s.quad r) ∧
       (64 ≤ k.queue.length → Done (exec (.cmd pa rs1 rs2) s) waits) ∧
       (inside → Done (exec (.cmdr pa rs1 rs2) s) fun t => ∃ e, built e ∧
         t = { s with cores := t.cores, agenda := t.agenda, part := { s.part with lastTraffic := t.part.lastTraffic } } ∧
         t.agenda = s.agenda ++ [.event (.remoteCommand q ⟨s.here, e.sfp, e.priv, e.word, e.ua, e.ub⟩)] ∧
         (q = quadOf s.cur → now t past k) ∧
         (q ≠ quadOf s.cur → now t past { k with cur := k.nextBank k.cur, guard := 0 })) ∧
       (¬ inside → s.Resident a.sfp s.here → Done (exec (.cmdr pa rs1 rs2) s) fun t => ∃ x : Word,
         x.toNat / 2 ^ 56 = 0x09 ∧ x.toNat % 2 = 1 ∧ t = { s with cores := t.cores, agenda := t.agenda } ∧
         now t { s.bank s.here with strand := { a with pc := a.pc + 288, qerr := x } } (k.discard a.sfp))) ∧
     (a.qerr = 0 →
       let far := (s.reg rs1 - a.qprog).toNat
       (0 ≤ (a.qprog - s.reg rs1).toInt → Done (exec (.qwait rs1) s) (s.WentTo · (s.pc + 32))) ∧
       ((a.qprog - s.reg rs1).toInt < 0 → k.pendingTags a.sfp < far → s.Handles → s.Resident a.sfp s.here →
         Done (exec (.qwait rs1) s) fun t => ∃ x : Word, x.toNat / 2 ^ 56 = 0x0E ∧
           { (s.modStrand s.here fun b => { b with qerr := x }).modCore s.cur (·.discard a.sfp) with
             agenda := t.agenda }.Trapped t 0x10 x) ∧
       ((a.qprog - s.reg rs1).toInt < 0 → far ≤ k.pendingTags a.sfp → Done (exec (.qwait rs1) s) waits)) ∧
     (s.Handles →
       (a.qerr ≠ 0 →
         (s.fetchWords (s.pc + 32) 8 = .ok n → ∀ i ∈ [Instr.cmd pa rs1 rs2, .cmdr pa rs1 rs2],
           Done (exec i s) (s.Trapped · 0x10 a.qerr)) ∧ Done (exec (.qwait rs1) s) (s.Trapped · 0x10 a.qerr)) ∧
       ∀ b why, s.fetchWords (s.pc + 32) 8 = .error (b, why) → why ≠ .absent →
         ∀ i ∈ [Instr.cmd pa rs1 rs2, .cmdr pa rs1 rs2], Done (exec i s) (s.Trapped · 0x01 b))) ∧
  (∀ (s : State) (q k : Nat) (r : Remote) (p : Place),
     let cap : Word := r.word.extractLsb' 128 64
     let right : Prop := cap = s.part.capability (q / 512) (q % 512)
     let form : Prop := remoteForm r.word = true ∧ (remoteEntry r).decode.isSome = true
     let check := if engOf r.word = 3 then s.checkCause (remoteContext r q false) (remoteEntry r) else none
     let room : Prop := (s.quad q).remote.length < 16 ∧ (s.quad q).noRemote = false
     let faults (i : Instr) (cause : Nat) : Prop := Done (exec i s) fun t => ∃ x : Word, x.toNat / 2 ^ 56 = cause % 256 ∧
       x.toNat % 2 = (if cause = 0x0F then 0 else 1) ∧ t = { s with cores := t.cores, agenda := t.agenda } ∧
       t.bank p = { s.bank p with strand := { s.strand p with qerr := x } } ∧ (∀ b, b ≠ p → t.bank b = s.bank b) ∧
       t.core p.core = { (s.core p.core).discard r.sfp with banks := (t.core p.core).banks } ∧
       ∀ c, c ≠ p.core → t.core c = s.core c
     s.Resident r.sfp p → (s.strand p).qerr = 0 →
     ((s.quad q).gate = .on → (∀ e ∈ s.timers, ∀ x j, e.2 = .remoteBusyRetry q x j → x.sfp ≠ r.sfp) →
       ∀ i, (i = .remoteCommand q r ∧ k = 0) ∨ i = .remoteBusyRetry q r k →
         (right → form → check = none →
           (room → Done (exec i s) fun t => t = { s with quads := t.quads, agenda := t.agenda } ∧
             t.quad q = { s.quad q with remote := (s.quad q).remote ++ [r] } ∧ ∀ j, j ≠ q → t.quad j = s.quad j) ∧
           (¬ room → Done (exec i s) fun t =>
             t = { s with timers := t.timers } ∧ s.Timed t (backoff k) (.remoteBusyRetry q r (k + 1)))) ∧
         (¬ right → faults i 0x09) ∧ (right → ¬ form → faults i 0x01) ∧
         ∀ c, right → form → check = some c → c ≠ 0x0F → faults i c) ∧
     faults (.peerFaultReturn p r.sfp) 0x0F)

/-- R129, R195, R202, R203, R219, on queue control. QNOP, QTAG and QORD leave the queue, bringing a tag each that TAGGED or QTAG
asks for, QORD only once every earlier command of its strand has completed; the oldest tag, once its strand's earlier commands
have completed, adds 1 to QPROG; a completed command of a core's own queue ORs its flags into FX and leaves the uncompleted
ones. REP captures the next m commands of its strand, and holds the head until they are there; one that a drain found short
of them is a fault, with cause 0x01, and the strand's queued commands are discarded. Each instance has A and B moved by the
strides, and the vreg fields that its command uses moved by the stagger, modulo 32: that of TRD and TWR, and VD, VA, VB and VC of a
vector command where its operation has them; it is the command otherwise. That a field which the command's rules have zero is not
moved is the model's choice (log entry 62). After the last, REP and what it captured leave the queue. -/
def Obligations.QueueControl : Prop :=
  ∀ (s : State) (p : Place) (tg : Bool) (f : QueueF) (sl : Slots) (c : Nat) (r : Rep),
    let x := s.ctx
    let k := s.core x.core
    let leaves (n : Nat) (t : State) : Prop := t = { s with cores := t.cores, agenda := t.agenda } ∧
      t.core x.core = { k with queue := k.queue.tail, tags := k.tags ++ List.replicate n ⟨x.sfp, s.seq, none⟩ } ∧
      (∀ d, d ≠ x.core → t.core d = s.core d) ∧ (0 < n → t.Posted (.qtagAdvance x.core))
    let m := f.m.toNat + 1
    let mine := k.queue.tail.filter fun e => e.sfp == x.sfp
    let short : Prop := ∃ e, s.headEntry = some e ∧ e.short = true
    (s.AtHead p [] [] →
      Done (exec (.qnop tg f sl) s) (leaves tg.toNat) ∧ Done (exec (.qtag tg f sl) s) (leaves (1 + tg.toNat)) ∧
      ((∀ i ∈ (s.quad x.quad).out, i.sfp = x.sfp → i.remote = true) → Done (exec (.qord tg f sl) s) (leaves tg.toNat)) ∧
      ((∃ i ∈ (s.quad x.quad).out, i.sfp = x.sfp ∧ i.remote = false) → Done (exec (.qord tg f sl) s) (· = s)) ∧
      (¬ short → m ≤ mine.length → Done (exec (.rep tg f sl) s) fun t => t = { s with
            cores := t.cores, agenda := s.agenda ++ [.event (.repInstance x.core)] } ∧
          t.core x.core = { k with rep := some ⟨f.n.toNat + 1, m, f.stagger, sl.a, sl.b, x.sfp, mine.take m, 0, 0⟩ } ∧
          ∀ d, d ≠ x.core → t.core d = s.core d) ∧
      (¬ short → mine.length < m → Done (exec (.rep tg f sl) s) (· = s)) ∧
      (short → (s.strand p).qerr = 0 → Done (exec (.rep tg f sl) s) fun t => ∃ y : Word, y.toNat / 2 ^ 56 = 0x01 ∧
        t = { s with cores := t.cores, agenda := t.agenda } ∧
        t.bank p = { s.bank p with strand := { s.strand p with qerr := y } } ∧
        (t.core x.core).queue = k.queue.filter (fun e => e.sfp != x.sfp))) ∧
    ((s.core c).rep = some r → (s.core c).latch = none →
      (r.i < r.n → ∀ e, r.captured[r.j]? = some e → Done (exec (.repInstance c) s) fun t => ∃ e',
        t.core c = { s.core c with latch := some e' } ∧ t = { s with cores := t.cores, agenda := t.agenda } ∧
        e'.word.extractLsb' 0 64 = e.word.extractLsb' 0 64 + BitVec.ofNat 64 r.i * r.da ∧
        e'.word.extractLsb' 64 64 = e.word.extractLsb' 64 64 + BitVec.ofNat 64 r.i * r.db ∧
        e'.word.extractLsb' 128 64 = e.word.extractLsb' 128 64 ∧
        let eng := engOf e.word
        let op := opOf e.word
        let fn := e.word.toNat / 2 ^ 203 % 32
        let scalar : Prop := op ∈ [0x08, 0x0A] ∧ e.word.getLsbD 192 = true
        let blocks : Prop := blockType (e.word.extractLsb' 208 5) = true ∨ blockType (e.word.extractLsb' 197 5) = true
        let moves (lo : Nat) : Prop :=
          (lo = 212 ∧ eng = 1 ∧ op ∈ [1, 2]) ∨ (lo = 235 ∧ eng = 2) ∨
          (lo = 230 ∧ eng = 2 ∧ op ∈ [0x08, 0x09, 0x0A, 0x0B, 0x0C, 0x0D, 0x0E, 0x0F, 0x10, 0x11, 0x12]) ∨
          (lo = 225 ∧ eng = 2 ∧ op ∈ [0x02, 0x05, 0x08, 0x09, 0x0A, 0x0B, 0x11, 0x12] ∧ ¬ scalar ∧
            ¬ (op = 0x08 ∧ fn ∈ [8, 9, 13])) ∨
          (lo = 220 ∧ eng = 2 ∧ (op ∈ [0x09, 0x12] ∨ (op = 0x0C ∧ blocks)))
        (∀ lo ∈ [212, 220, 225, 230, 235], moves lo →
          e'.word.toNat / 2 ^ lo % 32 = (e.word.toNat / 2 ^ lo + r.i * r.stagger.toNat) % 32) ∧
        ∀ b, 192 ≤ b → (∀ lo ∈ [212, 220, 225, 230, 235], moves lo → b < lo ∨ lo + 5 ≤ b) →
          e'.word.getLsbD b = e.word.getLsbD b) ∧
      (r.n ≤ r.i → Done (exec (.repInstance c) s) fun t => t = { s with cores := t.cores, agenda := t.agenda } ∧
        t.core c = { s.core c with rep := none, queue := dropCaptured r.sfp r.m (s.core c).queue.tail })) ∧
    (∀ y rest, (s.core c).tags = y :: rest → s.Resident y.sfp p → (s.strand p).qerr = 0 →
      (∀ i ∈ (s.quad (quadOf c)).out, i.sfp = y.sfp → i.remote = false → y.after < i.id) →
      Done (exec (.qtagAdvance c) s) fun t => t = { s with cores := t.cores, agenda := t.agenda } ∧
        t.strand p = { s.strand p with qprog := (s.strand p).qprog + 1 } ∧
        (t.core c).tags = rest ∧ t.Posted (.qtagAdvance c)) ∧
    (∀ i, (s.quad (quadOf c)).out.find? (fun j => j.id == i.id) = some i → i.remote = false → s.Resident i.sfp p →
      Done (exec (.commandCompletion c i.id) s) fun t =>
        t = { s with cores := t.cores, quads := t.quads, agenda := t.agenda } ∧ t.Posted (.qtagAdvance c) ∧
        t.strand p = { s.strand p with fx := (s.strand p).fx ||| i.fx } ∧
        (t.quad (quadOf c)).out = (s.quad (quadOf c)).out.filter fun j => j.id != i.id)

/-! ## Track-port commands -/

/-- R76, R86, R205 to R207, on a track that the strand has bound with head `h` and that no shift moves. TSEEK and TREW set
the head and start the shift, which ends after one cycle per position and is counted in SHIFTCT; TRD brings the raw words at
the head into its registers, TWR the registers' into the words of the track, which is then marked written, the track
standing at the head, and then the head steps. Nothing else of memory or of the strand differs. A track that is not bound is
a fault, recorded in QERR, and the strand's later commands leave the queue (R198). R86, R205, R208: a burst of NPOS + 1
positions moves, of each of its segments in turn, the track words from the head on to (TBLK) or from (TBLKW) consecutive
words of the own quad's scratchpad, bit for bit, and changes no other bit of memory. The track shifts to the head and then
from position to position; the head becomes the last position plus the step. -/
def Obligations.TrackCommands : Prop :=
  (∀ (s : State) (p : Place) (tg : Bool) (f : TrackF) (sl : Slots) (h : Nat),
     let c := s.ctx.core
     let a := s.strand p
     let k := s.core c
     let t := f.track.toNat
     let q := s.quad s.ctx.quad
     let at' := k.trackPos.get 0 t
     let next : Int := h + f.step.toInt
     let segs : List Nat := if f.four then [0, 1, 2, 3] else [f.seg.toNat]
     let reg (j : Nat) : Nat := (f.vreg.toNat + j) % 32
     let word (j : Nat) : Nat := trackKey c t (h + 1024 * segs.getD j 0)
     let stands : Core := { k with trackPos := k.trackPos.set t h, shiftct := k.shiftct + BitVec.ofNat 64 (dist at' h) }
     let sound : Prop := k.dead.contains t = false ∧ k.slips.find t = none ∧ k.spineBroken = []
     (a.headOf f.track = some h → k.shifting.find t = none → c < 2 ^ 20 →
       (s.AtHead p [] [] →
         ∀ i n, (i = .tseek tg f sl ∧ n = f.head.toNat) ∨ (i = .trew tg f sl ∧ n = 0) → Done (exec i s) fun u =>
           { s with timers := u.timers }.Took u p (s.entry 1 0 t [] [] 0) tg (a.setHead f.track n)
             { k with shifting := k.shifting.set t n } q ∧ s.Timed u (dist at' n) (.trackShiftDone c f.track)) ∧
       (0 ≤ next → next ≤ 1023 → sound →
         (s.AtHead p [] (trackRegs f) → Done (exec (.trd tg f sl) s) fun u => ∃ v,
           s.Took u p (s.entry 1 0 t [] (trackRegs f) 0) tg { a.setHead f.track next.toNat with v := v } stands q ∧
           (∀ j < segs.length, ∀ r : Fin 32, r.val = reg j → v[r] = BitVec.ofNat 256 (s.bitsAt (word j) 256)) ∧
           ∀ r : Fin 32, (∀ j < segs.length, r.val ≠ reg j) → v[r] = a.v[r]) ∧
         (s.AtHead p (trackRegs f) [] → s.MemoryWf → Done (exec (.twr tg f sl) s) fun u =>
           { s with mem := u.mem, seals := u.seals }.Took u p (s.entry 1 0 t (trackRegs f) [] 0) tg (a.setHead f.track next.toNat)
             { stands with tocc := k.tocc ||| (1#128 <<< t) } q ∧
           (∀ j < segs.length, ∀ r : Fin 32, r.val = reg j → u.bitsAt (word j) 256 = a.v[r].toNat) ∧
           ∀ b, (∀ j < segs.length, b < word j ∨ word j + 256 ≤ b) → u.bitsAt b 1 = s.bitsAt b 1))) ∧
     (∀ n, k.shifting.find t = some n → k.slips.find t = none → Done (exec (.trackShiftDone c f.track) s) fun u =>
       u = { s with cores := u.cores } ∧ u.core c = { k with
         trackPos := k.trackPos.set t n, shiftct := k.shiftct + BitVec.ofNat 64 (dist at' n)
         shifting := k.shifting.erase t }) ∧
     (a.headOf f.track = none → a.qerr = 0 → s.AtHead p (trackRegs f) (trackRegs f) → s.AtHead p [] [] →
       ∀ i ∈ [Instr.tseek tg f sl, .trew tg f sl, .trd tg f sl, .twr tg f sl, .tblk tg f sl, .tblkw tg f sl],
         Done (exec i s) fun u => ∃ x : Word, x.toNat / 2 ^ 56 = 0x07 ∧ u.strand p = { a with qerr := x } ∧
           (u.core c).queue = k.queue.filter (fun e => e.sfp != a.sfp) ∧ u.mem = s.mem)) ∧
  (∀ (s : State) (p : Place) (tg : Bool) (f : TrackF) (sl : Slots) (h key : Nat), s.AtHead p [] [] → s.MemoryWf →
     (∀ q, (s.quad q).deferred = []) → sl.ua = false → s.ctx.core < 2 ^ 20 →
     let c := s.ctx.core
     let a := s.strand p
     let k := s.core c
     let t := f.track.toNat
     let n := f.npos.toNat + 1
     let last := h + n - 1
     let next : Int := last + f.step.toInt
     let segs : List Nat := if f.four then [0, 1, 2, 3] else [f.seg.toNat]
     let track (g i : Nat) : Nat := trackKey c t (h + 1024 * segs.getD g 0 + i)
     let pad (g i : Nat) : Nat := key + 256 * (g * n + i)
     let moved (written : BitVec 128) (src dst : Nat → Nat → Nat) (u : State) : Prop :=
       { s with mem := u.mem, seals := u.seals }.Took u p (s.entry 1 0 t [] [] 0) tg (a.setHead f.track next.toNat)
         { k with
           trackPos := (u.core c).trackPos
           shiftct := k.shiftct + BitVec.ofNat 64 (dist (k.trackPos.get 0 t) h) + BitVec.ofNat 64 (n - 1)
           tocc := k.tocc ||| written }
         (s.quad s.ctx.quad) ∧
       (∀ j, (u.core c).trackPos.get 0 j = if j = t then last else k.trackPos.get 0 j) ∧
       (∀ g < segs.length, ∀ i < n, u.bitsAt (dst g i) 256 = s.bitsAt (src g i) 256) ∧
       ∀ b, (∀ g < segs.length, ∀ i < n, b < dst g i ∨ dst g i + 256 ≤ b) → u.bitsAt b 1 = s.bitsAt b 1
     a.headOf f.track = some h → k.shifting.find t = none → k.dead.contains t = false → k.slips.find t = none →
     k.spineBroken = [] → last ≤ 1023 → 0 ≤ next →
     next ≤ 1023 → s.Names c sl.a (256 * (n * segs.length)) 256 key →
     Done (exec (.tblk tg f sl) s) (moved 0 track pad) ∧ Done (exec (.tblkw tg f sl) s) (moved (1#128 <<< t) pad track))

/-! ## The press -/

/-- R249, R254 to R256, R262, R266, on the units of the press. MCLAIM of units that nobody else holds takes them, zeroed where
nobody held them, and writes 2⁶³ plus the mask; one that is refused takes nothing and writes 0, or with no word is a fault;
MFREE releases units that the strand holds; MZERO zeroes an accumulator; MSTAT, once the earlier commands of its source have
completed, writes which units are held and by whom, and how many rows of the accumulator are empty, NaN or infinite. A command that
an uncompleted one of the press holds at its start is accepted: it leaves its queue, and waits among the uncompleted ones (R250,
R352). -/
def Obligations.PressUnits : Prop :=
  ∀ (s : State) (p : Place) (tg : Bool) (f : PressF) (sl : Slots) (key : Nat),
    let c := s.ctx.core
    let q := s.quad s.ctx.quad
    let me := s.ctx.sfp
    let mine (u : Nat) : Prop := (q.owners.toList.getD u ⟨none, false⟩).holder = some me
    let held (u : Nat) : Prop := ((q.owners.toList.getD u ⟨none, false⟩).holder).isSome = true
    let past : Quad := { q with pressPtr := Fin.ofNat 5 (indexInQuad c + 1) }
    let does (i : Instr) (op : Nat) (P : State → Quad → Prop) : Prop :=
      s.AtHead p (pressReads op f) (pressWrites op f sl.c) →
      q.Starts me (if op = 3 then 1 else 0) (pressReads op f) (pressWrites op f sl.c) → Done (exec i s) fun u => ∃ k : Quad,
        { s with mem := u.mem, seals := u.seals }.Took u p (s.entry 3 (if op = 3 then 1 else 0) 0 (pressReads op f) (pressWrites op f sl.c) 0)
          tg (s.strand p) (s.core c) { past with slots := k.slots, accs := k.accs, owners := k.owners } ∧ P u k
    let unit (u : Nat) : Prop := sl.c.getLsbD u = true
    let claimed (k : Quad) : Prop :=
      (∀ u : Fin 20, (unit u → k.owners[u] = ⟨some me, f.rmt⟩) ∧ (¬ unit u → k.owners[u] = q.owners[u])) ∧
      (∀ u : Fin 16, (unit u ∧ ¬ held u → k.slots[u] = .reset) ∧ (¬ (unit u ∧ ¬ held u) → k.slots[u] = q.slots[u])) ∧
      ∀ a : Fin 4, (unit (16 + a.val) ∧ ¬ held (16 + a.val) → k.accs[a] = .reset) ∧
        (¬ (unit (16 + a.val) ∧ ¬ held (16 + a.val)) → k.accs[a] = q.accs[a])
    let same (k : Quad) : Prop := k.owners = q.owners ∧ k.slots = q.slots ∧ k.accs = q.accs
    let free : Prop := ∀ u < 20, unit u → held u → mine u
    let word : Prop := sl.ua = false ∧ s.MemoryWf ∧ (∀ r, (s.quad r).deferred = []) ∧ f.cwput = false ∧
      s.Names c sl.a 64 64 key
    (sl.c.toNat < 2 ^ 20 →
      (free → sl.a = 0 → does (.mclaim tg f sl) 0x00 fun u k => claimed k ∧ u.mem = s.mem ∧ u.seals = s.seals) ∧
      (free → sl.a ≠ 0 → word → does (.mclaim tg f sl) 0x00 fun u k =>
        claimed k ∧ s.Stored u key 64 (2 ^ 63 + sl.c.toNat)) ∧
      (¬ free → sl.a ≠ 0 → word → does (.mclaim tg f sl) 0x00 fun u k => same k ∧ s.Stored u key 64 0) ∧
      (¬ free → sl.a = 0 → (s.strand p).qerr = 0 → s.AtHead p [] ((maskUnits sl.c).map (32 + ·)) →
        q.Starts me 0 [] ((maskUnits sl.c).map (32 + ·)) → Done (exec (.mclaim tg f sl) s) fun u => ∃ x : Word, x.toNat / 2 ^ 56 = 0x0A ∧
          u.strand p = { s.strand p with qerr := x } ∧ u.quad s.ctx.quad = q) ∧
      ((∀ u < 20, unit u → mine u) → does (.mfree tg f sl) 0x01 fun u k => u.mem = s.mem ∧ u.seals = s.seals ∧ k.slots = q.slots ∧
        k.accs = q.accs ∧ ∀ v : Fin 20, k.owners[v] = if sl.c.getLsbD v then ⟨none, false⟩ else q.owners[v])) ∧
    (∀ e, mine (16 + f.acc.toNat) → s.AtHead p [] [48 + f.acc.toNat] → ¬ q.Starts me 1 [] [48 + f.acc.toNat] →
      s.headEntry = some e → Done (exec (.mzero tg f sl) s) fun u => s.Left u p
        { s.entry 3 1 0 [] [48 + f.acc.toNat] 0 with paused := some ({ s.ctx with id := some (s.seq + 1) }, e) } tg
        (s.strand p) (s.core c) past) ∧
    (mine (16 + f.acc.toNat) → does (.mzero tg f sl) 0x03 fun u k => u.mem = s.mem ∧ u.seals = s.seals ∧ k.owners = q.owners ∧
      k.slots = q.slots ∧ ∀ a : Fin 4, k.accs[a] = if a.val = f.acc.toNat then .reset else q.accs[a]) ∧
    (word → (∀ i ∈ q.out, i.eng = 3 → i.core = c → i.remote = true) → does (.mstat tg f sl) 0x0A fun u k =>
      same k ∧ ∃ x : Nat, s.Stored u key 64 x ∧
        (∀ v < 16, (x.testBit (44 + v) ↔ mine v) ∧ (x.testBit (24 + v) ↔ held v)) ∧
        (∀ a < 4, (x.testBit (60 + a) ↔ mine (16 + a)) ∧ (x.testBit (40 + a) ↔ held (16 + a))) ∧
        let count (P : Row → Bool) : Nat := (((q.accs.toList.getD f.acc.toNat .reset).rows.toList).filter P).length
        x % 64 = count (·.empty) ∧ x / 2 ^ 6 % 64 = count (·.nan) ∧ x / 2 ^ 12 % 64 = count (·.inf))

/-- R258 to R261, R265, on the own quad's scratchpad and units that the strand holds. MLOAD fills a slot with the rows of a tile,
bit for bit, of the type that the base's cabinet holds, transposed where TR is set, with a press scale code per block, and
zeroes the rest; into an accumulator it loads f32 elements, and with RS the row states, the others being reset. MDRAIN writes
an accumulator's rows, each element rounded once to the type, with a scale record per row of an mx type or, with RS, the
row state. -/
def Obligations.PressTiles : Prop :=
  ∀ (s : State) (p : Place) (tg : Bool) (f : PressF) (sl : Slots) (t : BitVec 5) (base : Nat) (key : Nat → Nat → Nat)
    (rkey : Nat → Nat),
    let c := s.ctx.core
    let q := s.quad s.ctx.quad
    let mine (u : Nat) : Prop := (q.owners.toList.getD u ⟨none, false⟩).holder = some s.ctx.sfp
    let past : Quad := { q with pressPtr := Fin.ofNat 5 (indexInQuad c + 1) }
    let w := typeWidth t
    let n := f.nrow.toNat + 1
    let K := slotK t
    let block := blockType t = true
    let place (tr : Bool) (r k : Nat) : Word :=
      sl.a + BitVec.ofInt 64 (if tr then k * sl.b.toInt + (r * w : Nat) else r * sl.b.toInt + (k * w : Nat))
    let starts (op : Nat) : Prop := q.Starts s.ctx.sfp 0 (pressReads op f) (pressWrites op f sl.c)
    let load (op : Nat) (i : Instr) (k : Quad) : Prop := Done (exec i s) fun u =>
      s.Took u p (s.entry 3 0 0 (pressReads op f) (pressWrites op f sl.c) 0) tg (s.strand p) (s.core c) k
    let acc := q.accs.toList.getD f.acc.toNat .reset
    reservedType t = false → s.Names c sl.a w (elemAlign w) base →
    q.cfmt.toList[(base - scratchBase s.ctx.quad) / 2 ^ 17]? = some t →
    (f.dk = false → K ≠ 0 → mine f.sa.toNat → (f.tr = true → ¬ block ∧ t ≠ 24) → sl.b.toInt % w = 0 →
      s.AtHead p (pressReads 0x02 f) (pressWrites 0x02 f sl.c) → starts 0x02 →
      (∀ r < n, ∀ k < K, s.Names c (place f.tr r k) w (elemAlign w) (key r k)) →
      (block → ∀ b < n * K / 32, s.Names c (sl.c + BitVec.ofNat 64 (recordWidth t * b)) (recordWidth t)
        (if family t = .sbf then 1 else 8) (rkey b)) →
      let code (r k : Nat) : Nat := s.bitsAt (key r k) w
      let scale (b : Nat) : Option Nat := scaleCode t
        ((List.range 32).map fun i => code ((32 * b + i) / K) ((32 * b + i) % K)) (s.bitsAt (rkey b) (recordWidth t))
      ((¬ block ∨ ∀ b < n * K / 32, (scale b).isSome = true) → ∃ x : Slot,
        load 0x02 (.mload tg f sl) { past with slots := q.slots.setIfInBounds f.sa.toNat x } ∧ x.ty = t ∧
        (∀ r < 32, ∀ k < K, x.code r k = if r < n then code r k else 0) ∧
        (block → ∀ r < n, ∀ k < K, some (x.scale r k) = (scale (r * K / 32 + k / 32)).map (· % 256)))) ∧
    (f.dk = true → t = 0 → f.tr = false → mine (16 + f.acc.toNat) → sl.b.toInt % w = 0 →
      s.AtHead p (pressReads 0x02 f) (pressWrites 0x02 f sl.c) → starts 0x02 →
      (∀ r < n, ∀ k < 32, s.Names c (place false r k) w w (key r k)) →
      (f.rs = true → ∀ b < 2 * n, s.Names c (sl.c + BitVec.ofNat 64 (64 * b)) 64 64 (rkey b)) →
      ∃ x : Acc, load 0x02 (.mloadAcc tg f sl) { past with accs := q.accs.setIfInBounds f.acc.toNat x } ∧
        (∀ r < 32, ∀ k < 32, x.elem r k = if r < n then BitVec.ofNat 32 (s.bitsAt (key r k) 32) else 0) ∧
        ∀ r : Fin 32, if f.rs = true ∧ r.val < n then
            let hi := s.bitsAt (rkey (2 * r.val + 1)) 64
            x.rows[r].m.toNat = s.bitsAt (rkey (2 * r.val)) 64 % 2 ^ 32 ∧
            x.rows[r].l.toNat = s.bitsAt (rkey (2 * r.val)) 64 / 2 ^ 32 ∧ x.rows[r].empty = hi.testBit 0 ∧
            x.rows[r].nan = hi.testBit 1 ∧ x.rows[r].inf = hi.testBit 2
          else x.rows[r] = .reset) ∧
    (drainType t = true → mine (16 + f.acc.toNat) → (f.rs = true → family t ≠ .mx) →
      sl.b.toInt % w = 0 → s.AtHead p (pressReads 0x09 f) (pressWrites 0x09 f sl.c) → starts 0x09 →
      s.MemoryWf → (∀ r, (s.quad r).deferred = []) →
      (∀ r < n, ∀ k < 32, s.Names c (place false r k) w (elemAlign w) (key r k)) →
      (family t = .mx → ∀ r < n, s.Names c (sl.c + BitVec.ofNat 64 (8 * r)) 8 8 (rkey r)) →
      (f.rs = true → ∀ b < 2 * n, s.Names c (sl.c + BitVec.ofNat 64 (64 * b)) 64 64 (rkey b)) →
      let vals (r : Nat) : List Val := (List.range 32).map fun k => val32 (acc.elem r k)
      let codes (r : Nat) : List Nat := if family t = .mx then (encodeMx t f.rtz (vals r)).1
        else (vals r).map fun x => ((typeFmt t).encode f.rtz x).1
      let words (x : Row) : Nat × Nat := (x.m.toNat + 2 ^ 32 * x.l.toNat, x.empty.toNat + 2 * x.nan.toNat + 4 * x.inf.toNat)
      let after : State := (List.range n).foldl (fun m r =>
        let m := ((List.range 32).zip (codes r)).foldl (fun m e => m.setBitsAt (key r e.1) w e.2) m
        if family t = .mx then m.setBitsAt (rkey r) 8 (encodeMx t f.rtz (vals r)).2.1
        else if f.rs then
          (m.setBitsAt (rkey (2 * r)) 64 (words (acc.row r)).1).setBitsAt (rkey (2 * r + 1)) 64 (words (acc.row r)).2
        else m) s
      Done (exec (.mdrain tg f sl) s) fun u => u.MemoryWf ∧ (∀ b, u.bitsAt b 1 = after.bitsAt b 1) ∧ ∃ fx,
        { s with mem := u.mem, seals := u.seals }.Took u p (s.entry 3 0 0 (pressReads 0x09 f) (pressWrites 0x09 f sl.c) fx) tg (s.strand p)
          (s.core c) past)

/-- R131, R263, R264, R270 to R276, on units that the strand holds. MMA adds to each element of the accumulator the exact sum of
each 32 products of a row of A and a column of B, rounded to f32 once a block; MMA.SP takes B's kept values where the mask has
a bit, with the A values there; MSOFT, MMERGE and MNORM work row by row: MSOFT leaves a row that its mask leaves out as it is,
with zero probabilities; MMERGE of an empty row takes the other; MNORM divides by the row's sum, a sum of zero giving 0. -/
def Obligations.PressArithmetic : Prop :=
  ∀ (s : State) (p : Place) (tg : Bool) (f : PressF) (sl : Slots),
    let c := s.ctx.core
    let q := s.quad s.ctx.quad
    let mine (u : Nat) : Prop := (q.owners.toList.getD u ⟨none, false⟩).holder = some s.ctx.sfp
    let slot (k : Nat) : Slot := q.slots.toList.getD k .reset
    let accum (k : Nat) : Acc := q.accs.toList.getD k .reset
    let a := slot f.sa.toNat
    let b := slot f.sb.toNat
    let m := slot f.sm.toNat
    let d := accum f.acc.toNat
    let e := accum f.acc2.toNat
    let K := slotK a.ty
    let does (op : Nat) (i : Instr) (P : Acc → Vector Slot 16 → Prop) : Prop :=
      s.AtHead p (pressReads op f) (pressWrites op f sl.c) → q.Starts s.ctx.sfp 1 (pressReads op f) (pressWrites op f sl.c) →
      Done (exec i s) fun u => ∃ x slots, P x slots ∧
        s.Took u p (s.entry 3 1 0 (pressReads op f) (pressWrites op f sl.c) 0) tg (s.strand p) (s.core c)
          { q with
            pressPtr := Fin.ofNat 5 (indexInQuad c + 1), slots := slots
            accs := q.accs.setIfInBounds f.acc.toNat x }
    let sums (n : Nat) (x : Acc) (l r : Nat → Nat → Val) : Prop := x.rows = d.rows ∧ ∀ i < 32, ∀ j < 32,
      x.elem i j = (List.range (n / 32)).foldl (fun o g => bits32 ((val32 o).add
        (blockSum ((List.range 32).map fun k => (l i (32 * g + k), r j (32 * g + k))))).1) (d.elem i j)
    let bit (j k : Nat) : Bool := (m.maskAt j (k / 32)).testBit (k % 32)
    let span := if f.sp8 then 4 else 2
    let tau := val32 (sl.c.extractLsb' 0 32)
    mine (16 + f.acc.toNat) →
    (mine f.sa.toNat → mine f.sb.toNat → operandType a.ty = true → operandType b.ty = true → K = slotK b.ty →
      does 0x04 (.mma tg f sl) fun x slots => slots = q.slots ∧ sums K x a.val b.val) ∧
    (mine f.sb.toNat → mine f.sm.toNat → m.ty = 24 → operandType a.ty = true → operandType b.ty = true → slotK b.ty = K →
      f.sa.toNat + span ≤ 16 → (∀ k < span, mine (f.sa.toNat + k) ∧ (slot (f.sa.toNat + k)).ty = a.ty) →
      (∀ j < 32, ∀ g < span * K / 32, onesBelow (m.maskAt j g) 32 = 32 / span) →
      does 0x05 (.mmaSp tg f sl) fun x slots => slots = q.slots ∧ x.rows = d.rows ∧ ∀ i < 32, ∀ j < 32,
        x.elem i j = (List.range (span * K / 32)).foldl (fun o g => bits32 ((val32 o).add
          (blockSum ((List.range 32).map fun t =>
            let k := 32 * g + t
            if bit j k then ((slot (f.sa.toNat + k / K)).val i (k % K), b.val j (32 / span * g + onesBelow (m.maskAt j g) t))
            else (.zero, .zero)))).1) (d.elem i j)) ∧
    (mine (16 + f.acc2.toNat) → f.acc ≠ f.acc2 →
      (mine f.sa.toNat → f.mreg.toNat ≤ 4 → sl.b.toNat < 2 ^ 32 → sl.c.toNat < 2 ^ 32 →
        (∃ mag ex, tau = .fin false mag ex ∧ mag ≠ 0) →
        does 0x06 (.msoft tg f sl) fun x slots => ∃ y : Slot, slots = q.slots.setIfInBounds f.sa.toNat y ∧ y.ty = 1 ∧
          ∀ i < 32,
            let z := softRow (d.rowElems i) (d.row i) ((List.range 32).map fun j =>
              if columnLive (s.strand p).v f.mreg i j then mul32 tau (val32 (e.elem i j)) else .inf true)
            if sl.b.getLsbD i then x.rowElems i = z.o ∧ x.row i = z.row ∧ ∀ j < 32, y.code i j = z.p.getD j 0
            else x.rowElems i = d.rowElems i ∧ x.row i = d.row i ∧ ∀ j < 32, y.code i j = 0) ∧
      does 0x07 (.mmerge tg f sl) fun x slots => slots = q.slots ∧ ∀ i < 32,
        let z := mergeRow (d.rowElems i) (d.row i) (e.rowElems i) (e.row i)
        x.rowElems i = z.1 ∧ x.row i = z.2 ∧
        ((d.row i).nan = false → (e.row i).nan = false → val32 (d.row i).m ≠ .nan → val32 (e.row i).m ≠ .nan →
          ((e.row i).empty = true → (d.row i).empty = false → x.rowElems i = d.rowElems i ∧ x.row i = d.row i) ∧
          ((d.row i).empty = true → (e.row i).empty = false → x.rowElems i = e.rowElems i ∧ x.row i = e.row i))) ∧
    does 0x08 (.mnorm tg f sl) fun x slots => slots = q.slots ∧ x.rows = d.rows ∧ ∀ i < 32, ∀ j < 32,
      x.elem i j = (if (d.row i).nan then 0x7FC00000 else match val32 (d.row i).l with
        | .fin neg mag ex => if mag = 0 then 0 else bits32 ((val32 (d.elem i j)).div (.fin neg mag ex)).1
        | l => bits32 ((val32 (d.elem i j)).div l).1)

/-! ## The copy engine -/

/-- R195, R198, R230, R250, R350 to R352, on which command an engine takes. A head that is clear of its hazards and fails its
checks is on its way to fault, and takes no turn. The press and the copy engine take the ready head that comes first after
the pointer, in the ring of the four cores and the remote commands, of those whose pipe has room, and look again where another
may be accepted too; the deficit of a core whose queue holds no vector command is 0; the arbiter of the vector unit takes no head where none is ready, and a ready head alone, with a deficit
left, refilled where none is left, at once, its deficit falling by the groups times their cycles; at half width a head of
eight groups in two cycles, half of it in each. While a head that was taken has not left its queue, each looks again. Two
points are the model's choice: that the second half of such a head is bound whatever the deficit is (log entry 67), and that the
pointers of the press and of the copy engine move when the head that was taken issues, in its own step (log entry 7). -/
def Obligations.EngineAcceptance : Prop :=
  ∀ (s : State) (q : Nat), s.stopped q = false →
    let k := s.quad q
    let clear (z : State) (eng : Nat) :=
      (z.engineHeads q eng).filter fun x => x.2.1.decode.isSome && (z.quad q).clear x.2.1 x.2.2.remote
    let faults (z : State) (eng : Nat) : List Activity :=
      ((clear z eng).filter fun x => (z.checkCause x.2.2 x.2.1).isSome).map fun x => issueFrom q x.1
    let ready (z : State) (eng : Nat) : List (Nat × QEntry) :=
      ((clear z eng).filter fun x => (z.checkCause x.2.2 x.2.1).isNone).map fun x => (x.1, x.2.1)
    let z := (quadCores q).foldl State.idleDeficit s
    let takes (i : Instr) (eng : Nat) (ptr : Fin 5) : Prop :=
      let heads := (ready s eng).filter (s.accepts q eng)
      (s.taking q eng = true → Done (exec i s) (· = { s with agenda := s.agenda ++ [.event i] })) ∧
      (s.taking q eng = false →
        (heads = [] → Done (exec i s) (· = { s with agenda := s.agenda ++ faults s eng })) ∧
        ∀ x ∈ heads, x.1 < 5 → (∀ y ∈ heads, y.1 < 5 → y ≠ x → (x.1 + 5 - ptr.val) % 5 < (y.1 + 5 - ptr.val) % 5) →
          Done (exec i s) (· = { s with
            agenda := s.agenda ++ faults s eng ++ (issueFrom q x.1 :: if 1 < heads.length then [.event i] else []) }))
    takes (.pressAccept q) 3 k.pressPtr ∧ takes (.copyEngineAccept q) 4 k.copyPtr ∧
    (s.taking q 2 = true →
      Done (exec (.vectorArbiterCycle q) s) (· = { s with agenda := s.agenda ++ [.event (.vectorArbiterCycle q)] })) ∧
    (s.taking q 2 = false →
      let others (t : State) (j : Fin 4) : Prop := ∀ i : Fin 4, i ≠ j →
        (t.quad q).deficit[i] = if (s.core (coreOfQuad q i)).queuesVector then k.deficit[i] else 0
      (ready z 2 = [] → Done (exec (.vectorArbiterCycle q) s) fun t =>
        t = { s with quads := t.quads, agenda := s.agenda ++ faults z 2 } ∧
        t.quad q = { k with deficit := (t.quad q).deficit, half := none } ∧ ∀ j : Fin 4,
          (t.quad q).deficit[j] = if (s.core (coreOfQuad q j)).queuesVector then k.deficit[j] else 0) ∧
      ∀ (j : Fin 4) (e : QEntry), ready z 2 = [(j.val, e)] → (s.core (coreOfQuad q j)).queuesVector = true →
        let cost := (laneCost e.word).2
        let left := if 0 < k.deficit[j] then k.deficit[j] else k.deficit[j] + 8 * s.shareOf e.sfp
        let binds (groups : Nat) (now : List Activity) (ptr : Fin 4) (half : Option (Fin 4)) : Prop :=
          Done (exec (.vectorArbiterCycle q) s) fun t =>
            t = { s with quads := t.quads, agenda := s.agenda ++ faults z 2 ++ now } ∧
            t.quad q = { k with deficit := (t.quad q).deficit, arbPtr := ptr, half := half } ∧
            (t.quad q).deficit[j] = left - groups * cost ∧ others t j
        (k.half = none → 0 < left →
          (¬ (k.halfw = true ∧ (laneCost e.word).1 = 8) →
            binds (laneCost e.word).1 [.issue (coreOfQuad q j)] (j + 1) none) ∧
          (k.halfw = true → (laneCost e.word).1 = 8 → binds 4 [.event (.vectorArbiterCycle q)] k.arbPtr (some j))) ∧
        (k.half = some j → binds 4 [.issue (coreOfQuad q j)] (j + 1) none))

/-- R210 to R213 on the own quad's scratchpad, where source and destination have no bit in common and nothing waits. CPY and
CPY.rb write each element of the region, converted once from the source's type to the destination's, in order; CFILL and
CFILL.rb write the low bits of their value to each; no other bit of memory changes. With no completion word the command
completes; otherwise the word is written after it. R213, R216: a completion word that is due, of a copy or of a RETN whose
tile is stored, is written, or PUT to an empty word, with the value of its record or the tile's number, and its command is
to complete; a PUT that finds the word full leaves it and is a fault of the sender, with cause 0x0B, whose queued commands
are discarded. -/
def Obligations.Copies : Prop :=
  (∀ (s : State) (p : Place) (tg : Bool) (f : CopyF) (sl : Slots) (r : ShapeRec) (rkey sbase dbase : Nat) (src : Word)
     (st dt : BitVec 5) (place : Word → Nat), s.AtHead p [] [] → s.MemoryWf → (∀ q, (s.quad q).deferred = []) →
     let c := s.ctx.core
     let q := s.quad s.ctx.quad
     let cab (base : Nat) : Option (BitVec 5) := q.cfmt.toList[(base - scratchBase s.ctx.quad) / 2 ^ 17]?
     let ws := typeWidth st
     let wd := typeWidth dt
     let elems := r.rows.flatMap fun o => (List.range (r.ext.headD 1)).map fun (i : Nat) =>
       (src + BitVec.ofInt 64 (o.1 + (i * ws : Nat)), sl.a + BitVec.ofInt 64 (o.2 + (i * wd : Nat)))
     let us := r.units src sl.a (s.recAddr c r.sscale) (s.recAddr c r.dscale) st dt
     let read (x : Spot) : Nat := s.bitsAt (place x.a) x.w
     let named (x : Spot) : Prop := s.Names c x.a x.w x.align (place x.a)
     let copied : List (Word × Nat × Nat) :=
       if blockType st = false ∧ blockType dt = false then
         elems.map fun e => (e.2, wd, (convert st dt r.rtz (s.bitsAt (place e.1) ws)).1)
       else (unitWrites st dt r.rtz (splitUnits us ((unitsRead us).map read))).1.map fun e => (e.1.a, e.1.w, e.2)
     let after (l : List (Word × Nat × Nat)) : State := l.foldl (fun u e => u.setBitsAt (place e.1) e.2.1 e.2.2) s
     let quad : Quad := { q with copyPtr := Fin.ofNat 5 (indexInQuad c + 1) }
     let done (i : Instr) (l : List (Word × Nat × Nat)) : Prop :=
       (r.cwaddr = 0 → Done (exec i s) fun t => t.MemoryWf ∧ (∀ b, t.bitsAt b 1 = (after l).bitsAt b 1) ∧
         ∃ fx, { s with mem := t.mem, seals := t.seals }.Took t p (s.entry 4 0 512 [] [] fx) tg (s.strand p) (s.core c) quad) ∧
       ∀ key, r.cwaddr ≠ 0 → space r.cwaddr ≠ 2 → s.part.quadList.contains (quadOf c) = true → s.Names c r.cwaddr 64 64 key →
         Done (exec i s) fun t => t.MemoryWf ∧ (∀ b, t.bitsAt b 1 = (after l).bitsAt b 1) ∧
           t.Posted (.copyCompletionWord s.ctx.quad (s.seq + 1)) ∧ ∃ fx late,
           late.word = some key ∧ late.value = r.cwval.toNat ∧ late.put = f.cwput ∧
           { s with mem := t.mem, seals := t.seals }.Left t p { s.entry 4 0 512 [] [] fx with late := some late } tg
             (s.strand p) (s.core c) quad
     let record (a : Word) : Prop := s.Names c a 1280 64 rkey ∧
       r = .ofWords ((List.range 20).map fun k => BitVec.ofNat 64 (s.bitsAt (rkey + 64 * k) 64)) ∧ r.valid = true
     let strides (l : List Int) (w : Nat) : Prop := ∀ x ∈ l.take (r.ndim - 1), x % w = 0
     reservedType st = false → reservedType dt = false → cab dbase = some dt → s.Names c sl.a wd 1 dbase → sl.ua = false →
     strides r.dstr wd →
     (cab sbase = some st → s.Names c src ws 1 sbase → strides r.sstr ws → (∀ x ∈ unitsRead us ++ unitsWrite us, named x) →
       (∀ x ∈ unitsRead us, ∀ y ∈ unitsWrite us, place x.a + x.w ≤ place y.a ∨ place y.a + y.w ≤ place x.a) →
       (record sl.c → sl.b = src → sl.ub = false → done (.cpy tg f sl) copied) ∧
       (record sl.b → sl.ub = false → r.aux = src → done (.cpyRb tg f sl) copied)) ∧
     ((∀ e ∈ elems, s.Names c e.2 wd (elemAlign wd) (place e.2)) →
       (record sl.c → done (.cfill tg f sl) (elems.map fun e => (e.2, wd, sl.b.toNat))) ∧
       (record sl.b → sl.ub = false → done (.cfillRb tg f sl) (elems.map fun e => (e.2, wd, r.aux.toNat))))) ∧
  (∀ (s : State) (q slot key r : Nat) (id : Fin 8) (i : Issued) (l : Late) (p : Place), l.word = some key → s.bad = [] →
     inUserCabinets r key 64 = true → s.MemoryWf → (∀ r, (s.quad r).deferred = []) → key % 64 = 0 →
     (∀ j ∈ (s.quad q).out, j.id = i.id → j = i) → r < 2 ^ 18 → (l.put = true → s.placeBusy key = false) →
     let runs (e : Instr) : Prop :=
       let written (t : State) : Prop := s.Stored t key 64 l.value ∧ t.Posted (.commandCompletion i.core i.id) ∧
         { i with late := none } ∈ (t.quad q).out ∧ t.cores = s.cores
       (l.put = false → Done (exec e s) fun t => written t ∧ t.full = s.full) ∧
       (l.put = true → key / 64 ∉ s.full → Done (exec e s) fun t => written t ∧ key / 64 ∈ t.full) ∧
       (l.put = true → key / 64 ∈ s.full → s.Resident i.sfp p → (s.strand p).qerr = 0 → Done (exec e s) fun t =>
         t.mem = s.mem ∧ t.full = s.full ∧ t.Posted (.commandCompletion i.core i.id) ∧
         (t.strand p).qerr = l.qerr ||| BitVec.ofNat 64 (0x0B * 2 ^ 56) ∧ ∀ e ∈ (t.core p.core).queue, e.sfp ≠ i.sfp)
     (s.issuedWith q (fun j => j.id == i.id) = some (i, l) → runs (.copyCompletionWord q i.id)) ∧
     (s.issuedWith q (fun j => j.track == 16 * id.val + slot) = some (i, l) → runs (.retnStoreComplete q id slot)))

/-- R214 to R218. A SUB whose record, source in HBM, ring and completion words are as R214 asks makes an active subscription with
every slot FREE, leaves the groups that its identifier was merged in, and has its first tile start; one that combines waits
64 cycles at the node, which merges the equal requests and completes them. A tile starts when its slot is FREE, and fills
it; when it arrives its bits stand in the slot, converted to the slot's type, the flags in the strand's FX, its number is
PUT to the slot's word, and the slot is READY. RETN of a READY slot frees it at once, or when the storer has read the tile,
which then stands where the RETN told, in the record's type. UNSUB ends the subscription. Of this three points are the model's
choice: that UNSUB completes a SUB that waits at the node (log entry 34); the stride of the scale records of each side; and that
a RETN decodes by the type its slot has when it issues and stores to any destination that a store may have (log entry 33). -/
def Obligations.Subscriptions : Prop :=
  ∀ (s : State) (p : Place) (tg : Bool) (f : CopyF) (sl : Slots) (r : ShapeRec) (rkey ring word q : Nat) (dt : BitVec 5)
    (u : Sub) (i : Issued) (l : Late) (place : Word → Nat),
    let c := s.ctx.core
    let x := s.ctx.quad
    let id : Fin 8 := f.subid.toFin
    let n := f.ns.toNat + 1
    let k := f.ns.toNat
    let quad (s : State) : Quad := { s.quad x with copyPtr := Fin.ofNat 5 (indexInQuad c + 1) }
    let words := (List.range 20).map fun k => BitVec.ofNat 64 (s.bitsAt (rkey + 64 * k) 64)
    let fresh (v : Sub) : Prop := v.active = true ∧ v.base = sl.a ∧ v.ring = sl.b ∧ v.record = words ∧
      v.types = List.replicate n dt ∧ v.slots = List.replicate n .free ∧ v.next = 0 ∧ v.tiles = r.tcount ∧ v.core = c ∧
      v.sfp = s.ctx.sfp ∧ v.arrived = s.now ∧ v.merged = []
    let sets (s : State) (v : Sub) : Quad := { quad s with subs := (s.quad x).subs.set id (some v) }
    let sub (t : State) (q : Nat) (i : Fin 8) : Option Sub := (t.quad q).subs[i]
    let numbered : Prop := ∀ j ∈ (s.quad q).out, j.id = i.id → j = i
    let left := s.leaveGroups x id
    (s.AtHead p [] [] →
      (r = .ofWords words → r.valid = true → r.rsize ≠ 0 → r.tcount ≠ 0 → r.cwaddr ≠ 0 → s.Names c sl.c 1280 64 rkey →
        (∀ v, sub s x id = some v → v.active = false) → sl.ua = false → (∃ ps, s.spot .load ⟨sl.a, 1, 1⟩ = .ok ps .hbm) →
        sl.a.toNat % elemAlign (typeWidth r.stype) = 0 →
        sl.ub = false → s.Names c sl.b (n * r.rsize * 256) 256 ring → space r.cwaddr ≠ 2 →
        s.Names c r.cwaddr (64 * n) 64 word → (s.quad x).cfmt.toList[(ring - scratchBase x) / 2 ^ 17]? = some dt →
        reservedType r.stype = false → reservedType dt = false → r.badStride r.sstr r.stype = false →
        r.badStride r.dstr dt = false →
        (∀ o j v, sub s o j = some v → sub left o j = some { v with
          merged := if clusterOfQuad o = clusterOfQuad x then v.merged.filter (· != (x, id)) else v.merged }) ∧
        Done (exec (.subCommand tg false f sl) s) (fun t => ∃ v, fresh v ∧ v.comb = false ∧ t.Posted (.loaderTileStart x id) ∧
          left.Took t p (s.entry 4 0 (256 + id.val) [] [] 0) tg (s.strand p) (s.core c) (sets left v)) ∧
        Done (exec (.subCommand tg true f sl) s) fun t => ∃ v late, fresh v ∧ v.comb = true ∧
          s.Timed t 64 (.subCombine (clusterOfQuad x) [(x, id)]) ∧
          { left with timers := t.timers }.Left t p { s.entry 4 0 (256 + id.val) [] [] 0 with late := some late } tg
            (s.strand p) (s.core c) (sets left v)) ∧
      (sub s x id = some u → u.active = true →
        (s.issuedWith x (fun j => j.track == 256 + id.val) = none → Done (exec (.unsub tg f sl) s) fun t =>
          s.Took t p (s.entry 4 0 512 [] [] 0) tg (s.strand p) (s.core c) (sets s u.stop) ∧
          ∀ m ∈ u.merged, t.Posted (.loaderTileStart m.1 m.2)) ∧
        (s.issuedWith x (fun j => j.track == 256 + id.val) = some (i, l) → Done (exec (.unsub tg f sl) s) fun t =>
          sub t x id = some u.stop ∧ t.Posted (.commandCompletion i.core i.id))) ∧
      (∀ tile done, sub s x id = some u → u.slots[k]? = some (.ready tile) →
        ((sl.b = 0 ∧ done = none) ∨ (sl.ub = false ∧ s.part.quadList.contains (quadOf c) = true ∧ s.Names c sl.b 64 64 word ∧
          sl.b ≠ 0 ∧ done = some word)) →
        (sl.a = 0 → Done (exec (.retn tg f sl) s) fun t => ∃ late, late.value = tile ∧ late.word = done ∧ late.put = f.cwput ∧
          t.Posted (.retnStoreComplete x id k) ∧ t.Posted (.loaderTileStart x id) ∧
          s.Left t p { s.entry 4 0 (16 * id.val + k) [] [] 0 with late := some late } tg (s.strand p) (s.core c)
            (sets s { u with slots := u.slots.set k .free })) ∧
        (sl.a ≠ 0 → sl.ua = false → space sl.a ≠ 3 → let ty := s.typeAt (u.slotBase k) u.shape.dtype
          reservedType ty = false →
          (∀ y ∈ (s.storeUnits u tile k ty sl.a).flatMap (·.dst), ∃ ps h, s.spot .store y = .ok ps h) →
          Done (exec (.retn tg f sl) s) fun t => ∃ late, late.value = tile ∧ late.dst = sl.a ∧ late.word = done ∧
            late.put = f.cwput ∧ late.ty = ty ∧ t.Posted (.storerSlotRead x id k) ∧
            s.Left t p { s.entry 4 0 (16 * id.val + k) [] [] 0 with late := some late } tg (s.strand p) (s.core c)
              (sets s { u with slots := u.slots.set k (.reading tile) })))) ∧
    (sub s q id = some u →
      let m := s.asSub q u
      let asked : State := { m with ctx := { m.ctx with priv := l.priv } }
      let o := u.shape
      let leads (m : State) (acc : Access) (y : Spot) : Prop := (∃ h, m.spot acc y = .ok [⟨place y.a, y.w⟩] h) ∧
        place y.a + y.w ≤ trackBase 0 ∧ (acc = .store → s.guarded (place y.a) = false)
      let plain : Prop := s.bad = [] ∧ s.MemoryWf ∧ (∀ r, (s.quad r).deferred = []) ∧ s.Resident u.sfp p
      let moved (us : List CopyUnit) (a b : BitVec 5) : List (Spot × Nat) × Fx :=
        unitWrites a b o.rtz (splitUnits us ((unitsRead us).map fun y => s.bitsAt (place y.a) y.w))
      let oneKey (us : List CopyUnit) : Prop :=
        ∀ y ∈ unitsWrite us, ∀ z ∈ unitsWrite us, place y.a / 2 ^ 46 = place z.a / 2 ^ 46
      let after (ws : List (Spot × Nat)) : State := ws.foldl (fun v e => v.setBitsAt (place e.1.a) e.1.w e.2) s
      (u.active = true → u.comb = false → u.merged = [] →
        (u.next < u.tiles → u.slots[u.slotOf u.next]? = some .free → Done (exec (.loaderTileStart q id) s) fun t =>
          t = { s with quads := t.quads, agenda := s.agenda ++ [.event (.loaderTileComplete q id)] } ∧
          sub t q id = some { u with slots := u.slots.set (u.slotOf u.next) (.filling u.next), next := u.next + 1 }) ∧
        ∀ tile : Nat, u.next = tile + 1 → u.slots[u.slotOf tile]? = some (.filling tile) → tile < 2 ^ 64 →
          let j := u.slotOf tile
          let us := o.units (u.base + BitVec.ofNat 64 tile * o.aux) (u.slotBase j)
            (o.sscale + BitVec.ofNat 64 (tile * (recordWidth o.stype * o.blocks)))
            (o.dscale + BitVec.ofNat 64 (j * (recordWidth (u.typeOf j) * o.blocks))) o.stype (u.typeOf j)
          space o.sscale ≠ 2 → space o.dscale ≠ 2 → space o.cwaddr ≠ 2 → quadOf u.core = q → plain → oneKey us →
          (∀ y ∈ us.flatMap (·.src), m.spot .load y = .ok [⟨place y.a, y.w⟩] .hbm) →
          (∀ y ∈ unitsRead us, leads m .load y) → (∀ y ∈ unitsWrite us, leads m .store y ∧ space y.a ≠ 1) →
          m.Names u.core (o.cwaddr + BitVec.ofNat 64 (64 * j)) 64 64 word → word / 64 ∉ s.full → s.placeBusy word = false →
          Done (exec (.loaderTileComplete q id) s) fun t =>
            sub t q id = some { u with slots := u.slots.set j (.ready tile), active := decide (tile + 1 < u.tiles) } ∧
            (∀ b, t.bitsAt b 1 = ((after (moved us o.stype (u.typeOf j)).1).setBitsAt word 64 tile).bitsAt b 1) ∧
            (t.strand p).fx = (s.strand p).fx ||| (moved us o.stype (u.typeOf j)).2 ∧ word / 64 ∈ t.full ∧
            t.Posted (.loaderTileStart q id)) ∧
      (∀ tile, s.issuedWith q (fun j => j.track == 16 * id.val + k) = some (i, l) → u.slots[k]? = some (.reading tile) →
        let us := m.storeUnits u tile k l.ty l.dst
        plain → oneKey us → (∀ y ∈ unitsRead us, leads m .load y ∧ space y.a ≠ 1) →
        (∀ y ∈ unitsWrite us, leads asked .store y) →
        Done (exec (.storerSlotRead q id k) s) fun t => sub t q id = some { u with slots := u.slots.set k .free } ∧
          (∀ b, t.bitsAt b 1 = (after (moved us l.ty o.stype).1).bitsAt b 1) ∧ t.full = s.full ∧
          { i with fx := i.fx ||| (moved us l.ty o.stype).2 } ∈ (t.quad q).out ∧
          t.Posted (.loaderTileStart q id) ∧ t.Posted (.retnStoreComplete q id k)) ∧
      (u.waits = true → u.arrived + 64 ≤ s.now →
        let g := ((s.clusterSubs (clusterOfQuad q)).filter fun e =>
          e.2.waits && u.sameRequest s.part e.2 && e.2.arrived ≤ u.arrived + 64).map (·.1)
        Done (exec (.subCombine (clusterOfQuad q) [(q, id)]) s) fun t => t.Posted (.loaderTileStart q id) ∧ t.mem = s.mem ∧
          (∀ e ∈ g, ∃ v, sub s e.1 e.2 = some v ∧ sub t e.1 e.2 = some { v with merged := g }) ∧
          (s.issuedWith q (fun j => j.track == 256 + id.val) = some (i, l) → numbered →
            t.Posted (.commandCompletion i.core i.id))))

/-! ## Absent pages -/

/-- R136, R329 to R337. A fetch that fails is a fetch fault with the word's address; where its page is absent and the cluster has
a fault queue the strand waits, while it runs ahead. A walk caches a leaf that permits the access, and no other. A batch is
posted in the lowest free slot, with its words written, STATUS 01 and POSTS stepped, or waits while there is none; its outcome
frees the slot, and the strand executes its instruction again, or faults; a command tries its access again, or is a fault
of its strand with cause 0x06. A strand that waits on a page is forced out where a record has waited 1,024 cycles for its
bank, unless TRAP is 1. -/
def Obligations.AbsentPages : Prop :=
  ∀ (s : State) (p : Place) (a va e : Word) (acc : Access) (user : Bool) (why : FetchFailure) (c bits i base q slot : Nat)
    (b : Batch) (bk : Fin 4) (n : Nat) (i' : Issued) (x : Ctx × QEntry),
    let here := s.here
    let queued (c : Nat) : Prop := (s.cluster (clusterOf c)).fqbase.toNat / 2 ^ 9 ≠ 0
    (why ≠ .absent ∨ ¬ queued s.cur → s.Handles → Done (exec (.fetchFault a why) s) (s.Trapped · 0x01 a)) ∧
    (why = .absent → queued s.cur → Done (exec (.fetchFault a why) s) fun t =>
      (t.bank here).status = .page a .fetch none ∧ t.strand here = s.strand here ∧ .runAhead here ∈ t.agenda ∧
      s.Timed t 1024 (.pageWaitWriteback here) ∧ t.mem = s.mem) ∧
    (let v := va.toNat % 2 ^ 51;
      s.translation c acc v = .leaf e bits → s.bad = [] →
      (permits e acc user = true → Done (exec (.translationWalk c va acc user) s) fun t =>
        t = { s with cores := t.cores, clusters := t.clusters } ∧ (∀ k, (t.core k).banks = (s.core k).banks) ∧
        t.translation c acc v = .leaf e bits ∧
        (tlbFind (if acc = .fetch then (s.core c).itlb else (s.core c).dtlb) (v / 2 ^ bits * 2 ^ bits) = none →
          (tlbFind (if acc = .fetch then (t.core c).itlb else (t.core c).dtlb) v).isSome = true) ∧
        (tlbFind (s.cluster (clusterOf c)).tlb (v / 2 ^ bits * 2 ^ bits) = none →
          (tlbFind (t.cluster (clusterOf c)).tlb v).isSome = true)) ∧
      (permits e acc user = false → Done (exec (.translationWalk c va acc user) s) (· = s))) ∧
    (let cl := clusterOf p.core
      let k := s.cluster cl
      let word (n : Nat) : Nat := base + 512 + 2048 * i + 64 * n
      k.batches.find? (fun b => b.core == p.core && b.bank.getD 0 == p.bank) = some b →
      ((∀ j < k.slotCount, s.slotStatus cl j ≠ 0) → Done (exec (.faultPostRetry p) s) (· = s)) ∧
      (i < k.slotCount → s.slotStatus cl i = 0 → (∀ j < i, s.slotStatus cl j ≠ 0) → b.pages.length ≤ 16 → s.bad = [] →
        s.MemoryWf → (∀ r, (s.quad r).deferred = []) → scratchBase 0 ≤ base → base + 2 ^ 17 ≤ trackBase 0 → base % 64 = 0 →
        space k.posts = 0 → (∀ o acc, o < 512 + 2048 * k.slotCount → o % 64 = 0 →
          s.locate (firstCore cl) false false acc (k.posts + BitVec.ofNat 64 o) 64 64 = .ok [⟨base + o, 64⟩] (.scratch q)) →
        Done (exec (.faultPostRetry p) s) fun t =>
          (t.cluster cl).batches = k.batches.erase b ∧ (t.cluster cl).watched = k.watched ++ [(i, b)] ∧
          t.bitsAt (word 0) 64 = 2 ^ 62 + 2 ^ 8 * ((b.bank.map (·.val)).getD 0) + b.pages.length ∧
          t.bitsAt (word 1) 64 = (pairForm b.core).toNat ∧ t.bitsAt (word 2) 64 = b.pc.toNat ∧
          (∀ n < b.pages.length, t.bitsAt (word (3 + n)) 64 = ((b.pages[n]?).getD 0).toNat) ∧
          t.bitsAt base 64 = (s.bitsAt base 64 + 1) % 2 ^ 64)) ∧
    (let k := s.cluster c
      let w := s.bitsAt base 64
      let strand : Place := ⟨b.core, bk⟩
      let takes (t : State) : Prop :=
        (t.cluster c).watched = k.watched.filter (fun e => e.1 != slot) ∧ t.bitsAt base 64 = w % 2 ^ 62
      k.watched.find? (fun e => e.1 == slot) = some (slot, b) → s.bad = [] → s.MemoryWf → (∀ r, (s.quad r).deferred = []) →
      scratchBase 0 ≤ base → base < trackBase 0 → base % 64 = 0 →
      space (k.slotWord slot 0) = 0 → (∀ acc, s.locate (firstCore c) false false acc (k.slotWord slot 0) 64 64 = .ok [⟨base, 64⟩] (.scratch q)) →
      (w / 2 ^ 62 = 1 → Done (exec (.faultSlotOutcome c slot) s) (· = s)) ∧
      (b.bank = some bk → (s.bank strand).live = true → b.sfp = some (s.strand strand).sfp →
        (s.bank strand).status = .page a acc (some slot) →
        (w / 2 ^ 62 = 2 → Done (exec (.faultSlotOutcome c slot) s) fun t => takes t ∧
          t.bank strand = { s.bank strand with status := .running }) ∧
        (w / 2 ^ 62 = 3 → (s.strand strand).trap = false → (s.bank strand).mark = none →
          Done (exec (.faultSlotOutcome c slot) s) fun t => takes t ∧ ∃ v, t.bank strand = (s.bank strand).enterTrap
            (s.core b.core).tvec ⟨if acc = .fetch then .fetch else .translation, v⟩)) ∧
      (b.bank = none → b.cmd = some n →
        (w / 2 ^ 62 = 2 → Done (exec (.faultSlotOutcome c slot) s) fun t => takes t ∧ t.cores = s.cores ∧
          .resume (quadOf b.core) n ∈ t.agenda) ∧
        (w / 2 ^ 62 = 3 → (s.quad (quadOf b.core)).out.find? (fun j => j.id == n) = some i' → i'.id = n → i'.paused = some x →
          s.Resident x.1.sfp p → (s.strand p).qerr = 0 → Done (exec (.faultSlotOutcome c slot) s) fun t =>
            (∀ e ∈ (t.cluster c).watched, e.1 ≠ slot) ∧ t.bitsAt base 64 = w % 2 ^ 62 ∧
            (t.strand p).qerr.toNat / 2 ^ 56 = 0x06 ∧
            t.Posted (.commandCompletion { x.1 with quad := quadOf b.core }.home n)))) ∧
    ((s.bank p).live = true → (∃ n, (s.bank p).status = .page a acc n) →
      ((s.strand p).trap = false → s.wanting p.core 1024 = true → Done (exec (.pageWaitWriteback p) s) fun t =>
        t.bank p = { s.bank p with status := .stopped true } ∧
        t = { s with cores := t.cores, agenda := s.agenda ++ [.event (.preemptForcedSave p)] }) ∧
      ((s.strand p).trap = true ∨ s.wanting p.core 1024 = false → Done (exec (.pageWaitWriteback p) s) fun t =>
        t = { s with timers := t.timers } ∧
        s.Timed t 1024 (.pageWaitWriteback p)))

/-! ## Device registers -/

/-- R68 to R71, R95, R184, R308, R309, R334, R339, R340, R342, R377, R404, R405, on what a store to a device register changes: the
register it names, by its fields, and nothing else; an offset of a block that no rule assigns to a register, nothing. BMASK, ORKIND and
CBWn take effect where the phase in progress has no arrival. FPHEAD and PGASN are written only while QCTL.HOLD or PCTL.HOLD is 1
and DQSTAT only while NOSTEAL is 1 too; otherwise the write is discarded and logged for the core that stores, in the ring where one
is set up, else in EVLOST. A TOCC bit is cleared by a 1 unless the track is bound; PGASN adds the pages of a track to the pool, and
takes them out only when all four are free. A vector that is not masked is sent to the host. A written mode takes effect at a
quiescence, not before. Two points are the model's choice: the 240 cycles that a voltage takes to rise (log entry 5), and what a
write of DQSTAT makes of the pool and of an RLN above 32 (log entry 55). -/
def Obligations.RegisterWrites : Prop :=
  ∀ (s : State) (c w : Nat) (v a : Word) (hi : Bool) (off : BitVec 37) (b : BitVec 4),
    let k := s.core c
    let q := quadOf c
    let cl := clusterOf c
    let d := s.part.dieOf c
    let holds : Prop := (s.quad q).qctl.getLsbD 0 = true ∨ s.part.hold = true
    let noSteal : Prop := (s.quad q).qctl.getLsbD 1 = true
    let idle (ch : Nat) : Prop := ∀ e ∈ s.cores, e.2.arrivals.get 0 ch = 0
    let write (block : BitVec 4) (off : Nat) : Outcome := exec (.registerWrite ⟨w, c⟩ block (BitVec.ofNat 37 off) v) s
    let assigned (block : Nat) : List Nat :=
      match block with
      | 0 => [0x000, 0x040, 0x080, 0x0C0, 0x100, 0x140, 0x180, 0x1C0, 0x200, 0x280, 0x300, 0x340]
      | 1 => (List.range 10).map (64 * ·)
      | 2 => [0x000, 0x040, 0x080]
      | 3 => [0x000, 0x040, 0x080, 0x0C0]
      | _ => (List.range 21).map (64 * ·)
    let core (o : Outcome) (x : Core) : Prop := Done o fun t => t = { s with cores := t.cores } ∧ t.core c = x ∧
      ∀ j, j ≠ c → t.core j = s.core j
    let quad (o : Outcome) (x : Quad) : Prop := Done o fun t => t = { s with quads := t.quads, agenda := t.agenda } ∧
      t.quad q = x ∧ ∀ j, j ≠ q → t.quad j = s.quad j
    let part (o : Outcome) (x : Partition) : Prop := Done o (· = { s with part := x })
    let bit (j : Nat) : Nat := if hi then 64 + j else j
    core (write 0 0x000) { k with tvec := BitVec.ofNat 64 (v.toNat / 32 * 32) } ∧
    core (write 0 0x080) { k with shiftct := v } ∧ core (write 0 0x0C0) { k with shiftac := v } ∧
    core (write 0 0x180) { k with spill := BitVec.ofNat 64 (v.toNat / 512 * 512 + min 10 (v.toNat % 16)) } ∧
    (Done (write 0 0x040) fun t => t = { s with cores := t.cores, part := { s.part with orKind := t.part.orKind, cbw := t.part.cbw } } ∧
      t.core c = { k with bmask := (t.core c).bmask, bmaskNew := v } ∧ ∀ ch < 16, (idle ch → nibble (t.core c).bmask ch = nibble v ch) ∧
        (¬ idle ch → nibble (t.core c).bmask ch = nibble k.bmask ch)) ∧
    (holds → noSteal → Done (write 0 0x1C0) fun t => t = { s with cores := t.cores, quads := t.quads } ∧
      t.core c = { k with
        depthFirst := v.getLsbD 63, spn := v.extractLsb' 22 32, rln := BitVec.ofNat 6 (min 32 (v.extractLsb' 16 6).toNat)
        old := v.extractLsb' 6 5, dqn := v.extractLsb' 0 6, parked := (t.core c).parked, spillRing := (t.core c).spillRing } ∧
      t.quad q = { s.quad q with pool := (t.quad q).pool } ∧
      ∀ r ∈ (t.core c).parked, r.place < 64 → (t.quad q).pool.getLsbD r.place = true) ∧
    (∀ j, j ≠ c → holds → noSteal → Done (write 0 0x1C0) fun t => t.core j = s.core j) ∧
    quad (write 1 0x1C0) { s.quad q with qctl := v.extractLsb' 0 3 } ∧ quad (write 1 0x240) { s.quad q with errq := v } ∧
    (∀ n : Fin 7, quad (write 1 (64 * n.val)) { s.quad q with cfmt := (s.quad q).cfmt.set n (v.extractLsb' 0 5) }) ∧
    (b.toNat ≤ 4 → off.toNat ∉ assigned b.toNat → Done (exec (.registerWrite ⟨w, c⟩ b off v) s) (· = s)) ∧
    (Done (write 2 0x080) fun t => t = { s with clusters := t.clusters } ∧
      t.cluster cl = { s.cluster cl with errc := v }) ∧
    (let x := v.toNat % 2 ^ 32
     let y := v.toNat / 2 ^ 32
     (x / 8 = cl % 128 ∧ y / 8 = cl / 128 → Done (write 2 0x000) fun t => t = { s with clusters := t.clusters } ∧
       t.cluster cl = { s.cluster cl with scalehome := some v }) ∧
     (¬ (x / 8 = cl % 128 ∧ y / 8 = cl / 128) → Done (write 2 0x000) (· = s))) ∧
    (Done (write 3 0x0C0) fun t => t = { s with dies := t.dies } ∧ t.die d = { s.die d with errd := v }) ∧
    (Done (write 3 0x000) fun t => t = { s with regions := t.regions } ∧ t.region (d / 2) = { s.region (d / 2) with
      cstep := if v.toNat % 2 ^ 16 = 0 then 1 else BitVec.ofNat 16 v.toNat }) ∧
    part (write 4 0x140) { s.part with ptbase := v } ∧ part (write 4 0x1C0) { s.part with prewin := v.extractLsb' 0 32 } ∧
    part (write 4 0x200) { s.part with hangw := v } ∧ part (write 4 0x240) { s.part with hangbuf := v } ∧
    part (write 4 0x180) { s.part with tlim := BitVec.ofNat 8 (max 80 (min 104 (v.toNat % 256))) } ∧
    part (write 4 0x3C0) { s.part with larea := BitVec.ofNat 64 (v.toNat / 512 * 512) } ∧
    part (write 4 0x440) { s.part with evbase := BitVec.ofNat 64 (v.toNat / 512 * 512 + v.toNat % 16) } ∧
    (Done (write 4 0x080) fun t => t = { s with part := { s.part with hold := v.getLsbD 0 }, agenda := t.agenda } ∧
      (v.getLsbD 0 = false → ∀ j ∈ s.part.coreList, t.Posted (.bankFill j))) ∧
    (Done (write 4 0x0C0) fun t => t.part.orNew = v.extractLsb' 0 16 ∧ ∀ ch < 16,
      t.part.orKind.getLsbD ch = if (∀ e ∈ s.cores, e.2.arrivals.get 0 ch = 0) then v.getLsbD ch else s.part.orKind.getLsbD ch) ∧
    (∀ n : Fin 4, Done (write 4 (0x280 + 64 * n.val)) fun t =>
      let size := v.toNat % 2 ^ 10
      t.part.cbwNew = s.part.cbwNew.set n t.part.cbwNew[n] ∧ (t.part.cbwNew[n]).extractLsb' 0 22 = v.extractLsb' 0 22 ∧
      ((t.part.cbwNew[n]).getLsbD 63 = true ↔ v.getLsbD 63 = true ∧ size ≠ 0 ∧ v.toNat / 2 ^ 10 % 2 ^ 9 + size ≤ 512) ∧
      ((∀ ch < 16, idle ch) → t.part.cbw = t.part.cbwNew) ∧ (¬ (∀ ch < 16, idle ch) → t.part.cbw = s.part.cbw)) ∧
    (holds → Done (exec (.fpheadWrite ⟨w, c⟩ a v) s) fun t => t = { s with
        cores := t.cores, agenda := s.agenda ++ [.event (.bankFill c)] } ∧
      t.core c = { k with fphead := BitVec.ofNat 64 (v.toNat / 512 * 512) }) ∧
    (s.part.evbase.toNat / 512 = 0 →
      let counted (i : Instr) : Prop := Done (exec i s) (· = { s with part := { s.part with evlost := s.part.evlost + 1 } })
      (¬ holds → counted (.fpheadWrite ⟨w, c⟩ a v) ∧ counted (.pgasnWrite ⟨w, c⟩ hi a v)) ∧
      (¬ (holds ∧ noSteal) → counted (.registerWrite ⟨w, c⟩ 0 0x1C0 v))) ∧
    (∀ key h, s.part.evbase.toNat / 512 ≠ 0 → ¬ holds → s.MemoryWf → key % 256 = 0 →
      s.bad = [] → s.locate w false false .store (BitVec.ofNat 64 (s.part.evbase.toNat / 512 * 512 +
        s.part.evhead.toNat % 2 ^ (s.part.evbase.toNat % 16 + 6) * 256)) 256 256 = .ok [⟨key, 256⟩] h →
      let logged (i : Instr) : Prop := Done (exec i s) fun t =>
        t = { s with mem := t.mem, seals := t.seals, part := { s.part with evhead := s.part.evhead + 1 } } ∧
        t.bitsAt key 64 = s.now % 2 ^ 64 ∧ t.bitsAt (key + 64) 64 = ((pairForm w).toNat * 256 + 0x08) % 2 ^ 64 ∧
        t.bitsAt (key + 128) 64 = a.toNat ∧ t.bitsAt (key + 192) 64 = v.toNat
      logged (.fpheadWrite ⟨w, c⟩ a v) ∧ logged (.pgasnWrite ⟨w, c⟩ hi a v)) ∧
    (holds → Done (exec (.pgasnWrite ⟨w, c⟩ hi a v) s) fun t => t = { s with cores := t.cores, dies := t.dies } ∧
      ∀ j < 64, let t' := bit j
        let free : Prop := ∀ x ∈ pageKeys c t', (s.die d).pool.find x = some .free
        (v.getLsbD j = true → (t.core c).pgasn.getLsbD t' = true ∧
          (k.pgasn.getLsbD t' = false → ∀ x ∈ pageKeys c t', (t.die d).pool.find x = some .free)) ∧
        (v.getLsbD j = false → k.pgasn.getLsbD t' = true → ((t.core c).pgasn.getLsbD t' = false ↔ free)) ∧
        (v.getLsbD j = false → k.pgasn.getLsbD t' = false → (t.core c).pgasn.getLsbD t' = false)) ∧
    (Done (exec (.toccWrite c hi v) s) fun t => t = { s with cores := t.cores } ∧ t.core c = { k with tocc := (t.core c).tocc } ∧
      ∀ j < 128, (t.core c).tocc.getLsbD j = (k.tocc.getLsbD j && ((k.bound.find j).isSome ||
        !(if hi then decide (64 ≤ j) && v.getLsbD (j - 64) else v.getLsbD j)))) ∧
    (Done (exec (.opreqWrite c v) s) fun t => t = { s with cores := t.cores, quads := t.quads, timers := t.timers } ∧
      t.core c = { k with opreq := v.extractLsb' 0 3 } ∧ (t.quad q).vmv = t.pointVoltage q (t.targetPoint q) ∧
      ((t.targetPoint q) ≤ (s.quad q).opp.toNat → (t.quad q).opp.toNat = t.targetPoint q) ∧
      ((s.quad q).opp.toNat < t.targetPoint q → (t.quad q).opp = (s.quad q).opp ∧
        s.Timed t 240 (.oppVoltageSettled q))) ∧
    (Done (exec (.fqbaseWrite c v) s) fun t => t = { s with clusters := t.clusters } ∧
      (t.cluster c).fqbase.toNat % 512 = min 3 (v.toNat % 8) ∧
      (let x := v.toNat / 512 * 512
       let o := x % 2 ^ 24
       let fits : Prop := x / 2 ^ 61 = 0 ∧ clusterOf (coreId (x / 2 ^ 51) (x / 2 ^ 41 % 1024)) = c ∧
         x / 2 ^ 24 % 2 ^ 17 = 0 ∧ 7 * 2 ^ 17 + 98304 ≤ o ∧ o + 512 + 2048 * 2 ^ (min 3 (v.toNat % 8)) ≤ 2 ^ 20
       (fits → (t.cluster c).fqbase.toNat / 512 * 512 = x) ∧ (¬ fits → (t.cluster c).fqbase.toNat / 512 = 0))) ∧
    (Done (exec (.lwcfgWrite v) s) fun t => t = { s with part := { s.part with lwcfg := t.part.lwcfg } } ∧
      t.part.lwcfg.toNat % 512 = min 16 (v.toNat % 32) ∧
      (let x := v.toNat / 512 * 512
       let o := x % 2 ^ 24
       let fits : Prop := x / 2 ^ 61 = 0 ∧ s.part.inside (x / 2 ^ 51) (x / 2 ^ 41 % 1024) = true ∧
         x / 2 ^ 24 % 2 ^ 17 = 0 ∧ 7 * 2 ^ 17 + 98304 ≤ o ∧ o < 2 ^ 20 ∧ o + 64 * min 16 (v.toNat % 32) ≤ 2 ^ 20
       (fits → t.part.lwcfg.toNat / 512 * 512 = x) ∧ (¬ fits → t.part.lwcfg.toNat / 512 = 0))) ∧
    (let n := v.toNat % 32
     (s.part.masked.getLsbD n = true → Done (exec (.msixtrigWrite v) s) fun t =>
        t = { s with part := { s.part with pending := t.part.pending } } ∧
        ∀ j < 32, t.part.pending.getLsbD j = (s.part.pending.getLsbD j || decide (j = n))) ∧
     (s.part.masked.getLsbD n = false →
       Done (exec (.msixtrigWrite v) s)
         (· = { s with hostOut := s.hostOut ++ [(.function s.part.link s.part.function, .msix n)] }))) ∧
    part (exec (.atomodeWrite v) s) { s.part with modeNew := v.getLsbD 0 } ∧
    (s.quiet = true → part (exec .atomodeSwitch s) { s.part with mode := s.part.modeNew }) ∧
    (s.quiet = false → Done (exec .atomodeSwitch s) (· = s))

/-! ## Power, temperature and moves -/

/-- R364, R381, R389, R392, on moves of a quad and its gating. At the group boundary, or after 10 µs, issue stops and the state is
copied; when it is copied the tracks stand where R389 told, the words of occupied tracks as they were, the cores' translation
caches are empty, and the swap begins with MOVING set; when it completes the entry names the target, the quad keeps its state
on the target's silicon and columns, and the silicon that it left stands for itself; then it issues again. An idle quad is gated
one step after it is asked, unless something woke it; a wake that finds something to issue is a start, held until the region admits
it, and any other has the banks filled at once. -/
def Obligations.MovesAndGating : Prop :=
  ∀ (s : State) (q : Nat) (m : Move) (pq : BitVec 5),
    let k := s.quad q
    let swapping (t : State) (target : Nat) : Prop := t.l2pOf q = { s.l2pOf q with moving := true } ∧
      t.Posted (.l2pSwapComplete q (BitVec.ofNat 5 target))
    (k.move = some m →
      (m.bounded = false →
        let starts (o : Outcome) : Prop := Done o fun t => t = { s with quads := t.quads, timers := t.timers } ∧
          t.quad q = { k with move := some { m with bounded := true } } ∧
          s.Timed t (s.transferTime q) (.migrationTransferDone q)
        (s.atBoundary q = true → starts (exec (.migrationBoundary q) s)) ∧
        (s.atBoundary q = false → Done (exec (.migrationBoundary q) s) (· = s)) ∧ starts (exec (.migrationForce q) s)) ∧
      (m.bounded = true → m.transferred = false → s.MemoryWf → s.bad = [] → q < 2 ^ 18 → Done (exec (.migrationTransferDone q) s) fun t =>
        (t.quad q).move = some { m with transferred := true } ∧ swapping t m.target ∧
        ∀ c ∈ quadCores q, (t.core c).itlb = [] ∧ (t.core c).dtlb = [] ∧ ∀ j < 128,
          (∀ h, (s.core c).residentHead j = some h → (t.core c).trackPos.get 0 j = h) ∧
          ((s.core c).residentHead j = none → (s.core c).bound.find j = none → (t.core c).trackPos.get 0 j = 0) ∧
          ((s.core c).occupied j = true → ∀ b, trackKey c j 0 ≤ b → b < trackKey c (j + 1) 0 →
            t.bitsAt b 1 = s.bitsAt b 1)) ∧
      (m.transferred = true → Done (exec (.l2pSwapBegin q) s) fun t => swapping t m.target ∧ t.cores = s.cores) ∧
      ((s.cluster (clusterOfQuad q)).moves = [] → Done (exec (.migrationResume q) s) fun t => (t.quad q).move = none ∧
        ∀ c ∈ quadCores q, t.Posted (.bankFill c))) ∧
    (let phys (n : BitVec 5) : Nat := spareKey (32 * s.part.physCluster (clusterOfQuad q) + n.toNat)
     q < 2 ^ 18 → pq ≠ (s.l2pOf q).pq → Done (exec (.l2pSwapComplete q pq) s) fun t =>
      t.l2pOf q = ⟨pq, false, true⟩ ∧ t.Posted (.migrationResume q) ∧ t.quad q = takeSilicon k (s.quad (phys pq)) ∧
      t.quad (phys (s.l2pOf q).pq) = takeSilicon .reset k ∧
      (∀ i < 4, t.core (coreOfQuad q i) = takeColumn (s.core (coreOfQuad q i)) (s.core (coreOfQuad (phys pq) i)) ∧
        t.core (coreOfQuad (phys (s.l2pOf q).pq) i) = takeColumn .reset (s.core (coreOfQuad q i))) ∧
      ∀ r, r < 2 ^ 18 → r ≠ q → t.quad r = s.quad r) ∧
    (k.gate = .on → s.mayGate q = true → Done (exec (.gateRequest q) s) fun t => t = { s with
        quads := t.quads, timers := t.timers } ∧ t.quad q = { k with gate := .requested } ∧ s.Timed t 1 (.gateCommit q)) ∧
    (k.gate = .on → s.mayGate q = false → Done (exec (.gateRequest q) s) (· = s)) ∧
    (k.gate = .requested → Done (exec (.gateCommit q) s) fun t => t = { s with quads := t.quads } ∧
      t.quad q = { k with gate := if s.mayGate q then .gated else .on }) ∧
    (k.gate = .gated →
      (s.hasIssue q = true → Done (exec (.quadWake q) s) fun t => t = { s with
          quads := t.quads, regions := t.regions, agenda := t.agenda } ∧
        t.quad q = { k with gate := .on, held := true } ∧ q ∈ (t.region (s.quadRegion q)).starts.map (·.1) ∧
        (s.admitting (s.quadRegion q) = false → t.Posted (.startAdmission (s.quadRegion q))) ∧
        ∀ c ∈ quadCores q, t.Posted (.bankFill c)) ∧
      (s.hasIssue q = false → Done (exec (.quadWake q) s) fun t => t = { s with quads := t.quads, agenda := t.agenda } ∧
        t.quad q = { k with gate := .on } ∧ ∀ c ∈ quadCores q, t.Posted (.bankFill c)))

/-- R376, R377, R379 to R385, on points, budgets and droop. A clock follows its voltage to the point that the requests and caps
give; each step of a region's starts admits the longest prefix that fits of those whose time has come; a grant, where the
grants in force after it are at most 30 kW, or the fail-safe budget 150 µs after the last one, divides in each region among the
active quads, each capped at the highest point that its share pays for, or at point 0 with a lower rate; a droop alarm holds every
quad of the region to RATE 32 and half width until no check has found the droop for 1 µs. Two points are the model's choice: the
rounds in which a budget is divided (`shareLevel`, log entry 28), and that a region's starts come in one series of steps 200 ns
apart, each of which admits the longest prefix that fits, so that a step within 200 ns of another does nothing (log entry 56). -/
def Obligations.PowerBudgets : Prop :=
  ∀ (s : State) (q r : Nat) (watts : List Nat),
    let k := s.region r
    let quads := s.regionQuads r
    let due := (k.starts.filter fun e => e.2 ≤ s.now).map (·.1)
    let step := s.fitStep (1000 * k.cstep.toNat) (sortBy s.routerRank due)
    let active (q : Nat) : Bool := (s.quad q).gate != .gated && !s.quadEmpty q
    let demand (q : Nat) : Nat := s.estimate q (s.presentPoint q (s.requested q))
    let divided (budget : Nat) (fsafe : Bool) (t : State) : Prop :=
      let l := (quads.filter active).map demand
      let level := shareLevel l.length budget l
      ∀ q ∈ quads, (t.quad q).fsafe = fsafe ∧ (active q = false → (t.quad q).opcap = (s.quad q).opcap) ∧
        (active q = true → s.estimate q 0 ≤ min (demand q) level → (t.quad q).budgetRate = 64 ∧
          s.estimate q (t.quad q).opcap.toNat ≤ min (demand q) level ∧
          ∀ j, (t.quad q).opcap.toNat < j → j < 8 → min (demand q) level < s.estimate q j) ∧
        (active q = true → (∀ j < 8, min (demand q) level < s.estimate q j) → (t.quad q).opcap = 0 ∧
          1 ≤ (t.quad q).budgetRate.toNat ∧ (t.quad q).budgetRate.toNat ≤ 63)
    let drooping (on : Bool) (t : State) : Prop := ∀ q ∈ quads, (t.quad q).droop = on ∧
      (t.quad q).halfw = (on || (s.quad q).hard) ∧ (on = true → (t.quad q).rate.toNat ≤ 32) ∧ 1 ≤ (t.quad q).rate.toNat
    (Done (exec (.oppVoltageSettled q) s) fun t => t = { s with quads := t.quads } ∧ t.quad q = { s.quad q with
      opp := BitVec.ofNat 3 (s.targetPoint q), vmv := s.pointVoltage q (s.targetPoint q) }) ∧
    (due = [] ∨ s.admitting r = true → Done (exec (.startAdmission r) s) (· = s)) ∧
    (due ≠ [] → s.admitting r = false → Done (exec (.startAdmission r) s) fun t => t.mem = s.mem ∧ t.cores = s.cores ∧
      (t.region r).starts = k.starts.filter (fun e => !step.1.contains e.1) ∧ s.Timed t 240 (.startAdmission r) ∧
      (∀ q ∈ step.1, (t.quad q).held = false ∧ ∀ c ∈ quadCores q, t.Posted (.bankFill c)) ∧
      ∀ q, q ∉ step.1 → t.quad q = s.quad q) ∧
    (30000 < (s.grantsAfter watts).sum → Done (exec (.packageGrant watts) s) (· = s)) ∧
    ((s.grantsAfter watts).sum ≤ 30000 → Done (exec (.packageGrant watts) s) fun t =>
      ∀ r < min 16 watts.length, (t.region r).grant = 1000 * watts.getD r 0 ∧ (t.region r).grantAt = s.now ∧
        (t.region r).failsafe = false ∧ s.Timed t 180000 (.failsafeBudget r)) ∧
    ((s.grantsAfter watts).sum ≤ 30000 → r < min 16 watts.length →
      Done (exec (.packageGrant watts) s) (divided (1000 * watts.getD r 0) false)) ∧
    (s.now < k.grantAt + 180000 → Done (exec (.failsafeBudget r) s) (· = s)) ∧
    (k.grantAt + 180000 ≤ s.now → Done (exec (.failsafeBudget r) s) fun t => (t.region r).failsafe = true ∧
      divided 843750 true t) ∧
    (Done (exec (.droopAlarm r) s) fun t => (t.region r).alarms = k.alarms + 1 ∧ (t.region r).droopEnd = s.now + 1200 ∧
      drooping true t ∧ ∃ n i, (n, i) ∈ t.timers ∧ (i = .droopCheck r true ∨ i = .droopCheck r false)) ∧
    (Done (exec (.droopCheck r true) s) fun t => t = { s with
        regions := t.regions, timers := t.timers, fresh := t.fresh } ∧ (t.region r).droopEnd = s.now + 1200 ∧
      ∃ b, s.Timed t 120 (.droopCheck r b)) ∧
    (k.droopEnd ≤ s.now → Done (exec (.droopCheck r false) s) (drooping false)) ∧
    (s.now < k.droopEnd → Done (exec (.droopCheck r false) s) fun t => t = { s with
        timers := t.timers, fresh := t.fresh } ∧ ∃ b, s.Timed t 120 (.droopCheck r b))

/-- R376, R387 to R390, R393. A sample of each sensor of a quad, or of a physical quad that serves none, that passes the checks
gives TEMP the higher reading; with one sensor failed TEMP is the other's reading and 8 degrees, with both the highest
neighbour's, or 105 °C without one, and the pin is set; the hard throttle is set above 105 °C and cleared at 102 °C. A quad
above TLIM asks for a migration, which begins where a spare qualifies. A valid reading of 115 °C or more, or an analogue
trip, switches the region off, which is a fatal error. A new plan brings its voltages and the points that are present. R386: a
sample that sets or clears HARD or PIN, or changes RATE, and no other, writes a notice to the notice word of each resident strand of
the quad that has one: with COUNT 1 where the word is empty, which it fills, and merged where it is full; and so does the end of a
migration, with MIG. -/
def Obligations.SensorsAndAgeing : Prop :=
  ∀ (s : State) (q r key : Nat) (x y : Reading) (present : BitVec 8) (p : Place),
    let k := s.quad q
    let cl := clusterOfQuad q
    let near := s.nearReadings q
    let power := s.estimate q k.opp.toNat
    let ok (e : Sensor) (v : Int) : Prop := e.failed = false ∧ e.broken v s.now power near = none
    let bad (e : Sensor) (v : Int) : Prop := e.failed = true ∨ (e.broken v s.now power near).isSome = true
    let sample := exec (.sensorSample q x y) s
    let shows (temp : Int) (d r : Bool) : Prop := 2 ^ 20 ≤ q ∨ temp ≤ 100 * s.part.tlim.toNat → Done sample fun t =>
      let z := t.quad q
      z.temp = temp ∧ z.dfail = d ∧ z.rfail = r ∧ z.pin = (d && r) ∧
      z.hard = (if 10500 < temp then true else if temp ≤ 10200 then false else k.hard) ∧
      (z.hard = true → z.halfw = true ∧ z.rate.toNat ≤ 8) ∧ z.temps = (tempField temp :: k.temps).take 256
    (∀ c, (s.cluster c).moves = []) →
    (ok k.diode x → ok k.ring y → shows (max x y) false false) ∧
    (bad k.diode x → ok k.ring y → shows (y + 800) true false) ∧
    (ok k.diode x → bad k.ring y → shows (x + 800) false true) ∧
    (bad k.diode x → bad k.ring y → (near = [] → shows 10500 true true) ∧
      ∀ a ∈ near, (∀ b ∈ near, b ≤ a) → shows (a + 800) true true) ∧
    (q < 2 ^ 18 → ok k.diode x → ok k.ring y → 100 * s.part.tlim.toNat < max x y → k.move = none → s.clusterMoves cl = false →
      (s.coolest cl = none → Done sample fun t => (t.cluster cl).moves = [⟨q, none, none⟩]) ∧
      ∀ p, s.coolest cl = some p → Done sample fun t => (t.cluster cl).moves = [] ∧
        (t.quad q).move = some ⟨p, (s.l2pOf q).pq.toNat, false, false, false⟩ ∧ t.Posted (.migrationBoundary q) ∧
        s.Timed t 12000 (.migrationForce q)) ∧
    ((ok k.diode x ∧ 11500 ≤ x) ∨ (ok k.ring y ∧ 11500 ≤ y) → (s.region (s.regionAt q)).off = false → Done sample fun t =>
      (t.region (s.regionAt q)).off = true ∧ t.Posted (.fatalError (.shutdown (s.regionAt q)) false)) ∧
    ((s.region r).off = false → Done (exec (.analogueTrip r) s) fun t =>
      t = { s with regions := t.regions, agenda := t.agenda } ∧ (t.region r).off = true ∧
      t.Posted (.fatalError (.shutdown r) false)) ∧
    ((s.region r).off = true → Done (exec (.analogueTrip r) s) (· = s)) ∧
    (Done (exec (.ageingReplan q present) s) fun t => (t.quad q).present = present ∧ (t.quad q).plan = k.plan + 1 ∧
      (present.getLsbD 0 = true → t.zlog = s.zlog) ∧
      (present.getLsbD 0 = false → t.zlog = s.zlog ++ [(0, s.physId q)])) ∧
    (q < 2 ^ 18 → s.OneNotice q p key → (Done sample fun t =>
        let z := t.quad q
        let event : Prop := z.hard ≠ k.hard ∨ z.pin ≠ k.pin ∨ z.rate ≠ k.rate
        (event → s.Noticed t q key false) ∧
        (¬ event → s.SameOutside t key 0 ∧ (key / 64 ∈ t.full ↔ key / 64 ∈ s.full))) ∧
      (k.move.isSome = true → Done (exec (.migrationResume q) s) fun t => s.Noticed t q key true))

/-! ## The host, peers and Zholos -/

/-- R165, R367, R369 to R371, on what the host asks of the partition. A PUT through a put-alias fills an empty launch word, and
is discarded and logged as kind 0x07 where the word is full or does not exist. An access to HBM, through BAR2 or over
CXL.mem, and an atomic of 32 or 64 bits, aligned, are performed in the share under the host key selection of the block, and
complete with Unsupported Request outside it or where there is no partition, and with Completer Abort while the partition is
reset. A snoop changes nothing of the model's, and CXL.cache is enabled as asked. Unmasking a vector sends its pending message. These
points are the model's choice: Unsupported Request where there is no partition and for an atomic that is misaligned or of another
width, and key selection 0 of a block that was given none (log entry 36); and that a snoop changes nothing (log entry 6). -/
def Obligations.HostAccesses : Prop :=
  ∀ (s : State) (n key byte len w : Nat) (v e : Word) (op : HostOp) (wr on : Bool) (line : Nat) (vec : Fin 32),
    let port : Port := .function s.part.link s.part.function
    let answered (a : HostAns) (t : State) : Prop := t = { s with hostOut := s.hostOut ++ [(port, a)] }
    let logged (n : Nat) (t : State) : Prop :=
      s.part.evbase.toNat / 512 = 0 ∧ t = { s with part := { s.part with evlost := s.part.evlost + 1 } } ∨
      s.part.evbase.toNat / 512 ≠ 0 ∧ t = s.logEvent 0x07 none 0 (BitVec.ofNat 64 n)
    let at' (b : Nat) : Nat := 8 * b + s.part.hostKeys.get 0 (b / 2 ^ 30) * 2 ^ 46
    let mine (len : Nat) : Prop := s.part.live = true ∧ s.dumping = false ∧ s.part.inShare byte len = true ∧ s.bad = [] ∧
      s.MemoryWf ∧ byte + len ≤ 2 ^ 43 ∧ ∀ k, s.part.hostKeys.get 0 k ≤ 2
    let written (len x : Nat) (t : State) : Prop :=
      t = { s with mem := t.mem, seals := t.seals, part := { s.part with lastTraffic := s.now }, hostOut := t.hostOut } ∧
      (∀ i < len, t.bitsAt (at' (byte + i)) 8 = x / 2 ^ (8 * i) % 2 ^ 8) ∧
      (∀ b < 2 ^ 43, b < byte ∨ byte + len ≤ b → t.bitsAt (at' b) 8 = s.bitsAt (at' b) 8) ∧
      ∀ b, scratchBase 0 ≤ b → t.bitsAt b 1 = s.bitsAt b 1
    let missing : Prop := (s.part.lwcfg.toNat % 32 ≤ n ∨ s.part.lwcfg.toNat / 512 = 0)
    let asks : List Instr := [.hostPutAliasWrite n v, .hostBar2Access wr byte len v, .hostCxlMemAccess wr byte len v,
      .hostAtomic op byte w v]
    (s.dumping = true → ∀ i ∈ asks, Done (exec i s) (answered .aborted)) ∧
    (s.dumping = false → s.part.live = false → ∀ i ∈ asks, Done (exec i s) (answered .unsupported)) ∧
    (s.dumping = false → s.part.live = true →
      (missing → Done (exec (.hostPutAliasWrite n v) s) (logged n)) ∧
      (¬ missing → s.launchWord n = some key → s.placeBusy key = false →
        (key / 64 ∈ s.full → Done (exec (.hostPutAliasWrite n v) s) (logged n)) ∧
        (key / 64 ∉ s.full → s.bad = [] → s.MemoryWf → key % 64 = 0 → scratchBase 0 ≤ key → key < trackBase 0 →
          (∀ q, (s.quad q).deferred = []) → Done (exec (.hostPutAliasWrite n v) s) fun t => s.Stored t key 64 v.toNat ∧
            key / 64 ∈ t.full ∧ t.cores = s.cores ∧ t.hostOut = s.hostOut))) ∧
    (1 ≤ len → len ≤ 8 →
      (mine len → ∀ i ∈ [Instr.hostBar2Access true byte len v, .hostCxlMemAccess true byte len v],
        Done (exec i s) fun t => written len v.toNat t ∧ t.hostOut = s.hostOut) ∧
      (mine len → ∀ i ∈ [Instr.hostBar2Access false byte len v, .hostCxlMemAccess false byte len v],
        Done (exec i s) fun t => ∃ x : Word, x.toNat < 2 ^ (8 * len) ∧
          (∀ i < len, s.bitsAt (at' (byte + i)) 8 = x.toNat / 2 ^ (8 * i) % 2 ^ 8) ∧
          t = { s with part := { s.part with lastTraffic := s.now }, hostOut := s.hostOut ++ [(port, .value x)] }) ∧
      (s.dumping = false → s.part.inShare byte len = false →
        ∀ i ∈ [Instr.hostBar2Access wr byte len v, .hostCxlMemAccess wr byte len v],
          Done (exec i s) (answered .unsupported))) ∧
    ((w = 32 ∨ w = 64) → byte % (w / 8) = 0 → mine (w / 8) → s.placeBusy (at' byte) = false →
      let old := s.bitsAt (at' byte) w
      let runs (op : HostOp) (x : Nat) : Prop := Done (exec (.hostAtomic op byte w v) s) fun t => written (w / 8) (x % 2 ^ w) t ∧
        t.hostOut = s.hostOut ++ [(port, .value (BitVec.ofNat 64 old))]
      runs .fetchAdd (old + v.toNat) ∧ runs .swap v.toNat ∧
      runs (.cas e) (if old = e.toNat % 2 ^ w then v.toNat else old)) ∧
    (s.dumping = false → ¬ (w = 32 ∨ w = 64) ∨ 8 * byte % w ≠ 0 ∨ s.part.inShare byte (w / 8) = false →
      Done (exec (.hostAtomic op byte w v) s) (answered .unsupported)) ∧
    Done (exec (.hostCxlSnoop line) s) (· = s) ∧
    Done (exec (.cxlCacheEnable on) s) (· = { s with part := { s.part with cxlCache := on } }) ∧
    (Done (exec (.msixVectorUnmask vec) s) fun t =>
      t = { s with part := { s.part with masked := t.part.masked, pending := t.part.pending }, hostOut := t.hostOut } ∧
      (∀ j < 32, t.part.masked.getLsbD j = (s.part.masked.getLsbD j && decide (j ≠ vec.val)) ∧
        t.part.pending.getLsbD j = (s.part.pending.getLsbD j && decide (j ≠ vec.val))) ∧
      t.hostOut = s.hostOut ++ if s.part.pending.getLsbD vec.val then [(port, .msix vec.val)] else [])

/-- R59, R289, R365, R372 to R374, R402, R409. A request of a bound peer to a byte of the share or to a scratchpad of the
partition is performed here and answered on the peer's link: a load, a store, an atomic; one outside, or of a module that is
not bound, or a full/empty operation outside layer 0, returns an address fault. A binding is made once per module, on one of
the 24 links, and never to the module itself; one that is removed leaves no translation of its pages, and the requests that
wait on its memory, or for it here, return a fault, each on the link on which it came. A beat that fails is resent and counted;
after 16 failures the link is dead, which is a fatal error. These points are the model's choice: the form in which a peer's request
reaches the module (log entry 37), the refusal of a second binding of one module and of a link above 23 (log entry 38), and the die
found from a link's number (log entry 39). -/
def Obligations.PeersAndLinks : Prop :=
  ∀ (s : State) (addr v : Word) (w : Width) (op : PeerOp) (key : Nat) (p : Peer) (own : BitVec 12) (link fails : Nat),
    let n := bitsOf w
    let request := exec (.peerRequest op addr w v) s
    let bound : Prop := ∃ b ∈ s.part.peers, b.num = op.num
    let told (a : Answer) : List (Port × HostAns) := s.hostOut ++ [(.peer op.link, .reply op.src op.tag a)]
    let faults : Prop := Done request (· = { s with hostOut := told .peerFault })
    let inMesh : Prop := ∃ x y off, x < 1024 ∧ y < 1024 ∧ s.part.inside x y = true ∧ off < 7 * 2 ^ 17 ∧ off % 2 ^ 17 + n ≤ 2 ^ 17 ∧
      (n = 3 ∨ n = 6 ∨ off % n = 0) ∧ addr.toNat % 2 ^ 49 = x * 2 ^ 39 + y * 2 ^ 29 + off ∧
      key = scratchBase (quadOf (coreId x y)) + off
    let inHbm : Prop := s.part.inShare (addr.toNat / 8) ((addr.toNat % 8 + n + 7) / 8) = true ∧ key = addr.toNat ∧ key + n ≤ 2 ^ 46
    let m := peerMsg op [⟨key, n⟩] addr v
    let first : Prop := (∀ e ∈ s.filter (filterPlace m), ¬ (e.1 = m.src ∧ e.2.1 = m.tag)) ∧ s.filterLoad m < 256 ∧
      (∀ q, (s.quad q).deferred = []) ∧ s.bad = [] ∧ s.MemoryWf
    let old := s.bitsAt key n
    let stores (x : Nat) (t : State) : Prop := t.bitsAt key n = x % 2 ^ n ∧
      (∀ k, k < 2 ^ 46 ∨ scratchBase 0 ≤ k → k < key ∨ key + n ≤ k → t.bitsAt k 1 = s.bitsAt k 1) ∧
      t = { s with
        mem := t.mem, seals := t.seals, filters := t.filters, agenda := t.agenda, hostOut := t.hostOut
        part := { s.part with lastTraffic := s.now } }
    let x := link / 4 % 1024
    let y := link / 4 / 1024
    let d := dieAt (x / 80) (y / 80)
    let counted (t : State) : Prop := t.die d = { s.die d with errd := (t.die d).errd } ∧
      (t.die d).errd.toNat / 2 ^ 32 = min (2 ^ 32 - 1) ((s.die d).errd.toNat / 2 ^ 32 + 1) ∧
      (t.die d).errd.toNat % 2 ^ 32 = (s.die d).errd.toNat % 2 ^ 32 ∧ ∀ e, e ≠ d → t.die e = s.die e
    (op.src.core < 2 ^ 24 →
      (¬ bound → faults) ∧
      (bound → addr.toNat / 2 ^ 61 ≠ 4 →
        (s.part.inShare (addr.toNat / 8) ((addr.toNat % 8 + n + 7) / 8) = false → faults) ∧ (needsLayer0 op.op = true → faults)) ∧
      (bound → addr.toNat / 2 ^ 61 = 4 → s.part.inside (addr.toNat / 2 ^ 39 % 2 ^ 10) (addr.toNat / 2 ^ 29 % 2 ^ 10) = false →
        faults) ∧
      (bound → (addr.toNat / 2 ^ 61 = 4 ∧ inMesh) ∨ (addr.toNat / 2 ^ 61 ≠ 4 ∧ inHbm) → first →
        (∀ signed, op.op = .load signed → Done request (· = { s with
          part := { s.part with lastTraffic := s.now }
          hostOut := told (.value (if signed then (BitVec.ofNat n old).signExtend 64 else BitVec.ofNat 64 old) true) })) ∧
        (op.op = .store → Done request fun t => stores v.toNat t ∧ t.filters = s.filters ∧ t.hostOut = told (.value 0 true)) ∧
        (op.op ∈ [MemOp.amoAdd, .amoAnd, .amoOr, .amoXor, .amoMinn, .amoMaxn, .amoSwap] → Done request fun t =>
          stores (amoNew op.op n old (v.toNat % 2 ^ n)) t ∧ t.hostOut = told (.value (BitVec.ofNat 64 old) true) ∧
          (m.src, m.tag, .value (BitVec.ofNat 64 old) true) ∈ t.filter (filterPlace m)))) ∧
    (let num := if s.modid.getLsbD 63 then s.modid.extractLsb' 0 12 else own
     let may : Prop := p.num ≠ num ∧ s.part.live = true ∧ p.link < 24 ∧ s.part.peers.length < 16 ∧
       ∀ b ∈ s.part.peers, b.num ≠ p.num
     Done (exec (.peerBindingSetup p own) s) fun t => t = { s with modid := t.modid, part := t.part } ∧
      t.modid.toNat = 2 ^ 63 + num.toNat ∧ (may → t.part = { s.part with peers := s.part.peers ++ [p] }) ∧
      (¬ may → t.part = s.part)) ∧
    (Done (exec (.peerBindingRemove p.num) s) fun t =>
      t.part = { s.part with peers := s.part.peers.filter fun b => b.num != p.num } ∧ t.mem = s.mem ∧
      (∀ c, ∀ e ∈ (t.core c).itlb ++ (t.core c).dtlb ++ (t.cluster c).tlb,
        ¬ ((e.leaf.extractLsb' 60 2).toNat = 2 ∧ (e.leaf.extractLsb' 48 12).toNat = p.num.toNat)) ∧
      ∀ q, ∀ m ∈ (s.quad q).deferred,
        let itself : Prop := m.src.core / 2 ^ 24 % 8192 = p.num.toNat + 1
        let there : Prop := ∃ x ∈ m.parts, inPeer p.num.toNat x.key = true
        (itself → m ∉ (t.quad q).deferred ∧
          (.peer (m.src.core / 2 ^ 37), .reply ⟨m.src.core % 2 ^ 24, m.src.bank⟩ m.tag .peerFault) ∈ t.hostOut) ∧
        (¬ itself → there → m ∉ (t.quad q).deferred ∧ t.Posted (.memReply m .peerFault)) ∧
        (¬ itself → ¬ there → m ∈ (t.quad q).deferred)) ∧
    (fails < 16 → Done (exec (.linkBeatRetry link fails) s) fun t => t = { s with dies := t.dies } ∧ counted t) ∧
    (16 ≤ fails → Done (exec (.linkBeatRetry link fails) s) fun t => counted t ∧
      t = { s with dies := t.dies, agenda := s.agenda ++ [.event (.fatalError (.deadLink link) false)] })

/-- R40, R44, R45, R47, R163, R362, on the image loader. An image is refused, and nothing of it loaded, where the partition is not
quiet; a relocation leaves its range, or is no multiple of what it must be; a cabinet's type disagrees; a route ends outside
the partition, or a link-cycle is reserved twice; contents lie in cabinet 7; a section has no pages with its permissions, .text
executable and not writable, .rwdata and .zero writable, .rodata and .launch not; or a U-mode task is launched at a sys entry.
Otherwise its bytes stand in each quad's cabinets, whose words are empty, and at
their places in virtual space, zeros for .zero; its words on the tracks of each core, which are marked occupied and stand at
the highest position written; its routes with their latency in the table, those of earlier images as they were; its types in CFMT;
its relocations placed; and the addresses of its launch records are reported to the host. These points are the model's choice: the
answer failure 0 and the refusal of the whole image, for a U-mode launch at a sys entry too (log entry 40); and that the sections are
placed through the partition's own tables (log entry 72). -/
def Obligations.ImagesLoad : Prop :=
  ∀ (s : State) (img : Image),
    let p := s.part
    let load := exec (.imageLoad img) s
    let refused : Prop := Done load (· = { s with hostOut := s.hostOut ++ [(.zholos, .failed 0)] })
    let lo (v : Int) : Int := v - 4096 * ((v + 2048) / 4096)
    let wide (v : Int) : Prop := v < -(2 ^ 31) ∨ 2 ^ 31 ≤ v
    let inexact (v : Int) (w : Nat) : Prop := wide v ∨ lo v % w ≠ 0
    let far (d : Int) (n : Nat) : Prop := d % 32 ≠ 0 ∨ d / 16 < -((2 : Int) ^ n) ∨ (2 : Int) ^ n - 2 < d / 16
    (p.live = false → refused) ∧ (s.quiet = false → refused) ∧
    (∀ r ∈ img.relocs, ∀ v : Int, relocTarget r img = some v →
      (r.kind = .abs64 → v < -(2 ^ 63) ∨ 2 ^ 64 ≤ v → refused) ∧ (r.kind = .hi20 → wide v → refused) ∧
      (r.kind = .lo12i ∨ r.kind = .lo12s → inexact v r.scale → refused) ∧
      ∀ a : Int, relocPlace r img = some a → (r.kind = .pchi20 → wide (v - a) → refused) ∧
        (r.kind = .pclo12i → inexact (v - a) r.scale → refused) ∧ (r.kind = .br13 → far (v - a) 12 → refused) ∧
        (r.kind = .jal21 → far (v - a) 20 → refused)) ∧
    (∀ f ∈ img.formats, (∃ t, p.formats.find f.1.val = some t ∧ t ≠ f.2) ∨
      (p.formats.find f.1.val = none ∧ ∃ g ∈ img.formats, g.1 = f.1 ∧ g.2 ≠ f.2) → refused) ∧
    (∀ r ∈ img.routes, p.inside (coreX r.src) (coreY r.src) = false ∨ p.inside (coreX r.dst) (coreY r.dst) = false → refused) ∧
    (∀ (j k : Nat), j < k → ∀ a b, img.routes[j]? = some a → img.routes[k]? = some b →
      (∃ x ∈ s.linkCycles a, x ∈ s.linkCycles b) → refused) ∧
    (∀ r ∈ img.routes, ∀ e ∈ p.routes, e.2.detoured = false → (∀ o ∈ img.routes, o.id.toNat ≠ e.1) →
      (∃ x ∈ s.linkCycles r, x ∈ s.linkCycles e.2.decl) → refused) ∧
    (∀ b ∈ img.cabinets, 7 * 2 ^ 14 ≤ b.1 → refused) ∧
    (∀ x ∈ img.sections, (s.sectionPlaced x = false → refused) ∧
      let a := x.base.toNat % 2 ^ 61
      ∀ i e bits, i ≤ (a + 8 * x.size - 1) / 2 ^ 19 - a / 2 ^ 19 → s.walk ((a / 2 ^ 19 + i) * 2 ^ 19) = .leaf e bits →
        (e.getLsbD 0 = false → refused) ∧ (x.kind = .text → e.getLsbD 2 = false ∨ e.getLsbD 1 = true → refused) ∧
        (x.kind = .rwdata ∨ x.kind = .zero → e.getLsbD 1 = false → refused) ∧
        (x.kind = .rodata ∨ x.kind = .launch → e.getLsbD 1 = true → refused)) ∧
    (∀ l ∈ imageLaunches img, taskSys l.2 = false →
      (∃ e ∈ img.entries, e.sys = true ∧ sectionBit img e.sect e.off = some ((taskEntry l.2).toNat : Int)) → refused) ∧
    (p.live = true → s.quiet = true → s.imageRefused img = false → s.MemoryWf → s.bad = [] → (∀ q, (s.quad q).deferred = []) →
      (∀ c, (s.core c).dead = [] ∧ (s.core c).spineBroken = []) →
      p.width ≤ 1024 → p.height ≤ 1024 → (img.cabinets.map (·.1)).Nodup → (img.tracks.map fun w => (w.1, w.2.1)).Nodup →
      (img.routes.map (·.id)).Nodup → (∀ w ∈ img.tracks, w.2.1 < 4096) →
      (img.sections = [] → img.relocs = [] → Done load fun t => t.hostOut = s.hostOut ∧
        (∀ q ∈ p.quadList, ∀ b ∈ img.cabinets, t.bitsAt (scratchBase q + 8 * b.1) 8 = b.2.toNat ∧
          (scratchBase q + 8 * b.1) / 64 ∉ t.full) ∧
        (∀ w, (∀ q ∈ p.quadList, ∀ b ∈ img.cabinets, w ≠ (scratchBase q + 8 * b.1) / 64) → (w ∈ t.full ↔ w ∈ s.full)) ∧
        (∀ c ∈ p.coreList, ∀ w ∈ img.tracks, t.bitsAt (trackKey c w.1.toNat w.2.1) 256 = w.2.2.toNat ∧
          (t.core c).tocc.getLsbD w.1.toNat = true ∧ ∃ v ∈ img.tracks, v.1 = w.1 ∧
            (t.core c).trackPos.get 0 w.1.toNat = v.2.1 % 1024 ∧ ∀ z ∈ img.tracks, z.1 = w.1 → z.2.1 ≤ v.2.1) ∧
        (∀ r ∈ img.routes, ∃ u, t.part.routes.find r.id.toNat = some u ∧ u.decl = r ∧ u.latency = 3 + 2 * s.hops r.src r.dst ∧
          u.since = (s.channel r.ch.toNat).phase ∧ u.buffer = none ∧ u.flying = [] ∧ u.arrivals = 0 ∧ u.misses = 0) ∧
        (∀ n, (∀ r ∈ img.routes, r.id.toNat ≠ n) → t.part.routes.find n = p.routes.find n) ∧ t.part.channels = p.channels ∧
        (∀ q ∈ p.quadList, ∀ f ∈ img.formats, (t.quad q).cfmt[f.1] = f.2) ∧
        (∀ n : Fin 7, (∀ f ∈ img.formats, f.1 ≠ n) → ∀ q, (t.quad q).cfmt[n] = (s.quad q).cfmt[n])) ∧
      (∀ off v, img.sections = [] → (∃ r, img.relocs = [r] ∧ r.kind = .abs64 ∧ r.field = .inCabinets off ∧
          relocTarget r img = some v) → off % 8 = 0 → (∀ i < 8, ∃ b, (off / 8 + i, b) ∈ img.cabinets) →
        Done load fun t => ∀ q ∈ p.quadList, t.bitsAt (scratchBase q + off) 64 = (BitVec.ofInt 64 v).toNat) ∧
      (∀ (x : Section) (place : Nat → Nat), img.sections = [x] → img.relocs = [] → (x.bytes.map (·.1)).Nodup →
        (∀ b ∈ x.bytes, b.1 < x.size) → (∀ i < x.size, place i % 8 = 0 ∧ place i / 2 ^ 46 = place 0 / 2 ^ 46 ∧ ∃ e bits,
          s.walk ((x.base.extractLsb' 0 51).toNat + 8 * i) = .leaf e bits ∧
          (leafPlace e bits ((x.base.extractLsb' 0 51).toNat + 8 * i)).1 = place i) →
        (∀ i < x.size, ∀ j < x.size, place i = place j → i = j) → Done load fun t =>
          (x.kind ≠ .zero → ∀ b ∈ x.bytes, t.bitsAt (place b.1) 8 = b.2.toNat) ∧
          (x.kind = .zero → ∀ i < x.size, t.bitsAt (place i) 8 = 0) ∧
          t.hostOut = s.hostOut ++ if x.kind = .launch ∧ 64 ≤ x.size then
            [(.zholos, .launch ((List.range (x.size / 64)).map fun i => x.base + BitVec.ofNat 64 (512 * i)))] else []))

/-- R325, R363, R365 to R367, R390, R406 to R409, on a partition's life. Creation: a rectangle of whole clusters, each on a die that
exists, in a region that is on, with at most four failed quads, under an ID never used, with a share of blocks that exist
and a function of a host link, gets registers at their reset values, CSTEP's too, every word empty, PCTL.HOLD set, an L2P
table in which a failed quad takes a good spare, its quads on the silicon of that table, at the power state that this and a droop
response or a fail-safe budget in force ask for (R377, R380, R383 to R385), and its share reported; else the request fails. The start
checks the boot header word by word, then starts one strand in S mode on core (0, 0) with its arguments. Teardown leaves no register,
word or key of the partition, its silicon apart, and after a fatal error the partition is created again under a new ID, where it can
be. Keys are installed where a report gave the key that they are encapsulated to, and what stood under an earlier one of the same kind
is noise; a report says what R407 lists. These points are the model's choice: the place of the boot header and the one frame of the
first strand (log entry 41); the next ID, one above the greatest used, and failure 0 where Zholos cannot create (log entry 42); that
silicon keeps its point until it moves, and a fail-safe budget is divided among all new quads (log entry 89); and that teardown
discards the shared key too (log entry 10). -/
def Obligations.PartitionLife : Prop :=
  ∀ (s : State) (p : PartSpec) (b : Fin 4) (key : Nat) (k1 k2 : BitVec 256) (nonce : Word),
    let answered (a : HostAns) (t : State) : Prop := t = { s with hostOut := s.hostOut ++ [(.zholos, a)] }
    let serves (s : State) (c : Nat) : Prop :=
      let x := c % 128 / 8
      let y := c / 128 / 10
      ¬ ((x = 0 ∨ x = 5) ∧ (y = 0 ∨ y = 5)) ∧ (s.harvest.get [] c).length ≤ 4 ∧ (s.region (dieAt x y / 2)).off = false
    let accepted (s : State) (p : PartSpec) : Prop := s.part.live = false ∧ p.ident ≠ 0 ∧ p.ident.toNat ∉ s.idents ∧
      0 < p.width ∧ 0 < p.height ∧ p.width % 8 = 0 ∧ p.height % 8 = 0 ∧ p.originX % 8 = 0 ∧ p.originY % 8 = 0 ∧
      p.originX + p.width ≤ 384 ∧ p.originY + p.height ≤ 480 ∧ p.share ≠ [] ∧ (∀ c ∈ specClusters p, serves s c) ∧
      (∀ b ∈ p.share, b < 64 * 24 ∧ ¬ (60 ≤ b ∧ b < 64) ∧ ¬ (828 ≤ b ∧ b < 832) ∧ b / 64 ∉ s.lost) ∧
      (∀ e ∈ p.hostKeys, e.2 ≤ 2) ∧ p.link < 8 ∧ 1 ≤ p.function ∧ p.function ≤ 8
    let clean (s : State) : Prop := (∀ r < 2 ^ 20, s.quad r = .reset) ∧ ∀ c, quadOf c < 2 ^ 20 → s.core c = .reset
    let powered (s t : State) (q : Nat) : Prop :=
      let z := takeSilicon .reset (s.quad (spareKey (t.physId q)))
      let r := s.region (t.quadRegion q)
      let y := t.quad q
      let goal := t.targetPoint q
      y = { z with
        droop := decide (s.now < r.droopEnd), halfw := y.droop || y.hard, rate := y.rate, opp := y.opp, vmv := t.pointVoltage q goal
        fsafe := r.failsafe, opcap := y.opcap, budgetRate := y.budgetRate } ∧
      (r.failsafe = false → y.opcap = 7 ∧ y.budgetRate = 64) ∧ 1 ≤ y.budgetRate.toNat ∧ y.budgetRate.toNat ≤ 64 ∧
      y.rate.toNat = min y.budgetRate.toNat (if y.hard then 8 else if y.droop then 32 else 64) ∧
      (goal ≤ z.opp.toNat → y.opp.toNat = goal) ∧
      (z.opp.toNat < goal → y.opp = z.opp ∧ s.Timed t 240 (.oppVoltageSettled q))
    let creates (s : State) (p : PartSpec) (t : State) : Prop :=
      t = { s with
        part := t.part, idents := s.idents ++ [p.ident.toNat], full := [], cores := t.cores, quads := t.quads
        regions := t.regions, timers := t.timers, fresh := t.fresh, hostOut := t.hostOut } ∧
      t.part = { Partition.reset with
        live := true, originX := p.originX, originY := p.originY, width := p.width, height := p.height, owner := p.owner
        share := p.share, hostKeys := t.part.hostKeys, link := p.link, function := p.function, ident := p.ident
        grant := p.grant, l2pBase := p.l2pBase, hold := true, lastTraffic := s.now, created := s.now, l2p := t.part.l2p } ∧
      ((p.hostKeys.map (·.1)).Nodup → ∀ e ∈ p.hostKeys, t.part.hostKeys.get 0 e.1 = e.2) ∧
      t.hostOut = s.hostOut ++ [(.zholos, .share p.ident.toNat (p.share.map fun b => (b, t.part.hostKeys.get 0 b)))] ∧
      ∀ q ∈ t.part.quadList, let failed := s.harvest.get [] (t.part.physCluster (clusterOfQuad q))
        (t.region (t.quadRegion q)).cstep = 500 ∧ (t.l2pOf q).valid = true ∧ (t.l2pOf q).moving = false ∧
        (indexInCluster q ∉ failed → (t.l2pOf q).pq.toNat = indexInCluster q) ∧
        (indexInCluster q ∈ failed → 16 ≤ (t.l2pOf q).pq.toNat ∧ (t.l2pOf q).pq.toNat < 20 ∧ (t.l2pOf q).pq.toNat ∉ failed) ∧
        powered s t q ∧
        ∀ i < 4, t.core (coreOfQuad q i) = takeColumn .reset (s.core (coreOfQuad (spareKey (t.physId q)) i))
    let torn (t : State) : Prop := t.part = .reset ∧ t.idents = s.idents ∧ t.mem = s.mem ∧
      t.epoch = s.epoch + 1 ∧ t.sharedEpoch = s.sharedEpoch + 1 ∧
      t.dumping = false ∧ t.clusters = [] ∧ t.full = [] ∧ t.filters = [] ∧ (∀ d, (t.die d).pool = []) ∧
      (∀ c, quadOf c < 2 ^ 20 → t.core c = .reset) ∧ (∀ q < 2 ^ 20, t.quad q = .reset) ∧
      (∀ k < hostBase, k / 2 ^ 46 = 1 → t.bitsAt k 1 = s.bitsAt k 1) ∧
      ((∀ q ∈ s.part.quadList, ∀ r ∈ s.part.quadList, s.physId q = s.physId r → q = r) → ∀ q ∈ s.part.quadList, q < 2 ^ 20 →
        t.quad (spareKey (s.physId q)) = takeSilicon .reset (s.quad q))
    let again : PartSpec := ⟨BitVec.ofNat 16 (s.idents.foldl max 0 + 1), s.part.originX, s.part.originY, s.part.width,
      s.part.height, s.part.owner, s.part.share, s.part.hostKeys, s.part.link, s.part.function, s.part.grant, s.part.l2pBase⟩
    let head (k : Nat) : Word := BitVec.ofNat 64
      (s.bitsAt (8 * s.part.bootByte + s.part.hostKeys.get 0 (s.part.bootByte / 2 ^ 30) * 2 ^ 46 + 64 * k) 64)
    let start := exec .partitionStart s
    (accepted s p → clean s → Done (exec (.partitionCreate p) s) (creates s p)) ∧
    (¬ accepted s p → Done (exec (.partitionCreate p) s) (answered (.failed 0))) ∧
    (s.part.live = false → Done start (answered (.failed 0))) ∧
    (s.part.live = true → s.bad = [] →
      (head 0 ≠ 0x534B424F → Done start (answered (.failed 1))) ∧
      (head 0 = 0x534B424F → (head 1).toNat % 4096 ≠ 0 ∨ s.part.inShare (head 1).toNat 4096 = false →
        Done start (answered (.failed 2))) ∧
      (head 0 = 0x534B424F → (head 1).toNat % 4096 = 0 → s.part.inShare (head 1).toNat 4096 = true →
        ((head 2).toNat % 32 ≠ 0 ∨ (head 3).toNat % 32 ≠ 0 → Done start (answered (.failed 3))) ∧
        ((head 2).toNat % 32 = 0 → (head 3).toNat % 32 = 0 → (head 4).toNat % 512 ≠ 0 → Done start (answered (.failed 4))) ∧
        ((head 2).toNat % 32 = 0 → (head 3).toNat % 32 = 0 → (head 4).toNat % 512 = 0 → head 4 ≠ 0 →
          s.Names 0 (head 4) 1024 512 key → s.part.inside 0 0 = true → (s.core 0).freeBank = some b → s.MemoryWf →
          Done start fun t =>
            let st := t.strand ⟨0, b⟩
            t.hostOut = s.hostOut ++ [(.zholos, .started)] ∧ t.part.ptbase = head 1 ∧
            (∀ c ∈ s.part.coreList, (t.core c).tvec = head 3) ∧
            (t.bank ⟨0, b⟩).live = true ∧ st.priv = true ∧ st.pc = head 2 ∧ st.sfp = head 4 ∧
            (∀ r, st.reg r = if r = 10 then head 5 else if r = 11 then BitVec.ofNat 64 s.part.width
              else if r = 12 then BitVec.ofNat 64 s.part.height else 0) ∧
            s.Timed t 40 (.recordLoadDone ⟨0, b⟩)))) ∧
    (s.part.live = false → Done (exec (.partitionTeardown) s) (· = s)) ∧
    (s.part.live = true → Done (exec .partitionTeardown s) fun t => (s.dumping = false → torn t) ∧
      (s.dumping = true → ∃ u, torn u ∧ (accepted u again → creates u again t) ∧
        (¬ accepted u again → t = { u with hostOut := u.hostOut ++ [(.zholos, .failed 0)] }))) ∧
    (s.part.live = false ∨ s.part.encap = none → Done (exec (.ownerKeyDelivery k1 k2) s) (· = s)) ∧
    (s.part.live = true → s.part.encap.isSome = true → Done (exec (.ownerKeyDelivery k1 k2) s) (· = { s with
      epoch := if s.part.ownerKey = 0 ∨ s.part.ownerKey = k1 then s.epoch else s.epoch + 1
      sharedEpoch := if s.part.sharedKey = 0 ∨ s.part.sharedKey = k2 then s.sharedEpoch else s.sharedEpoch + 1
      part := { s.part with ownerKey := k1, sharedKey := k2 } })) ∧
    (Done (exec (.attestationReport nonce) s) fun t => ∃ r k,
      t = { s with fresh := t.fresh, part := { s.part with encap := t.part.encap }, hostOut := s.hostOut ++ [(.zholos, .report r)] } ∧
      (s.part.encap.isSome = true ∨ s.part.live = false → t.part.encap = s.part.encap) ∧
      (∀ n, s.part.encap = some n → k = n) ∧ (s.part.live = true → t.part.encap = some k) ∧
      r.serial = Config.serial ∧ r.rom = Config.romDigest ∧ r.firmware = s.firmware.digest ∧ r.version = s.firmware.version ∧
      r.harvest = Config.harvestDigest s.harvest ∧ r.ident = s.part.ident.toNat ∧ r.nonce = nonce ∧
      r.encapKey = Config.encapKey k ∧ r.signature = Config.signature [r.serial.toNat, r.rom.toNat, r.firmware.toNat, r.version,
        r.harvest.toNat, r.ident, r.nonce.toNat, r.encapKey])

/-- R357, R393, R403, R405, R407 to R410. What a fatal error concerns follows from its cause: the partition whose paths cross a dead
link or router, whose quads a region's shutdown stops, or whose share a lost stack holds, or the module for the watchdog, its
own control state and a lost stack with the root of the tables; else Zholos alone is told. It stops issue there, writes the
next colophon into its slot on both stacks, and has the reset follow; a second one is added to the header of the first. A
colophon is read from the mirror where stack 0 is lost, and reads the same each time. A cold boot starts the newest firmware that may
run, with the quads that failed or are worn added to the harvest map, at most 32 legal override entries a router, the colophons as
they were, and each physical quad with its operating points, its spare and dead tracks and its spine as they were; a step that fails
stops it, and is reported. The scrubber logs a group that it cannot correct, which stays, in the Zholos log where it is of no
partition. These points are the model's choice: the order of the words in a colophon's header, and that a dump key is made for each
(log entry 68); the number of a link and the paths to the rim (log entry 39); and the scope of a lost stack by the root of the tables
(log entry 76). -/
def Obligations.FatalErrors : Prop :=
  ∀ (s : State) (slot : Fin 8) (group l r k : Nat) (m : Bool) (b : Boot) (f : Firmware),
    let n := s.colophonSeq + 1
    let at' (stack slot : Nat) : Nat := stack * 2 ^ 36 + 0xF00000000 + slot * 2 ^ 29
    let told (a : HostAns) : List (Port × HostAns) := s.hostOut ++ [(.zholos, a)]
    let stops (code : Nat) (whole : Bool) (t : State) : Prop :=
      (∃ c, t.colophons.find (at' 0 (n % 8)) = some c ∧ t.colophons.find (at' 12 (n % 8)) = some c ∧
        (8, BitVec.ofNat 64 n) ∈ c.words ∧ (16, BitVec.ofNat 64 code) ∈ c.words ∧ (24, 0) ∈ c.words ∧
        (32, BitVec.ofNat 64 s.now) ∈ c.words ∧ (s.part.live = true → (40, s.part.ident.setWidth 64) ∈ c.words) ∧
        (48, Config.serial) ∈ c.words ∧ c.wrapped = if s.part.live then s.part.encap.map (Config.wrapKey s.fresh) else none) ∧
      (∀ j, j ≠ at' 0 (n % 8) → j ≠ at' 12 (n % 8) → t.colophons.find j = s.colophons.find j) ∧ t.colophonSeq = n ∧
      t.dumping = true ∧ t.halted = whole ∧ (∀ q ∈ s.part.quadList, (t.quad q).fatal = true) ∧ t.cores = s.cores ∧ t.mem = s.mem ∧
      if whole then ∃ b : Boot, b.fuses = s.fuses ∧ b.images = s.flash ∧ t.Posted (.coldBoot b) else t.Posted .partitionTeardown
    let fatal (c : FatalCause) (ofModule : Bool) (P : State → Prop) : Prop := Done (exec (.fatalError c ofModule) s) P
    let alone (code : Nat) (t : State) : Prop := t = { s with zlog := s.zlog ++ [(code, 0)], lost := t.lost }
    let crosses (through : Nat × Nat → Prop) : Prop := ∃ a ∈ s.part.coreList, ∃ b ∈ s.part.coreList,
      ∃ e ∈ s.links (s.routerOf b).1 (s.routerOf b).2 2048 (s.routerOf a).1 (s.routerOf a).2 0, through e
    let onLink (e : Nat × Nat) : Prop := 4 * e.1 + e.2 = l
    let atRouter (e : Nat × Nat) : Prop := e.1 = r ∨ linkEnd e = r
    (s.dumping = false →
      (s.part.live = true → fatal .controlState false (stops 1 false) ∧ (crosses onLink → fatal (.deadLink l) m (stops 2 false)) ∧
        (crosses atRouter → fatal (.deadRouter r) m (stops 2 false)) ∧ (s.regionQuads k ≠ [] → fatal (.shutdown k) m (stops 3 false)) ∧
        (s.part.ptbase.toNat / 4096 ≠ 0 → s.part.ptbase.toNat / 2 ^ 36 = k → fatal (.hbmLost k) m fun t => stops 4 true t ∧ k ∈ t.lost) ∧
        (s.part.ptbase.toNat / 2 ^ 36 ≠ k → (∃ x ∈ s.part.share, x / 64 = k) →
          fatal (.hbmLost k) m fun t => stops 4 false t ∧ k ∈ t.lost) ∧
        (s.part.ptbase.toNat / 2 ^ 36 ≠ k → (∀ x ∈ s.part.share, x / 64 ≠ k) →
          fatal (.hbmLost k) m fun t => alone 4 t ∧ k ∈ t.lost)) ∧
      fatal .controlState true (stops 1 true) ∧ fatal .watchdog m (stops 5 true) ∧ Done (exec .zholosWatchdog s) (stops 5 true)) ∧
    (s.part.live = false → fatal .controlState false (alone 1) ∧ fatal (.deadLink l) m (alone 2) ∧
      fatal (.deadRouter r) m (alone 2) ∧ fatal (.shutdown k) m (alone 3)) ∧
    (¬ crosses onLink → fatal (.deadLink l) m fun t => let toRim := Config.rimCrosses s.part.ident.toNat l
      (toRim = false → alone 2 t) ∧ (toRim = true → s.part.live = true → s.dumping = false → stops 2 false t)) ∧
    (s.regionQuads k = [] → fatal (.shutdown k) m (alone 3)) ∧
    (s.dumping = true →
      let adds (code : Nat) (t : State) : Prop := t = { s with colophons := t.colophons } ∧
        ∀ j, t.colophons.find j = (s.colophons.find j).map fun c =>
          if j = at' 0 (s.colophonSeq % 8) ∨ j = at' 12 (s.colophonSeq % 8) then
            { c with words := c.words.map fun w => if w = (24, 0) then (24, BitVec.ofNat 64 code) else w }
          else c
      fatal .controlState true (adds 1) ∧ Done (exec .zholosWatchdog s) (adds 5) ∧
      (s.part.live = true → fatal .controlState false (adds 1))) ∧
    (Done (exec (.colophonRead slot) s) (· = { s with
      hostOut := told (.colophon (s.colophons.find (at' (if 0 ∈ s.lost then 12 else 0) slot.val))) })) ∧
    (let silicon (t : State) : Prop := (∀ q < 2 ^ 20, t.quad q = .reset) ∧ (∀ c, quadOf c < 2 ^ 20 → t.core c = .reset) ∧
       let stays (from' ph : Nat) : Prop :=
         t.quad (spareKey ph) = { Quad.reset with present := (s.quad from').present, plan := (s.quad from').plan } ∧
         ∀ i < 4, t.core (coreOfQuad (spareKey ph) i) = { takeColumn .reset (s.core (coreOfQuad from' i)) with slips := [] }
       (s.part.live = true → (∀ q ∈ s.part.quadList, ∀ r ∈ s.part.quadList, s.physId q = s.physId r → q = r) →
         ∀ q ∈ s.part.quadList, q < 2 ^ 20 → stays q (s.physId q)) ∧
       ∀ ph, (s.part.live = true → ∀ q ∈ s.part.quadList, s.physId q ≠ ph) → stays (spareKey ph) ph
     let boots (g : Firmware) (t : State) : Prop := silicon t ∧ t = { State.reset with
        mem := s.mem, seals := s.seals, epoch := s.epoch + 1, sharedEpoch := s.sharedEpoch + 1, cores := t.cores, quads := t.quads
        bad := s.bad, fresh := s.fresh, harvest := t.harvest
        firmware := g, flash := b.images, fuses := b.fuses, overrides := t.overrides, colophons := s.colophons
        colophonSeq := s.colophonSeq, zlog := s.zlog, halted := t.halted, hostOut := t.hostOut }
     let stopped (step : Nat) (t : State) : Prop := t.halted = true ∧ t.hostOut = told (.bootFailed step)
     let refused (g : Firmware) : Prop := g.signed = false ∨ g.version < b.fuses
     ((∀ g ∈ b.images, refused g) → Done (exec (.coldBoot b) s) fun t => boots s.firmware t ∧ stopped 1 t) ∧
     (∀ older newer, b.images = newer ++ f :: older → (∀ g ∈ newer, refused g) → ¬ refused f →
       (∀ step, b.stops = some step → Done (exec (.coldBoot b) s) fun t => boots f t ∧ stopped step t ∧
         (step ≤ 3 → t.harvest = s.harvest)) ∧
       (b.stops = none → Done (exec (.coldBoot b) s) fun t => boots f t ∧ t.halted = false ∧ t.hostOut = s.hostOut ∧
         (∀ x, (t.overrides.get [] x).length ≤ 32 ∧ ∀ o ∈ t.overrides.get [] x, entryLegal (x % 1024) (x / 1024) o = true) ∧
         ∀ c q, q ∈ t.harvest.get [] c ↔ q ∈ s.harvest.get [] c ∨ (∃ l, (c, l) ∈ b.failed ∧ ∃ x ∈ l, x.val = q) ∨
           (q < 32 ∧ ((∃ e ∈ s.cores, (e.2.dead ≠ [] ∨ (∃ v ∈ e.2.spares, v.2 = 0) ∨ e.2.spine = 0) ∧
              s.physId (quadOf e.1) = 32 * c + q) ∨
            ∃ e ∈ s.quads, e.2.present.getLsbD 0 = false ∧ s.physId e.1 = 32 * c + q))))) ∧
    (group ∉ s.bad → Done (exec (.patrolScrub group) s) (· = s)) ∧
    (group ∈ s.bad → s.ownsGroup group = false →
      Done (exec (.patrolScrub group) s) (· = { s with zlog := s.zlog ++ [(2, structureOf (64 * group))] })) ∧
    (group ∈ s.bad → s.ownsGroup group = true →
      (s.part.evbase.toNat / 512 = 0 → Done (exec (.patrolScrub group) s)
        (· = { s with part := { s.part with evlost := s.part.evlost + 1 } })) ∧
      (s.part.evbase.toNat / 512 ≠ 0 → Done (exec (.patrolScrub group) s) fun t => t.bad = s.bad ∧
        t = s.logEvent 0x02 none (meshAddrOf (64 * group)) (BitVec.ofNat 64 (structureOf (64 * group)))))

/-- R402 to R405, on errors in storage, which stand on the agenda as upsets (the model's choice, log entry 73). A correctable error
of a quad, of a cluster cache or of HBM is counted in ERRQ.CORR, ERRC.CCORR or ERRD.HCORR, which saturate, and changes
nothing else; a parity error is counted in ERRC.PAR, and the translations that cover its address are dropped. A group of
memory that becomes uncorrectable in the deques or run lists of a cabinet 7 is a fatal error; elsewhere it is held as such,
and no bit outside it changes. A load of the whole group in a scratchpad is answered with 0, and with no event ring the group
is good again, ERRQ.UNC and EVLOST count one more, and DLOSS is set in the load's strand; a store of the whole group makes it
good, and counts nothing. -/
def Obligations.StorageErrors : Prop :=
  ∀ (s : State) (rest : List Activity) (n g va : Nat) (m : Msg) (sg : Bool) (p : Place),
    let s' : State := { s with agenda := rest }
    let counted (v w : Word) (lo len : Nat) : Prop :=
      w = if v.toNat / 2 ^ lo % 2 ^ len = 2 ^ len - 1 then v else v + BitVec.ofNat 64 (2 ^ lo)
    let upset (u : Upset) (P : State → Prop) : Prop := s.modeDue = false → s.agenda = .upset u :: rest → Done (step s) P
    let key := 64 * g
    let q := (key - scratchBase 0) / 2 ^ 20
    let new : Prop := (∀ q, ∀ e ∈ (s.quad q).deferred, ¬(e.src = m.src ∧ e.tag = m.tag)) ∧
      ∀ e ∈ s.filter (filterPlace m), ¬(e.1 = m.src ∧ e.2.1 = m.tag)
    upset (.correctedQuad n) (fun t => t = { s' with quads := t.quads } ∧ (∀ r, r ≠ n → t.quad r = s.quad r) ∧
      t.quad n = { s.quad n with errq := (t.quad n).errq } ∧ counted (s.quad n).errq (t.quad n).errq 48 16) ∧
    upset (.correctedCache n) (fun t => t = { s' with clusters := t.clusters } ∧ (∀ r, r ≠ n → t.cluster r = s.cluster r) ∧
      t.cluster n = { s.cluster n with errc := (t.cluster n).errc } ∧ counted (s.cluster n).errc (t.cluster n).errc 32 32) ∧
    upset (.correctedHbm n) (fun t => t = { s' with dies := t.dies } ∧ (∀ r, r ≠ n → t.die r = s.die r) ∧
      t.die n = { s.die n with errd := (t.die n).errd } ∧ counted (s.die n).errd (t.die n).errd 16 16) ∧
    upset (.parity n none va) (fun t => t = { s' with clusters := t.clusters } ∧ (∀ r, r ≠ n → t.cluster r = s.cluster r) ∧
      t.cluster n = { s.cluster n with errc := (t.cluster n).errc, tlb := (t.cluster n).tlb } ∧
      counted (s.cluster n).errc (t.cluster n).errc 0 16 ∧
      ∀ e, e ∈ (t.cluster n).tlb ↔ e ∈ (s.cluster n).tlb ∧ ¬(e.va ≤ va ∧ va < e.va + 2 ^ e.bits)) ∧
    (inControlState g = true → upset (.group g) fun t => t = { s' with agenda := rest ++ [.event (.fatalError .controlState false)] }) ∧
    (inControlState g = false → s.MemoryWf → upset (.group g) fun t => t = { s' with mem := t.mem, bad := t.bad } ∧
      (∀ i, i ∈ t.bad ↔ i ∈ s.bad ∨ i = g) ∧ t.mem.readBits key 64 = 0 ∧
      ∀ k, k / 64 ≠ g → t.mem.readBits k 1 = s.mem.readBits k 1) ∧
    (s.bad = [g] → m.parts = [⟨key, 64⟩] → scratchBase 0 ≤ key → key + 64 ≤ trackBase 0 → m.src.core < 2 ^ 24 → new → s.MemoryWf →
      (m.addr.toNat / 2 ^ 61 = 0 ∨ m.addr.toNat / 2 ^ 61 = 2) →
      (m.op = .load sg → s.part.evbase.toNat / 512 = 0 → s.Resident m.sfp p → Done (exec (.memRequest m) s) fun t =>
        t.Posted (.memReply m (.value 0 true)) ∧ t.bad = [] ∧ counted (s.quad q).errq (t.quad q).errq 32 16 ∧
        t.part = { s.part with evlost := s.part.evlost + 1 } ∧ (t.strand p) = { s.strand p with dloss := true } ∧
        ∀ b, b ≠ p → t.bank b = s.bank b) ∧
      (m.op = .store → s.guarded key = false → (∀ r, (s.quad r).deferred = []) → Done (exec (.memRequest m) s) fun t =>
        t.Posted (.memReply m (.value 0 true)) ∧ t.bad = [] ∧ s.Stored t key 64 m.data.toNat ∧ t.cores = s.cores ∧
        t.quads = s.quads ∧ t.part = s.part))

/-! ## Reset, the step, encodings and memory -/

/-- The reset values that R70, R74, R86, R309, R340, R377, R404 and R405 give: every register of every core, quad, cluster, die and
region, and of the partition, that the tables name, HKEY and SHARE of every strand among them, and every word empty (R325). -/
def Obligations.ResetValues : Prop :=
  let s := State.reset
  (∀ c, let k := s.core c
    k.tvec = 0 ∧ k.bmask = 0 ∧ k.bmaskNew = 0 ∧ k.shiftct = 0 ∧ k.shiftac = 0 ∧ k.tocc = 0 ∧ k.fphead = 0 ∧ k.pgasn = 0 ∧ k.spill = 0 ∧
    k.dqstat = 0 ∧ k.opreq = 4) ∧
  (∀ p, (s.bank p).tcause = 0 ∧ (s.bank p).tval = 0 ∧ (s.bank p).tepc = 0 ∧ (s.bank p).tscratch = 0 ∧
    (s.strand p).fx = 0 ∧ (s.strand p).dloss = false ∧ (s.strand p).ppriv = false ∧ (s.strand p).trap = false ∧
    (s.strand p).notice = 0 ∧ (s.strand p).qerr = 0 ∧ (s.strand p).qprog = 0 ∧ (s.strand p).hkey = 0 ∧ (s.strand p).share = 1) ∧
  (∀ q, let k := s.quad q
    k.cfmt = Vector.replicate 7 24 ∧ k.qctl = 0 ∧ k.errq = 0 ∧ k.rfail = false ∧ k.dfail = false ∧ k.pin = false ∧ k.hard = false ∧
    k.droop = false ∧ k.halfw = false ∧ k.rate = 64 ∧ k.opp = 4 ∧ k.opcap = 7) ∧
  (∀ c, (s.cluster c).errc = 0 ∧ (s.cluster c).fqbase = 0 ∧ s.scalehome c = pairForm (firstCore c)) ∧
  (∀ d, (s.die d).errd = 0 ∧ (s.die d).nfail = 0) ∧ (∀ r, (s.region r).cstep = 500) ∧
  s.part.tlim = 100 ∧ s.part.prewin = 65536 ∧ s.part.orKind = 0 ∧ s.part.ptbase = 0 ∧ s.part.hangw = 0 ∧
  s.part.hangbuf = 0 ∧ s.part.cbw = Vector.replicate 4 0 ∧ s.part.hold = false ∧ s.part.mode = false ∧ s.part.lwcfg = 0 ∧
  s.part.larea = 0 ∧ s.part.evbase = 0 ∧ s.part.evhead = 0 ∧ s.part.evlost = 0 ∧ s.modid = 0 ∧ s.full = [] ∧ s.MemoryWf

/-- R69, R136, R139, and log entry 4 for what a step is: a change of ATOMODE that is due goes first, then what is on the agenda,
then a timer that is due; then, with the module not halted and no hang found, the core whose turn it is executes the
instruction that the word at its PC decodes to, from the state in which the core has taken its turn and the fetch is noted; a
word that decodes to none is an illegal instruction, and a failed fetch is a fetch fault; else time passes. -/
def Obligations.StepsRunInstructions : Prop :=
  ∀ (s : State) (c d : Nat) (w : BitVec 32) (i : Instr) (why : FetchFailure),
    let u := s.takeTurn c
    let waits : Prop := ∃ n, s.now < n ∧ step s = .next { s with now := n }
    (s.modeDue = true → step s = exec .atomodeSwitch s) ∧
    (s.modeDue = false →
      (∀ r, s.agenda = .event i :: r → step s = exec i { s with agenda := r }) ∧
      (s.agenda = [] → s.halted = true → waits) ∧
      (s.agenda = [] → s.halted = false →
        (∀ r, s.timers = (d, i) :: r → d ≤ s.now → step s = exec i { s with timers := r }) ∧
        ((∀ e ∈ s.timers, s.now < e.1) →
          (s.hangs.isSome = true → step s = .next { s with agenda := [.event .hangTrap] }) ∧
          (s.hangs = none → s.nextCore = none → waits) ∧
          (s.hangs = none → s.nextCore = some c →
            ((s.core c).guard < 4096 →
              (u.fetch c u.user u.pc = .ok w →
                (decodeWord w = some i → step s = exec i (u.noteAccess c .fetch u.user u.pc)) ∧
                (decodeWord w = none → step s = exec (.illegalInstruction w) (u.noteAccess c .fetch u.user u.pc))) ∧
              (u.fetch c u.user u.pc = .error why → step s = exec (.fetchFault u.pc why) u)) ∧
            (4096 ≤ (s.core c).guard → step s = exec (.issueGuardExpiry c) s)))))

/-- The words of the spec's examples decode to the instructions they stand for: R142, R159, R166, R309 and R315. -/
def Obligations.ExampleWords : Prop :=
  decodeWord 0xFE029EE3 = some (.bne 5 0 (-2)) ∧
  decodeWord 0x0CB6752F = some (.amoAdd ⟨true, true, false⟩ .b64 10 11 12) ∧
  decodeWord 0xB806752F = some (.take ⟨true, false, false⟩ .b64 10 12) ∧
  decodeWord 0x10601073 = some (.csrrw 0 0 0x106) ∧
  decodeWord 0x30000073 = some .tret ∧ decodeWord 0 = none

/-- R138 to R194, on encodings. A well-formed scalar instruction's word, and a well-formed command's word with its marks, decode
to it, with every operand; and each word has one meaning: an instruction that a word decodes to is encoded by that word. -/
def Obligations.EncodingsRoundTrip : Prop :=
  (∀ i w, i.wf = true → encode i = some w → decodeWord w = some i) ∧
  (∀ w i, decodeWord w = some i → i.wf = true ∧ encode i = some w) ∧
  (∀ i x, i.wf = true → encodeCmdWord i = some x → decodeCommand x.1.join x.2.1 x.2.2 = some i) ∧
  (∀ w ua ub i, decodeCommand w ua ub = some i → encodeCommand i = some w)

/-- R50, on memory, and log entry 3 for its form: the list of addresses and bytes that holds it stays in canonical form through
every step, from every state, so that equal memories are equal data. -/
def Obligations.MemoryStaysCanonical : Prop :=
  ∀ s t : State, s.MemoryWf → step s = .next t → t.MemoryWf
end

