-- ==== Sys2Proof/Laws/Encodings.lean ====
section
/-! SUPPORT. Encodings: taking a word apart and joining it again, and the immediates of the formats. -/

namespace Sys2Proof

/-! ## Bits of a concatenation -/

/-- One bit as a field of one bit. -/
theorem bit1_getLsbD {n : Nat} (w : BitVec n) (k : Nat) : bit1 (w.getLsbD k) = w.extractLsb' k 1 := by
  ext i hi
  have : i = 0 := by omega
  subst this
  simp [bit1]

theorem getLsbD_bit1 (b : Bool) : (bit1 b).getLsbD 0 = b := by cases b <;> rfl

/-- A bit of the high part of a concatenation. -/
theorem getLsbD_high {m n : Nat} (x : BitVec m) (y : BitVec n) (k : Nat) (h : n ≤ k) :
    (x ++ y).getLsbD k = x.getLsbD (k - n) := by simp [BitVec.getLsbD_append, Nat.not_lt.2 h]

/-- A bit of the low part of a concatenation. -/
theorem getLsbD_low {m n : Nat} (x : BitVec m) (y : BitVec n) (k : Nat) (h : k < n) :
    (x ++ y).getLsbD k = y.getLsbD k := by simp [BitVec.getLsbD_append, h]

/-! ## Scalar words -/

theorem Fields.split_join (f : Fields) : Fields.split f.join = f := by
  obtain ⟨a, b, c, d, e, g⟩ := f
  simp (disch := decide) only [Fields.split, Fields.join, BitVec.extractLsb'_append_eq_of_le,
    BitVec.extractLsb'_append_eq_of_add_le, Nat.reduceSub, BitVec.extractLsb'_eq_self]

theorem Fields.join_split (w : BitVec 32) : (Fields.split w).join = w := by
  simp only [Fields.split, Fields.join]
  repeat rw [BitVec.extractLsb'_append_extractLsb'_eq_extractLsb' (by rfl)]
  exact BitVec.extractLsb'_eq_self

theorem Fields.immI_i (op : BitVec 7) (f3 : BitVec 3) (rd rs1 : BitVec 5) (imm : BitVec 12) :
    (Fields.i op f3 rd rs1 imm).immI = imm := by
  simp only [Fields.immI, Fields.i]
  repeat rw [BitVec.extractLsb'_append_extractLsb'_eq_extractLsb' (by rfl)]
  exact BitVec.extractLsb'_eq_self

theorem Fields.immS_s (op : BitVec 7) (f3 : BitVec 3) (rs1 rs2 : BitVec 5) (imm : BitVec 12) :
    (Fields.s op f3 rs1 rs2 imm).immS = imm := by
  simp only [Fields.immS, Fields.s]
  repeat rw [BitVec.extractLsb'_append_extractLsb'_eq_extractLsb' (by rfl)]
  exact BitVec.extractLsb'_eq_self

theorem Fields.immB_b (op : BitVec 7) (f3 : BitVec 3) (rs1 rs2 : BitVec 5) (imm : BitVec 12) :
    (Fields.b op f3 rs1 rs2 imm).immB = imm := by
  simp (disch := decide) only [Fields.immB, Fields.b, BitVec.extractLsb'_append_eq_of_le,
    BitVec.extractLsb'_append_eq_of_add_le, Nat.reduceSub, BitVec.extractLsb'_eq_self]
  repeat rw [BitVec.extractLsb'_append_extractLsb'_eq_extractLsb' (by rfl)]
  exact BitVec.extractLsb'_eq_self

theorem Fields.immU_u (op : BitVec 7) (rd : BitVec 5) (imm : BitVec 20) : (Fields.u op rd imm).immU = imm := by
  simp only [Fields.immU, Fields.u]
  repeat rw [BitVec.extractLsb'_append_extractLsb'_eq_extractLsb' (by rfl)]
  exact BitVec.extractLsb'_eq_self

theorem Fields.immJ_j (op : BitVec 7) (rd : BitVec 5) (imm : BitVec 20) : (Fields.j op rd imm).immJ = imm := by
  simp (disch := decide) only [Fields.immJ, Fields.j, Fields.immU_u, BitVec.extractLsb'_append_eq_of_le,
    BitVec.extractLsb'_append_eq_of_add_le, Nat.reduceSub, BitVec.extractLsb'_eq_self]
  repeat rw [BitVec.extractLsb'_append_extractLsb'_eq_extractLsb' (by rfl)]
  exact BitVec.extractLsb'_eq_self

/-- A part of the high bits of an I immediate. -/
theorem Fields.f7_i (op : BitVec 7) (f3 : BitVec 3) (rd rs1 : BitVec 5) (imm : BitVec 12) (k l : Nat) (h : k + l ≤ 7) :
    (Fields.i op f3 rd rs1 imm).f7.extractLsb' k l = imm.extractLsb' (5 + k) l := by
  ext i hi
  have : k + i < 7 := by omega
  simp [Fields.i, this, Nat.add_assoc]

/-- A part of the high bits of an S immediate. -/
theorem Fields.f7_s (op : BitVec 7) (f3 : BitVec 3) (rs1 rs2 : BitVec 5) (imm : BitVec 12) (k l : Nat) (h : k + l ≤ 7) :
    (Fields.s op f3 rs1 rs2 imm).f7.extractLsb' k l = imm.extractLsb' (5 + k) l := by
  ext i hi
  have : k + i < 7 := by omega
  simp [Fields.s, this, Nat.add_assoc]

@[simp] theorem Width.ofCode_code (w : Width) : Width.ofCode w.code = w := by cases w <;> rfl

@[simp] theorem AwaitCmp.ofCode_code (c : AwaitCmp) : AwaitCmp.ofCode c.code = c := by cases c <;> rfl

@[simp] theorem Order.ofBits_bits (o : Order) : Order.ofBits o.bits = o := by
  obtain ⟨a, b, c⟩ := o
  cases a <;> cases b <;> cases c <;> rfl

/-! ## Command words -/

theorem CmdWord.split_join (x : CmdWord) : CmdWord.split x.join = x := by
  obtain ⟨op, eng, comb, tagged, mbz, fields, c, b, a⟩ := x
  simp (disch := decide) only [CmdWord.split, CmdWord.join, BitVec.extractLsb'_append_eq_of_le, BitVec.extractLsb'_append_eq_of_add_le,
    Nat.reduceSub, BitVec.extractLsb'_eq_self, getLsbD_high, getLsbD_low, getLsbD_bit1]

theorem CmdWord.join_split (w : BitVec 256) : (CmdWord.split w).join = w := by
  simp only [CmdWord.split, CmdWord.join, bit1_getLsbD]
  repeat rw [BitVec.extractLsb'_append_extractLsb'_eq_extractLsb' (by rfl)]
  exact BitVec.extractLsb'_eq_self

theorem QueueF.split_join (f : QueueF) : QueueF.split f.join = f := by
  obtain ⟨n, m, stagger, low⟩ := f
  simp (disch := decide) only [QueueF.split, QueueF.join, BitVec.extractLsb'_append_eq_of_le,
    BitVec.extractLsb'_append_eq_of_add_le, Nat.reduceSub, BitVec.extractLsb'_eq_self]

theorem QueueF.join_split (w : BitVec 48) : (QueueF.split w).join = w := by
  simp only [QueueF.split, QueueF.join]
  repeat rw [BitVec.extractLsb'_append_extractLsb'_eq_extractLsb' (by rfl)]
  exact BitVec.extractLsb'_eq_self

theorem TrackF.split_join (f : TrackF) : TrackF.split f.join = f := by
  obtain ⟨track, head, step, four, seg, vreg, npos, low⟩ := f
  simp (disch := decide) only [TrackF.split, TrackF.join, BitVec.extractLsb'_append_eq_of_le, BitVec.extractLsb'_append_eq_of_add_le,
    Nat.reduceSub, BitVec.extractLsb'_eq_self, getLsbD_high, getLsbD_low, getLsbD_bit1]

theorem TrackF.join_split (w : BitVec 48) : (TrackF.split w).join = w := by
  simp only [TrackF.split, TrackF.join, bit1_getLsbD]
  repeat rw [BitVec.extractLsb'_append_extractLsb'_eq_extractLsb' (by rfl)]
  exact BitVec.extractLsb'_eq_self

theorem VecF.split_join (f : VecF) : VecF.split f.join = f := by
  obtain ⟨vd, va, vb, vc, gc, men, mreg, mz, rt, fn, rtz, xt, aux⟩ := f
  simp (disch := decide) only [VecF.split, VecF.join, BitVec.extractLsb'_append_eq_of_le, BitVec.extractLsb'_append_eq_of_add_le,
    Nat.reduceSub, BitVec.extractLsb'_eq_self, getLsbD_high, getLsbD_low, getLsbD_bit1]

theorem VecF.join_split (w : BitVec 48) : (VecF.split w).join = w := by
  simp only [VecF.split, VecF.join, bit1_getLsbD]
  repeat rw [BitVec.extractLsb'_append_extractLsb'_eq_extractLsb' (by rfl)]
  exact BitVec.extractLsb'_eq_self

theorem PressF.split_join (f : PressF) : PressF.split f.join = f := by
  obtain ⟨sa, sb, sm, acc, acc2, ty, rtz, tr, dk, rs, nrow, sp8, cwput, rmt, mreg, low⟩ := f
  simp (disch := decide) only [PressF.split, PressF.join, BitVec.extractLsb'_append_eq_of_le, BitVec.extractLsb'_append_eq_of_add_le,
    Nat.reduceSub, BitVec.extractLsb'_eq_self, getLsbD_high, getLsbD_low, getLsbD_bit1]

theorem PressF.join_split (w : BitVec 48) : (PressF.split w).join = w := by
  simp only [PressF.split, PressF.join, bit1_getLsbD]
  repeat rw [BitVec.extractLsb'_append_extractLsb'_eq_extractLsb' (by rfl)]
  exact BitVec.extractLsb'_eq_self

theorem CopyF.split_join (f : CopyF) : CopyF.split f.join = f := by
  obtain ⟨cwput, rb, subid, ns, low⟩ := f
  simp (disch := decide) only [CopyF.split, CopyF.join, BitVec.extractLsb'_append_eq_of_le, BitVec.extractLsb'_append_eq_of_add_le,
    Nat.reduceSub, BitVec.extractLsb'_eq_self, getLsbD_high, getLsbD_low, getLsbD_bit1]

theorem CopyF.join_split (w : BitVec 48) : (CopyF.split w).join = w := by
  simp only [CopyF.split, CopyF.join, bit1_getLsbD]
  repeat rw [BitVec.extractLsb'_append_extractLsb'_eq_extractLsb' (by rfl)]
  exact BitVec.extractLsb'_eq_self

end Sys2Proof
end

