-- ==== Sys2Proof/Laws/State.lean ====
section
/-! SUPPORT. What each named update of the state leaves in each field: one lemma per field and update, true by
computation. -/

namespace Sys2Proof.Machine

variable (s : State)

/-! ## setCore -/

@[simp] theorem State.setCore_now (c : Nat) (v : Core) : (s.setCore c v).now = s.now := rfl
@[simp] theorem State.setCore_cur (c : Nat) (v : Core) : (s.setCore c v).cur = s.cur := rfl
@[simp] theorem State.setCore_agenda (c : Nat) (v : Core) : (s.setCore c v).agenda = s.agenda := rfl
@[simp] theorem State.setCore_timers (c : Nat) (v : Core) : (s.setCore c v).timers = s.timers := rfl
@[simp] theorem State.setCore_fresh (c : Nat) (v : Core) : (s.setCore c v).fresh = s.fresh := rfl
@[simp] theorem State.setCore_seq (c : Nat) (v : Core) : (s.setCore c v).seq = s.seq := rfl
@[simp] theorem State.setCore_ctx (c : Nat) (v : Core) : (s.setCore c v).ctx = s.ctx := rfl
@[simp] theorem State.setCore_mem (c : Nat) (v : Core) : (s.setCore c v).mem = s.mem := rfl
@[simp] theorem State.setCore_seals (c : Nat) (v : Core) : (s.setCore c v).seals = s.seals := rfl
@[simp] theorem State.setCore_epoch (c : Nat) (v : Core) : (s.setCore c v).epoch = s.epoch := rfl
@[simp] theorem State.setCore_sharedEpoch (c : Nat) (v : Core) : (s.setCore c v).sharedEpoch = s.sharedEpoch := rfl
@[simp] theorem State.setCore_full (c : Nat) (v : Core) : (s.setCore c v).full = s.full := rfl
@[simp] theorem State.setCore_bad (c : Nat) (v : Core) : (s.setCore c v).bad = s.bad := rfl
@[simp] theorem State.setCore_filters (c : Nat) (v : Core) : (s.setCore c v).filters = s.filters := rfl
@[simp] theorem State.setCore_cores (c : Nat) (v : Core) : (s.setCore c v).cores = s.cores.set c v := rfl
@[simp] theorem State.setCore_quads (c : Nat) (v : Core) : (s.setCore c v).quads = s.quads := rfl
@[simp] theorem State.setCore_clusters (c : Nat) (v : Core) : (s.setCore c v).clusters = s.clusters := rfl
@[simp] theorem State.setCore_dies (c : Nat) (v : Core) : (s.setCore c v).dies = s.dies := rfl
@[simp] theorem State.setCore_regions (c : Nat) (v : Core) : (s.setCore c v).regions = s.regions := rfl
@[simp] theorem State.setCore_part (c : Nat) (v : Core) : (s.setCore c v).part = s.part := rfl
@[simp] theorem State.setCore_modid (c : Nat) (v : Core) : (s.setCore c v).modid = s.modid := rfl
@[simp] theorem State.setCore_harvest (c : Nat) (v : Core) : (s.setCore c v).harvest = s.harvest := rfl
@[simp] theorem State.setCore_overrides (c : Nat) (v : Core) : (s.setCore c v).overrides = s.overrides := rfl
@[simp] theorem State.setCore_firmware (c : Nat) (v : Core) : (s.setCore c v).firmware = s.firmware := rfl
@[simp] theorem State.setCore_flash (c : Nat) (v : Core) : (s.setCore c v).flash = s.flash := rfl
@[simp] theorem State.setCore_fuses (c : Nat) (v : Core) : (s.setCore c v).fuses = s.fuses := rfl
@[simp] theorem State.setCore_lost (c : Nat) (v : Core) : (s.setCore c v).lost = s.lost := rfl
@[simp] theorem State.setCore_colophons (c : Nat) (v : Core) : (s.setCore c v).colophons = s.colophons := rfl
@[simp] theorem State.setCore_colophonSeq (c : Nat) (v : Core) : (s.setCore c v).colophonSeq = s.colophonSeq := rfl
@[simp] theorem State.setCore_dumping (c : Nat) (v : Core) : (s.setCore c v).dumping = s.dumping := rfl
@[simp] theorem State.setCore_halted (c : Nat) (v : Core) : (s.setCore c v).halted = s.halted := rfl
@[simp] theorem State.setCore_zlog (c : Nat) (v : Core) : (s.setCore c v).zlog = s.zlog := rfl
@[simp] theorem State.setCore_grants (c : Nat) (v : Core) : (s.setCore c v).grants = s.grants := rfl
@[simp] theorem State.setCore_idents (c : Nat) (v : Core) : (s.setCore c v).idents = s.idents := rfl
@[simp] theorem State.setCore_hostOut (c : Nat) (v : Core) : (s.setCore c v).hostOut = s.hostOut := rfl

/-! ## setQuad -/

@[simp] theorem State.setQuad_now (q : Nat) (v : Quad) : (s.setQuad q v).now = s.now := rfl
@[simp] theorem State.setQuad_cur (q : Nat) (v : Quad) : (s.setQuad q v).cur = s.cur := rfl
@[simp] theorem State.setQuad_agenda (q : Nat) (v : Quad) : (s.setQuad q v).agenda = s.agenda := rfl
@[simp] theorem State.setQuad_timers (q : Nat) (v : Quad) : (s.setQuad q v).timers = s.timers := rfl
@[simp] theorem State.setQuad_fresh (q : Nat) (v : Quad) : (s.setQuad q v).fresh = s.fresh := rfl
@[simp] theorem State.setQuad_seq (q : Nat) (v : Quad) : (s.setQuad q v).seq = s.seq := rfl
@[simp] theorem State.setQuad_ctx (q : Nat) (v : Quad) : (s.setQuad q v).ctx = s.ctx := rfl
@[simp] theorem State.setQuad_mem (q : Nat) (v : Quad) : (s.setQuad q v).mem = s.mem := rfl
@[simp] theorem State.setQuad_seals (q : Nat) (v : Quad) : (s.setQuad q v).seals = s.seals := rfl
@[simp] theorem State.setQuad_epoch (q : Nat) (v : Quad) : (s.setQuad q v).epoch = s.epoch := rfl
@[simp] theorem State.setQuad_sharedEpoch (q : Nat) (v : Quad) : (s.setQuad q v).sharedEpoch = s.sharedEpoch := rfl
@[simp] theorem State.setQuad_full (q : Nat) (v : Quad) : (s.setQuad q v).full = s.full := rfl
@[simp] theorem State.setQuad_bad (q : Nat) (v : Quad) : (s.setQuad q v).bad = s.bad := rfl
@[simp] theorem State.setQuad_filters (q : Nat) (v : Quad) : (s.setQuad q v).filters = s.filters := rfl
@[simp] theorem State.setQuad_cores (q : Nat) (v : Quad) : (s.setQuad q v).cores = s.cores := rfl
@[simp] theorem State.setQuad_quads (q : Nat) (v : Quad) : (s.setQuad q v).quads = s.quads.set q v := rfl
@[simp] theorem State.setQuad_clusters (q : Nat) (v : Quad) : (s.setQuad q v).clusters = s.clusters := rfl
@[simp] theorem State.setQuad_dies (q : Nat) (v : Quad) : (s.setQuad q v).dies = s.dies := rfl
@[simp] theorem State.setQuad_regions (q : Nat) (v : Quad) : (s.setQuad q v).regions = s.regions := rfl
@[simp] theorem State.setQuad_part (q : Nat) (v : Quad) : (s.setQuad q v).part = s.part := rfl
@[simp] theorem State.setQuad_modid (q : Nat) (v : Quad) : (s.setQuad q v).modid = s.modid := rfl
@[simp] theorem State.setQuad_harvest (q : Nat) (v : Quad) : (s.setQuad q v).harvest = s.harvest := rfl
@[simp] theorem State.setQuad_overrides (q : Nat) (v : Quad) : (s.setQuad q v).overrides = s.overrides := rfl
@[simp] theorem State.setQuad_firmware (q : Nat) (v : Quad) : (s.setQuad q v).firmware = s.firmware := rfl
@[simp] theorem State.setQuad_flash (q : Nat) (v : Quad) : (s.setQuad q v).flash = s.flash := rfl
@[simp] theorem State.setQuad_fuses (q : Nat) (v : Quad) : (s.setQuad q v).fuses = s.fuses := rfl
@[simp] theorem State.setQuad_lost (q : Nat) (v : Quad) : (s.setQuad q v).lost = s.lost := rfl
@[simp] theorem State.setQuad_colophons (q : Nat) (v : Quad) : (s.setQuad q v).colophons = s.colophons := rfl
@[simp] theorem State.setQuad_colophonSeq (q : Nat) (v : Quad) : (s.setQuad q v).colophonSeq = s.colophonSeq := rfl
@[simp] theorem State.setQuad_dumping (q : Nat) (v : Quad) : (s.setQuad q v).dumping = s.dumping := rfl
@[simp] theorem State.setQuad_halted (q : Nat) (v : Quad) : (s.setQuad q v).halted = s.halted := rfl
@[simp] theorem State.setQuad_zlog (q : Nat) (v : Quad) : (s.setQuad q v).zlog = s.zlog := rfl
@[simp] theorem State.setQuad_grants (q : Nat) (v : Quad) : (s.setQuad q v).grants = s.grants := rfl
@[simp] theorem State.setQuad_idents (q : Nat) (v : Quad) : (s.setQuad q v).idents = s.idents := rfl
@[simp] theorem State.setQuad_hostOut (q : Nat) (v : Quad) : (s.setQuad q v).hostOut = s.hostOut := rfl

/-! ## modCore -/

@[simp] theorem State.modCore_now (c : Nat) (f : Core → Core) : (s.modCore c f).now = s.now := rfl
@[simp] theorem State.modCore_cur (c : Nat) (f : Core → Core) : (s.modCore c f).cur = s.cur := rfl
@[simp] theorem State.modCore_agenda (c : Nat) (f : Core → Core) : (s.modCore c f).agenda = s.agenda := rfl
@[simp] theorem State.modCore_timers (c : Nat) (f : Core → Core) : (s.modCore c f).timers = s.timers := rfl
@[simp] theorem State.modCore_fresh (c : Nat) (f : Core → Core) : (s.modCore c f).fresh = s.fresh := rfl
@[simp] theorem State.modCore_seq (c : Nat) (f : Core → Core) : (s.modCore c f).seq = s.seq := rfl
@[simp] theorem State.modCore_ctx (c : Nat) (f : Core → Core) : (s.modCore c f).ctx = s.ctx := rfl
@[simp] theorem State.modCore_mem (c : Nat) (f : Core → Core) : (s.modCore c f).mem = s.mem := rfl
@[simp] theorem State.modCore_seals (c : Nat) (f : Core → Core) : (s.modCore c f).seals = s.seals := rfl
@[simp] theorem State.modCore_epoch (c : Nat) (f : Core → Core) : (s.modCore c f).epoch = s.epoch := rfl
@[simp] theorem State.modCore_sharedEpoch (c : Nat) (f : Core → Core) : (s.modCore c f).sharedEpoch = s.sharedEpoch := rfl
@[simp] theorem State.modCore_full (c : Nat) (f : Core → Core) : (s.modCore c f).full = s.full := rfl
@[simp] theorem State.modCore_bad (c : Nat) (f : Core → Core) : (s.modCore c f).bad = s.bad := rfl
@[simp] theorem State.modCore_filters (c : Nat) (f : Core → Core) : (s.modCore c f).filters = s.filters := rfl
@[simp] theorem State.modCore_cores (c : Nat) (f : Core → Core) : (s.modCore c f).cores = s.cores.set c (f (s.core c)) := rfl
@[simp] theorem State.modCore_quads (c : Nat) (f : Core → Core) : (s.modCore c f).quads = s.quads := rfl
@[simp] theorem State.modCore_clusters (c : Nat) (f : Core → Core) : (s.modCore c f).clusters = s.clusters := rfl
@[simp] theorem State.modCore_dies (c : Nat) (f : Core → Core) : (s.modCore c f).dies = s.dies := rfl
@[simp] theorem State.modCore_regions (c : Nat) (f : Core → Core) : (s.modCore c f).regions = s.regions := rfl
@[simp] theorem State.modCore_part (c : Nat) (f : Core → Core) : (s.modCore c f).part = s.part := rfl
@[simp] theorem State.modCore_modid (c : Nat) (f : Core → Core) : (s.modCore c f).modid = s.modid := rfl
@[simp] theorem State.modCore_harvest (c : Nat) (f : Core → Core) : (s.modCore c f).harvest = s.harvest := rfl
@[simp] theorem State.modCore_overrides (c : Nat) (f : Core → Core) : (s.modCore c f).overrides = s.overrides := rfl
@[simp] theorem State.modCore_firmware (c : Nat) (f : Core → Core) : (s.modCore c f).firmware = s.firmware := rfl
@[simp] theorem State.modCore_flash (c : Nat) (f : Core → Core) : (s.modCore c f).flash = s.flash := rfl
@[simp] theorem State.modCore_fuses (c : Nat) (f : Core → Core) : (s.modCore c f).fuses = s.fuses := rfl
@[simp] theorem State.modCore_lost (c : Nat) (f : Core → Core) : (s.modCore c f).lost = s.lost := rfl
@[simp] theorem State.modCore_colophons (c : Nat) (f : Core → Core) : (s.modCore c f).colophons = s.colophons := rfl
@[simp] theorem State.modCore_colophonSeq (c : Nat) (f : Core → Core) : (s.modCore c f).colophonSeq = s.colophonSeq := rfl
@[simp] theorem State.modCore_dumping (c : Nat) (f : Core → Core) : (s.modCore c f).dumping = s.dumping := rfl
@[simp] theorem State.modCore_halted (c : Nat) (f : Core → Core) : (s.modCore c f).halted = s.halted := rfl
@[simp] theorem State.modCore_zlog (c : Nat) (f : Core → Core) : (s.modCore c f).zlog = s.zlog := rfl
@[simp] theorem State.modCore_grants (c : Nat) (f : Core → Core) : (s.modCore c f).grants = s.grants := rfl
@[simp] theorem State.modCore_idents (c : Nat) (f : Core → Core) : (s.modCore c f).idents = s.idents := rfl
@[simp] theorem State.modCore_hostOut (c : Nat) (f : Core → Core) : (s.modCore c f).hostOut = s.hostOut := rfl

/-! ## modQuad -/

@[simp] theorem State.modQuad_now (q : Nat) (f : Quad → Quad) : (s.modQuad q f).now = s.now := rfl
@[simp] theorem State.modQuad_cur (q : Nat) (f : Quad → Quad) : (s.modQuad q f).cur = s.cur := rfl
@[simp] theorem State.modQuad_agenda (q : Nat) (f : Quad → Quad) : (s.modQuad q f).agenda = s.agenda := rfl
@[simp] theorem State.modQuad_timers (q : Nat) (f : Quad → Quad) : (s.modQuad q f).timers = s.timers := rfl
@[simp] theorem State.modQuad_fresh (q : Nat) (f : Quad → Quad) : (s.modQuad q f).fresh = s.fresh := rfl
@[simp] theorem State.modQuad_seq (q : Nat) (f : Quad → Quad) : (s.modQuad q f).seq = s.seq := rfl
@[simp] theorem State.modQuad_ctx (q : Nat) (f : Quad → Quad) : (s.modQuad q f).ctx = s.ctx := rfl
@[simp] theorem State.modQuad_mem (q : Nat) (f : Quad → Quad) : (s.modQuad q f).mem = s.mem := rfl
@[simp] theorem State.modQuad_seals (q : Nat) (f : Quad → Quad) : (s.modQuad q f).seals = s.seals := rfl
@[simp] theorem State.modQuad_epoch (q : Nat) (f : Quad → Quad) : (s.modQuad q f).epoch = s.epoch := rfl
@[simp] theorem State.modQuad_sharedEpoch (q : Nat) (f : Quad → Quad) : (s.modQuad q f).sharedEpoch = s.sharedEpoch := rfl
@[simp] theorem State.modQuad_full (q : Nat) (f : Quad → Quad) : (s.modQuad q f).full = s.full := rfl
@[simp] theorem State.modQuad_bad (q : Nat) (f : Quad → Quad) : (s.modQuad q f).bad = s.bad := rfl
@[simp] theorem State.modQuad_filters (q : Nat) (f : Quad → Quad) : (s.modQuad q f).filters = s.filters := rfl
@[simp] theorem State.modQuad_cores (q : Nat) (f : Quad → Quad) : (s.modQuad q f).cores = s.cores := rfl
@[simp] theorem State.modQuad_quads (q : Nat) (f : Quad → Quad) : (s.modQuad q f).quads = s.quads.set q (f (s.quad q)) := rfl
@[simp] theorem State.modQuad_clusters (q : Nat) (f : Quad → Quad) : (s.modQuad q f).clusters = s.clusters := rfl
@[simp] theorem State.modQuad_dies (q : Nat) (f : Quad → Quad) : (s.modQuad q f).dies = s.dies := rfl
@[simp] theorem State.modQuad_regions (q : Nat) (f : Quad → Quad) : (s.modQuad q f).regions = s.regions := rfl
@[simp] theorem State.modQuad_part (q : Nat) (f : Quad → Quad) : (s.modQuad q f).part = s.part := rfl
@[simp] theorem State.modQuad_modid (q : Nat) (f : Quad → Quad) : (s.modQuad q f).modid = s.modid := rfl
@[simp] theorem State.modQuad_harvest (q : Nat) (f : Quad → Quad) : (s.modQuad q f).harvest = s.harvest := rfl
@[simp] theorem State.modQuad_overrides (q : Nat) (f : Quad → Quad) : (s.modQuad q f).overrides = s.overrides := rfl
@[simp] theorem State.modQuad_firmware (q : Nat) (f : Quad → Quad) : (s.modQuad q f).firmware = s.firmware := rfl
@[simp] theorem State.modQuad_flash (q : Nat) (f : Quad → Quad) : (s.modQuad q f).flash = s.flash := rfl
@[simp] theorem State.modQuad_fuses (q : Nat) (f : Quad → Quad) : (s.modQuad q f).fuses = s.fuses := rfl
@[simp] theorem State.modQuad_lost (q : Nat) (f : Quad → Quad) : (s.modQuad q f).lost = s.lost := rfl
@[simp] theorem State.modQuad_colophons (q : Nat) (f : Quad → Quad) : (s.modQuad q f).colophons = s.colophons := rfl
@[simp] theorem State.modQuad_colophonSeq (q : Nat) (f : Quad → Quad) : (s.modQuad q f).colophonSeq = s.colophonSeq := rfl
@[simp] theorem State.modQuad_dumping (q : Nat) (f : Quad → Quad) : (s.modQuad q f).dumping = s.dumping := rfl
@[simp] theorem State.modQuad_halted (q : Nat) (f : Quad → Quad) : (s.modQuad q f).halted = s.halted := rfl
@[simp] theorem State.modQuad_zlog (q : Nat) (f : Quad → Quad) : (s.modQuad q f).zlog = s.zlog := rfl
@[simp] theorem State.modQuad_grants (q : Nat) (f : Quad → Quad) : (s.modQuad q f).grants = s.grants := rfl
@[simp] theorem State.modQuad_idents (q : Nat) (f : Quad → Quad) : (s.modQuad q f).idents = s.idents := rfl
@[simp] theorem State.modQuad_hostOut (q : Nat) (f : Quad → Quad) : (s.modQuad q f).hostOut = s.hostOut := rfl

/-! ## modCluster -/

@[simp] theorem State.modCluster_now (k : Nat) (f : Cluster → Cluster) : (s.modCluster k f).now = s.now := rfl
@[simp] theorem State.modCluster_cur (k : Nat) (f : Cluster → Cluster) : (s.modCluster k f).cur = s.cur := rfl
@[simp] theorem State.modCluster_agenda (k : Nat) (f : Cluster → Cluster) : (s.modCluster k f).agenda = s.agenda := rfl
@[simp] theorem State.modCluster_timers (k : Nat) (f : Cluster → Cluster) : (s.modCluster k f).timers = s.timers := rfl
@[simp] theorem State.modCluster_fresh (k : Nat) (f : Cluster → Cluster) : (s.modCluster k f).fresh = s.fresh := rfl
@[simp] theorem State.modCluster_seq (k : Nat) (f : Cluster → Cluster) : (s.modCluster k f).seq = s.seq := rfl
@[simp] theorem State.modCluster_ctx (k : Nat) (f : Cluster → Cluster) : (s.modCluster k f).ctx = s.ctx := rfl
@[simp] theorem State.modCluster_mem (k : Nat) (f : Cluster → Cluster) : (s.modCluster k f).mem = s.mem := rfl
@[simp] theorem State.modCluster_seals (k : Nat) (f : Cluster → Cluster) : (s.modCluster k f).seals = s.seals := rfl
@[simp] theorem State.modCluster_epoch (k : Nat) (f : Cluster → Cluster) : (s.modCluster k f).epoch = s.epoch := rfl
@[simp] theorem State.modCluster_sharedEpoch (k : Nat) (f : Cluster → Cluster) : (s.modCluster k f).sharedEpoch = s.sharedEpoch := rfl
@[simp] theorem State.modCluster_full (k : Nat) (f : Cluster → Cluster) : (s.modCluster k f).full = s.full := rfl
@[simp] theorem State.modCluster_bad (k : Nat) (f : Cluster → Cluster) : (s.modCluster k f).bad = s.bad := rfl
@[simp] theorem State.modCluster_filters (k : Nat) (f : Cluster → Cluster) : (s.modCluster k f).filters = s.filters := rfl
@[simp] theorem State.modCluster_cores (k : Nat) (f : Cluster → Cluster) : (s.modCluster k f).cores = s.cores := rfl
@[simp] theorem State.modCluster_quads (k : Nat) (f : Cluster → Cluster) : (s.modCluster k f).quads = s.quads := rfl
@[simp] theorem State.modCluster_clusters (k : Nat) (f : Cluster → Cluster) : (s.modCluster k f).clusters = s.clusters.set k (f (s.cluster k)) := rfl
@[simp] theorem State.modCluster_dies (k : Nat) (f : Cluster → Cluster) : (s.modCluster k f).dies = s.dies := rfl
@[simp] theorem State.modCluster_regions (k : Nat) (f : Cluster → Cluster) : (s.modCluster k f).regions = s.regions := rfl
@[simp] theorem State.modCluster_part (k : Nat) (f : Cluster → Cluster) : (s.modCluster k f).part = s.part := rfl
@[simp] theorem State.modCluster_modid (k : Nat) (f : Cluster → Cluster) : (s.modCluster k f).modid = s.modid := rfl
@[simp] theorem State.modCluster_harvest (k : Nat) (f : Cluster → Cluster) : (s.modCluster k f).harvest = s.harvest := rfl
@[simp] theorem State.modCluster_overrides (k : Nat) (f : Cluster → Cluster) : (s.modCluster k f).overrides = s.overrides := rfl
@[simp] theorem State.modCluster_firmware (k : Nat) (f : Cluster → Cluster) : (s.modCluster k f).firmware = s.firmware := rfl
@[simp] theorem State.modCluster_flash (k : Nat) (f : Cluster → Cluster) : (s.modCluster k f).flash = s.flash := rfl
@[simp] theorem State.modCluster_fuses (k : Nat) (f : Cluster → Cluster) : (s.modCluster k f).fuses = s.fuses := rfl
@[simp] theorem State.modCluster_lost (k : Nat) (f : Cluster → Cluster) : (s.modCluster k f).lost = s.lost := rfl
@[simp] theorem State.modCluster_colophons (k : Nat) (f : Cluster → Cluster) : (s.modCluster k f).colophons = s.colophons := rfl
@[simp] theorem State.modCluster_colophonSeq (k : Nat) (f : Cluster → Cluster) : (s.modCluster k f).colophonSeq = s.colophonSeq := rfl
@[simp] theorem State.modCluster_dumping (k : Nat) (f : Cluster → Cluster) : (s.modCluster k f).dumping = s.dumping := rfl
@[simp] theorem State.modCluster_halted (k : Nat) (f : Cluster → Cluster) : (s.modCluster k f).halted = s.halted := rfl
@[simp] theorem State.modCluster_zlog (k : Nat) (f : Cluster → Cluster) : (s.modCluster k f).zlog = s.zlog := rfl
@[simp] theorem State.modCluster_grants (k : Nat) (f : Cluster → Cluster) : (s.modCluster k f).grants = s.grants := rfl
@[simp] theorem State.modCluster_idents (k : Nat) (f : Cluster → Cluster) : (s.modCluster k f).idents = s.idents := rfl
@[simp] theorem State.modCluster_hostOut (k : Nat) (f : Cluster → Cluster) : (s.modCluster k f).hostOut = s.hostOut := rfl

/-! ## modDie -/

@[simp] theorem State.modDie_now (d : Nat) (f : Die → Die) : (s.modDie d f).now = s.now := rfl
@[simp] theorem State.modDie_cur (d : Nat) (f : Die → Die) : (s.modDie d f).cur = s.cur := rfl
@[simp] theorem State.modDie_agenda (d : Nat) (f : Die → Die) : (s.modDie d f).agenda = s.agenda := rfl
@[simp] theorem State.modDie_timers (d : Nat) (f : Die → Die) : (s.modDie d f).timers = s.timers := rfl
@[simp] theorem State.modDie_fresh (d : Nat) (f : Die → Die) : (s.modDie d f).fresh = s.fresh := rfl
@[simp] theorem State.modDie_seq (d : Nat) (f : Die → Die) : (s.modDie d f).seq = s.seq := rfl
@[simp] theorem State.modDie_ctx (d : Nat) (f : Die → Die) : (s.modDie d f).ctx = s.ctx := rfl
@[simp] theorem State.modDie_mem (d : Nat) (f : Die → Die) : (s.modDie d f).mem = s.mem := rfl
@[simp] theorem State.modDie_seals (d : Nat) (f : Die → Die) : (s.modDie d f).seals = s.seals := rfl
@[simp] theorem State.modDie_epoch (d : Nat) (f : Die → Die) : (s.modDie d f).epoch = s.epoch := rfl
@[simp] theorem State.modDie_sharedEpoch (d : Nat) (f : Die → Die) : (s.modDie d f).sharedEpoch = s.sharedEpoch := rfl
@[simp] theorem State.modDie_full (d : Nat) (f : Die → Die) : (s.modDie d f).full = s.full := rfl
@[simp] theorem State.modDie_bad (d : Nat) (f : Die → Die) : (s.modDie d f).bad = s.bad := rfl
@[simp] theorem State.modDie_filters (d : Nat) (f : Die → Die) : (s.modDie d f).filters = s.filters := rfl
@[simp] theorem State.modDie_cores (d : Nat) (f : Die → Die) : (s.modDie d f).cores = s.cores := rfl
@[simp] theorem State.modDie_quads (d : Nat) (f : Die → Die) : (s.modDie d f).quads = s.quads := rfl
@[simp] theorem State.modDie_clusters (d : Nat) (f : Die → Die) : (s.modDie d f).clusters = s.clusters := rfl
@[simp] theorem State.modDie_dies (d : Nat) (f : Die → Die) : (s.modDie d f).dies = s.dies.set d (f (s.die d)) := rfl
@[simp] theorem State.modDie_regions (d : Nat) (f : Die → Die) : (s.modDie d f).regions = s.regions := rfl
@[simp] theorem State.modDie_part (d : Nat) (f : Die → Die) : (s.modDie d f).part = s.part := rfl
@[simp] theorem State.modDie_modid (d : Nat) (f : Die → Die) : (s.modDie d f).modid = s.modid := rfl
@[simp] theorem State.modDie_harvest (d : Nat) (f : Die → Die) : (s.modDie d f).harvest = s.harvest := rfl
@[simp] theorem State.modDie_overrides (d : Nat) (f : Die → Die) : (s.modDie d f).overrides = s.overrides := rfl
@[simp] theorem State.modDie_firmware (d : Nat) (f : Die → Die) : (s.modDie d f).firmware = s.firmware := rfl
@[simp] theorem State.modDie_flash (d : Nat) (f : Die → Die) : (s.modDie d f).flash = s.flash := rfl
@[simp] theorem State.modDie_fuses (d : Nat) (f : Die → Die) : (s.modDie d f).fuses = s.fuses := rfl
@[simp] theorem State.modDie_lost (d : Nat) (f : Die → Die) : (s.modDie d f).lost = s.lost := rfl
@[simp] theorem State.modDie_colophons (d : Nat) (f : Die → Die) : (s.modDie d f).colophons = s.colophons := rfl
@[simp] theorem State.modDie_colophonSeq (d : Nat) (f : Die → Die) : (s.modDie d f).colophonSeq = s.colophonSeq := rfl
@[simp] theorem State.modDie_dumping (d : Nat) (f : Die → Die) : (s.modDie d f).dumping = s.dumping := rfl
@[simp] theorem State.modDie_halted (d : Nat) (f : Die → Die) : (s.modDie d f).halted = s.halted := rfl
@[simp] theorem State.modDie_zlog (d : Nat) (f : Die → Die) : (s.modDie d f).zlog = s.zlog := rfl
@[simp] theorem State.modDie_grants (d : Nat) (f : Die → Die) : (s.modDie d f).grants = s.grants := rfl
@[simp] theorem State.modDie_idents (d : Nat) (f : Die → Die) : (s.modDie d f).idents = s.idents := rfl
@[simp] theorem State.modDie_hostOut (d : Nat) (f : Die → Die) : (s.modDie d f).hostOut = s.hostOut := rfl

/-! ## modRegion -/

@[simp] theorem State.modRegion_now (r : Nat) (f : Region → Region) : (s.modRegion r f).now = s.now := rfl
@[simp] theorem State.modRegion_cur (r : Nat) (f : Region → Region) : (s.modRegion r f).cur = s.cur := rfl
@[simp] theorem State.modRegion_agenda (r : Nat) (f : Region → Region) : (s.modRegion r f).agenda = s.agenda := rfl
@[simp] theorem State.modRegion_timers (r : Nat) (f : Region → Region) : (s.modRegion r f).timers = s.timers := rfl
@[simp] theorem State.modRegion_fresh (r : Nat) (f : Region → Region) : (s.modRegion r f).fresh = s.fresh := rfl
@[simp] theorem State.modRegion_seq (r : Nat) (f : Region → Region) : (s.modRegion r f).seq = s.seq := rfl
@[simp] theorem State.modRegion_ctx (r : Nat) (f : Region → Region) : (s.modRegion r f).ctx = s.ctx := rfl
@[simp] theorem State.modRegion_mem (r : Nat) (f : Region → Region) : (s.modRegion r f).mem = s.mem := rfl
@[simp] theorem State.modRegion_seals (r : Nat) (f : Region → Region) : (s.modRegion r f).seals = s.seals := rfl
@[simp] theorem State.modRegion_epoch (r : Nat) (f : Region → Region) : (s.modRegion r f).epoch = s.epoch := rfl
@[simp] theorem State.modRegion_sharedEpoch (r : Nat) (f : Region → Region) : (s.modRegion r f).sharedEpoch = s.sharedEpoch := rfl
@[simp] theorem State.modRegion_full (r : Nat) (f : Region → Region) : (s.modRegion r f).full = s.full := rfl
@[simp] theorem State.modRegion_bad (r : Nat) (f : Region → Region) : (s.modRegion r f).bad = s.bad := rfl
@[simp] theorem State.modRegion_filters (r : Nat) (f : Region → Region) : (s.modRegion r f).filters = s.filters := rfl
@[simp] theorem State.modRegion_cores (r : Nat) (f : Region → Region) : (s.modRegion r f).cores = s.cores := rfl
@[simp] theorem State.modRegion_quads (r : Nat) (f : Region → Region) : (s.modRegion r f).quads = s.quads := rfl
@[simp] theorem State.modRegion_clusters (r : Nat) (f : Region → Region) : (s.modRegion r f).clusters = s.clusters := rfl
@[simp] theorem State.modRegion_dies (r : Nat) (f : Region → Region) : (s.modRegion r f).dies = s.dies := rfl
@[simp] theorem State.modRegion_regions (r : Nat) (f : Region → Region) : (s.modRegion r f).regions = s.regions.set r (f (s.region r)) := rfl
@[simp] theorem State.modRegion_part (r : Nat) (f : Region → Region) : (s.modRegion r f).part = s.part := rfl
@[simp] theorem State.modRegion_modid (r : Nat) (f : Region → Region) : (s.modRegion r f).modid = s.modid := rfl
@[simp] theorem State.modRegion_harvest (r : Nat) (f : Region → Region) : (s.modRegion r f).harvest = s.harvest := rfl
@[simp] theorem State.modRegion_overrides (r : Nat) (f : Region → Region) : (s.modRegion r f).overrides = s.overrides := rfl
@[simp] theorem State.modRegion_firmware (r : Nat) (f : Region → Region) : (s.modRegion r f).firmware = s.firmware := rfl
@[simp] theorem State.modRegion_flash (r : Nat) (f : Region → Region) : (s.modRegion r f).flash = s.flash := rfl
@[simp] theorem State.modRegion_fuses (r : Nat) (f : Region → Region) : (s.modRegion r f).fuses = s.fuses := rfl
@[simp] theorem State.modRegion_lost (r : Nat) (f : Region → Region) : (s.modRegion r f).lost = s.lost := rfl
@[simp] theorem State.modRegion_colophons (r : Nat) (f : Region → Region) : (s.modRegion r f).colophons = s.colophons := rfl
@[simp] theorem State.modRegion_colophonSeq (r : Nat) (f : Region → Region) : (s.modRegion r f).colophonSeq = s.colophonSeq := rfl
@[simp] theorem State.modRegion_dumping (r : Nat) (f : Region → Region) : (s.modRegion r f).dumping = s.dumping := rfl
@[simp] theorem State.modRegion_halted (r : Nat) (f : Region → Region) : (s.modRegion r f).halted = s.halted := rfl
@[simp] theorem State.modRegion_zlog (r : Nat) (f : Region → Region) : (s.modRegion r f).zlog = s.zlog := rfl
@[simp] theorem State.modRegion_grants (r : Nat) (f : Region → Region) : (s.modRegion r f).grants = s.grants := rfl
@[simp] theorem State.modRegion_idents (r : Nat) (f : Region → Region) : (s.modRegion r f).idents = s.idents := rfl
@[simp] theorem State.modRegion_hostOut (r : Nat) (f : Region → Region) : (s.modRegion r f).hostOut = s.hostOut := rfl

/-! ## modPart -/

@[simp] theorem State.modPart_now (f : Partition → Partition) : (s.modPart f).now = s.now := rfl
@[simp] theorem State.modPart_cur (f : Partition → Partition) : (s.modPart f).cur = s.cur := rfl
@[simp] theorem State.modPart_agenda (f : Partition → Partition) : (s.modPart f).agenda = s.agenda := rfl
@[simp] theorem State.modPart_timers (f : Partition → Partition) : (s.modPart f).timers = s.timers := rfl
@[simp] theorem State.modPart_fresh (f : Partition → Partition) : (s.modPart f).fresh = s.fresh := rfl
@[simp] theorem State.modPart_seq (f : Partition → Partition) : (s.modPart f).seq = s.seq := rfl
@[simp] theorem State.modPart_ctx (f : Partition → Partition) : (s.modPart f).ctx = s.ctx := rfl
@[simp] theorem State.modPart_mem (f : Partition → Partition) : (s.modPart f).mem = s.mem := rfl
@[simp] theorem State.modPart_seals (f : Partition → Partition) : (s.modPart f).seals = s.seals := rfl
@[simp] theorem State.modPart_epoch (f : Partition → Partition) : (s.modPart f).epoch = s.epoch := rfl
@[simp] theorem State.modPart_sharedEpoch (f : Partition → Partition) : (s.modPart f).sharedEpoch = s.sharedEpoch := rfl
@[simp] theorem State.modPart_full (f : Partition → Partition) : (s.modPart f).full = s.full := rfl
@[simp] theorem State.modPart_bad (f : Partition → Partition) : (s.modPart f).bad = s.bad := rfl
@[simp] theorem State.modPart_filters (f : Partition → Partition) : (s.modPart f).filters = s.filters := rfl
@[simp] theorem State.modPart_cores (f : Partition → Partition) : (s.modPart f).cores = s.cores := rfl
@[simp] theorem State.modPart_quads (f : Partition → Partition) : (s.modPart f).quads = s.quads := rfl
@[simp] theorem State.modPart_clusters (f : Partition → Partition) : (s.modPart f).clusters = s.clusters := rfl
@[simp] theorem State.modPart_dies (f : Partition → Partition) : (s.modPart f).dies = s.dies := rfl
@[simp] theorem State.modPart_regions (f : Partition → Partition) : (s.modPart f).regions = s.regions := rfl
@[simp] theorem State.modPart_part (f : Partition → Partition) : (s.modPart f).part = f s.part := rfl
@[simp] theorem State.modPart_modid (f : Partition → Partition) : (s.modPart f).modid = s.modid := rfl
@[simp] theorem State.modPart_harvest (f : Partition → Partition) : (s.modPart f).harvest = s.harvest := rfl
@[simp] theorem State.modPart_overrides (f : Partition → Partition) : (s.modPart f).overrides = s.overrides := rfl
@[simp] theorem State.modPart_firmware (f : Partition → Partition) : (s.modPart f).firmware = s.firmware := rfl
@[simp] theorem State.modPart_flash (f : Partition → Partition) : (s.modPart f).flash = s.flash := rfl
@[simp] theorem State.modPart_fuses (f : Partition → Partition) : (s.modPart f).fuses = s.fuses := rfl
@[simp] theorem State.modPart_lost (f : Partition → Partition) : (s.modPart f).lost = s.lost := rfl
@[simp] theorem State.modPart_colophons (f : Partition → Partition) : (s.modPart f).colophons = s.colophons := rfl
@[simp] theorem State.modPart_colophonSeq (f : Partition → Partition) : (s.modPart f).colophonSeq = s.colophonSeq := rfl
@[simp] theorem State.modPart_dumping (f : Partition → Partition) : (s.modPart f).dumping = s.dumping := rfl
@[simp] theorem State.modPart_halted (f : Partition → Partition) : (s.modPart f).halted = s.halted := rfl
@[simp] theorem State.modPart_zlog (f : Partition → Partition) : (s.modPart f).zlog = s.zlog := rfl
@[simp] theorem State.modPart_grants (f : Partition → Partition) : (s.modPart f).grants = s.grants := rfl
@[simp] theorem State.modPart_idents (f : Partition → Partition) : (s.modPart f).idents = s.idents := rfl
@[simp] theorem State.modPart_hostOut (f : Partition → Partition) : (s.modPart f).hostOut = s.hostOut := rfl

/-! ## setBank -/

@[simp] theorem State.setBank_now (p : Place) (b : Bank) : (s.setBank p b).now = s.now := rfl
@[simp] theorem State.setBank_cur (p : Place) (b : Bank) : (s.setBank p b).cur = s.cur := rfl
@[simp] theorem State.setBank_agenda (p : Place) (b : Bank) : (s.setBank p b).agenda = s.agenda := rfl
@[simp] theorem State.setBank_timers (p : Place) (b : Bank) : (s.setBank p b).timers = s.timers := rfl
@[simp] theorem State.setBank_fresh (p : Place) (b : Bank) : (s.setBank p b).fresh = s.fresh := rfl
@[simp] theorem State.setBank_seq (p : Place) (b : Bank) : (s.setBank p b).seq = s.seq := rfl
@[simp] theorem State.setBank_ctx (p : Place) (b : Bank) : (s.setBank p b).ctx = s.ctx := rfl
@[simp] theorem State.setBank_mem (p : Place) (b : Bank) : (s.setBank p b).mem = s.mem := rfl
@[simp] theorem State.setBank_seals (p : Place) (b : Bank) : (s.setBank p b).seals = s.seals := rfl
@[simp] theorem State.setBank_epoch (p : Place) (b : Bank) : (s.setBank p b).epoch = s.epoch := rfl
@[simp] theorem State.setBank_sharedEpoch (p : Place) (b : Bank) : (s.setBank p b).sharedEpoch = s.sharedEpoch := rfl
@[simp] theorem State.setBank_full (p : Place) (b : Bank) : (s.setBank p b).full = s.full := rfl
@[simp] theorem State.setBank_bad (p : Place) (b : Bank) : (s.setBank p b).bad = s.bad := rfl
@[simp] theorem State.setBank_filters (p : Place) (b : Bank) : (s.setBank p b).filters = s.filters := rfl
@[simp] theorem State.setBank_quads (p : Place) (b : Bank) : (s.setBank p b).quads = s.quads := rfl
@[simp] theorem State.setBank_clusters (p : Place) (b : Bank) : (s.setBank p b).clusters = s.clusters := rfl
@[simp] theorem State.setBank_dies (p : Place) (b : Bank) : (s.setBank p b).dies = s.dies := rfl
@[simp] theorem State.setBank_regions (p : Place) (b : Bank) : (s.setBank p b).regions = s.regions := rfl
@[simp] theorem State.setBank_part (p : Place) (b : Bank) : (s.setBank p b).part = s.part := rfl
@[simp] theorem State.setBank_modid (p : Place) (b : Bank) : (s.setBank p b).modid = s.modid := rfl
@[simp] theorem State.setBank_harvest (p : Place) (b : Bank) : (s.setBank p b).harvest = s.harvest := rfl
@[simp] theorem State.setBank_overrides (p : Place) (b : Bank) : (s.setBank p b).overrides = s.overrides := rfl
@[simp] theorem State.setBank_firmware (p : Place) (b : Bank) : (s.setBank p b).firmware = s.firmware := rfl
@[simp] theorem State.setBank_flash (p : Place) (b : Bank) : (s.setBank p b).flash = s.flash := rfl
@[simp] theorem State.setBank_fuses (p : Place) (b : Bank) : (s.setBank p b).fuses = s.fuses := rfl
@[simp] theorem State.setBank_lost (p : Place) (b : Bank) : (s.setBank p b).lost = s.lost := rfl
@[simp] theorem State.setBank_colophons (p : Place) (b : Bank) : (s.setBank p b).colophons = s.colophons := rfl
@[simp] theorem State.setBank_colophonSeq (p : Place) (b : Bank) : (s.setBank p b).colophonSeq = s.colophonSeq := rfl
@[simp] theorem State.setBank_dumping (p : Place) (b : Bank) : (s.setBank p b).dumping = s.dumping := rfl
@[simp] theorem State.setBank_halted (p : Place) (b : Bank) : (s.setBank p b).halted = s.halted := rfl
@[simp] theorem State.setBank_zlog (p : Place) (b : Bank) : (s.setBank p b).zlog = s.zlog := rfl
@[simp] theorem State.setBank_grants (p : Place) (b : Bank) : (s.setBank p b).grants = s.grants := rfl
@[simp] theorem State.setBank_idents (p : Place) (b : Bank) : (s.setBank p b).idents = s.idents := rfl
@[simp] theorem State.setBank_hostOut (p : Place) (b : Bank) : (s.setBank p b).hostOut = s.hostOut := rfl

/-! ## modBank -/

@[simp] theorem State.modBank_now (p : Place) (f : Bank → Bank) : (s.modBank p f).now = s.now := rfl
@[simp] theorem State.modBank_cur (p : Place) (f : Bank → Bank) : (s.modBank p f).cur = s.cur := rfl
@[simp] theorem State.modBank_agenda (p : Place) (f : Bank → Bank) : (s.modBank p f).agenda = s.agenda := rfl
@[simp] theorem State.modBank_timers (p : Place) (f : Bank → Bank) : (s.modBank p f).timers = s.timers := rfl
@[simp] theorem State.modBank_fresh (p : Place) (f : Bank → Bank) : (s.modBank p f).fresh = s.fresh := rfl
@[simp] theorem State.modBank_seq (p : Place) (f : Bank → Bank) : (s.modBank p f).seq = s.seq := rfl
@[simp] theorem State.modBank_ctx (p : Place) (f : Bank → Bank) : (s.modBank p f).ctx = s.ctx := rfl
@[simp] theorem State.modBank_mem (p : Place) (f : Bank → Bank) : (s.modBank p f).mem = s.mem := rfl
@[simp] theorem State.modBank_seals (p : Place) (f : Bank → Bank) : (s.modBank p f).seals = s.seals := rfl
@[simp] theorem State.modBank_epoch (p : Place) (f : Bank → Bank) : (s.modBank p f).epoch = s.epoch := rfl
@[simp] theorem State.modBank_sharedEpoch (p : Place) (f : Bank → Bank) : (s.modBank p f).sharedEpoch = s.sharedEpoch := rfl
@[simp] theorem State.modBank_full (p : Place) (f : Bank → Bank) : (s.modBank p f).full = s.full := rfl
@[simp] theorem State.modBank_bad (p : Place) (f : Bank → Bank) : (s.modBank p f).bad = s.bad := rfl
@[simp] theorem State.modBank_filters (p : Place) (f : Bank → Bank) : (s.modBank p f).filters = s.filters := rfl
@[simp] theorem State.modBank_quads (p : Place) (f : Bank → Bank) : (s.modBank p f).quads = s.quads := rfl
@[simp] theorem State.modBank_clusters (p : Place) (f : Bank → Bank) : (s.modBank p f).clusters = s.clusters := rfl
@[simp] theorem State.modBank_dies (p : Place) (f : Bank → Bank) : (s.modBank p f).dies = s.dies := rfl
@[simp] theorem State.modBank_regions (p : Place) (f : Bank → Bank) : (s.modBank p f).regions = s.regions := rfl
@[simp] theorem State.modBank_part (p : Place) (f : Bank → Bank) : (s.modBank p f).part = s.part := rfl
@[simp] theorem State.modBank_modid (p : Place) (f : Bank → Bank) : (s.modBank p f).modid = s.modid := rfl
@[simp] theorem State.modBank_harvest (p : Place) (f : Bank → Bank) : (s.modBank p f).harvest = s.harvest := rfl
@[simp] theorem State.modBank_overrides (p : Place) (f : Bank → Bank) : (s.modBank p f).overrides = s.overrides := rfl
@[simp] theorem State.modBank_firmware (p : Place) (f : Bank → Bank) : (s.modBank p f).firmware = s.firmware := rfl
@[simp] theorem State.modBank_flash (p : Place) (f : Bank → Bank) : (s.modBank p f).flash = s.flash := rfl
@[simp] theorem State.modBank_fuses (p : Place) (f : Bank → Bank) : (s.modBank p f).fuses = s.fuses := rfl
@[simp] theorem State.modBank_lost (p : Place) (f : Bank → Bank) : (s.modBank p f).lost = s.lost := rfl
@[simp] theorem State.modBank_colophons (p : Place) (f : Bank → Bank) : (s.modBank p f).colophons = s.colophons := rfl
@[simp] theorem State.modBank_colophonSeq (p : Place) (f : Bank → Bank) : (s.modBank p f).colophonSeq = s.colophonSeq := rfl
@[simp] theorem State.modBank_dumping (p : Place) (f : Bank → Bank) : (s.modBank p f).dumping = s.dumping := rfl
@[simp] theorem State.modBank_halted (p : Place) (f : Bank → Bank) : (s.modBank p f).halted = s.halted := rfl
@[simp] theorem State.modBank_zlog (p : Place) (f : Bank → Bank) : (s.modBank p f).zlog = s.zlog := rfl
@[simp] theorem State.modBank_grants (p : Place) (f : Bank → Bank) : (s.modBank p f).grants = s.grants := rfl
@[simp] theorem State.modBank_idents (p : Place) (f : Bank → Bank) : (s.modBank p f).idents = s.idents := rfl
@[simp] theorem State.modBank_hostOut (p : Place) (f : Bank → Bank) : (s.modBank p f).hostOut = s.hostOut := rfl

/-! ## modStrand -/

@[simp] theorem State.modStrand_now (p : Place) (f : Strand → Strand) : (s.modStrand p f).now = s.now := rfl
@[simp] theorem State.modStrand_cur (p : Place) (f : Strand → Strand) : (s.modStrand p f).cur = s.cur := rfl
@[simp] theorem State.modStrand_agenda (p : Place) (f : Strand → Strand) : (s.modStrand p f).agenda = s.agenda := rfl
@[simp] theorem State.modStrand_timers (p : Place) (f : Strand → Strand) : (s.modStrand p f).timers = s.timers := rfl
@[simp] theorem State.modStrand_fresh (p : Place) (f : Strand → Strand) : (s.modStrand p f).fresh = s.fresh := rfl
@[simp] theorem State.modStrand_seq (p : Place) (f : Strand → Strand) : (s.modStrand p f).seq = s.seq := rfl
@[simp] theorem State.modStrand_ctx (p : Place) (f : Strand → Strand) : (s.modStrand p f).ctx = s.ctx := rfl
@[simp] theorem State.modStrand_mem (p : Place) (f : Strand → Strand) : (s.modStrand p f).mem = s.mem := rfl
@[simp] theorem State.modStrand_seals (p : Place) (f : Strand → Strand) : (s.modStrand p f).seals = s.seals := rfl
@[simp] theorem State.modStrand_epoch (p : Place) (f : Strand → Strand) : (s.modStrand p f).epoch = s.epoch := rfl
@[simp] theorem State.modStrand_sharedEpoch (p : Place) (f : Strand → Strand) : (s.modStrand p f).sharedEpoch = s.sharedEpoch := rfl
@[simp] theorem State.modStrand_full (p : Place) (f : Strand → Strand) : (s.modStrand p f).full = s.full := rfl
@[simp] theorem State.modStrand_bad (p : Place) (f : Strand → Strand) : (s.modStrand p f).bad = s.bad := rfl
@[simp] theorem State.modStrand_filters (p : Place) (f : Strand → Strand) : (s.modStrand p f).filters = s.filters := rfl
@[simp] theorem State.modStrand_quads (p : Place) (f : Strand → Strand) : (s.modStrand p f).quads = s.quads := rfl
@[simp] theorem State.modStrand_clusters (p : Place) (f : Strand → Strand) : (s.modStrand p f).clusters = s.clusters := rfl
@[simp] theorem State.modStrand_dies (p : Place) (f : Strand → Strand) : (s.modStrand p f).dies = s.dies := rfl
@[simp] theorem State.modStrand_regions (p : Place) (f : Strand → Strand) : (s.modStrand p f).regions = s.regions := rfl
@[simp] theorem State.modStrand_part (p : Place) (f : Strand → Strand) : (s.modStrand p f).part = s.part := rfl
@[simp] theorem State.modStrand_modid (p : Place) (f : Strand → Strand) : (s.modStrand p f).modid = s.modid := rfl
@[simp] theorem State.modStrand_harvest (p : Place) (f : Strand → Strand) : (s.modStrand p f).harvest = s.harvest := rfl
@[simp] theorem State.modStrand_overrides (p : Place) (f : Strand → Strand) : (s.modStrand p f).overrides = s.overrides := rfl
@[simp] theorem State.modStrand_firmware (p : Place) (f : Strand → Strand) : (s.modStrand p f).firmware = s.firmware := rfl
@[simp] theorem State.modStrand_flash (p : Place) (f : Strand → Strand) : (s.modStrand p f).flash = s.flash := rfl
@[simp] theorem State.modStrand_fuses (p : Place) (f : Strand → Strand) : (s.modStrand p f).fuses = s.fuses := rfl
@[simp] theorem State.modStrand_lost (p : Place) (f : Strand → Strand) : (s.modStrand p f).lost = s.lost := rfl
@[simp] theorem State.modStrand_colophons (p : Place) (f : Strand → Strand) : (s.modStrand p f).colophons = s.colophons := rfl
@[simp] theorem State.modStrand_colophonSeq (p : Place) (f : Strand → Strand) : (s.modStrand p f).colophonSeq = s.colophonSeq := rfl
@[simp] theorem State.modStrand_dumping (p : Place) (f : Strand → Strand) : (s.modStrand p f).dumping = s.dumping := rfl
@[simp] theorem State.modStrand_halted (p : Place) (f : Strand → Strand) : (s.modStrand p f).halted = s.halted := rfl
@[simp] theorem State.modStrand_zlog (p : Place) (f : Strand → Strand) : (s.modStrand p f).zlog = s.zlog := rfl
@[simp] theorem State.modStrand_grants (p : Place) (f : Strand → Strand) : (s.modStrand p f).grants = s.grants := rfl
@[simp] theorem State.modStrand_idents (p : Place) (f : Strand → Strand) : (s.modStrand p f).idents = s.idents := rfl
@[simp] theorem State.modStrand_hostOut (p : Place) (f : Strand → Strand) : (s.modStrand p f).hostOut = s.hostOut := rfl

/-! ## setStatus -/

@[simp] theorem State.setStatus_now (p : Place) (st : Status) : (s.setStatus p st).now = s.now := rfl
@[simp] theorem State.setStatus_cur (p : Place) (st : Status) : (s.setStatus p st).cur = s.cur := rfl
@[simp] theorem State.setStatus_agenda (p : Place) (st : Status) : (s.setStatus p st).agenda = s.agenda := rfl
@[simp] theorem State.setStatus_timers (p : Place) (st : Status) : (s.setStatus p st).timers = s.timers := rfl
@[simp] theorem State.setStatus_fresh (p : Place) (st : Status) : (s.setStatus p st).fresh = s.fresh := rfl
@[simp] theorem State.setStatus_seq (p : Place) (st : Status) : (s.setStatus p st).seq = s.seq := rfl
@[simp] theorem State.setStatus_ctx (p : Place) (st : Status) : (s.setStatus p st).ctx = s.ctx := rfl
@[simp] theorem State.setStatus_mem (p : Place) (st : Status) : (s.setStatus p st).mem = s.mem := rfl
@[simp] theorem State.setStatus_seals (p : Place) (st : Status) : (s.setStatus p st).seals = s.seals := rfl
@[simp] theorem State.setStatus_epoch (p : Place) (st : Status) : (s.setStatus p st).epoch = s.epoch := rfl
@[simp] theorem State.setStatus_sharedEpoch (p : Place) (st : Status) : (s.setStatus p st).sharedEpoch = s.sharedEpoch := rfl
@[simp] theorem State.setStatus_full (p : Place) (st : Status) : (s.setStatus p st).full = s.full := rfl
@[simp] theorem State.setStatus_bad (p : Place) (st : Status) : (s.setStatus p st).bad = s.bad := rfl
@[simp] theorem State.setStatus_filters (p : Place) (st : Status) : (s.setStatus p st).filters = s.filters := rfl
@[simp] theorem State.setStatus_quads (p : Place) (st : Status) : (s.setStatus p st).quads = s.quads := rfl
@[simp] theorem State.setStatus_clusters (p : Place) (st : Status) : (s.setStatus p st).clusters = s.clusters := rfl
@[simp] theorem State.setStatus_dies (p : Place) (st : Status) : (s.setStatus p st).dies = s.dies := rfl
@[simp] theorem State.setStatus_regions (p : Place) (st : Status) : (s.setStatus p st).regions = s.regions := rfl
@[simp] theorem State.setStatus_part (p : Place) (st : Status) : (s.setStatus p st).part = s.part := rfl
@[simp] theorem State.setStatus_modid (p : Place) (st : Status) : (s.setStatus p st).modid = s.modid := rfl
@[simp] theorem State.setStatus_harvest (p : Place) (st : Status) : (s.setStatus p st).harvest = s.harvest := rfl
@[simp] theorem State.setStatus_overrides (p : Place) (st : Status) : (s.setStatus p st).overrides = s.overrides := rfl
@[simp] theorem State.setStatus_firmware (p : Place) (st : Status) : (s.setStatus p st).firmware = s.firmware := rfl
@[simp] theorem State.setStatus_flash (p : Place) (st : Status) : (s.setStatus p st).flash = s.flash := rfl
@[simp] theorem State.setStatus_fuses (p : Place) (st : Status) : (s.setStatus p st).fuses = s.fuses := rfl
@[simp] theorem State.setStatus_lost (p : Place) (st : Status) : (s.setStatus p st).lost = s.lost := rfl
@[simp] theorem State.setStatus_colophons (p : Place) (st : Status) : (s.setStatus p st).colophons = s.colophons := rfl
@[simp] theorem State.setStatus_colophonSeq (p : Place) (st : Status) : (s.setStatus p st).colophonSeq = s.colophonSeq := rfl
@[simp] theorem State.setStatus_dumping (p : Place) (st : Status) : (s.setStatus p st).dumping = s.dumping := rfl
@[simp] theorem State.setStatus_halted (p : Place) (st : Status) : (s.setStatus p st).halted = s.halted := rfl
@[simp] theorem State.setStatus_zlog (p : Place) (st : Status) : (s.setStatus p st).zlog = s.zlog := rfl
@[simp] theorem State.setStatus_grants (p : Place) (st : Status) : (s.setStatus p st).grants = s.grants := rfl
@[simp] theorem State.setStatus_idents (p : Place) (st : Status) : (s.setStatus p st).idents = s.idents := rfl
@[simp] theorem State.setStatus_hostOut (p : Place) (st : Status) : (s.setStatus p st).hostOut = s.hostOut := rfl

/-! ## setReg -/

@[simp] theorem State.setReg_now (r : Reg) (v : Word) : (s.setReg r v).now = s.now := rfl
@[simp] theorem State.setReg_cur (r : Reg) (v : Word) : (s.setReg r v).cur = s.cur := rfl
@[simp] theorem State.setReg_agenda (r : Reg) (v : Word) : (s.setReg r v).agenda = s.agenda := rfl
@[simp] theorem State.setReg_timers (r : Reg) (v : Word) : (s.setReg r v).timers = s.timers := rfl
@[simp] theorem State.setReg_fresh (r : Reg) (v : Word) : (s.setReg r v).fresh = s.fresh := rfl
@[simp] theorem State.setReg_seq (r : Reg) (v : Word) : (s.setReg r v).seq = s.seq := rfl
@[simp] theorem State.setReg_ctx (r : Reg) (v : Word) : (s.setReg r v).ctx = s.ctx := rfl
@[simp] theorem State.setReg_mem (r : Reg) (v : Word) : (s.setReg r v).mem = s.mem := rfl
@[simp] theorem State.setReg_seals (r : Reg) (v : Word) : (s.setReg r v).seals = s.seals := rfl
@[simp] theorem State.setReg_epoch (r : Reg) (v : Word) : (s.setReg r v).epoch = s.epoch := rfl
@[simp] theorem State.setReg_sharedEpoch (r : Reg) (v : Word) : (s.setReg r v).sharedEpoch = s.sharedEpoch := rfl
@[simp] theorem State.setReg_full (r : Reg) (v : Word) : (s.setReg r v).full = s.full := rfl
@[simp] theorem State.setReg_bad (r : Reg) (v : Word) : (s.setReg r v).bad = s.bad := rfl
@[simp] theorem State.setReg_filters (r : Reg) (v : Word) : (s.setReg r v).filters = s.filters := rfl
@[simp] theorem State.setReg_quads (r : Reg) (v : Word) : (s.setReg r v).quads = s.quads := rfl
@[simp] theorem State.setReg_clusters (r : Reg) (v : Word) : (s.setReg r v).clusters = s.clusters := rfl
@[simp] theorem State.setReg_dies (r : Reg) (v : Word) : (s.setReg r v).dies = s.dies := rfl
@[simp] theorem State.setReg_regions (r : Reg) (v : Word) : (s.setReg r v).regions = s.regions := rfl
@[simp] theorem State.setReg_part (r : Reg) (v : Word) : (s.setReg r v).part = s.part := rfl
@[simp] theorem State.setReg_modid (r : Reg) (v : Word) : (s.setReg r v).modid = s.modid := rfl
@[simp] theorem State.setReg_harvest (r : Reg) (v : Word) : (s.setReg r v).harvest = s.harvest := rfl
@[simp] theorem State.setReg_overrides (r : Reg) (v : Word) : (s.setReg r v).overrides = s.overrides := rfl
@[simp] theorem State.setReg_firmware (r : Reg) (v : Word) : (s.setReg r v).firmware = s.firmware := rfl
@[simp] theorem State.setReg_flash (r : Reg) (v : Word) : (s.setReg r v).flash = s.flash := rfl
@[simp] theorem State.setReg_fuses (r : Reg) (v : Word) : (s.setReg r v).fuses = s.fuses := rfl
@[simp] theorem State.setReg_lost (r : Reg) (v : Word) : (s.setReg r v).lost = s.lost := rfl
@[simp] theorem State.setReg_colophons (r : Reg) (v : Word) : (s.setReg r v).colophons = s.colophons := rfl
@[simp] theorem State.setReg_colophonSeq (r : Reg) (v : Word) : (s.setReg r v).colophonSeq = s.colophonSeq := rfl
@[simp] theorem State.setReg_dumping (r : Reg) (v : Word) : (s.setReg r v).dumping = s.dumping := rfl
@[simp] theorem State.setReg_halted (r : Reg) (v : Word) : (s.setReg r v).halted = s.halted := rfl
@[simp] theorem State.setReg_zlog (r : Reg) (v : Word) : (s.setReg r v).zlog = s.zlog := rfl
@[simp] theorem State.setReg_grants (r : Reg) (v : Word) : (s.setReg r v).grants = s.grants := rfl
@[simp] theorem State.setReg_idents (r : Reg) (v : Word) : (s.setReg r v).idents = s.idents := rfl
@[simp] theorem State.setReg_hostOut (r : Reg) (v : Word) : (s.setReg r v).hostOut = s.hostOut := rfl

/-! ## setPc -/

@[simp] theorem State.setPc_now (v : Word) : (s.setPc v).now = s.now := rfl
@[simp] theorem State.setPc_cur (v : Word) : (s.setPc v).cur = s.cur := rfl
@[simp] theorem State.setPc_agenda (v : Word) : (s.setPc v).agenda = s.agenda := rfl
@[simp] theorem State.setPc_timers (v : Word) : (s.setPc v).timers = s.timers := rfl
@[simp] theorem State.setPc_fresh (v : Word) : (s.setPc v).fresh = s.fresh := rfl
@[simp] theorem State.setPc_seq (v : Word) : (s.setPc v).seq = s.seq := rfl
@[simp] theorem State.setPc_ctx (v : Word) : (s.setPc v).ctx = s.ctx := rfl
@[simp] theorem State.setPc_mem (v : Word) : (s.setPc v).mem = s.mem := rfl
@[simp] theorem State.setPc_seals (v : Word) : (s.setPc v).seals = s.seals := rfl
@[simp] theorem State.setPc_epoch (v : Word) : (s.setPc v).epoch = s.epoch := rfl
@[simp] theorem State.setPc_sharedEpoch (v : Word) : (s.setPc v).sharedEpoch = s.sharedEpoch := rfl
@[simp] theorem State.setPc_full (v : Word) : (s.setPc v).full = s.full := rfl
@[simp] theorem State.setPc_bad (v : Word) : (s.setPc v).bad = s.bad := rfl
@[simp] theorem State.setPc_filters (v : Word) : (s.setPc v).filters = s.filters := rfl
@[simp] theorem State.setPc_quads (v : Word) : (s.setPc v).quads = s.quads := rfl
@[simp] theorem State.setPc_clusters (v : Word) : (s.setPc v).clusters = s.clusters := rfl
@[simp] theorem State.setPc_dies (v : Word) : (s.setPc v).dies = s.dies := rfl
@[simp] theorem State.setPc_regions (v : Word) : (s.setPc v).regions = s.regions := rfl
@[simp] theorem State.setPc_part (v : Word) : (s.setPc v).part = s.part := rfl
@[simp] theorem State.setPc_modid (v : Word) : (s.setPc v).modid = s.modid := rfl
@[simp] theorem State.setPc_harvest (v : Word) : (s.setPc v).harvest = s.harvest := rfl
@[simp] theorem State.setPc_overrides (v : Word) : (s.setPc v).overrides = s.overrides := rfl
@[simp] theorem State.setPc_firmware (v : Word) : (s.setPc v).firmware = s.firmware := rfl
@[simp] theorem State.setPc_flash (v : Word) : (s.setPc v).flash = s.flash := rfl
@[simp] theorem State.setPc_fuses (v : Word) : (s.setPc v).fuses = s.fuses := rfl
@[simp] theorem State.setPc_lost (v : Word) : (s.setPc v).lost = s.lost := rfl
@[simp] theorem State.setPc_colophons (v : Word) : (s.setPc v).colophons = s.colophons := rfl
@[simp] theorem State.setPc_colophonSeq (v : Word) : (s.setPc v).colophonSeq = s.colophonSeq := rfl
@[simp] theorem State.setPc_dumping (v : Word) : (s.setPc v).dumping = s.dumping := rfl
@[simp] theorem State.setPc_halted (v : Word) : (s.setPc v).halted = s.halted := rfl
@[simp] theorem State.setPc_zlog (v : Word) : (s.setPc v).zlog = s.zlog := rfl
@[simp] theorem State.setPc_grants (v : Word) : (s.setPc v).grants = s.grants := rfl
@[simp] theorem State.setPc_idents (v : Word) : (s.setPc v).idents = s.idents := rfl
@[simp] theorem State.setPc_hostOut (v : Word) : (s.setPc v).hostOut = s.hostOut := rfl

/-! ## advance -/

@[simp] theorem State.advance_now : (s.advance).now = s.now := rfl
@[simp] theorem State.advance_cur : (s.advance).cur = s.cur := rfl
@[simp] theorem State.advance_agenda : (s.advance).agenda = s.agenda := rfl
@[simp] theorem State.advance_timers : (s.advance).timers = s.timers := rfl
@[simp] theorem State.advance_fresh : (s.advance).fresh = s.fresh := rfl
@[simp] theorem State.advance_seq : (s.advance).seq = s.seq := rfl
@[simp] theorem State.advance_ctx : (s.advance).ctx = s.ctx := rfl
@[simp] theorem State.advance_mem : (s.advance).mem = s.mem := rfl
@[simp] theorem State.advance_seals : (s.advance).seals = s.seals := rfl
@[simp] theorem State.advance_epoch : (s.advance).epoch = s.epoch := rfl
@[simp] theorem State.advance_sharedEpoch : (s.advance).sharedEpoch = s.sharedEpoch := rfl
@[simp] theorem State.advance_full : (s.advance).full = s.full := rfl
@[simp] theorem State.advance_bad : (s.advance).bad = s.bad := rfl
@[simp] theorem State.advance_filters : (s.advance).filters = s.filters := rfl
@[simp] theorem State.advance_quads : (s.advance).quads = s.quads := rfl
@[simp] theorem State.advance_clusters : (s.advance).clusters = s.clusters := rfl
@[simp] theorem State.advance_dies : (s.advance).dies = s.dies := rfl
@[simp] theorem State.advance_regions : (s.advance).regions = s.regions := rfl
@[simp] theorem State.advance_part : (s.advance).part = s.part := rfl
@[simp] theorem State.advance_modid : (s.advance).modid = s.modid := rfl
@[simp] theorem State.advance_harvest : (s.advance).harvest = s.harvest := rfl
@[simp] theorem State.advance_overrides : (s.advance).overrides = s.overrides := rfl
@[simp] theorem State.advance_firmware : (s.advance).firmware = s.firmware := rfl
@[simp] theorem State.advance_flash : (s.advance).flash = s.flash := rfl
@[simp] theorem State.advance_fuses : (s.advance).fuses = s.fuses := rfl
@[simp] theorem State.advance_lost : (s.advance).lost = s.lost := rfl
@[simp] theorem State.advance_colophons : (s.advance).colophons = s.colophons := rfl
@[simp] theorem State.advance_colophonSeq : (s.advance).colophonSeq = s.colophonSeq := rfl
@[simp] theorem State.advance_dumping : (s.advance).dumping = s.dumping := rfl
@[simp] theorem State.advance_halted : (s.advance).halted = s.halted := rfl
@[simp] theorem State.advance_zlog : (s.advance).zlog = s.zlog := rfl
@[simp] theorem State.advance_grants : (s.advance).grants = s.grants := rfl
@[simp] theorem State.advance_idents : (s.advance).idents = s.idents := rfl
@[simp] theorem State.advance_hostOut : (s.advance).hostOut = s.hostOut := rfl

/-! ## complete -/

@[simp] theorem State.complete_now (r : Reg) (v : Word) : (s.complete r v).now = s.now := rfl
@[simp] theorem State.complete_cur (r : Reg) (v : Word) : (s.complete r v).cur = s.cur := rfl
@[simp] theorem State.complete_agenda (r : Reg) (v : Word) : (s.complete r v).agenda = s.agenda := rfl
@[simp] theorem State.complete_timers (r : Reg) (v : Word) : (s.complete r v).timers = s.timers := rfl
@[simp] theorem State.complete_fresh (r : Reg) (v : Word) : (s.complete r v).fresh = s.fresh := rfl
@[simp] theorem State.complete_seq (r : Reg) (v : Word) : (s.complete r v).seq = s.seq := rfl
@[simp] theorem State.complete_ctx (r : Reg) (v : Word) : (s.complete r v).ctx = s.ctx := rfl
@[simp] theorem State.complete_mem (r : Reg) (v : Word) : (s.complete r v).mem = s.mem := rfl
@[simp] theorem State.complete_seals (r : Reg) (v : Word) : (s.complete r v).seals = s.seals := rfl
@[simp] theorem State.complete_epoch (r : Reg) (v : Word) : (s.complete r v).epoch = s.epoch := rfl
@[simp] theorem State.complete_sharedEpoch (r : Reg) (v : Word) : (s.complete r v).sharedEpoch = s.sharedEpoch := rfl
@[simp] theorem State.complete_full (r : Reg) (v : Word) : (s.complete r v).full = s.full := rfl
@[simp] theorem State.complete_bad (r : Reg) (v : Word) : (s.complete r v).bad = s.bad := rfl
@[simp] theorem State.complete_filters (r : Reg) (v : Word) : (s.complete r v).filters = s.filters := rfl
@[simp] theorem State.complete_quads (r : Reg) (v : Word) : (s.complete r v).quads = s.quads := rfl
@[simp] theorem State.complete_clusters (r : Reg) (v : Word) : (s.complete r v).clusters = s.clusters := rfl
@[simp] theorem State.complete_dies (r : Reg) (v : Word) : (s.complete r v).dies = s.dies := rfl
@[simp] theorem State.complete_regions (r : Reg) (v : Word) : (s.complete r v).regions = s.regions := rfl
@[simp] theorem State.complete_part (r : Reg) (v : Word) : (s.complete r v).part = s.part := rfl
@[simp] theorem State.complete_modid (r : Reg) (v : Word) : (s.complete r v).modid = s.modid := rfl
@[simp] theorem State.complete_harvest (r : Reg) (v : Word) : (s.complete r v).harvest = s.harvest := rfl
@[simp] theorem State.complete_overrides (r : Reg) (v : Word) : (s.complete r v).overrides = s.overrides := rfl
@[simp] theorem State.complete_firmware (r : Reg) (v : Word) : (s.complete r v).firmware = s.firmware := rfl
@[simp] theorem State.complete_flash (r : Reg) (v : Word) : (s.complete r v).flash = s.flash := rfl
@[simp] theorem State.complete_fuses (r : Reg) (v : Word) : (s.complete r v).fuses = s.fuses := rfl
@[simp] theorem State.complete_lost (r : Reg) (v : Word) : (s.complete r v).lost = s.lost := rfl
@[simp] theorem State.complete_colophons (r : Reg) (v : Word) : (s.complete r v).colophons = s.colophons := rfl
@[simp] theorem State.complete_colophonSeq (r : Reg) (v : Word) : (s.complete r v).colophonSeq = s.colophonSeq := rfl
@[simp] theorem State.complete_dumping (r : Reg) (v : Word) : (s.complete r v).dumping = s.dumping := rfl
@[simp] theorem State.complete_halted (r : Reg) (v : Word) : (s.complete r v).halted = s.halted := rfl
@[simp] theorem State.complete_zlog (r : Reg) (v : Word) : (s.complete r v).zlog = s.zlog := rfl
@[simp] theorem State.complete_grants (r : Reg) (v : Word) : (s.complete r v).grants = s.grants := rfl
@[simp] theorem State.complete_idents (r : Reg) (v : Word) : (s.complete r v).idents = s.idents := rfl
@[simp] theorem State.complete_hostOut (r : Reg) (v : Word) : (s.complete r v).hostOut = s.hostOut := rfl

/-! ## switch -/

@[simp] theorem State.switch_now (c : Nat) : (s.switch c).now = s.now := rfl
@[simp] theorem State.switch_cur (c : Nat) : (s.switch c).cur = s.cur := rfl
@[simp] theorem State.switch_agenda (c : Nat) : (s.switch c).agenda = s.agenda := rfl
@[simp] theorem State.switch_timers (c : Nat) : (s.switch c).timers = s.timers := rfl
@[simp] theorem State.switch_fresh (c : Nat) : (s.switch c).fresh = s.fresh := rfl
@[simp] theorem State.switch_seq (c : Nat) : (s.switch c).seq = s.seq := rfl
@[simp] theorem State.switch_ctx (c : Nat) : (s.switch c).ctx = s.ctx := rfl
@[simp] theorem State.switch_mem (c : Nat) : (s.switch c).mem = s.mem := rfl
@[simp] theorem State.switch_seals (c : Nat) : (s.switch c).seals = s.seals := rfl
@[simp] theorem State.switch_epoch (c : Nat) : (s.switch c).epoch = s.epoch := rfl
@[simp] theorem State.switch_sharedEpoch (c : Nat) : (s.switch c).sharedEpoch = s.sharedEpoch := rfl
@[simp] theorem State.switch_full (c : Nat) : (s.switch c).full = s.full := rfl
@[simp] theorem State.switch_bad (c : Nat) : (s.switch c).bad = s.bad := rfl
@[simp] theorem State.switch_filters (c : Nat) : (s.switch c).filters = s.filters := rfl
@[simp] theorem State.switch_quads (c : Nat) : (s.switch c).quads = s.quads := rfl
@[simp] theorem State.switch_clusters (c : Nat) : (s.switch c).clusters = s.clusters := rfl
@[simp] theorem State.switch_dies (c : Nat) : (s.switch c).dies = s.dies := rfl
@[simp] theorem State.switch_regions (c : Nat) : (s.switch c).regions = s.regions := rfl
@[simp] theorem State.switch_part (c : Nat) : (s.switch c).part = s.part := rfl
@[simp] theorem State.switch_modid (c : Nat) : (s.switch c).modid = s.modid := rfl
@[simp] theorem State.switch_harvest (c : Nat) : (s.switch c).harvest = s.harvest := rfl
@[simp] theorem State.switch_overrides (c : Nat) : (s.switch c).overrides = s.overrides := rfl
@[simp] theorem State.switch_firmware (c : Nat) : (s.switch c).firmware = s.firmware := rfl
@[simp] theorem State.switch_flash (c : Nat) : (s.switch c).flash = s.flash := rfl
@[simp] theorem State.switch_fuses (c : Nat) : (s.switch c).fuses = s.fuses := rfl
@[simp] theorem State.switch_lost (c : Nat) : (s.switch c).lost = s.lost := rfl
@[simp] theorem State.switch_colophons (c : Nat) : (s.switch c).colophons = s.colophons := rfl
@[simp] theorem State.switch_colophonSeq (c : Nat) : (s.switch c).colophonSeq = s.colophonSeq := rfl
@[simp] theorem State.switch_dumping (c : Nat) : (s.switch c).dumping = s.dumping := rfl
@[simp] theorem State.switch_halted (c : Nat) : (s.switch c).halted = s.halted := rfl
@[simp] theorem State.switch_zlog (c : Nat) : (s.switch c).zlog = s.zlog := rfl
@[simp] theorem State.switch_grants (c : Nat) : (s.switch c).grants = s.grants := rfl
@[simp] theorem State.switch_idents (c : Nat) : (s.switch c).idents = s.idents := rfl
@[simp] theorem State.switch_hostOut (c : Nat) : (s.switch c).hostOut = s.hostOut := rfl

/-! ## resume -/

@[simp] theorem State.resume_now : (s.resume).now = s.now := rfl
@[simp] theorem State.resume_cur : (s.resume).cur = s.cur := rfl
@[simp] theorem State.resume_agenda : (s.resume).agenda = s.agenda := rfl
@[simp] theorem State.resume_timers : (s.resume).timers = s.timers := rfl
@[simp] theorem State.resume_fresh : (s.resume).fresh = s.fresh := rfl
@[simp] theorem State.resume_seq : (s.resume).seq = s.seq := rfl
@[simp] theorem State.resume_ctx : (s.resume).ctx = s.ctx := rfl
@[simp] theorem State.resume_mem : (s.resume).mem = s.mem := rfl
@[simp] theorem State.resume_seals : (s.resume).seals = s.seals := rfl
@[simp] theorem State.resume_epoch : (s.resume).epoch = s.epoch := rfl
@[simp] theorem State.resume_sharedEpoch : (s.resume).sharedEpoch = s.sharedEpoch := rfl
@[simp] theorem State.resume_full : (s.resume).full = s.full := rfl
@[simp] theorem State.resume_bad : (s.resume).bad = s.bad := rfl
@[simp] theorem State.resume_filters : (s.resume).filters = s.filters := rfl
@[simp] theorem State.resume_quads : (s.resume).quads = s.quads := rfl
@[simp] theorem State.resume_clusters : (s.resume).clusters = s.clusters := rfl
@[simp] theorem State.resume_dies : (s.resume).dies = s.dies := rfl
@[simp] theorem State.resume_regions : (s.resume).regions = s.regions := rfl
@[simp] theorem State.resume_part : (s.resume).part = s.part := rfl
@[simp] theorem State.resume_modid : (s.resume).modid = s.modid := rfl
@[simp] theorem State.resume_harvest : (s.resume).harvest = s.harvest := rfl
@[simp] theorem State.resume_overrides : (s.resume).overrides = s.overrides := rfl
@[simp] theorem State.resume_firmware : (s.resume).firmware = s.firmware := rfl
@[simp] theorem State.resume_flash : (s.resume).flash = s.flash := rfl
@[simp] theorem State.resume_fuses : (s.resume).fuses = s.fuses := rfl
@[simp] theorem State.resume_lost : (s.resume).lost = s.lost := rfl
@[simp] theorem State.resume_colophons : (s.resume).colophons = s.colophons := rfl
@[simp] theorem State.resume_colophonSeq : (s.resume).colophonSeq = s.colophonSeq := rfl
@[simp] theorem State.resume_dumping : (s.resume).dumping = s.dumping := rfl
@[simp] theorem State.resume_halted : (s.resume).halted = s.halted := rfl
@[simp] theorem State.resume_zlog : (s.resume).zlog = s.zlog := rfl
@[simp] theorem State.resume_grants : (s.resume).grants = s.grants := rfl
@[simp] theorem State.resume_idents : (s.resume).idents = s.idents := rfl
@[simp] theorem State.resume_hostOut : (s.resume).hostOut = s.hostOut := rfl

/-! ## push -/

@[simp] theorem State.push_now (a : Activity) : (s.push a).now = s.now := rfl
@[simp] theorem State.push_cur (a : Activity) : (s.push a).cur = s.cur := rfl
@[simp] theorem State.push_agenda (a : Activity) : (s.push a).agenda = s.agenda ++ [a] := rfl
@[simp] theorem State.push_timers (a : Activity) : (s.push a).timers = s.timers := rfl
@[simp] theorem State.push_fresh (a : Activity) : (s.push a).fresh = s.fresh := rfl
@[simp] theorem State.push_seq (a : Activity) : (s.push a).seq = s.seq := rfl
@[simp] theorem State.push_ctx (a : Activity) : (s.push a).ctx = s.ctx := rfl
@[simp] theorem State.push_mem (a : Activity) : (s.push a).mem = s.mem := rfl
@[simp] theorem State.push_seals (a : Activity) : (s.push a).seals = s.seals := rfl
@[simp] theorem State.push_epoch (a : Activity) : (s.push a).epoch = s.epoch := rfl
@[simp] theorem State.push_sharedEpoch (a : Activity) : (s.push a).sharedEpoch = s.sharedEpoch := rfl
@[simp] theorem State.push_full (a : Activity) : (s.push a).full = s.full := rfl
@[simp] theorem State.push_bad (a : Activity) : (s.push a).bad = s.bad := rfl
@[simp] theorem State.push_filters (a : Activity) : (s.push a).filters = s.filters := rfl
@[simp] theorem State.push_cores (a : Activity) : (s.push a).cores = s.cores := rfl
@[simp] theorem State.push_quads (a : Activity) : (s.push a).quads = s.quads := rfl
@[simp] theorem State.push_clusters (a : Activity) : (s.push a).clusters = s.clusters := rfl
@[simp] theorem State.push_dies (a : Activity) : (s.push a).dies = s.dies := rfl
@[simp] theorem State.push_regions (a : Activity) : (s.push a).regions = s.regions := rfl
@[simp] theorem State.push_part (a : Activity) : (s.push a).part = s.part := rfl
@[simp] theorem State.push_modid (a : Activity) : (s.push a).modid = s.modid := rfl
@[simp] theorem State.push_harvest (a : Activity) : (s.push a).harvest = s.harvest := rfl
@[simp] theorem State.push_overrides (a : Activity) : (s.push a).overrides = s.overrides := rfl
@[simp] theorem State.push_firmware (a : Activity) : (s.push a).firmware = s.firmware := rfl
@[simp] theorem State.push_flash (a : Activity) : (s.push a).flash = s.flash := rfl
@[simp] theorem State.push_fuses (a : Activity) : (s.push a).fuses = s.fuses := rfl
@[simp] theorem State.push_lost (a : Activity) : (s.push a).lost = s.lost := rfl
@[simp] theorem State.push_colophons (a : Activity) : (s.push a).colophons = s.colophons := rfl
@[simp] theorem State.push_colophonSeq (a : Activity) : (s.push a).colophonSeq = s.colophonSeq := rfl
@[simp] theorem State.push_dumping (a : Activity) : (s.push a).dumping = s.dumping := rfl
@[simp] theorem State.push_halted (a : Activity) : (s.push a).halted = s.halted := rfl
@[simp] theorem State.push_zlog (a : Activity) : (s.push a).zlog = s.zlog := rfl
@[simp] theorem State.push_grants (a : Activity) : (s.push a).grants = s.grants := rfl
@[simp] theorem State.push_idents (a : Activity) : (s.push a).idents = s.idents := rfl
@[simp] theorem State.push_hostOut (a : Activity) : (s.push a).hostOut = s.hostOut := rfl

/-! ## post -/

@[simp] theorem State.post_now (i : Instr) : (s.post i).now = s.now := rfl
@[simp] theorem State.post_cur (i : Instr) : (s.post i).cur = s.cur := rfl
@[simp] theorem State.post_agenda (i : Instr) : (s.post i).agenda = s.agenda ++ [.event i] := rfl
@[simp] theorem State.post_timers (i : Instr) : (s.post i).timers = s.timers := rfl
@[simp] theorem State.post_fresh (i : Instr) : (s.post i).fresh = s.fresh := rfl
@[simp] theorem State.post_seq (i : Instr) : (s.post i).seq = s.seq := rfl
@[simp] theorem State.post_ctx (i : Instr) : (s.post i).ctx = s.ctx := rfl
@[simp] theorem State.post_mem (i : Instr) : (s.post i).mem = s.mem := rfl
@[simp] theorem State.post_seals (i : Instr) : (s.post i).seals = s.seals := rfl
@[simp] theorem State.post_epoch (i : Instr) : (s.post i).epoch = s.epoch := rfl
@[simp] theorem State.post_sharedEpoch (i : Instr) : (s.post i).sharedEpoch = s.sharedEpoch := rfl
@[simp] theorem State.post_full (i : Instr) : (s.post i).full = s.full := rfl
@[simp] theorem State.post_bad (i : Instr) : (s.post i).bad = s.bad := rfl
@[simp] theorem State.post_filters (i : Instr) : (s.post i).filters = s.filters := rfl
@[simp] theorem State.post_cores (i : Instr) : (s.post i).cores = s.cores := rfl
@[simp] theorem State.post_quads (i : Instr) : (s.post i).quads = s.quads := rfl
@[simp] theorem State.post_clusters (i : Instr) : (s.post i).clusters = s.clusters := rfl
@[simp] theorem State.post_dies (i : Instr) : (s.post i).dies = s.dies := rfl
@[simp] theorem State.post_regions (i : Instr) : (s.post i).regions = s.regions := rfl
@[simp] theorem State.post_part (i : Instr) : (s.post i).part = s.part := rfl
@[simp] theorem State.post_modid (i : Instr) : (s.post i).modid = s.modid := rfl
@[simp] theorem State.post_harvest (i : Instr) : (s.post i).harvest = s.harvest := rfl
@[simp] theorem State.post_overrides (i : Instr) : (s.post i).overrides = s.overrides := rfl
@[simp] theorem State.post_firmware (i : Instr) : (s.post i).firmware = s.firmware := rfl
@[simp] theorem State.post_flash (i : Instr) : (s.post i).flash = s.flash := rfl
@[simp] theorem State.post_fuses (i : Instr) : (s.post i).fuses = s.fuses := rfl
@[simp] theorem State.post_lost (i : Instr) : (s.post i).lost = s.lost := rfl
@[simp] theorem State.post_colophons (i : Instr) : (s.post i).colophons = s.colophons := rfl
@[simp] theorem State.post_colophonSeq (i : Instr) : (s.post i).colophonSeq = s.colophonSeq := rfl
@[simp] theorem State.post_dumping (i : Instr) : (s.post i).dumping = s.dumping := rfl
@[simp] theorem State.post_halted (i : Instr) : (s.post i).halted = s.halted := rfl
@[simp] theorem State.post_zlog (i : Instr) : (s.post i).zlog = s.zlog := rfl
@[simp] theorem State.post_grants (i : Instr) : (s.post i).grants = s.grants := rfl
@[simp] theorem State.post_idents (i : Instr) : (s.post i).idents = s.idents := rfl
@[simp] theorem State.post_hostOut (i : Instr) : (s.post i).hostOut = s.hostOut := rfl

/-! ## after -/

@[simp] theorem State.after_now (n : Nat) (i : Instr) : (s.after n i).now = s.now := rfl
@[simp] theorem State.after_cur (n : Nat) (i : Instr) : (s.after n i).cur = s.cur := rfl
@[simp] theorem State.after_agenda (n : Nat) (i : Instr) : (s.after n i).agenda = s.agenda := rfl
@[simp] theorem State.after_timers (n : Nat) (i : Instr) : (s.after n i).timers = insertTimer s.timers (s.now + n) i := rfl
@[simp] theorem State.after_fresh (n : Nat) (i : Instr) : (s.after n i).fresh = s.fresh := rfl
@[simp] theorem State.after_seq (n : Nat) (i : Instr) : (s.after n i).seq = s.seq := rfl
@[simp] theorem State.after_ctx (n : Nat) (i : Instr) : (s.after n i).ctx = s.ctx := rfl
@[simp] theorem State.after_mem (n : Nat) (i : Instr) : (s.after n i).mem = s.mem := rfl
@[simp] theorem State.after_seals (n : Nat) (i : Instr) : (s.after n i).seals = s.seals := rfl
@[simp] theorem State.after_epoch (n : Nat) (i : Instr) : (s.after n i).epoch = s.epoch := rfl
@[simp] theorem State.after_sharedEpoch (n : Nat) (i : Instr) : (s.after n i).sharedEpoch = s.sharedEpoch := rfl
@[simp] theorem State.after_full (n : Nat) (i : Instr) : (s.after n i).full = s.full := rfl
@[simp] theorem State.after_bad (n : Nat) (i : Instr) : (s.after n i).bad = s.bad := rfl
@[simp] theorem State.after_filters (n : Nat) (i : Instr) : (s.after n i).filters = s.filters := rfl
@[simp] theorem State.after_cores (n : Nat) (i : Instr) : (s.after n i).cores = s.cores := rfl
@[simp] theorem State.after_quads (n : Nat) (i : Instr) : (s.after n i).quads = s.quads := rfl
@[simp] theorem State.after_clusters (n : Nat) (i : Instr) : (s.after n i).clusters = s.clusters := rfl
@[simp] theorem State.after_dies (n : Nat) (i : Instr) : (s.after n i).dies = s.dies := rfl
@[simp] theorem State.after_regions (n : Nat) (i : Instr) : (s.after n i).regions = s.regions := rfl
@[simp] theorem State.after_part (n : Nat) (i : Instr) : (s.after n i).part = s.part := rfl
@[simp] theorem State.after_modid (n : Nat) (i : Instr) : (s.after n i).modid = s.modid := rfl
@[simp] theorem State.after_harvest (n : Nat) (i : Instr) : (s.after n i).harvest = s.harvest := rfl
@[simp] theorem State.after_overrides (n : Nat) (i : Instr) : (s.after n i).overrides = s.overrides := rfl
@[simp] theorem State.after_firmware (n : Nat) (i : Instr) : (s.after n i).firmware = s.firmware := rfl
@[simp] theorem State.after_flash (n : Nat) (i : Instr) : (s.after n i).flash = s.flash := rfl
@[simp] theorem State.after_fuses (n : Nat) (i : Instr) : (s.after n i).fuses = s.fuses := rfl
@[simp] theorem State.after_lost (n : Nat) (i : Instr) : (s.after n i).lost = s.lost := rfl
@[simp] theorem State.after_colophons (n : Nat) (i : Instr) : (s.after n i).colophons = s.colophons := rfl
@[simp] theorem State.after_colophonSeq (n : Nat) (i : Instr) : (s.after n i).colophonSeq = s.colophonSeq := rfl
@[simp] theorem State.after_dumping (n : Nat) (i : Instr) : (s.after n i).dumping = s.dumping := rfl
@[simp] theorem State.after_halted (n : Nat) (i : Instr) : (s.after n i).halted = s.halted := rfl
@[simp] theorem State.after_zlog (n : Nat) (i : Instr) : (s.after n i).zlog = s.zlog := rfl
@[simp] theorem State.after_grants (n : Nat) (i : Instr) : (s.after n i).grants = s.grants := rfl
@[simp] theorem State.after_idents (n : Nat) (i : Instr) : (s.after n i).idents = s.idents := rfl
@[simp] theorem State.after_hostOut (n : Nat) (i : Instr) : (s.after n i).hostOut = s.hostOut := rfl

/-! ## bumpSeq -/

@[simp] theorem State.bumpSeq_now : (s.bumpSeq).now = s.now := rfl
@[simp] theorem State.bumpSeq_cur : (s.bumpSeq).cur = s.cur := rfl
@[simp] theorem State.bumpSeq_agenda : (s.bumpSeq).agenda = s.agenda := rfl
@[simp] theorem State.bumpSeq_timers : (s.bumpSeq).timers = s.timers := rfl
@[simp] theorem State.bumpSeq_fresh : (s.bumpSeq).fresh = s.fresh := rfl
@[simp] theorem State.bumpSeq_seq : (s.bumpSeq).seq = s.seq + 1 := rfl
@[simp] theorem State.bumpSeq_ctx : (s.bumpSeq).ctx = s.ctx := rfl
@[simp] theorem State.bumpSeq_mem : (s.bumpSeq).mem = s.mem := rfl
@[simp] theorem State.bumpSeq_seals : (s.bumpSeq).seals = s.seals := rfl
@[simp] theorem State.bumpSeq_epoch : (s.bumpSeq).epoch = s.epoch := rfl
@[simp] theorem State.bumpSeq_sharedEpoch : (s.bumpSeq).sharedEpoch = s.sharedEpoch := rfl
@[simp] theorem State.bumpSeq_full : (s.bumpSeq).full = s.full := rfl
@[simp] theorem State.bumpSeq_bad : (s.bumpSeq).bad = s.bad := rfl
@[simp] theorem State.bumpSeq_filters : (s.bumpSeq).filters = s.filters := rfl
@[simp] theorem State.bumpSeq_cores : (s.bumpSeq).cores = s.cores := rfl
@[simp] theorem State.bumpSeq_quads : (s.bumpSeq).quads = s.quads := rfl
@[simp] theorem State.bumpSeq_clusters : (s.bumpSeq).clusters = s.clusters := rfl
@[simp] theorem State.bumpSeq_dies : (s.bumpSeq).dies = s.dies := rfl
@[simp] theorem State.bumpSeq_regions : (s.bumpSeq).regions = s.regions := rfl
@[simp] theorem State.bumpSeq_part : (s.bumpSeq).part = s.part := rfl
@[simp] theorem State.bumpSeq_modid : (s.bumpSeq).modid = s.modid := rfl
@[simp] theorem State.bumpSeq_harvest : (s.bumpSeq).harvest = s.harvest := rfl
@[simp] theorem State.bumpSeq_overrides : (s.bumpSeq).overrides = s.overrides := rfl
@[simp] theorem State.bumpSeq_firmware : (s.bumpSeq).firmware = s.firmware := rfl
@[simp] theorem State.bumpSeq_flash : (s.bumpSeq).flash = s.flash := rfl
@[simp] theorem State.bumpSeq_fuses : (s.bumpSeq).fuses = s.fuses := rfl
@[simp] theorem State.bumpSeq_lost : (s.bumpSeq).lost = s.lost := rfl
@[simp] theorem State.bumpSeq_colophons : (s.bumpSeq).colophons = s.colophons := rfl
@[simp] theorem State.bumpSeq_colophonSeq : (s.bumpSeq).colophonSeq = s.colophonSeq := rfl
@[simp] theorem State.bumpSeq_dumping : (s.bumpSeq).dumping = s.dumping := rfl
@[simp] theorem State.bumpSeq_halted : (s.bumpSeq).halted = s.halted := rfl
@[simp] theorem State.bumpSeq_zlog : (s.bumpSeq).zlog = s.zlog := rfl
@[simp] theorem State.bumpSeq_grants : (s.bumpSeq).grants = s.grants := rfl
@[simp] theorem State.bumpSeq_idents : (s.bumpSeq).idents = s.idents := rfl
@[simp] theorem State.bumpSeq_hostOut : (s.bumpSeq).hostOut = s.hostOut := rfl

/-! ## out -/

@[simp] theorem State.out_now (p : Port) (a : HostAns) : (s.out p a).now = s.now := rfl
@[simp] theorem State.out_cur (p : Port) (a : HostAns) : (s.out p a).cur = s.cur := rfl
@[simp] theorem State.out_agenda (p : Port) (a : HostAns) : (s.out p a).agenda = s.agenda := rfl
@[simp] theorem State.out_timers (p : Port) (a : HostAns) : (s.out p a).timers = s.timers := rfl
@[simp] theorem State.out_fresh (p : Port) (a : HostAns) : (s.out p a).fresh = s.fresh := rfl
@[simp] theorem State.out_seq (p : Port) (a : HostAns) : (s.out p a).seq = s.seq := rfl
@[simp] theorem State.out_ctx (p : Port) (a : HostAns) : (s.out p a).ctx = s.ctx := rfl
@[simp] theorem State.out_mem (p : Port) (a : HostAns) : (s.out p a).mem = s.mem := rfl
@[simp] theorem State.out_seals (p : Port) (a : HostAns) : (s.out p a).seals = s.seals := rfl
@[simp] theorem State.out_epoch (p : Port) (a : HostAns) : (s.out p a).epoch = s.epoch := rfl
@[simp] theorem State.out_sharedEpoch (p : Port) (a : HostAns) : (s.out p a).sharedEpoch = s.sharedEpoch := rfl
@[simp] theorem State.out_full (p : Port) (a : HostAns) : (s.out p a).full = s.full := rfl
@[simp] theorem State.out_bad (p : Port) (a : HostAns) : (s.out p a).bad = s.bad := rfl
@[simp] theorem State.out_filters (p : Port) (a : HostAns) : (s.out p a).filters = s.filters := rfl
@[simp] theorem State.out_cores (p : Port) (a : HostAns) : (s.out p a).cores = s.cores := rfl
@[simp] theorem State.out_quads (p : Port) (a : HostAns) : (s.out p a).quads = s.quads := rfl
@[simp] theorem State.out_clusters (p : Port) (a : HostAns) : (s.out p a).clusters = s.clusters := rfl
@[simp] theorem State.out_dies (p : Port) (a : HostAns) : (s.out p a).dies = s.dies := rfl
@[simp] theorem State.out_regions (p : Port) (a : HostAns) : (s.out p a).regions = s.regions := rfl
@[simp] theorem State.out_part (p : Port) (a : HostAns) : (s.out p a).part = s.part := rfl
@[simp] theorem State.out_modid (p : Port) (a : HostAns) : (s.out p a).modid = s.modid := rfl
@[simp] theorem State.out_harvest (p : Port) (a : HostAns) : (s.out p a).harvest = s.harvest := rfl
@[simp] theorem State.out_overrides (p : Port) (a : HostAns) : (s.out p a).overrides = s.overrides := rfl
@[simp] theorem State.out_firmware (p : Port) (a : HostAns) : (s.out p a).firmware = s.firmware := rfl
@[simp] theorem State.out_flash (p : Port) (a : HostAns) : (s.out p a).flash = s.flash := rfl
@[simp] theorem State.out_fuses (p : Port) (a : HostAns) : (s.out p a).fuses = s.fuses := rfl
@[simp] theorem State.out_lost (p : Port) (a : HostAns) : (s.out p a).lost = s.lost := rfl
@[simp] theorem State.out_colophons (p : Port) (a : HostAns) : (s.out p a).colophons = s.colophons := rfl
@[simp] theorem State.out_colophonSeq (p : Port) (a : HostAns) : (s.out p a).colophonSeq = s.colophonSeq := rfl
@[simp] theorem State.out_dumping (p : Port) (a : HostAns) : (s.out p a).dumping = s.dumping := rfl
@[simp] theorem State.out_halted (p : Port) (a : HostAns) : (s.out p a).halted = s.halted := rfl
@[simp] theorem State.out_zlog (p : Port) (a : HostAns) : (s.out p a).zlog = s.zlog := rfl
@[simp] theorem State.out_grants (p : Port) (a : HostAns) : (s.out p a).grants = s.grants := rfl
@[simp] theorem State.out_idents (p : Port) (a : HostAns) : (s.out p a).idents = s.idents := rfl
@[simp] theorem State.out_hostOut (p : Port) (a : HostAns) : (s.out p a).hostOut = s.hostOut ++ [(p, a)] := rfl

/-! ## toHost -/

@[simp] theorem State.toHost_now (a : HostAns) : (s.toHost a).now = s.now := rfl
@[simp] theorem State.toHost_cur (a : HostAns) : (s.toHost a).cur = s.cur := rfl
@[simp] theorem State.toHost_agenda (a : HostAns) : (s.toHost a).agenda = s.agenda := rfl
@[simp] theorem State.toHost_timers (a : HostAns) : (s.toHost a).timers = s.timers := rfl
@[simp] theorem State.toHost_fresh (a : HostAns) : (s.toHost a).fresh = s.fresh := rfl
@[simp] theorem State.toHost_seq (a : HostAns) : (s.toHost a).seq = s.seq := rfl
@[simp] theorem State.toHost_ctx (a : HostAns) : (s.toHost a).ctx = s.ctx := rfl
@[simp] theorem State.toHost_mem (a : HostAns) : (s.toHost a).mem = s.mem := rfl
@[simp] theorem State.toHost_seals (a : HostAns) : (s.toHost a).seals = s.seals := rfl
@[simp] theorem State.toHost_epoch (a : HostAns) : (s.toHost a).epoch = s.epoch := rfl
@[simp] theorem State.toHost_sharedEpoch (a : HostAns) : (s.toHost a).sharedEpoch = s.sharedEpoch := rfl
@[simp] theorem State.toHost_full (a : HostAns) : (s.toHost a).full = s.full := rfl
@[simp] theorem State.toHost_bad (a : HostAns) : (s.toHost a).bad = s.bad := rfl
@[simp] theorem State.toHost_filters (a : HostAns) : (s.toHost a).filters = s.filters := rfl
@[simp] theorem State.toHost_cores (a : HostAns) : (s.toHost a).cores = s.cores := rfl
@[simp] theorem State.toHost_quads (a : HostAns) : (s.toHost a).quads = s.quads := rfl
@[simp] theorem State.toHost_clusters (a : HostAns) : (s.toHost a).clusters = s.clusters := rfl
@[simp] theorem State.toHost_dies (a : HostAns) : (s.toHost a).dies = s.dies := rfl
@[simp] theorem State.toHost_regions (a : HostAns) : (s.toHost a).regions = s.regions := rfl
@[simp] theorem State.toHost_part (a : HostAns) : (s.toHost a).part = s.part := rfl
@[simp] theorem State.toHost_modid (a : HostAns) : (s.toHost a).modid = s.modid := rfl
@[simp] theorem State.toHost_harvest (a : HostAns) : (s.toHost a).harvest = s.harvest := rfl
@[simp] theorem State.toHost_overrides (a : HostAns) : (s.toHost a).overrides = s.overrides := rfl
@[simp] theorem State.toHost_firmware (a : HostAns) : (s.toHost a).firmware = s.firmware := rfl
@[simp] theorem State.toHost_flash (a : HostAns) : (s.toHost a).flash = s.flash := rfl
@[simp] theorem State.toHost_fuses (a : HostAns) : (s.toHost a).fuses = s.fuses := rfl
@[simp] theorem State.toHost_lost (a : HostAns) : (s.toHost a).lost = s.lost := rfl
@[simp] theorem State.toHost_colophons (a : HostAns) : (s.toHost a).colophons = s.colophons := rfl
@[simp] theorem State.toHost_colophonSeq (a : HostAns) : (s.toHost a).colophonSeq = s.colophonSeq := rfl
@[simp] theorem State.toHost_dumping (a : HostAns) : (s.toHost a).dumping = s.dumping := rfl
@[simp] theorem State.toHost_halted (a : HostAns) : (s.toHost a).halted = s.halted := rfl
@[simp] theorem State.toHost_zlog (a : HostAns) : (s.toHost a).zlog = s.zlog := rfl
@[simp] theorem State.toHost_grants (a : HostAns) : (s.toHost a).grants = s.grants := rfl
@[simp] theorem State.toHost_idents (a : HostAns) : (s.toHost a).idents = s.idents := rfl
@[simp] theorem State.toHost_hostOut (a : HostAns) : (s.toHost a).hostOut = s.hostOut ++ [(.function s.part.link s.part.function, a)] := rfl

/-! ## toZholos -/

@[simp] theorem State.toZholos_now (a : HostAns) : (s.toZholos a).now = s.now := rfl
@[simp] theorem State.toZholos_cur (a : HostAns) : (s.toZholos a).cur = s.cur := rfl
@[simp] theorem State.toZholos_agenda (a : HostAns) : (s.toZholos a).agenda = s.agenda := rfl
@[simp] theorem State.toZholos_timers (a : HostAns) : (s.toZholos a).timers = s.timers := rfl
@[simp] theorem State.toZholos_fresh (a : HostAns) : (s.toZholos a).fresh = s.fresh := rfl
@[simp] theorem State.toZholos_seq (a : HostAns) : (s.toZholos a).seq = s.seq := rfl
@[simp] theorem State.toZholos_ctx (a : HostAns) : (s.toZholos a).ctx = s.ctx := rfl
@[simp] theorem State.toZholos_mem (a : HostAns) : (s.toZholos a).mem = s.mem := rfl
@[simp] theorem State.toZholos_seals (a : HostAns) : (s.toZholos a).seals = s.seals := rfl
@[simp] theorem State.toZholos_epoch (a : HostAns) : (s.toZholos a).epoch = s.epoch := rfl
@[simp] theorem State.toZholos_sharedEpoch (a : HostAns) : (s.toZholos a).sharedEpoch = s.sharedEpoch := rfl
@[simp] theorem State.toZholos_full (a : HostAns) : (s.toZholos a).full = s.full := rfl
@[simp] theorem State.toZholos_bad (a : HostAns) : (s.toZholos a).bad = s.bad := rfl
@[simp] theorem State.toZholos_filters (a : HostAns) : (s.toZholos a).filters = s.filters := rfl
@[simp] theorem State.toZholos_cores (a : HostAns) : (s.toZholos a).cores = s.cores := rfl
@[simp] theorem State.toZholos_quads (a : HostAns) : (s.toZholos a).quads = s.quads := rfl
@[simp] theorem State.toZholos_clusters (a : HostAns) : (s.toZholos a).clusters = s.clusters := rfl
@[simp] theorem State.toZholos_dies (a : HostAns) : (s.toZholos a).dies = s.dies := rfl
@[simp] theorem State.toZholos_regions (a : HostAns) : (s.toZholos a).regions = s.regions := rfl
@[simp] theorem State.toZholos_part (a : HostAns) : (s.toZholos a).part = s.part := rfl
@[simp] theorem State.toZholos_modid (a : HostAns) : (s.toZholos a).modid = s.modid := rfl
@[simp] theorem State.toZholos_harvest (a : HostAns) : (s.toZholos a).harvest = s.harvest := rfl
@[simp] theorem State.toZholos_overrides (a : HostAns) : (s.toZholos a).overrides = s.overrides := rfl
@[simp] theorem State.toZholos_firmware (a : HostAns) : (s.toZholos a).firmware = s.firmware := rfl
@[simp] theorem State.toZholos_flash (a : HostAns) : (s.toZholos a).flash = s.flash := rfl
@[simp] theorem State.toZholos_fuses (a : HostAns) : (s.toZholos a).fuses = s.fuses := rfl
@[simp] theorem State.toZholos_lost (a : HostAns) : (s.toZholos a).lost = s.lost := rfl
@[simp] theorem State.toZholos_colophons (a : HostAns) : (s.toZholos a).colophons = s.colophons := rfl
@[simp] theorem State.toZholos_colophonSeq (a : HostAns) : (s.toZholos a).colophonSeq = s.colophonSeq := rfl
@[simp] theorem State.toZholos_dumping (a : HostAns) : (s.toZholos a).dumping = s.dumping := rfl
@[simp] theorem State.toZholos_halted (a : HostAns) : (s.toZholos a).halted = s.halted := rfl
@[simp] theorem State.toZholos_zlog (a : HostAns) : (s.toZholos a).zlog = s.zlog := rfl
@[simp] theorem State.toZholos_grants (a : HostAns) : (s.toZholos a).grants = s.grants := rfl
@[simp] theorem State.toZholos_idents (a : HostAns) : (s.toZholos a).idents = s.idents := rfl
@[simp] theorem State.toZholos_hostOut (a : HostAns) : (s.toZholos a).hostOut = s.hostOut ++ [(.zholos, a)] := rfl

end Sys2Proof.Machine
end

