-- ==== Sys2Proof/Laws/Tables.lean ====
section
/-! SUPPORT. Reading after writing: tables, cores, quads, banks, strands and registers. -/

namespace Sys2Proof.Machine

/-! ## Tables -/

@[simp] theorem Tbl.get_set_self {α : Type} (t : Tbl α) (d : α) (k : Nat) (v : α) : (t.set k v).get d k = v := by
  induction t with
  | nil => simp [Tbl.set, Tbl.get]
  | cons e r ih =>
    unfold Tbl.set
    split
    · simp [Tbl.get]
    · split
      · simp [Tbl.get]
      · rename_i h; simp [Tbl.get, h, ih]

theorem Tbl.get_set_ne {α : Type} (t : Tbl α) (d : α) {k j : Nat} (v : α) (h : j ≠ k) :
    (t.set k v).get d j = t.get d j := by
  induction t with
  | nil => simp [Tbl.set, Tbl.get, Ne.symm h]
  | cons e r ih =>
    unfold Tbl.set
    split
    · simp [Tbl.get, Ne.symm h]
    · split
      · rename_i h2; subst h2; simp [Tbl.get, Ne.symm h]
      · simp [Tbl.get, ih]

/-- A table read after a write. -/
theorem Tbl.get_set {α : Type} (t : Tbl α) (d : α) (k j : Nat) (v : α) :
    (t.set k v).get d j = if j = k then v else t.get d j := by
  split
  · subst j; simp
  · exact t.get_set_ne d v ‹_›

@[simp] theorem Tbl.find_set_self {α : Type} (t : Tbl α) (k : Nat) (v : α) : (t.set k v).find k = some v := by
  induction t with
  | nil => simp [Tbl.set, Tbl.find]
  | cons e r ih =>
    unfold Tbl.set
    split
    · simp [Tbl.find]
    · split
      · simp [Tbl.find]
      · rename_i h; simp [Tbl.find, h, ih]

theorem Tbl.find_set_ne {α : Type} (t : Tbl α) {k j : Nat} (v : α) (h : j ≠ k) : (t.set k v).find j = t.find j := by
  induction t with
  | nil => simp [Tbl.set, Tbl.find, Ne.symm h]
  | cons e r ih =>
    unfold Tbl.set
    split
    · simp [Tbl.find, Ne.symm h]
    · split
      · rename_i h2; subst h2; simp [Tbl.find, Ne.symm h]
      · simp [Tbl.find, ih]

/-! ## Cores, quads, clusters -/

variable (s : State)

@[simp] theorem State.core_setCore_self (c : Nat) (v : Core) : (s.setCore c v).core c = v := by simp [State.core]

theorem State.core_setCore_ne {c d : Nat} (v : Core) (h : d ≠ c) : (s.setCore c v).core d = s.core d := by
  simp [State.core, Tbl.get_set_ne _ _ _ h]

@[simp] theorem State.core_modCore_self (c : Nat) (f : Core → Core) : (s.modCore c f).core c = f (s.core c) := by
  simp [State.modCore]

theorem State.core_modCore_ne {c d : Nat} (f : Core → Core) (h : d ≠ c) : (s.modCore c f).core d = s.core d :=
  s.core_setCore_ne _ h

@[simp] theorem State.quad_setQuad_self (q : Nat) (v : Quad) : (s.setQuad q v).quad q = v := by simp [State.quad]

theorem State.quad_setQuad_ne {q d : Nat} (v : Quad) (h : d ≠ q) : (s.setQuad q v).quad d = s.quad d := by
  simp [State.quad, Tbl.get_set_ne _ _ _ h]

@[simp] theorem State.quad_modQuad_self (q : Nat) (f : Quad → Quad) : (s.modQuad q f).quad q = f (s.quad q) := by
  simp [State.modQuad]

theorem State.quad_modQuad_ne {q d : Nat} (f : Quad → Quad) (h : d ≠ q) : (s.modQuad q f).quad d = s.quad d :=
  s.quad_setQuad_ne _ h

@[simp] theorem State.cluster_modCluster_self (k : Nat) (f : Cluster → Cluster) :
    (s.modCluster k f).cluster k = f (s.cluster k) := by simp [State.cluster]

@[simp] theorem State.die_modDie_self (k : Nat) (f : Die → Die) : (s.modDie k f).die k = f (s.die k) := by
  simp [State.die]

@[simp] theorem State.region_modRegion_self (k : Nat) (f : Region → Region) :
    (s.modRegion k f).region k = f (s.region k) := by simp [State.region]

@[simp] theorem State.core_setQuad (c q : Nat) (v : Quad) : (s.setQuad q v).core c = s.core c := rfl
@[simp] theorem State.core_modQuad (c q : Nat) (f : Quad → Quad) : (s.modQuad q f).core c = s.core c := rfl
@[simp] theorem State.core_modCluster (c k : Nat) (f : Cluster → Cluster) : (s.modCluster k f).core c = s.core c := rfl
@[simp] theorem State.core_modPart (c : Nat) (f : Partition → Partition) : (s.modPart f).core c = s.core c := rfl
@[simp] theorem State.core_modRegion (c k : Nat) (f : Region → Region) : (s.modRegion k f).core c = s.core c := rfl
@[simp] theorem State.core_push (c : Nat) (a : Activity) : (s.push a).core c = s.core c := rfl
@[simp] theorem State.core_post (c : Nat) (i : Instr) : (s.post i).core c = s.core c := rfl
@[simp] theorem State.core_after (c n : Nat) (i : Instr) : (s.after n i).core c = s.core c := rfl
@[simp] theorem State.core_bumpSeq (c : Nat) : s.bumpSeq.core c = s.core c := rfl
@[simp] theorem State.quad_setCore (q c : Nat) (v : Core) : (s.setCore c v).quad q = s.quad q := rfl
@[simp] theorem State.quad_modCore (q c : Nat) (f : Core → Core) : (s.modCore c f).quad q = s.quad q := rfl
@[simp] theorem State.quad_setBank (q : Nat) (p : Place) (b : Bank) : (s.setBank p b).quad q = s.quad q := rfl
@[simp] theorem State.quad_modBank (q : Nat) (p : Place) (f : Bank → Bank) : (s.modBank p f).quad q = s.quad q := rfl
@[simp] theorem State.quad_post (q : Nat) (i : Instr) : (s.post i).quad q = s.quad q := rfl
@[simp] theorem State.quad_push (q : Nat) (a : Activity) : (s.push a).quad q = s.quad q := rfl
@[simp] theorem State.quad_after (q n : Nat) (i : Instr) : (s.after n i).quad q = s.quad q := rfl
@[simp] theorem State.quad_modPart (q : Nat) (f : Partition → Partition) : (s.modPart f).quad q = s.quad q := rfl

/-! ## Banks and strands -/

@[simp] theorem State.bank_setBank_self (p : Place) (b : Bank) : (s.setBank p b).bank p = b := by
  simp [State.bank, State.setBank]

/-- A bank read after a bank was written. -/
theorem State.bank_setBank_ne {p q : Place} (b : Bank) (h : q ≠ p) : (s.setBank p b).bank q = s.bank q := by
  unfold State.bank State.setBank
  by_cases hc : q.core = p.core
  · have hb : q.bank ≠ p.bank := fun hb => h (by cases p; cases q; simp_all)
    rw [hc, State.core_modCore_self]
    have : (p.bank : Nat) ≠ q.bank := fun e => hb (Fin.ext e.symm)
    simp [this]
  · rw [State.core_modCore_ne _ _ hc]

@[simp] theorem State.bank_modBank_self (p : Place) (f : Bank → Bank) : (s.modBank p f).bank p = f (s.bank p) := by
  simp [State.modBank]

@[simp] theorem State.strand_modStrand_self (p : Place) (f : Strand → Strand) :
    (s.modStrand p f).strand p = f (s.strand p) := by
  simp [State.strand, State.modStrand]

/-- The current bank of every core is what it was when a bank is written. -/
@[simp] theorem State.cur_setBank (p : Place) (b : Bank) (c : Nat) : ((s.setBank p b).core c).cur = (s.core c).cur := by
  by_cases h : c = p.core
  · subst h; simp [State.setBank]
  · simp [State.setBank, State.core_modCore_ne _ _ h]

@[simp] theorem State.here_setBank (p : Place) (b : Bank) : (s.setBank p b).here = s.here := by simp [State.here]
@[simp] theorem State.here_modBank (p : Place) (f : Bank → Bank) : (s.modBank p f).here = s.here := by
  simp [State.modBank]
@[simp] theorem State.here_modStrand (p : Place) (f : Strand → Strand) : (s.modStrand p f).here = s.here := by
  simp [State.modStrand]
@[simp] theorem State.here_setStatus (p : Place) (st : Status) : (s.setStatus p st).here = s.here := by
  simp [State.setStatus]
@[simp] theorem State.here_setReg (r : Reg) (v : Word) : (s.setReg r v).here = s.here := by simp [State.setReg]
@[simp] theorem State.here_setPc (v : Word) : (s.setPc v).here = s.here := by simp [State.setPc]
@[simp] theorem State.here_advance : s.advance.here = s.here := by simp [State.advance]
@[simp] theorem State.here_complete (r : Reg) (v : Word) : (s.complete r v).here = s.here := by simp [State.complete]
@[simp] theorem State.here_resume : s.resume.here = s.here := by simp [State.resume]
@[simp] theorem State.here_post (i : Instr) : (s.post i).here = s.here := rfl
@[simp] theorem State.here_push (a : Activity) : (s.push a).here = s.here := rfl
@[simp] theorem State.here_after (n : Nat) (i : Instr) : (s.after n i).here = s.here := rfl
@[simp] theorem State.here_modQuad (q : Nat) (f : Quad → Quad) : (s.modQuad q f).here = s.here := rfl
@[simp] theorem State.here_modPart (f : Partition → Partition) : (s.modPart f).here = s.here := rfl
@[simp] theorem State.here_bumpSeq : s.bumpSeq.here = s.here := rfl
@[simp] theorem State.bank_post (p : Place) (i : Instr) : (s.post i).bank p = s.bank p := rfl
@[simp] theorem State.bank_push (p : Place) (a : Activity) : (s.push a).bank p = s.bank p := rfl
@[simp] theorem State.bank_after (p : Place) (n : Nat) (i : Instr) : (s.after n i).bank p = s.bank p := rfl
@[simp] theorem State.bank_modQuad (p : Place) (q : Nat) (f : Quad → Quad) : (s.modQuad q f).bank p = s.bank p := rfl
@[simp] theorem State.bank_modPart (p : Place) (f : Partition → Partition) : (s.modPart f).bank p = s.bank p := rfl
@[simp] theorem State.bank_bumpSeq (p : Place) : s.bumpSeq.bank p = s.bank p := rfl
@[simp] theorem State.strand_post (p : Place) (i : Instr) : (s.post i).strand p = s.strand p := rfl
@[simp] theorem State.strand_after (p : Place) (n : Nat) (i : Instr) : (s.after n i).strand p = s.strand p := rfl

/-! ## Registers and the PC -/

@[simp] theorem Strand.reg_zero (st : Strand) : st.reg 0 = 0 := by simp [Strand.reg]

/-- A register of a strand read after a write: x0 keeps reading zero (R137). -/
theorem Strand.reg_setReg (st : Strand) (r q : Reg) (v : Word) :
    (st.setReg r v).reg q = if q = r ∧ r ≠ 0 then v else st.reg q := by
  by_cases hr : r = 0
  · simp [Strand.setReg, hr]
  · have e : st.setReg r v = { st with x := st.x.set r.toFin v } := if_neg hr
    rw [e]
    unfold Strand.reg
    by_cases hq : q = 0
    · rw [if_pos hq, if_neg (fun (h : q = r ∧ r ≠ 0) => hr (h.1 ▸ hq)), if_pos hq]
    · rw [if_neg hq, if_neg hq]
      by_cases h : q = r
      · subst h; rw [if_pos ⟨rfl, hr⟩]; simp
      · rw [if_neg (fun (k : q = r ∧ r ≠ 0) => h k.1)]
        have : ¬ (r.toFin : Nat) = q.toFin := fun e => h (BitVec.eq_of_toNat_eq (by simpa using e.symm))
        exact Vector.getElem_set_ne r.toFin.isLt q.toFin.isLt this

@[simp] theorem Strand.pc_setReg (st : Strand) (r : Reg) (v : Word) : (st.setReg r v).pc = st.pc := by
  unfold Strand.setReg; split <;> rfl

/-- What a write of a register changes in a strand. -/
theorem Strand.setReg_eq (st : Strand) (r : Reg) (v : Word) : st.setReg r v = { st with x := (st.setReg r v).x } := by
  unfold Strand.setReg; split <;> rfl

@[simp] theorem State.strand_setReg (r : Reg) (v : Word) :
    (s.setReg r v).strand s.here = (s.strand s.here).setReg r v := by simp [State.setReg]

@[simp] theorem State.strand_setPc (v : Word) :
    (s.setPc v).strand s.here = { s.strand s.here with pc := v } := by simp [State.setPc]

@[simp] theorem State.pc_setPc (v : Word) : (s.setPc v).pc = v := by simp [State.pc]
@[simp] theorem State.pc_setReg (r : Reg) (v : Word) : (s.setReg r v).pc = s.pc := by simp [State.pc]
@[simp] theorem State.pc_advance : s.advance.pc = s.pc + 32 := by simp [State.advance]
@[simp] theorem State.pc_complete (r : Reg) (v : Word) : (s.complete r v).pc = s.pc + 32 := by simp [State.complete]
@[simp] theorem State.reg_setPc (v : Word) (q : Reg) : (s.setPc v).reg q = s.reg q := by simp [State.reg, Strand.reg]
@[simp] theorem State.reg_advance (q : Reg) : s.advance.reg q = s.reg q := by simp [State.advance]

theorem State.reg_setReg (r q : Reg) (v : Word) :
    (s.setReg r v).reg q = if q = r ∧ r ≠ 0 then v else s.reg q := by simp [State.reg, Strand.reg_setReg]

theorem State.reg_complete (r q : Reg) (v : Word) :
    (s.complete r v).reg q = if q = r ∧ r ≠ 0 then v else s.reg q := by simp [State.complete, State.reg_setReg]

theorem State.strand_complete (r : Reg) (v : Word) :
    (s.complete r v).strand s.here = { (s.strand s.here).setReg r v with pc := s.pc + 32 } := by
  have h := (s.setReg r v).strand_setPc ((s.setReg r v).pc + 32)
  simp only [State.here_setReg, State.strand_setReg, State.pc_setReg] at h
  simpa [State.complete, State.advance] using h

end Sys2Proof.Machine
end

