-- ==== Sys2Proof/Laws/Strands.lean ====
section
/-! SUPPORT. What the shared operations on the executing strand do: a register written, the PC moved, a trap entered. -/

namespace Sys2Proof.Machine

variable (s : State)

/-- A bank replaced is all that differs. -/
theorem State.onlyBank_setBank (p : Place) (b : Bank) : s.OnlyBank (s.setBank p b) p := by
  refine ⟨rfl, fun c hc => State.core_setCore_ne _ _ hc, ?_, fun b' hb => ?_⟩
  · simp [State.setBank]
  · exact State.bank_setBank_ne _ _ fun h => hb (by simpa using congrArg Place.bank h)

theorem State.onlyBank_modBank (p : Place) (f : Bank → Bank) : s.OnlyBank (s.modBank p f) p := s.onlyBank_setBank _ _

theorem State.onlyBank_modStrand (p : Place) (f : Strand → Strand) : s.OnlyBank (s.modStrand p f) p :=
  s.onlyBank_setBank _ _

/-- One bank changed twice is all that differs. -/
theorem State.OnlyBank.trans {s t u : State} {p : Place} (h : s.OnlyBank t p) (k : t.OnlyBank u p) :
    s.OnlyBank u p := by
  obtain ⟨h1, h2, h3, h4⟩ := h
  obtain ⟨k1, k2, k3, k4⟩ := k
  refine ⟨?_, fun c hc => (k2 c hc).trans (h2 c hc), ?_, fun b hb => (k4 b hb).trans (h4 b hb)⟩
  · rw [k1, h1]
  · rw [k3, h3]

/-- What an instruction that writes a register and goes on does (R136, R137). -/
theorem State.wrote_complete (rd : Reg) (v : Word) : s.Wrote (s.complete rd v) rd v := by
  refine ⟨?_, fun r => s.reg_complete rd r v, s.pc_complete rd v, ?_⟩
  · have h := (s.setReg rd v).onlyBank_modStrand (s.setReg rd v).here fun st => { st with pc := (s.setReg rd v).pc + 32 }
    rw [State.here_setReg] at h
    have e : s.complete rd v =
        (s.setReg rd v).modStrand s.here fun st => { st with pc := (s.setReg rd v).pc + 32 } := by
      simp only [State.complete, State.advance, State.setPc, State.here_setReg]
    rw [e]
    exact (s.onlyBank_modStrand s.here _).trans h
  · have hs := s.strand_complete rd v
    have hb : (s.complete rd v).bank s.here = { s.bank s.here with strand := (s.complete rd v).strand s.here } := by
      simp only [State.complete, State.advance, State.setPc, State.setReg, State.modStrand, State.here_modBank,
        State.bank_modBank_self, State.strand]
    have hx (q : Word) : { (s.strand s.here).setReg rd v with pc := q } =
        { s.strand s.here with x := ((s.strand s.here).setReg rd v).x, pc := q } := by
      unfold Strand.setReg; split <;> rfl
    rw [hb, hs, hx]

/-- What a jump or branch that is taken does. -/
theorem State.wentTo_setPc (a : Word) : s.WentTo (s.setPc a) a :=
  ⟨s.onlyBank_modStrand s.here _, by simp [State.setPc, State.modStrand, State.strand]⟩

theorem State.wentTo_advance : s.WentTo s.advance (s.pc + 32) := s.wentTo_setPc _

/-- What a fault does that enters the handler (R311). -/
theorem State.trapped_trapAt (h : s.Handles) (f : Flt) : s.Trapped (s.trapAt s.here f) f.cause.code f.tval := by
  have e : s.trapAt s.here f = s.setBank s.here ((s.bank s.here).enterTrap (s.core s.cur).tvec f) := by
    have h1 : (s.bank s.here).strand.trap = false := h.1
    unfold State.trapAt
    simp only [h1, h.2, Option.isSome_none, Bool.false_eq_true, if_false]
    rfl
  rw [e]
  exact ⟨s.onlyBank_setBank _ _, by simp [Bank.enterTrap, State.pc, State.strand]⟩

theorem State.trapped_trap (h : s.Handles) (c : Cause) (v : Word) : s.Trapped (s.trap c v) c.code v :=
  s.trapped_trapAt h ⟨c, v⟩

end Sys2Proof.Machine
end

