-- ==== Sys2Proof/Laws/Vectors.lean ====
section
/-! SUPPORT. Vector groups: reading what was written, packed elements, and what a command's results leave in the vector
registers. -/

namespace Sys2Proof.Machine

theorem group_zero (r : BitVec 5) : group r 0 = [] := rfl

theorem group_succ (r : BitVec 5) (n : Nat) : group r (n + 1) = group r n ++ [(r.toNat + n) % 32] := by
  simp [group, List.range_succ]

theorem foldr_scale (v : Vector Wide 32) (l : List Nat) (a : Nat) :
    l.foldr (fun k x => (v.toList.getD k 0).toNat + 2 ^ 256 * x) a =
      l.foldr (fun k x => (v.toList.getD k 0).toNat + 2 ^ 256 * x) 0 + 2 ^ (256 * l.length) * a := by
  induction l with
  | nil => simp
  | cons k l ih =>
    simp only [List.foldr_cons, ih, List.length_cons, Nat.mul_add, Nat.mul_one, Nat.pow_add]
    generalize (2:Nat) ^ (256 * l.length) = z
    rw [Nat.add_assoc, ← Nat.mul_assoc, Nat.mul_comm z (2 ^ 256)]

theorem readGroup_succ (v : Vector Wide 32) (r : BitVec 5) (n : Nat) :
    readGroup v r (n + 1) =
      readGroup v r n + 2 ^ (256 * n) * (v.toList.getD ((r.toNat + n) % 32) 0).toNat := by
  unfold readGroup
  rw [group_succ, List.foldr_append, foldr_scale]
  simp [group]

theorem getD_toList (v : Vector Wide 32) (k : Nat) (h : k < 32) : v.toList.getD k 0 = v[k] := by
  simp [List.getD, h]

theorem writeGroup_succ (v : Vector Wide 32) (r : BitVec 5) (n x : Nat) :
    writeGroup v r (n + 1) x =
      (writeGroup v r n x).setIfInBounds ((r.toNat + n) % 32) (BitVec.ofNat 256 (x / 2 ^ (256 * n))) := by
  simp [writeGroup, List.range_succ]

theorem writeGroup_other (v : Vector Wide 32) (r : BitVec 5) (n x k : Nat) (hk : k < 32) (h : k ∉ group r n) :
    (writeGroup v r n x)[k] = v[k] := by
  induction n with
  | zero => rfl
  | succ n ih =>
    rw [group_succ, List.mem_append, not_or] at h
    have hne : (r.toNat + n) % 32 ≠ k := fun e => h.2 (by simp [e])
    simp [writeGroup_succ, hne, ih h.1]

theorem writeGroup_same (v : Vector Wide 32) (r : BitVec 5) (n x j : Nat) (hn : n ≤ 32) (hj : j < n) :
    (writeGroup v r n x)[(r.toNat + j) % 32]'(Nat.mod_lt _ (by decide)) = BitVec.ofNat 256 (x / 2 ^ (256 * j)) := by
  induction n with
  | zero => omega
  | succ n ih =>
    by_cases h : j = n
    · subst h
      simp [writeGroup_succ]
    · have hne : (r.toNat + n) % 32 ≠ (r.toNat + j) % 32 := by omega
      simp only [writeGroup_succ, Vector.getElem_setIfInBounds, hne, if_false]
      exact ih (by omega) (by omega)

/-- A group written reads back. -/
theorem readGroup_writeGroup (v : Vector Wide 32) (r : BitVec 5) (n x : Nat) (hn : n ≤ 32) :
    readGroup (writeGroup v r n x) r n = x % 2 ^ (256 * n) := by
  suffices ∀ m ≤ n, readGroup (writeGroup v r n x) r m = x % 2 ^ (256 * m) from this n (Nat.le_refl _)
  intro m hm
  induction m with
  | zero => simp [readGroup, group, Nat.mod_one]
  | succ m ih =>
    rw [readGroup_succ, ih (by omega), getD_toList _ _ (Nat.mod_lt _ (by decide)), writeGroup_same v r n x m hn (by omega),
      BitVec.toNat_ofNat, show 256 * (m + 1) = 256 * m + 256 by omega, Nat.pow_add, Nat.mod_mul]

theorem packElements_lt (w : Nat) (l : List Nat) : packElements w l < 2 ^ (w * l.length) := by
  induction l with
  | nil => simp [packElements]
  | cons e l ih =>
    have h : e % 2 ^ w < 2 ^ w := Nat.mod_lt _ (by positivity)
    have he : packElements w (e :: l) = e % 2 ^ w + 2 ^ w * packElements w l := rfl
    rw [he, List.length_cons, Nat.mul_add, Nat.mul_one, Nat.pow_add, Nat.mul_comm (2 ^ (w * l.length))]
    have : 2 ^ w * (packElements w l + 1) ≤ 2 ^ w * 2 ^ (w * l.length) := Nat.mul_le_mul_left _ ih
    rw [Nat.mul_add, Nat.mul_one] at this
    omega

theorem element_packElements (w : Nat) (l : List Nat) (i : Nat) (h : i < l.length) :
    element (packElements w l) w i = l[i] % 2 ^ w := by
  induction l generalizing i with
  | nil => simp at h
  | cons e l ih =>
    have hp : 0 < 2 ^ w := by positivity
    have he : packElements w (e :: l) = e % 2 ^ w + 2 ^ w * packElements w l := rfl
    cases i with
    | zero => simp [element, he, Nat.add_mul_mod_self_left]
    | succ i =>
      have hd : packElements w (e :: l) / 2 ^ w = packElements w l := by
        rw [he, Nat.add_mul_div_left _ _ hp, Nat.div_eq_of_lt (Nat.mod_lt _ hp), Nat.zero_add]
      have := ih i (by simpa using h)
      simp only [element] at this ⊢
      rw [Nat.mul_add, Nat.mul_one, Nat.add_comm (w * i), Nat.pow_add, ← Nat.div_div_eq_div_mul, hd]
      simpa using this

theorem replaceBits_low (x lo n v : Nat) : replaceBits x lo n v % 2 ^ lo = x % 2 ^ lo := by
  simp [replaceBits, Nat.pow_add, Nat.add_mod, Nat.mul_mod, ← Nat.mul_assoc]

theorem replaceBits_mid (x lo n v : Nat) : replaceBits x lo n v / 2 ^ lo % 2 ^ n = v % 2 ^ n := by
  have h : 0 < 2 ^ lo := by positivity
  have e : replaceBits x lo n v = x % 2 ^ lo + 2 ^ lo * (v % 2 ^ n + 2 ^ n * (x / 2 ^ (lo + n))) := by
    simp only [replaceBits, Nat.pow_add]; ring
  rw [e, Nat.add_mul_div_left _ _ h, Nat.div_eq_of_lt (Nat.mod_lt _ h), Nat.zero_add, Nat.add_mul_mod_self_left,
    Nat.mod_mod]

theorem replaceBits_high (x lo n v : Nat) : replaceBits x lo n v / 2 ^ (lo + n) = x / 2 ^ (lo + n) := by
  have h : 0 < 2 ^ lo := by positivity
  have h' : 0 < 2 ^ n := by positivity
  have e : replaceBits x lo n v = x % 2 ^ lo + 2 ^ lo * (v % 2 ^ n + 2 ^ n * (x / 2 ^ (lo + n))) := by
    simp only [replaceBits, Nat.pow_add]; ring
  rw [Nat.pow_add, ← Nat.div_div_eq_div_mul, e, Nat.add_mul_div_left _ _ h, Nat.div_eq_of_lt (Nat.mod_lt _ h),
    Nat.zero_add, Nat.add_mul_div_left _ _ h', Nat.div_eq_of_lt (Nat.mod_lt _ h'), Nat.zero_add, Nat.pow_add]

theorem readGroup_lt (v : Vector Wide 32) (r : BitVec 5) (n : Nat) : readGroup v r n < 2 ^ (256 * n) := by
  induction n with
  | zero => simp [readGroup, group]
  | succ n ih =>
    rw [readGroup_succ]
    have h := (v.toList.getD ((r.toNat + n) % 32) 0).isLt
    rw [Nat.mul_add, Nat.mul_one, Nat.pow_add]
    have := Nat.mul_le_mul_left (2 ^ (256 * n)) (Nat.succ_le_of_lt h)
    rw [Nat.mul_succ] at this
    omega

theorem div_mod_pow (x a b w : Nat) (h : a + b ≤ w) : x % 2 ^ w / 2 ^ a % 2 ^ b = x / 2 ^ a % 2 ^ b := by
  obtain ⟨c, rfl⟩ := Nat.exists_eq_add_of_le h
  rw [show a + b + c = a + (b + c) by omega, Nat.pow_add, Nat.mod_mul_right_div_self, Nat.pow_add,
    Nat.mod_mul_right_mod]

/-- What a command's results leave in the vector registers. -/
theorem results_mergeElems (f : VecF) (v : Vector Wide 32) (g base w : Nat) (rs : List Nat) (hg : g ≤ 32)
    (h : base + w * rs.length ≤ 256 * g) :
    Results f v (mergeElems f v g base w rs) g base w rs.length (rs.getD · 0) := by
  unfold mergeElems
  extract_lets old l
  have hl : l.length = rs.length := by simp [l]
  have hm := packElements_lt w l
  rw [hl] at hm
  have hlt : replaceBits old base (w * rs.length) (packElements w l) < 2 ^ (256 * g) := by
    have : replaceBits old base (w * rs.length) (packElements w l) / 2 ^ (base + w * rs.length) <
        2 ^ (256 * g - (base + w * rs.length)) := by
      rw [replaceBits_high, Nat.div_lt_iff_lt_mul (by positivity), ← Nat.pow_add, Nat.sub_add_cancel h]
      exact readGroup_lt v f.vd g
    rwa [Nat.div_lt_iff_lt_mul (by positivity), ← Nat.pow_add, Nat.sub_add_cancel h] at this
  have hr : readGroup (writeGroup v f.vd g (replaceBits old base (w * rs.length) (packElements w l))) f.vd g =
      replaceBits old base (w * rs.length) (packElements w l) := by
    rw [readGroup_writeGroup _ _ _ _ hg, Nat.mod_eq_of_lt hlt]
  refine ⟨fun i hi => ?_, ?_, ?_, fun r hr => ?_⟩
  · rw [hr]
    have he : element (replaceBits old base (w * rs.length) (packElements w l) / 2 ^ base) w i =
        element (packElements w l) w i := by
      unfold element
      have hw : w * i + w ≤ w * rs.length := by
        have := Nat.mul_le_mul_left w (Nat.succ_le_of_lt hi)
        rwa [Nat.mul_succ] at this
      rw [← div_mod_pow _ (w * i) w _ hw, replaceBits_mid, Nat.mod_eq_of_lt hm]
    rw [he, element_packElements w l i (by omega)]
    simp only [l, List.getElem_map, List.getElem_range]
    split
    · rfl
    · split
      · simp
      · simp [element, old]
  · rw [hr]; exact replaceBits_low _ _ _ _
  · rw [hr]; exact replaceBits_high _ _ _ _
  · exact writeGroup_other v f.vd g _ r.val r.isLt hr

end Sys2Proof.Machine
end

