-- ==== Sys2Proof/Laws/Engine.lean ====
section
/-! SUPPORT. What issuing a command does: it leaves its queue and stands among the uncompleted commands of its quad. -/

namespace Sys2Proof.Machine

theorem Tbl.mem_of_get_ne {α : Type} (t : Tbl α) (d : α) (k : Nat) (h : t.get d k ≠ d) : ∃ v, (k, v) ∈ t := by
  induction t with
  | nil => exact absurd rfl h
  | cons e r ih =>
    by_cases he : e.1 = k
    · exact ⟨e.2, by simp [← he]⟩
    · obtain ⟨v, hv⟩ := ih (by simpa [Tbl.get, he] using h)
      exact ⟨v, by simp [hv]⟩

/-- Where a strand that is resident at one place is found. -/
theorem State.residentOf_eq (s : State) {sfp : Word} {p : Place} (h : s.Resident sfp p) :
    s.residentOf sfp = some p := by
  obtain ⟨⟨hl, hs⟩, hu⟩ := h
  have hm : ∃ v, (p.core, v) ∈ s.cores := by
    refine Tbl.mem_of_get_ne s.cores .reset p.core fun e => ?_
    have : s.core p.core = .reset := e
    unfold State.bank at hl
    rw [this] at hl
    have hn : ∀ b : Fin 4, (Core.reset.banks[b]).live = false := by decide
    rw [hn p.bank] at hl
    exact Bool.false_ne_true hl
  unfold State.residentOf
  cases hf : s.cores.findSome? fun (e : Nat × Core) => (List.finRange 4).findSome? fun b =>
      let k := (s.core e.1).banks[b]
      if k.live && k.strand.sfp == sfp then some (⟨e.1, b⟩ : Place) else none with
  | none =>
    obtain ⟨v, hv⟩ := hm
    rw [List.findSome?_eq_none_iff] at hf
    have := hf _ hv
    rw [List.findSome?_eq_none_iff] at this
    have := this p.bank (List.mem_finRange _)
    simp only [State.bank, State.strand] at hl hs
    simp only [hl, hs, Bool.true_and, BEq.rfl, if_true] at this
    exact absurd this (by simp)
  | some q =>
    obtain ⟨e, -, he⟩ := List.exists_of_findSome?_eq_some hf
    obtain ⟨b, -, hb⟩ := List.exists_of_findSome?_eq_some he
    simp only [Option.ite_none_right_eq_some, Option.some.injEq, Bool.and_eq_true, beq_iff_eq] at hb
    obtain ⟨⟨h1, h2⟩, rfl⟩ := hb
    rw [hu ⟨e.1, b⟩ h1 h2]

/-- What pushing an offer changes. -/
theorem State.pushOffer_eq (s : State) (c : Nat) : s.pushOffer c = { s with agenda := (s.pushOffer c).agenda } := by
  unfold State.pushOffer; split <;> rfl

theorem State.mem_pushOffer (s : State) (c : Nat) {a : Activity} (h : a ∈ s.agenda) : a ∈ (s.pushOffer c).agenda := by
  unfold State.pushOffer; split
  · exact h
  · simp [State.push, h]

/-- What the engines' bookkeeping does at the head of a core's own queue. -/
theorem State.issued_head (s : State) (eng pipe track : Nat) (tagged : Bool) (reads writes : List Nat) (fx : Fx)
    (hr : s.ctx.remote = false) (hi : s.ctx.inRep = false) :
    let q := s.ctx.quad
    let c := s.ctx.core
    let t := s.issued eng pipe track tagged reads writes fx none none fun id => some (.commandCompletion s.ctx.home id)
    t = { s with seq := s.seq + 1, cores := t.cores, quads := t.quads, agenda := t.agenda } ∧
    (∀ b, t.bank b = s.bank b) ∧
    t.core c = { s.core c with
      queue := (s.core c).queue.tail
      tags := (s.core c).tags ++ if tagged then [⟨s.ctx.sfp, s.seq + 1, some (s.seq + 1)⟩] else [] } ∧
    (∀ n, n ≠ c → t.core n = s.core n) ∧
    t.quad q = { s.quad q with
      out := (s.quad q).out ++ [s.entry eng pipe track reads writes fx]
      pressPtr := if eng = 3 then Fin.ofNat 5 (indexInQuad c + 1) else (s.quad q).pressPtr
      copyPtr := if eng = 4 then Fin.ofNat 5 (indexInQuad c + 1) else (s.quad q).copyPtr } ∧
    (∀ r, r ≠ q → t.quad r = s.quad r) ∧ t.Posted (.commandCompletion c (s.seq + 1)) := by
  intro q c t
  have hh : s.ctx.home = c := by simp [Ctx.home, hr, c]
  have ht : t = s.issued eng pipe track tagged reads writes fx none none fun id =>
    some (.commandCompletion s.ctx.home id) := rfl
  clear_value t
  simp only [State.issued, State.dropHead, State.bumpSeq, State.modQuad_ctx, hr, hi,
    Bool.false_eq_true, if_false, hh] at ht
  have hb (u : State) (g : Core → Core) (hg : ∀ k, (g k).banks = k.banks) (b : Place) :
      (u.modCore c g).bank b = u.bank b := by
    unfold State.bank
    by_cases h : b.core = c
    · rw [h, State.core_modCore_self, hg]
    · rw [State.core_modCore_ne _ _ h]
  have core_agenda (u : State) (a : List Activity) (n : Nat) : { u with agenda := a }.core n = u.core n := rfl
  have quad_agenda (u : State) (a : List Activity) (n : Nat) : { u with agenda := a }.quad n = u.quad n := rfl
  have bank_agenda (u : State) (a : List Activity) (n : Place) : { u with agenda := a }.bank n = u.bank n := rfl
  have core_seq (u : State) (a n : Nat) : { u with seq := a }.core n = u.core n := rfl
  have quad_seq (u : State) (a n : Nat) : { u with seq := a }.quad n = u.quad n := rfl
  have bank_seq (u : State) (a : Nat) (n : Place) : { u with seq := a }.bank n = u.bank n := rfl
  have hc : c = s.ctx.core := rfl
  have hq : q = s.ctx.quad := rfl
  cases tagged <;> simp only [Bool.false_eq_true, if_false, if_true, State.addTag] at ht ⊢ <;>
    rw [State.pushOffer_eq] at ht <;> subst ht <;>
    refine ⟨rfl, fun b => ?_, ?_, fun n hn => ?_, ?_, fun r hr' => ?_, ?_⟩
  case false.refine_1 | true.refine_1 =>
    simp only [State.bank_post, bank_agenda, hb, implies_true, ← hc, State.bank_modQuad, bank_seq]
  case false.refine_2 | true.refine_2 =>
    simp only [State.core_post, core_agenda, ← hc, State.core_modCore_self, State.core_modQuad, core_seq, List.append_nil]
    try simp only [State.modCore_seq, State.modQuad_seq]
  case false.refine_3 | true.refine_3 =>
    simp only [State.core_post, core_agenda, ← hc, State.core_modCore_ne _ _ hn, State.core_modQuad, core_seq]
  case false.refine_4 | true.refine_4 =>
    simp only [State.quad_post, quad_agenda, ← hq, State.quad_modQuad_self, State.quad_modCore, quad_seq, State.entry, hc]
  case false.refine_5 | true.refine_5 =>
    simp only [State.quad_post, quad_agenda, ← hq, State.quad_modQuad_ne _ _ hr', State.quad_modCore, quad_seq]
  case false.refine_6 | true.refine_6 => simp [State.Posted, State.post, State.push, hc]

/-- The strand of the command in progress, where it is resident. -/
theorem State.sender_eq (s : State) {p : Place} (h : s.Resident s.ctx.sfp p) : s.sender = s.strand p := by
  simp [State.sender, s.residentOf_eq h]

theorem State.modSender_eq (s : State) {p : Place} (h : s.Resident s.ctx.sfp p) (f : Strand → Strand) :
    s.modSender f = s.modStrand p f := by
  simp [State.modSender, s.residentOf_eq h]

/-- What a vector command does that its engine performs. -/
theorem State.vectorDone (s : State) {p : Place} {op : Nat} {tg : Bool} {f : VecF} {v : Vector Wide 32} {fx : Fx}
    {run : State → Ran} (h : s.AtHead p (vecReads op f) (vecWrites op f))
    (hr : run s = .done (s.setVector v) fx) : s.VectorDone (s.vector op tg f run) p op tg f fx v := by
  obtain ⟨⟨h1, h2, hid, -⟩, h3, h4, -, h7, h8⟩ := h
  have hs : s.setVector v = s.modStrand p fun st => { st with v := v } := s.modSender_eq h4 _
  have hv : s.vector op tg f run =
      (s.modStrand p fun st => { st with v := v }).issued 2 0 0 tg (vecReads op f) (vecWrites op f) fx none none
        fun id => some (.commandCompletion s.ctx.home id) := by
    have hw : (s.quad s.ctx.quad).waitsBehind s.ctx.sfp 2 s.ctx.remote = false := by
      simp only [Quad.waitsBehind, List.any_eq_false, Bool.and_eq_true, beq_iff_eq, not_and, Bool.not_eq_true]
      exact fun i hi hs => absurd hs.2 (by simp [h8 i hi hs.1])
    have he : ((2 : Nat) == 3) = false := rfl
    unfold State.vector State.runCommand
    simp only [hid, h7, hw, he, Bool.false_and, Bool.or_self, Bool.false_eq_true, if_false, hr, hs]
  rw [hv]
  have hb := s.onlyBank_modStrand p fun st => { st with v := v }
  have hp : (s.modStrand p fun st => { st with v := v }).bank p =
      { s.bank p with strand := { s.strand p with v := v } } := by
    simp [State.modStrand, State.strand]
  generalize (s.modStrand p fun st => { st with v := v }) = t at *
  have hctx : t.ctx = s.ctx := by rw [hb.1]
  have hseq : t.seq = s.seq := by rw [hb.1]
  have hq (n : Nat) : t.quad n = s.quad n := by rw [hb.1]; rfl
  have hk (n : Nat) : t.core n = { s.core n with banks := (t.core n).banks } := by
    by_cases hn : n = p.core
    · rw [hn]; exact hb.2.2.1
    · rw [hb.2.1 n hn]
  have ha : t = { s with cores := t.cores } := hb.1
  obtain ⟨i1, i2, i3, i4, i5, i6, i7⟩ := t.issued_head 2 0 0 tg (vecReads op f) (vecWrites op f) fx
    (by rw [hctx]; exact h1) (by rw [hctx]; exact h2)
  simp only [hctx, hseq] at i1 i2 i3 i4 i5 i6 i7 ⊢
  generalize (t.issued 2 0 0 tg (vecReads op f) (vecWrites op f) fx none none
        fun id => some (.commandCompletion s.ctx.home id)) = u at *
  refine ⟨⟨?_, ?_, fun b hn => ?_, ?_, fun n hn => ?_, ?_, fun r hr => ?_⟩, i7⟩
  · rw [i1, ha]
  · rw [i2, hp]
  · rw [i2]
    obtain ⟨c, b⟩ := b
    by_cases hc : c = p.core
    · subst hc
      exact hb.2.2.2 b fun e => hn (by rw [e])
    · unfold State.bank; rw [hb.2.1 c hc]
  · rw [i3, hk s.ctx.core]; rfl
  · rw [i4 n hn]; exact hk n
  · rw [i5, hq]
    simp [State.entry, hctx, hseq]
  · rw [i6 r hr, hq]

end Sys2Proof.Machine
end

