-- ==== Sys2Proof/Laws/Memory.lean ====
section
/-! SUPPORT. Memory: every operation keeps the canonical form, and what is read after a write. -/

namespace Sys2Proof.Machine

/-- The canonical form of a memory taken apart: the first entry is not blank and lies below the rest, which is in
canonical form. -/
theorem Memory.wf_cons (a : Nat) (v : Byte) (r : Memory) :
    Memory.wf ((a, v) :: r) = true ↔ v ≠ Memory.blank ∧ (∀ e ∈ r, a < e.1) ∧ Memory.wf r = true := by
  induction r generalizing a v with
  | nil => simp [Memory.wf]
  | cons e r ih =>
    obtain ⟨b, w⟩ := e
    have h := ih b w
    simp only [Memory.wf, Bool.and_eq_true, bne_iff_ne, ne_eq, decide_eq_true_eq, List.mem_cons, forall_eq_or_imp]
    constructor
    · rintro ⟨⟨h1, h2⟩, h3⟩
      exact ⟨h1, ⟨h2, fun e he => Nat.lt_trans h2 ((h.1 h3).2.1 e he)⟩, h3⟩
    · rintro ⟨h1, ⟨h2, -⟩, h3⟩
      exact ⟨⟨h1, h2⟩, h3⟩

@[simp] theorem Memory.wf_nil : Memory.wf [] = true := rfl

/-- An address below every listed one reads as unlisted. -/
theorem Memory.read_below (m : Memory) (a : Nat) (h : ∀ e ∈ m, a < e.1) : Memory.read m a = Memory.blank := by
  induction m with
  | nil => rfl
  | cons e r ih =>
    have h1 := h e (by simp)
    have : ¬ e.1 = a := by omega
    simpa [Memory.read, Tbl.get, this] using ih fun e he => h e (by simp [he])

/-- Where the addresses of a memory after a write come from. -/
theorem Memory.mem_write (m : Memory) (a : Nat) (v : Byte) :
    ∀ e ∈ Memory.write m a v, e.1 = a ∨ e ∈ m := by
  induction m with
  | nil => intro e he; unfold Memory.write at he; split at he <;> simp_all
  | cons f r ih =>
    intro e he
    obtain ⟨b, w⟩ := f
    unfold Memory.write at he
    split at he
    · split at he
      · exact .inr he
      · exact (List.mem_cons.1 he).imp (congrArg Prod.fst) id
    · split at he
      · split at he
        · exact .inr (List.mem_cons_of_mem _ he)
        · rename_i hab _; exact (List.mem_cons.1 he).imp (fun k => (congrArg Prod.fst k).trans rfl) (List.mem_cons_of_mem _)
      · simp only [List.mem_cons] at he ⊢
        rcases he with he | he
        · exact .inr (.inl he)
        · rcases ih e he with h | h
          · exact .inl h
          · exact .inr (.inr h)

/-- A write keeps the canonical form. -/
theorem Memory.wf_write (m : Memory) (a : Nat) (v : Byte) (h : Memory.wf m = true) :
    Memory.wf (Memory.write m a v) = true := by
  induction m with
  | nil => unfold Memory.write; split <;> simp_all [Memory.wf]
  | cons f r ih =>
    obtain ⟨b, w⟩ := f
    obtain ⟨h1, h2, h3⟩ := (Memory.wf_cons b w r).1 h
    unfold Memory.write
    split
    · split
      · exact h
      · refine (Memory.wf_cons _ _ _).2 ⟨‹_›, ?_, h⟩
        rename_i hab _
        intro e he
        rcases List.mem_cons.1 he with rfl | he
        · exact hab
        · exact Nat.lt_trans hab (h2 e he)
    · split
      · split
        · exact h3
        · exact (Memory.wf_cons _ _ _).2 ⟨‹_›, ‹a = b› ▸ h2, h3⟩
      · refine (Memory.wf_cons _ _ _).2 ⟨h1, ?_, ih h3⟩
        intro e he
        rcases Memory.mem_write r a v e he with h | h
        · omega
        · exact h2 e h

/-- A write of a number keeps the canonical form. -/
theorem Memory.wf_writeNat (n : Nat) : ∀ (m : Memory) (a v : Nat), Memory.wf m = true →
    Memory.wf (Memory.writeNat m a n v) = true := by
  induction n with
  | zero => intro m a v h; exact h
  | succ n ih => intro m a v h; exact ih _ _ _ (Memory.wf_write m a _ h)

/-- A write of bits keeps the canonical form. -/
theorem Memory.wf_writeBits (m : Memory) (key w v : Nat) (h : Memory.wf m = true) :
    Memory.wf (Memory.writeBits m key w v) = true := Memory.wf_writeNat _ _ _ _ h

/-- A byte read after a byte was written. -/
theorem Memory.read_write (m : Memory) (a b : Nat) (v : Byte) (h : Memory.wf m = true) :
    Memory.read (Memory.write m a v) b = if b = a then v else Memory.read m b := by
  induction m with
  | nil =>
    unfold Memory.write
    split
    · split
      · subst_vars; rfl
      · rfl
    · simp [Memory.read, Tbl.get, eq_comm]
  | cons f r ih =>
    obtain ⟨c, w⟩ := f
    obtain ⟨h1, h2, h3⟩ := (Memory.wf_cons c w r).1 h
    have low : ∀ x, x < c → Memory.read ((c, w) :: r) x = Memory.blank := fun x hx =>
      Memory.read_below _ _ fun e he => by
        rcases List.mem_cons.1 he with rfl | he
        · exact hx
        · exact Nat.lt_trans hx (h2 e he)
    unfold Memory.write
    split
    · split
      · split
        · subst_vars; exact low _ ‹_›
        · rfl
      · by_cases hb : b = a
        · simp [Memory.read, Tbl.get, hb]
        · simp [Memory.read, Tbl.get, hb, Ne.symm hb]
    · split
      · subst_vars
        split
        · by_cases hb : b = c
          · subst_vars; simpa using Memory.read_below r _ h2
          · simp [Memory.read, Tbl.get, hb, Ne.symm hb]
        · by_cases hb : b = c
          · simp [Memory.read, Tbl.get, hb]
          · simp [Memory.read, Tbl.get, hb, Ne.symm hb]
      · have ih := ih h3
        by_cases hb : c = b
        · have : ¬ b = a := by omega
          simp [Memory.read, Tbl.get, hb, this]
        · simpa [Memory.read, Tbl.get, hb] using ih

/-- A byte outside the bytes written reads as before. -/
theorem Memory.read_writeNat_out (n : Nat) : ∀ (m : Memory) (a v b : Nat), Memory.wf m = true → b < a ∨ a + n ≤ b →
    Memory.read (Memory.writeNat m a n v) b = Memory.read m b := by
  induction n with
  | zero => intros; rfl
  | succ n ih =>
    intro m a v b h hb
    show Memory.read (Memory.writeNat (Memory.write m a _) (a + 1) n _) b = _
    rw [ih _ _ _ _ (Memory.wf_write m a _ h) (by omega), Memory.read_write m a b _ h, if_neg (by omega)]

/-- A number read where it was written. -/
theorem Memory.readNat_writeNat (n : Nat) : ∀ (m : Memory) (a v : Nat), Memory.wf m = true →
    Memory.readNat (Memory.writeNat m a n v) a n = v % 256 ^ n := by
  induction n with
  | zero => intros; simp [Memory.readNat, Nat.mod_one]
  | succ n ih =>
    intro m a v h
    have hw := Memory.wf_write m a (BitVec.ofNat 8 v) h
    show (Memory.read (Memory.writeNat (Memory.write m a _) (a + 1) n _) a).toNat +
      256 * Memory.readNat (Memory.writeNat (Memory.write m a _) (a + 1) n _) (a + 1) n = _
    rw [ih _ _ _ hw, Memory.read_writeNat_out n _ _ _ _ hw (by omega), Memory.read_write m a a _ h]
    simp only [if_true, BitVec.toNat_ofNat]
    rw [show (256 : Nat) ^ (n + 1) = 256 * 256 ^ n by rw [Nat.pow_succ, Nat.mul_comm], Nat.mod_mul]

end Sys2Proof.Machine
end

