-- ==== Sys2Proof/Laws/PerInstr.lean ====
section
/-! SUPPORT. The family FieldsRoundTrip: for every constructor of Instr, what its encoder makes of a well-formed instruction,
fields of a word or parts of a command word, the decoder reads back as that instruction, with every operand. -/

set_option linter.unusedSimpArgs false
set_option linter.unnecessarySeqFocus false

namespace Sys2Proof.Laws.FieldsRoundTrip

/-- What the encoders make of a well-formed instruction, the decoders read back. -/
def Statement (i : Instr) : Prop :=
  i.wf = true → (∀ f, encodeFields i = some f → decodeFields f = some i) ∧
    ∀ x, encodeCmdWord i = some x → decodeCmdWord x.1 x.2.1 x.2.2 = some i

theorem Statement.neither {i : Instr} (h : encodeFields i = none) (k : encodeCmdWord i = none) : Statement i :=
  fun _ => ⟨fun _ hf => by simp [h] at hf, fun _ hx => by simp [k] at hx⟩

theorem Statement.scalar {i : Instr} {f : Fields} (h : encodeFields i = some f) (k : encodeCmdWord i = none)
    (d : decodeFields f = some i) : Statement i :=
  fun _ => ⟨fun _ hf => by rw [h] at hf; cases hf; exact d, fun _ hx => by simp [k] at hx⟩

theorem Statement.command {i : Instr} {x : CmdWord × Bool × Bool} (h : encodeFields i = none) (k : encodeCmdWord i = some x)
    (d : i.wf = true → decodeCmdWord x.1 x.2.1 x.2.2 = some i) : Statement i :=
  fun w => ⟨fun _ hf => by simp [h] at hf, fun _ hx => by rw [k] at hx; cases hx; exact d w⟩

theorem addi (rd rs1 : Reg) (imm : BitVec 12) : Statement (.addi rd rs1 imm) :=
  .scalar rfl rfl (congrArg (fun i => some (Instr.addi rd rs1 i)) (Fields.immI_i ..))
theorem slti (rd rs1 : Reg) (imm : BitVec 12) : Statement (.slti rd rs1 imm) :=
  .scalar rfl rfl (congrArg (fun i => some (Instr.slti rd rs1 i)) (Fields.immI_i ..))
theorem sltiu (rd rs1 : Reg) (imm : BitVec 12) : Statement (.sltiu rd rs1 imm) :=
  .scalar rfl rfl (congrArg (fun i => some (Instr.sltiu rd rs1 i)) (Fields.immI_i ..))
theorem xori (rd rs1 : Reg) (imm : BitVec 12) : Statement (.xori rd rs1 imm) :=
  .scalar rfl rfl (congrArg (fun i => some (Instr.xori rd rs1 i)) (Fields.immI_i ..))
theorem ori (rd rs1 : Reg) (imm : BitVec 12) : Statement (.ori rd rs1 imm) :=
  .scalar rfl rfl (congrArg (fun i => some (Instr.ori rd rs1 i)) (Fields.immI_i ..))
theorem andi (rd rs1 : Reg) (imm : BitVec 12) : Statement (.andi rd rs1 imm) :=
  .scalar rfl rfl (congrArg (fun i => some (Instr.andi rd rs1 i)) (Fields.immI_i ..))
theorem slli (rd rs1 : Reg) (sh : BitVec 6) : Statement (.slli rd rs1 sh) := by
  refine .scalar rfl rfl ?_
  change decodeOpImm (.i 0x13 1 rd rs1 ((0 : BitVec 6) ++ sh)) = _
  simp (disch := decide) only [decodeOpImm, Fields.immI_i, Fields.f7_i]
  simp (disch := decide) only [BitVec.extractLsb'_append_eq_of_le, BitVec.extractLsb'_append_eq_of_add_le,
    Nat.reduceSub, BitVec.extractLsb'_eq_self] <;> rfl
theorem srli (rd rs1 : Reg) (sh : BitVec 6) : Statement (.srli rd rs1 sh) := by
  refine .scalar rfl rfl ?_
  change decodeOpImm (.i 0x13 5 rd rs1 ((0 : BitVec 6) ++ sh)) = _
  simp (disch := decide) only [decodeOpImm, Fields.immI_i, Fields.f7_i]
  simp (disch := decide) only [BitVec.extractLsb'_append_eq_of_le, BitVec.extractLsb'_append_eq_of_add_le,
    Nat.reduceSub, BitVec.extractLsb'_eq_self] <;> rfl
theorem srai (rd rs1 : Reg) (sh : BitVec 6) : Statement (.srai rd rs1 sh) := by
  refine .scalar rfl rfl ?_
  change decodeOpImm (.i 0x13 5 rd rs1 ((16 : BitVec 6) ++ sh)) = _
  simp (disch := decide) only [decodeOpImm, Fields.immI_i, Fields.f7_i]
  simp (disch := decide) only [BitVec.extractLsb'_append_eq_of_le, BitVec.extractLsb'_append_eq_of_add_le,
    Nat.reduceSub, BitVec.extractLsb'_eq_self] <;> rfl
theorem add (rd rs1 rs2 : Reg) : Statement (.add rd rs1 rs2) :=
  .scalar rfl rfl rfl
theorem sub (rd rs1 rs2 : Reg) : Statement (.sub rd rs1 rs2) :=
  .scalar rfl rfl rfl
theorem mul (rd rs1 rs2 : Reg) : Statement (.mul rd rs1 rs2) :=
  .scalar rfl rfl rfl
theorem sll (rd rs1 rs2 : Reg) : Statement (.sll rd rs1 rs2) :=
  .scalar rfl rfl rfl
theorem mulh (rd rs1 rs2 : Reg) : Statement (.mulh rd rs1 rs2) :=
  .scalar rfl rfl rfl
theorem slt (rd rs1 rs2 : Reg) : Statement (.slt rd rs1 rs2) :=
  .scalar rfl rfl rfl
theorem mulhsu (rd rs1 rs2 : Reg) : Statement (.mulhsu rd rs1 rs2) :=
  .scalar rfl rfl rfl
theorem sltu (rd rs1 rs2 : Reg) : Statement (.sltu rd rs1 rs2) :=
  .scalar rfl rfl rfl
theorem mulhu (rd rs1 rs2 : Reg) : Statement (.mulhu rd rs1 rs2) :=
  .scalar rfl rfl rfl
theorem xor (rd rs1 rs2 : Reg) : Statement (.xor rd rs1 rs2) :=
  .scalar rfl rfl rfl
theorem div (rd rs1 rs2 : Reg) : Statement (.div rd rs1 rs2) :=
  .scalar rfl rfl rfl
theorem srl (rd rs1 rs2 : Reg) : Statement (.srl rd rs1 rs2) :=
  .scalar rfl rfl rfl
theorem sra (rd rs1 rs2 : Reg) : Statement (.sra rd rs1 rs2) :=
  .scalar rfl rfl rfl
theorem divu (rd rs1 rs2 : Reg) : Statement (.divu rd rs1 rs2) :=
  .scalar rfl rfl rfl
theorem or (rd rs1 rs2 : Reg) : Statement (.or rd rs1 rs2) :=
  .scalar rfl rfl rfl
theorem rem (rd rs1 rs2 : Reg) : Statement (.rem rd rs1 rs2) :=
  .scalar rfl rfl rfl
theorem and (rd rs1 rs2 : Reg) : Statement (.and rd rs1 rs2) :=
  .scalar rfl rfl rfl
theorem remu (rd rs1 rs2 : Reg) : Statement (.remu rd rs1 rs2) :=
  .scalar rfl rfl rfl
theorem addw (rd rs1 rs2 : Reg) : Statement (.addw rd rs1 rs2) :=
  .scalar rfl rfl rfl
theorem subw (rd rs1 rs2 : Reg) : Statement (.subw rd rs1 rs2) :=
  .scalar rfl rfl rfl
theorem mulw (rd rs1 rs2 : Reg) : Statement (.mulw rd rs1 rs2) :=
  .scalar rfl rfl rfl
theorem sllw (rd rs1 rs2 : Reg) : Statement (.sllw rd rs1 rs2) :=
  .scalar rfl rfl rfl
theorem divw (rd rs1 rs2 : Reg) : Statement (.divw rd rs1 rs2) :=
  .scalar rfl rfl rfl
theorem srlw (rd rs1 rs2 : Reg) : Statement (.srlw rd rs1 rs2) :=
  .scalar rfl rfl rfl
theorem sraw (rd rs1 rs2 : Reg) : Statement (.sraw rd rs1 rs2) :=
  .scalar rfl rfl rfl
theorem divuw (rd rs1 rs2 : Reg) : Statement (.divuw rd rs1 rs2) :=
  .scalar rfl rfl rfl
theorem remw (rd rs1 rs2 : Reg) : Statement (.remw rd rs1 rs2) :=
  .scalar rfl rfl rfl
theorem remuw (rd rs1 rs2 : Reg) : Statement (.remuw rd rs1 rs2) :=
  .scalar rfl rfl rfl
theorem addiw (rd rs1 : Reg) (imm : BitVec 12) : Statement (.addiw rd rs1 imm) :=
  .scalar rfl rfl (congrArg (fun i => some (Instr.addiw rd rs1 i)) (Fields.immI_i ..))
theorem slliw (rd rs1 : Reg) (sh : BitVec 5) : Statement (.slliw rd rs1 sh) :=
  .scalar rfl rfl rfl
theorem srliw (rd rs1 : Reg) (sh : BitVec 5) : Statement (.srliw rd rs1 sh) :=
  .scalar rfl rfl rfl
theorem sraiw (rd rs1 : Reg) (sh : BitVec 5) : Statement (.sraiw rd rs1 sh) :=
  .scalar rfl rfl rfl
theorem lui (rd : Reg) (imm : BitVec 20) : Statement (.lui rd imm) :=
  .scalar rfl rfl (congrArg (fun i => some (Instr.lui rd i)) (Fields.immU_u ..))
theorem auipc (rd : Reg) (imm : BitVec 20) : Statement (.auipc rd imm) :=
  .scalar rfl rfl (congrArg (fun i => some (Instr.auipc rd i)) (Fields.immU_u ..))
theorem beq (rs1 rs2 : Reg) (imm : BitVec 12) : Statement (.beq rs1 rs2 imm) :=
  .scalar rfl rfl (congrArg (fun i => some (Instr.beq rs1 rs2 i)) (Fields.immB_b ..))
theorem bne (rs1 rs2 : Reg) (imm : BitVec 12) : Statement (.bne rs1 rs2 imm) :=
  .scalar rfl rfl (congrArg (fun i => some (Instr.bne rs1 rs2 i)) (Fields.immB_b ..))
theorem blt (rs1 rs2 : Reg) (imm : BitVec 12) : Statement (.blt rs1 rs2 imm) :=
  .scalar rfl rfl (congrArg (fun i => some (Instr.blt rs1 rs2 i)) (Fields.immB_b ..))
theorem bge (rs1 rs2 : Reg) (imm : BitVec 12) : Statement (.bge rs1 rs2 imm) :=
  .scalar rfl rfl (congrArg (fun i => some (Instr.bge rs1 rs2 i)) (Fields.immB_b ..))
theorem bltu (rs1 rs2 : Reg) (imm : BitVec 12) : Statement (.bltu rs1 rs2 imm) :=
  .scalar rfl rfl (congrArg (fun i => some (Instr.bltu rs1 rs2 i)) (Fields.immB_b ..))
theorem bgeu (rs1 rs2 : Reg) (imm : BitVec 12) : Statement (.bgeu rs1 rs2 imm) :=
  .scalar rfl rfl (congrArg (fun i => some (Instr.bgeu rs1 rs2 i)) (Fields.immB_b ..))
theorem jal (rd : Reg) (imm : BitVec 20) : Statement (.jal rd imm) :=
  .scalar rfl rfl (congrArg (fun i => some (Instr.jal rd i)) (Fields.immJ_j ..))
theorem jalr (rd rs1 : Reg) (imm : BitVec 12) : Statement (.jalr rd rs1 imm) :=
  .scalar rfl rfl (congrArg (fun i => some (Instr.jalr rd rs1 i)) (Fields.immI_i ..))
theorem ld (w : Width) (rd rs1 : Reg) (imm : BitVec 12) : Statement (.ld w rd rs1 imm) :=
  .scalar rfl rfl (by cases w <;> exact congrArg (fun i => some (Instr.ld _ rd rs1 i)) (Fields.immI_i ..))
theorem lds (w : Width) (rd rs1 : Reg) (imm : BitVec 12) : Statement (.lds w rd rs1 imm) :=
  .scalar rfl rfl (by cases w <;> exact congrArg (fun i => some (Instr.lds _ rd rs1 i)) (Fields.immI_i ..))
theorem st (w : Width) (rs2 rs1 : Reg) (imm : BitVec 12) : Statement (.st w rs2 rs1 imm) :=
  .scalar rfl rfl (by cases w <;> exact congrArg (fun i => some (Instr.st _ rs2 rs1 i)) (Fields.immS_s ..))
theorem ldx (w : Width) (rd rs1 rs2 : Reg) : Statement (.ldx w rd rs1 rs2) :=
  .scalar rfl rfl (by cases w <;> rfl)
theorem ldxs (w : Width) (rd rs1 rs2 : Reg) : Statement (.ldxs w rd rs1 rs2) :=
  .scalar rfl rfl (by cases w <;> rfl)
theorem stx (w : Width) (rd rs1 rs2 : Reg) : Statement (.stx w rd rs1 rs2) :=
  .scalar rfl rfl (by cases w <;> rfl)
theorem padd (w : Width) (rd rs1 rs2 : Reg) : Statement (.padd w rd rs1 rs2) :=
  .scalar rfl rfl (by cases w <;> rfl)
theorem pdiff (w : Width) (rd rs1 rs2 : Reg) : Statement (.pdiff w rd rs1 rs2) :=
  .scalar rfl rfl (by cases w <;> rfl)
theorem paln (w : Width) (rd rs1 : Reg) (c : BitVec 2) : Statement (.paln w rd rs1 c) := by
  refine .scalar rfl rfl ?_
  change decodePointer (.r 0x2B w.code 2 rd rs1 ((0 : BitVec 3) ++ c)) = _
  simp (disch := decide) only [decodePointer, Fields.r, BitVec.extractLsb'_append_eq_of_le,
    BitVec.extractLsb'_append_eq_of_add_le, Nat.reduceSub,
    BitVec.extractLsb'_eq_self, Width.ofCode_code] <;> rfl
theorem pxy (rd rs1 : Reg) : Statement (.pxy rd rs1) :=
  .scalar rfl rfl rfl
theorem psetxy (rd rs1 rs2 : Reg) : Statement (.psetxy rd rs1 rs2) :=
  .scalar rfl rfl rfl
theorem play (rd rs1 : Reg) : Statement (.play rd rs1) :=
  .scalar rfl rfl rfl
theorem playS (rd rs1 rs2 : Reg) : Statement (.playS rd rs1 rs2) :=
  .scalar rfl rfl rfl
theorem prelA (rd rs1 : Reg) : Statement (.prelA rd rs1) :=
  .scalar rfl rfl rfl
theorem prelR (rd rs1 : Reg) : Statement (.prelR rd rs1) :=
  .scalar rfl rfl rfl
theorem amoAdd (o : Order) (w : Width) (rd rs2 rs1 : Reg) : Statement (.amoAdd o w rd rs2 rs1) := by
  refine .scalar rfl rfl ?_
  change decodeAtomic (atomicFields 0 o w rd rs2 rs1) = _
  simp (disch := decide) only [decodeAtomic, atomicFields, BitVec.extractLsb'_append_eq_of_le,
    BitVec.extractLsb'_append_eq_of_add_le, Nat.reduceSub,
    BitVec.extractLsb'_eq_self, Order.ofBits_bits, Width.ofCode_code] <;> rfl
theorem amoAnd (o : Order) (w : Width) (rd rs2 rs1 : Reg) : Statement (.amoAnd o w rd rs2 rs1) := by
  refine .scalar rfl rfl ?_
  change decodeAtomic (atomicFields 1 o w rd rs2 rs1) = _
  simp (disch := decide) only [decodeAtomic, atomicFields, BitVec.extractLsb'_append_eq_of_le,
    BitVec.extractLsb'_append_eq_of_add_le, Nat.reduceSub,
    BitVec.extractLsb'_eq_self, Order.ofBits_bits, Width.ofCode_code] <;> rfl
theorem amoOr (o : Order) (w : Width) (rd rs2 rs1 : Reg) : Statement (.amoOr o w rd rs2 rs1) := by
  refine .scalar rfl rfl ?_
  change decodeAtomic (atomicFields 2 o w rd rs2 rs1) = _
  simp (disch := decide) only [decodeAtomic, atomicFields, BitVec.extractLsb'_append_eq_of_le,
    BitVec.extractLsb'_append_eq_of_add_le, Nat.reduceSub,
    BitVec.extractLsb'_eq_self, Order.ofBits_bits, Width.ofCode_code] <;> rfl
theorem amoXor (o : Order) (w : Width) (rd rs2 rs1 : Reg) : Statement (.amoXor o w rd rs2 rs1) := by
  refine .scalar rfl rfl ?_
  change decodeAtomic (atomicFields 3 o w rd rs2 rs1) = _
  simp (disch := decide) only [decodeAtomic, atomicFields, BitVec.extractLsb'_append_eq_of_le,
    BitVec.extractLsb'_append_eq_of_add_le, Nat.reduceSub,
    BitVec.extractLsb'_eq_self, Order.ofBits_bits, Width.ofCode_code] <;> rfl
theorem amoMin (o : Order) (w : Width) (rd rs2 rs1 : Reg) : Statement (.amoMin o w rd rs2 rs1) := by
  refine .scalar rfl rfl ?_
  change decodeAtomic (atomicFields 4 o w rd rs2 rs1) = _
  simp (disch := decide) only [decodeAtomic, atomicFields, BitVec.extractLsb'_append_eq_of_le,
    BitVec.extractLsb'_append_eq_of_add_le, Nat.reduceSub,
    BitVec.extractLsb'_eq_self, Order.ofBits_bits, Width.ofCode_code] <;> rfl
theorem amoMax (o : Order) (w : Width) (rd rs2 rs1 : Reg) : Statement (.amoMax o w rd rs2 rs1) := by
  refine .scalar rfl rfl ?_
  change decodeAtomic (atomicFields 5 o w rd rs2 rs1) = _
  simp (disch := decide) only [decodeAtomic, atomicFields, BitVec.extractLsb'_append_eq_of_le,
    BitVec.extractLsb'_append_eq_of_add_le, Nat.reduceSub,
    BitVec.extractLsb'_eq_self, Order.ofBits_bits, Width.ofCode_code] <;> rfl
theorem amoMinn (o : Order) (w : Width) (rd rs2 rs1 : Reg) : Statement (.amoMinn o w rd rs2 rs1) := by
  refine .scalar rfl rfl ?_
  change decodeAtomic (atomicFields 6 o w rd rs2 rs1) = _
  simp (disch := decide) only [decodeAtomic, atomicFields, BitVec.extractLsb'_append_eq_of_le,
    BitVec.extractLsb'_append_eq_of_add_le, Nat.reduceSub,
    BitVec.extractLsb'_eq_self, Order.ofBits_bits, Width.ofCode_code] <;> rfl
theorem amoMaxn (o : Order) (w : Width) (rd rs2 rs1 : Reg) : Statement (.amoMaxn o w rd rs2 rs1) := by
  refine .scalar rfl rfl ?_
  change decodeAtomic (atomicFields 7 o w rd rs2 rs1) = _
  simp (disch := decide) only [decodeAtomic, atomicFields, BitVec.extractLsb'_append_eq_of_le,
    BitVec.extractLsb'_append_eq_of_add_le, Nat.reduceSub,
    BitVec.extractLsb'_eq_self, Order.ofBits_bits, Width.ofCode_code] <;> rfl
theorem amoSwap (o : Order) (w : Width) (rd rs2 rs1 : Reg) : Statement (.amoSwap o w rd rs2 rs1) := by
  refine .scalar rfl rfl ?_
  change decodeAtomic (atomicFields 8 o w rd rs2 rs1) = _
  simp (disch := decide) only [decodeAtomic, atomicFields, BitVec.extractLsb'_append_eq_of_le,
    BitVec.extractLsb'_append_eq_of_add_le, Nat.reduceSub,
    BitVec.extractLsb'_eq_self, Order.ofBits_bits, Width.ofCode_code] <;> rfl
theorem amoFadd (o : Order) (w : Width) (rd rs2 rs1 : Reg) : Statement (.amoFadd o w rd rs2 rs1) := by
  refine .scalar rfl rfl ?_
  change decodeAtomic (atomicFields 9 o w rd rs2 rs1) = _
  simp (disch := decide) only [decodeAtomic, atomicFields, BitVec.extractLsb'_append_eq_of_le,
    BitVec.extractLsb'_append_eq_of_add_le, Nat.reduceSub,
    BitVec.extractLsb'_eq_self, Order.ofBits_bits, Width.ofCode_code] <;> rfl
theorem cas (o : Order) (w : Width) (rd rs2 rs1 : Reg) : Statement (.cas o w rd rs2 rs1) := by
  refine .scalar rfl rfl ?_
  change decodeAtomic (atomicFields 10 o w rd rs2 rs1) = _
  simp (disch := decide) only [decodeAtomic, atomicFields, BitVec.extractLsb'_append_eq_of_le,
    BitVec.extractLsb'_append_eq_of_add_le, Nat.reduceSub,
    BitVec.extractLsb'_eq_self, Order.ofBits_bits, Width.ofCode_code] <;> rfl
theorem take (o : Order) (w : Width) (rd rs1 : Reg) : Statement (.take o w rd rs1) := by
  refine .scalar rfl rfl ?_
  change decodeAtomic (atomicFields 11 o w rd 0 rs1) = _
  simp (disch := decide) only [decodeAtomic, atomicFields, BitVec.extractLsb'_append_eq_of_le,
    BitVec.extractLsb'_append_eq_of_add_le, Nat.reduceSub,
    BitVec.extractLsb'_eq_self, Order.ofBits_bits, Width.ofCode_code] <;> rfl
theorem put (o : Order) (w : Width) (rs2 rs1 : Reg) : Statement (.put o w rs2 rs1) := by
  refine .scalar rfl rfl ?_
  change decodeAtomic (atomicFields 12 o w 0 rs2 rs1) = _
  simp (disch := decide) only [decodeAtomic, atomicFields, BitVec.extractLsb'_append_eq_of_le,
    BitVec.extractLsb'_append_eq_of_add_le, Nat.reduceSub,
    BitVec.extractLsb'_eq_self, Order.ofBits_bits, Width.ofCode_code] <;> rfl
theorem festat (rd rs1 : Reg) : Statement (.festat rd rs1) := by
  refine .scalar rfl rfl ?_
  change decodeAtomic (atomicFields 13 ⟨false, false, false⟩ .b64 rd 0 rs1) = _
  simp (disch := decide) only [decodeAtomic, atomicFields, BitVec.extractLsb'_append_eq_of_le,
    BitVec.extractLsb'_append_eq_of_add_le, Nat.reduceSub,
    BitVec.extractLsb'_eq_self, Order.ofBits_bits, Width.ofCode_code] <;> rfl
theorem await (cmp : AwaitCmp) (aq : Bool) (w : Width) (rd rs2 rs1 : Reg) : Statement (.await cmp aq w rd rs2 rs1) := by
  refine .scalar rfl rfl ?_
  change decodeAtomic ⟨(14 : BitVec 4) ++ bit1 aq ++ cmp.code, rs2, rs1, w.code, rd, 0x2F⟩ = _
  simp (disch := decide) only [decodeAtomic, BitVec.extractLsb'_append_eq_of_le, BitVec.extractLsb'_append_eq_of_add_le,
    Nat.reduceSub, BitVec.extractLsb'_eq_self, Width.ofCode_code, AwaitCmp.ofCode_code, getLsbD_high,
    getLsbD_low, getLsbD_bit1] <;> rfl
theorem takeNb (o : Order) (w : Width) (rd rt rs1 : Reg) : Statement (.takeNb o w rd rt rs1) := by
  refine .scalar rfl rfl ?_
  change decodeAtomic (atomicFields 15 o w rd rt rs1) = _
  simp (disch := decide) only [decodeAtomic, atomicFields, BitVec.extractLsb'_append_eq_of_le,
    BitVec.extractLsb'_append_eq_of_add_le, Nat.reduceSub,
    BitVec.extractLsb'_eq_self, Order.ofBits_bits, Width.ofCode_code]
theorem deferredRetry (m : Msg) (k : Nat) : Statement (.deferredRetry m k) := .neither rfl rfl
theorem atomicResend (m : Msg) : Statement (.atomicResend m) := .neither rfl rfl
theorem fenceAcq (sc : Scope) : Statement (.fenceAcq sc) :=
  .scalar rfl rfl (by cases sc <;> rfl)
theorem fenceRel (sc : Scope) : Statement (.fenceRel sc) :=
  .scalar rfl rfl (by cases sc <;> rfl)
theorem fenceAr (sc : Scope) : Statement (.fenceAr sc) :=
  .scalar rfl rfl (by cases sc <;> rfl)
theorem fenceSc (sc : Scope) : Statement (.fenceSc sc) :=
  .scalar rfl rfl (by cases sc <;> rfl)
theorem cmd (p : Patch) (rs1 rs2 : Reg) : Statement (.cmd p rs1 rs2) := by
  refine .scalar rfl rfl ?_
  change decodeEngine (.r 0x0B 0 ((0 : BitVec 3) ++ p.p2 ++ p.p1) 0 rs1 rs2) = _
  simp (disch := decide) only [decodeEngine, Fields.r, BitVec.extractLsb'_append_eq_of_le,
    BitVec.extractLsb'_append_eq_of_add_le, Nat.reduceSub,
    BitVec.extractLsb'_eq_self] <;> rfl
theorem cmdr (p : Patch) (rs1 rs2 : Reg) : Statement (.cmdr p rs1 rs2) := by
  refine .scalar rfl rfl ?_
  change decodeEngine (.r 0x0B 1 ((0 : BitVec 3) ++ p.p2 ++ p.p1) 0 rs1 rs2) = _
  simp (disch := decide) only [decodeEngine, Fields.r, BitVec.extractLsb'_append_eq_of_le,
    BitVec.extractLsb'_append_eq_of_add_le, Nat.reduceSub,
    BitVec.extractLsb'_eq_self] <;> rfl
theorem qwait (rs1 : Reg) : Statement (.qwait rs1) :=
  .scalar rfl rfl rfl
theorem spawn (rs1 : Reg) : Statement (.spawn rs1) :=
  .scalar rfl rfl rfl
theorem spawnW (rd rs1 : Reg) : Statement (.spawnW rd rs1) :=
  .scalar rfl rfl rfl
theorem spawnAt (rs1 rs2 : Reg) : Statement (.spawnAt rs1 rs2) :=
  .scalar rfl rfl rfl
theorem spawnAtW (rd rs1 rs2 : Reg) : Statement (.spawnAtW rd rs1 rs2) :=
  .scalar rfl rfl rfl
theorem popt (rd : Reg) : Statement (.popt rd) :=
  .scalar rfl rfl rfl
theorem rnext (rd re : Reg) : Statement (.rnext rd re) :=
  .scalar rfl rfl rfl
theorem suspend : Statement (.suspend) :=
  .scalar rfl rfl rfl
theorem yield : Statement (.yield) :=
  .scalar rfl rfl rfl
theorem exit : Statement (.exit) :=
  .scalar rfl rfl rfl
theorem barrNone (ch : BitVec 4) : Statement (.barrNone ch) := by
  refine .scalar rfl rfl ?_
  change decodeTask (.r 0x5B 2 0 0 ((0 : BitVec 1) ++ ch) 0) = _
  simp (disch := decide) only [decodeTask, Fields.r, BitVec.extractLsb'_append_eq_of_le,
    BitVec.extractLsb'_append_eq_of_add_le, Nat.reduceSub,
    BitVec.extractLsb'_eq_self, getLsbD_high] <;> rfl
theorem barrNamed (ch : BitVec 4) : Statement (.barrNamed ch) := by
  refine .scalar rfl rfl ?_
  change decodeTask (.r 0x5B 2 1 0 ((0 : BitVec 1) ++ ch) 0) = _
  simp (disch := decide) only [decodeTask, Fields.r, BitVec.extractLsb'_append_eq_of_le,
    BitVec.extractLsb'_append_eq_of_add_le, Nat.reduceSub,
    BitVec.extractLsb'_eq_self, getLsbD_high] <;> rfl
theorem barrAll (ch : BitVec 4) : Statement (.barrAll ch) := by
  refine .scalar rfl rfl ?_
  change decodeTask (.r 0x5B 2 2 0 ((0 : BitVec 1) ++ ch) 0) = _
  simp (disch := decide) only [decodeTask, Fields.r, BitVec.extractLsb'_append_eq_of_le,
    BitVec.extractLsb'_append_eq_of_add_le, Nat.reduceSub,
    BitVec.extractLsb'_eq_self, getLsbD_high] <;> rfl
theorem bwait (ch : BitVec 4) : Statement (.bwait ch) := by
  refine .scalar rfl rfl ?_
  change decodeTask (.r 0x5B 3 0 0 ((0 : BitVec 1) ++ ch) 0) = _
  simp (disch := decide) only [decodeTask, Fields.r, BitVec.extractLsb'_append_eq_of_le,
    BitVec.extractLsb'_append_eq_of_add_le, Nat.reduceSub,
    BitVec.extractLsb'_eq_self, getLsbD_high] <;> rfl
theorem barrierRelease (ch : BitVec 4) : Statement (.barrierRelease ch) := .neither rfl rfl
theorem sxmit (route : BitVec 8) (rs1 rs2 : Reg) : Statement (.sxmit route rs1 rs2) := by
  refine .scalar rfl rfl ?_
  change decodeTask (.s 0x5B 4 rs1 rs2 ((0 : BitVec 4) ++ route)) = _
  simp (disch := decide) only [decodeTask, Fields.immS_s, Fields.f7_s]
  simp (disch := decide) only [BitVec.extractLsb'_append_eq_of_le, BitVec.extractLsb'_append_eq_of_add_le,
    Nat.reduceSub, BitVec.extractLsb'_eq_self] <;> rfl
theorem sxwait (route : BitVec 8) (rs1 : Reg) : Statement (.sxwait route rs1) := by
  refine .scalar rfl rfl ?_
  change decodeTask (.i 0x5B 5 0 rs1 ((0 : BitVec 4) ++ route)) = _
  simp (disch := decide) only [decodeTask, Fields.immI_i, Fields.f7_i]
  simp (disch := decide) only [BitVec.extractLsb'_append_eq_of_le, BitVec.extractLsb'_append_eq_of_add_le,
    Nat.reduceSub, BitVec.extractLsb'_eq_self] <;> rfl
theorem routeSlotInject (route : BitVec 8) : Statement (.routeSlotInject route) := .neither rfl rfl
theorem routeLand (route : BitVec 8) : Statement (.routeLand route) := .neither rfl rfl
theorem tbind (t : BitVec 7) (rs1 : Reg) : Statement (.tbind t rs1) := by
  refine .scalar rfl rfl ?_
  change decodeTrack (.i 0x7B 0 0 rs1 ((0 : BitVec 5) ++ t)) = _
  simp (disch := decide) only [decodeTrack, Fields.immI_i, Fields.f7_i]
  simp (disch := decide) only [BitVec.extractLsb'_append_eq_of_le, BitVec.extractLsb'_append_eq_of_add_le,
    Nat.reduceSub, BitVec.extractLsb'_eq_self] <;> rfl
theorem tfree (t : BitVec 7) : Statement (.tfree t) := by
  refine .scalar rfl rfl ?_
  change decodeTrack (.i 0x7B 1 0 0 ((0 : BitVec 5) ++ t)) = _
  simp (disch := decide) only [decodeTrack, Fields.immI_i, Fields.f7_i]
  simp (disch := decide) only [BitVec.extractLsb'_append_eq_of_le, BitVec.extractLsb'_append_eq_of_add_le,
    Nat.reduceSub, BitVec.extractLsb'_eq_self] <;> rfl
theorem thead (rd : Reg) (t : BitVec 7) : Statement (.thead rd t) := by
  refine .scalar rfl rfl ?_
  change decodeTrack (.i 0x7B 2 rd 0 ((0 : BitVec 5) ++ t)) = _
  simp (disch := decide) only [decodeTrack, Fields.immI_i, Fields.f7_i]
  simp (disch := decide) only [BitVec.extractLsb'_append_eq_of_le, BitVec.extractLsb'_append_eq_of_add_le,
    Nat.reduceSub, BitVec.extractLsb'_eq_self] <;> rfl
theorem pgalloc (rd : Reg) : Statement (.pgalloc rd) :=
  .scalar rfl rfl rfl
theorem poolBorrowReply (p : Place) (lender : Nat) : Statement (.poolBorrowReply p lender) := .neither rfl rfl
theorem pgfree (rs1 : Reg) : Statement (.pgfree rs1) :=
  .scalar rfl rfl rfl
theorem kvmap (rd rs1 rs2 : Reg) : Statement (.kvmap rd rs1 rs2) :=
  .scalar rfl rfl rfl
theorem kvmapW (rd rs1 rs2 : Reg) : Statement (.kvmapW rd rs1 rs2) :=
  .scalar rfl rfl rfl
theorem ecall : Statement (.ecall) :=
  .scalar rfl rfl rfl
theorem ebreak : Statement (.ebreak) :=
  .scalar rfl rfl rfl
theorem sleep (rs1 : Reg) : Statement (.sleep rs1) := by
  refine .scalar rfl rfl ?_
  change decodeSystem (.i 0x73 0 0 rs1 0x105) = _
  simp only [decodeSystem, Fields.immI_i]
  rfl
theorem sleepTimeout (p : Place) (tag : Nat) : Statement (.sleepTimeout p tag) := .neither rfl rfl
theorem csrrw (rd rs1 : Reg) (csr : BitVec 12) : Statement (.csrrw rd rs1 csr) :=
  .scalar rfl rfl (congrArg (fun i => some (Instr.csrrw rd rs1 i)) (Fields.immI_i ..))
theorem csrrs (rd rs1 : Reg) (csr : BitVec 12) : Statement (.csrrs rd rs1 csr) :=
  .scalar rfl rfl (congrArg (fun i => some (Instr.csrrs rd rs1 i)) (Fields.immI_i ..))
theorem csrrc (rd rs1 : Reg) (csr : BitVec 12) : Statement (.csrrc rd rs1 csr) :=
  .scalar rfl rfl (congrArg (fun i => some (Instr.csrrc rd rs1 i)) (Fields.immI_i ..))
theorem csrrwi (rd : Reg) (u : BitVec 5) (csr : BitVec 12) : Statement (.csrrwi rd u csr) :=
  .scalar rfl rfl (congrArg (fun i => some (Instr.csrrwi rd u i)) (Fields.immI_i ..))
theorem csrrsi (rd : Reg) (u : BitVec 5) (csr : BitVec 12) : Statement (.csrrsi rd u csr) :=
  .scalar rfl rfl (congrArg (fun i => some (Instr.csrrsi rd u i)) (Fields.immI_i ..))
theorem csrrci (rd : Reg) (u : BitVec 5) (csr : BitVec 12) : Statement (.csrrci rd u csr) :=
  .scalar rfl rfl (congrArg (fun i => some (Instr.csrrci rd u i)) (Fields.immI_i ..))
theorem tret : Statement (.tret) :=
  .scalar rfl rfl rfl
theorem l2pset (rd rs1 : Reg) : Statement (.l2pset rd rs1) := by
  refine .scalar rfl rfl ?_
  change decodeSystem (.i 0x73 0 rd rs1 0x301) = _
  simp only [decodeSystem, Fields.immI_i]
  rfl
theorem tlbinvPage (rs1 : Reg) : Statement (.tlbinvPage rs1) := by
  refine .scalar rfl rfl ?_
  change decodeSystem (.i 0x73 0 0 rs1 0x302) = _
  simp only [decodeSystem, Fields.immI_i]
  rfl
theorem tlbinvAll : Statement (.tlbinvAll) :=
  .scalar rfl rfl rfl
theorem capmint (rd rs1 : Reg) : Statement (.capmint rd rs1) := by
  refine .scalar rfl rfl ?_
  change decodeSystem (.i 0x73 0 rd rs1 0x304) = _
  simp only [decodeSystem, Fields.immI_i]
  rfl
theorem preempt (rd rs1 : Reg) : Statement (.preempt rd rs1) := by
  refine .scalar rfl rfl ?_
  change decodeSystem (.i 0x73 0 rd rs1 0x305) = _
  simp only [decodeSystem, Fields.immI_i]
  rfl
theorem preemptForcedSave (p : Place) : Statement (.preemptForcedSave p) := .neither rfl rfl
theorem qdrain (rs1 : Reg) : Statement (.qdrain rs1) := by
  refine .scalar rfl rfl ?_
  change decodeSystem (.i 0x73 0 0 rs1 0x306) = _
  simp only [decodeSystem, Fields.immI_i]
  rfl
theorem qnop (tagged : Bool) (f : QueueF) (sl : Slots) : Statement (.qnop tagged f sl) :=
  .command rfl rfl fun _ => congrArg (fun f => some (Instr.qnop tagged f sl)) (QueueF.split_join f)
theorem qtag (tagged : Bool) (f : QueueF) (sl : Slots) : Statement (.qtag tagged f sl) :=
  .command rfl rfl fun _ => congrArg (fun f => some (Instr.qtag tagged f sl)) (QueueF.split_join f)
theorem qtagAdvance (core : Nat) : Statement (.qtagAdvance core) := .neither rfl rfl
theorem qord (tagged : Bool) (f : QueueF) (sl : Slots) : Statement (.qord tagged f sl) :=
  .command rfl rfl fun _ => congrArg (fun f => some (Instr.qord tagged f sl)) (QueueF.split_join f)
theorem rep (tagged : Bool) (f : QueueF) (sl : Slots) : Statement (.rep tagged f sl) :=
  .command rfl rfl fun _ => congrArg (fun f => some (Instr.rep tagged f sl)) (QueueF.split_join f)
theorem repInstance (core : Nat) : Statement (.repInstance core) := .neither rfl rfl
theorem tseek (tagged : Bool) (f : TrackF) (sl : Slots) : Statement (.tseek tagged f sl) :=
  .command rfl rfl fun _ => congrArg (fun f => some (Instr.tseek tagged f sl)) (TrackF.split_join f)
theorem trew (tagged : Bool) (f : TrackF) (sl : Slots) : Statement (.trew tagged f sl) :=
  .command rfl rfl fun _ => congrArg (fun f => some (Instr.trew tagged f sl)) (TrackF.split_join f)
theorem trackShiftDone (core : Nat) (t : BitVec 7) : Statement (.trackShiftDone core t) := .neither rfl rfl
theorem trd (tagged : Bool) (f : TrackF) (sl : Slots) : Statement (.trd tagged f sl) :=
  .command rfl rfl fun _ => congrArg (fun f => some (Instr.trd tagged f sl)) (TrackF.split_join f)
theorem twr (tagged : Bool) (f : TrackF) (sl : Slots) : Statement (.twr tagged f sl) :=
  .command rfl rfl fun _ => congrArg (fun f => some (Instr.twr tagged f sl)) (TrackF.split_join f)
theorem tblk (tagged : Bool) (f : TrackF) (sl : Slots) : Statement (.tblk tagged f sl) :=
  .command rfl rfl fun _ => congrArg (fun f => some (Instr.tblk tagged f sl)) (TrackF.split_join f)
theorem tblkw (tagged : Bool) (f : TrackF) (sl : Slots) : Statement (.tblkw tagged f sl) :=
  .command rfl rfl fun _ => congrArg (fun f => some (Instr.tblkw tagged f sl)) (TrackF.split_join f)
theorem trackAccess (m : Msg) : Statement (.trackAccess m) := .neither rfl rfl
theorem vld (tagged : Bool) (f : VecF) (sl : Slots) : Statement (.vld tagged f sl) :=
  .command rfl rfl fun _ => congrArg (fun f => some (Instr.vld tagged f sl)) (VecF.split_join f)
theorem vlds (tagged : Bool) (f : VecF) (sl : Slots) : Statement (.vlds tagged f sl) :=
  .command rfl rfl fun _ => congrArg (fun f => some (Instr.vlds tagged f sl)) (VecF.split_join f)
theorem vgath (tagged : Bool) (f : VecF) (sl : Slots) : Statement (.vgath tagged f sl) :=
  .command rfl rfl fun _ => congrArg (fun f => some (Instr.vgath tagged f sl)) (VecF.split_join f)
theorem vst (tagged : Bool) (f : VecF) (sl : Slots) : Statement (.vst tagged f sl) :=
  .command rfl rfl fun _ => congrArg (fun f => some (Instr.vst tagged f sl)) (VecF.split_join f)
theorem vsts (tagged : Bool) (f : VecF) (sl : Slots) : Statement (.vsts tagged f sl) :=
  .command rfl rfl fun _ => congrArg (fun f => some (Instr.vsts tagged f sl)) (VecF.split_join f)
theorem vscat (tagged : Bool) (f : VecF) (sl : Slots) : Statement (.vscat tagged f sl) :=
  .command rfl rfl fun _ => congrArg (fun f => some (Instr.vscat tagged f sl)) (VecF.split_join f)
theorem vbcast (tagged : Bool) (f : VecF) (sl : Slots) : Statement (.vbcast tagged f sl) :=
  .command rfl rfl fun _ => congrArg (fun f => some (Instr.vbcast tagged f sl)) (VecF.split_join f)
theorem vmovxBc (tagged : Bool) (f : VecF) (sl : Slots) : Statement (.vmovxBc tagged f sl) :=
  .command rfl rfl fun w => by
    change decodeVector 7 tagged (VecF.split f.join) sl = _
    rw [VecF.split_join]
    have h : f.fn = 0 := by simpa using (Bool.and_eq_true_iff.1 w).2
    exact if_pos h
theorem vmovxIns (tagged : Bool) (f : VecF) (sl : Slots) : Statement (.vmovxIns tagged f sl) :=
  .command rfl rfl fun w => by
    change decodeVector 7 tagged (VecF.split f.join) sl = _
    rw [VecF.split_join]
    have h : f.fn = 1 := by simpa using (Bool.and_eq_true_iff.1 w).2
    exact (if_neg (by rw [h]; decide)).trans (if_pos h)
theorem vop (tagged : Bool) (f : VecF) (sl : Slots) : Statement (.vop tagged f sl) :=
  .command rfl rfl fun _ => congrArg (fun f => some (Instr.vop tagged f sl)) (VecF.split_join f)
theorem vfma (tagged : Bool) (f : VecF) (sl : Slots) : Statement (.vfma tagged f sl) :=
  .command rfl rfl fun _ => congrArg (fun f => some (Instr.vfma tagged f sl)) (VecF.split_join f)
theorem vcmp (tagged : Bool) (f : VecF) (sl : Slots) : Statement (.vcmp tagged f sl) :=
  .command rfl rfl fun _ => congrArg (fun f => some (Instr.vcmp tagged f sl)) (VecF.split_join f)
theorem vsel (tagged : Bool) (f : VecF) (sl : Slots) : Statement (.vsel tagged f sl) :=
  .command rfl rfl fun _ => congrArg (fun f => some (Instr.vsel tagged f sl)) (VecF.split_join f)
theorem vcvt (tagged : Bool) (f : VecF) (sl : Slots) : Statement (.vcvt tagged f sl) :=
  .command rfl rfl fun _ => congrArg (fun f => some (Instr.vcvt tagged f sl)) (VecF.split_join f)
theorem vred (tagged : Bool) (f : VecF) (sl : Slots) : Statement (.vred tagged f sl) :=
  .command rfl rfl fun _ => congrArg (fun f => some (Instr.vred tagged f sl)) (VecF.split_join f)
theorem vexp (tagged : Bool) (f : VecF) (sl : Slots) : Statement (.vexp tagged f sl) :=
  .command rfl rfl fun _ => congrArg (fun f => some (Instr.vexp tagged f sl)) (VecF.split_join f)
theorem vrcp (tagged : Bool) (f : VecF) (sl : Slots) : Statement (.vrcp tagged f sl) :=
  .command rfl rfl fun _ => congrArg (fun f => some (Instr.vrcp tagged f sl)) (VecF.split_join f)
theorem vrsq (tagged : Bool) (f : VecF) (sl : Slots) : Statement (.vrsq tagged f sl) :=
  .command rfl rfl fun _ => congrArg (fun f => some (Instr.vrsq tagged f sl)) (VecF.split_join f)
theorem vperm (tagged : Bool) (f : VecF) (sl : Slots) : Statement (.vperm tagged f sl) :=
  .command rfl rfl fun _ => congrArg (fun f => some (Instr.vperm tagged f sl)) (VecF.split_join f)
theorem vdot (tagged : Bool) (f : VecF) (sl : Slots) : Statement (.vdot tagged f sl) :=
  .command rfl rfl fun _ => congrArg (fun f => some (Instr.vdot tagged f sl)) (VecF.split_join f)
theorem vectorArbiterCycle (quad : Nat) : Statement (.vectorArbiterCycle quad) := .neither rfl rfl
theorem mclaim (tagged : Bool) (f : PressF) (sl : Slots) : Statement (.mclaim tagged f sl) :=
  .command rfl rfl fun _ => congrArg (fun f => some (Instr.mclaim tagged f sl)) (PressF.split_join f)
theorem mfree (tagged : Bool) (f : PressF) (sl : Slots) : Statement (.mfree tagged f sl) :=
  .command rfl rfl fun _ => congrArg (fun f => some (Instr.mfree tagged f sl)) (PressF.split_join f)
theorem mload (tagged : Bool) (f : PressF) (sl : Slots) : Statement (.mload tagged f sl) :=
  .command rfl rfl fun w => by
    change decodePress 2 tagged (PressF.split f.join) sl = _
    rw [PressF.split_join]
    have h : f.dk = false := by
      cases h : f.dk <;> simp_all [Instr.wf, Instr.fieldsOk, PressF.only]
    exact if_neg (by simp [h])
theorem mloadAcc (tagged : Bool) (f : PressF) (sl : Slots) : Statement (.mloadAcc tagged f sl) :=
  .command rfl rfl fun w => by
    change decodePress 2 tagged (PressF.split f.join) sl = _
    rw [PressF.split_join]
    exact if_pos (Bool.and_eq_true_iff.1 w).2
theorem mzero (tagged : Bool) (f : PressF) (sl : Slots) : Statement (.mzero tagged f sl) :=
  .command rfl rfl fun _ => congrArg (fun f => some (Instr.mzero tagged f sl)) (PressF.split_join f)
theorem mma (tagged : Bool) (f : PressF) (sl : Slots) : Statement (.mma tagged f sl) :=
  .command rfl rfl fun _ => congrArg (fun f => some (Instr.mma tagged f sl)) (PressF.split_join f)
theorem mmaSp (tagged : Bool) (f : PressF) (sl : Slots) : Statement (.mmaSp tagged f sl) :=
  .command rfl rfl fun _ => congrArg (fun f => some (Instr.mmaSp tagged f sl)) (PressF.split_join f)
theorem msoft (tagged : Bool) (f : PressF) (sl : Slots) : Statement (.msoft tagged f sl) :=
  .command rfl rfl fun _ => congrArg (fun f => some (Instr.msoft tagged f sl)) (PressF.split_join f)
theorem mmerge (tagged : Bool) (f : PressF) (sl : Slots) : Statement (.mmerge tagged f sl) :=
  .command rfl rfl fun _ => congrArg (fun f => some (Instr.mmerge tagged f sl)) (PressF.split_join f)
theorem mnorm (tagged : Bool) (f : PressF) (sl : Slots) : Statement (.mnorm tagged f sl) :=
  .command rfl rfl fun _ => congrArg (fun f => some (Instr.mnorm tagged f sl)) (PressF.split_join f)
theorem mdrain (tagged : Bool) (f : PressF) (sl : Slots) : Statement (.mdrain tagged f sl) :=
  .command rfl rfl fun _ => congrArg (fun f => some (Instr.mdrain tagged f sl)) (PressF.split_join f)
theorem mstat (tagged : Bool) (f : PressF) (sl : Slots) : Statement (.mstat tagged f sl) :=
  .command rfl rfl fun _ => congrArg (fun f => some (Instr.mstat tagged f sl)) (PressF.split_join f)
theorem pressAccept (quad : Nat) : Statement (.pressAccept quad) := .neither rfl rfl
theorem copyEngineAccept (quad : Nat) : Statement (.copyEngineAccept quad) := .neither rfl rfl
theorem cpy (tagged : Bool) (f : CopyF) (sl : Slots) : Statement (.cpy tagged f sl) :=
  .command rfl rfl fun w => by
    change decodeCopy 0 tagged false (CopyF.split f.join) sl = _
    rw [CopyF.split_join]
    have h : f.rb = false := by simp [Instr.wf, Instr.fieldsOk, CopyF.only] at w; simp [w]
    exact if_neg (by simp [h])
theorem cpyRb (tagged : Bool) (f : CopyF) (sl : Slots) : Statement (.cpyRb tagged f sl) :=
  .command rfl rfl fun w => by
    change decodeCopy 0 tagged false (CopyF.split f.join) sl = _
    rw [CopyF.split_join]
    have h : f.rb = true := by simp [Instr.wf, Instr.fieldsOk, CopyF.only] at w; simp [w]
    exact if_pos h
theorem cfill (tagged : Bool) (f : CopyF) (sl : Slots) : Statement (.cfill tagged f sl) :=
  .command rfl rfl fun w => by
    change decodeCopy 1 tagged false (CopyF.split f.join) sl = _
    rw [CopyF.split_join]
    have h : f.rb = false := by simp [Instr.wf, Instr.fieldsOk, CopyF.only] at w; simp [w]
    exact if_neg (by simp [h])
theorem cfillRb (tagged : Bool) (f : CopyF) (sl : Slots) : Statement (.cfillRb tagged f sl) :=
  .command rfl rfl fun w => by
    change decodeCopy 1 tagged false (CopyF.split f.join) sl = _
    rw [CopyF.split_join]
    have h : f.rb = true := by simp [Instr.wf, Instr.fieldsOk, CopyF.only] at w; simp [w]
    exact if_pos h
theorem copyCompletionWord (quad id : Nat) : Statement (.copyCompletionWord quad id) := .neither rfl rfl
theorem subCommand (tagged comb : Bool) (f : CopyF) (sl : Slots) : Statement (.subCommand tagged comb f sl) :=
  .command rfl rfl fun w => by
    cases comb <;> exact congrArg (fun f => some (Instr.subCommand tagged _ f sl)) (CopyF.split_join f)
theorem subCombine (cluster : Nat) (members : List (Nat × Fin 8)) : Statement (.subCombine cluster members) :=
  .neither rfl rfl
theorem unsub (tagged : Bool) (f : CopyF) (sl : Slots) : Statement (.unsub tagged f sl) :=
  .command rfl rfl fun _ => congrArg (fun f => some (Instr.unsub tagged f sl)) (CopyF.split_join f)
theorem retn (tagged : Bool) (f : CopyF) (sl : Slots) : Statement (.retn tagged f sl) :=
  .command rfl rfl fun _ => congrArg (fun f => some (Instr.retn tagged f sl)) (CopyF.split_join f)
theorem loaderTileStart (quad : Nat) (id : Fin 8) : Statement (.loaderTileStart quad id) := .neither rfl rfl
theorem loaderTileComplete (quad : Nat) (id : Fin 8) : Statement (.loaderTileComplete quad id) := .neither rfl rfl
theorem storerSlotRead (quad : Nat) (id : Fin 8) (slot : Nat) : Statement (.storerSlotRead quad id slot) :=
  .neither rfl rfl
theorem retnStoreComplete (quad : Nat) (id : Fin 8) (slot : Nat) : Statement (.retnStoreComplete quad id slot) :=
  .neither rfl rfl
theorem remoteCommand (quad : Nat) (r : Remote) : Statement (.remoteCommand quad r) := .neither rfl rfl
theorem remoteBusyRetry (quad : Nat) (r : Remote) (k : Nat) : Statement (.remoteBusyRetry quad r k) := .neither rfl rfl
theorem memRequest (m : Msg) : Statement (.memRequest m) := .neither rfl rfl
theorem memReply (m : Msg) (ans : Answer) : Statement (.memReply m ans) := .neither rfl rfl
theorem issueGuardExpiry (core : Nat) : Statement (.issueGuardExpiry core) := .neither rfl rfl
theorem bankFill (core : Nat) : Statement (.bankFill core) := .neither rfl rfl
theorem recordLoadDone (p : Place) : Statement (.recordLoadDone p) := .neither rfl rfl
theorem recordWriteback (p : Place) : Statement (.recordWriteback p) := .neither rfl rfl
theorem waitWritebackTimeout (p : Place) : Statement (.waitWritebackTimeout p) := .neither rfl rfl
theorem stealRequest (thief : Nat) : Statement (.stealRequest thief) := .neither rfl rfl
theorem stealAnswer (thief victim : Nat) : Statement (.stealAnswer thief victim) := .neither rfl rfl
theorem splitJoinReply (thief victim : Nat) (record : BitVec 512) : Statement (.splitJoinReply thief victim record) :=
  .neither rfl rfl
theorem stealReply (thief : Nat) (work : StealWork) : Statement (.stealReply thief work) := .neither rfl rfl
theorem stealRoundTimer (core : Nat) : Statement (.stealRoundTimer core) := .neither rfl rfl
theorem hangTrap : Statement (.hangTrap) := .neither rfl rfl
theorem translationWalk (core : Nat) (va : Word) (acc : Access) (user : Bool) :
    Statement (.translationWalk core va acc user) :=
  .neither rfl rfl
theorem faultPostRetry (p : Place) : Statement (.faultPostRetry p) := .neither rfl rfl
theorem faultSlotOutcome (cluster slot : Nat) : Statement (.faultSlotOutcome cluster slot) := .neither rfl rfl
theorem pageWaitWriteback (p : Place) : Statement (.pageWaitWriteback p) := .neither rfl rfl
theorem fpheadWrite (core : RegCore) (addr v : Word) : Statement (.fpheadWrite core addr v) := .neither rfl rfl
theorem pgasnWrite (core : RegCore) (hi : Bool) (addr v : Word) : Statement (.pgasnWrite core hi addr v) := .neither rfl rfl
theorem toccWrite (core : Nat) (hi : Bool) (v : Word) : Statement (.toccWrite core hi v) := .neither rfl rfl
theorem fqbaseWrite (cluster : Nat) (v : Word) : Statement (.fqbaseWrite cluster v) := .neither rfl rfl
theorem lwcfgWrite (v : Word) : Statement (.lwcfgWrite v) := .neither rfl rfl
theorem msixtrigWrite (v : Word) : Statement (.msixtrigWrite v) := .neither rfl rfl
theorem opreqWrite (core : Nat) (v : Word) : Statement (.opreqWrite core v) := .neither rfl rfl
theorem atomodeWrite (v : Word) : Statement (.atomodeWrite v) := .neither rfl rfl
theorem atomodeSwitch : Statement (.atomodeSwitch) := .neither rfl rfl
theorem registerWrite (core : RegCore) (block : BitVec 4) (off : BitVec 37) (v : Word) :
    Statement (.registerWrite core block off v) :=
  .neither rfl rfl
theorem peerFaultReturn (p : Place) (sfp : Word) : Statement (.peerFaultReturn p sfp) := .neither rfl rfl
theorem l2pSwapComplete (quad : Nat) (pq : BitVec 5) : Statement (.l2pSwapComplete quad pq) := .neither rfl rfl
theorem failsafeBudget (region : Nat) : Statement (.failsafeBudget region) := .neither rfl rfl
theorem startAdmission (region : Nat) : Statement (.startAdmission region) := .neither rfl rfl
theorem oppVoltageSettled (quad : Nat) : Statement (.oppVoltageSettled quad) := .neither rfl rfl
theorem droopCheck (region : Nat) (below : Bool) : Statement (.droopCheck region below) := .neither rfl rfl
theorem migrationBoundary (quad : Nat) : Statement (.migrationBoundary quad) := .neither rfl rfl
theorem migrationForce (quad : Nat) : Statement (.migrationForce quad) := .neither rfl rfl
theorem migrationTransferDone (quad : Nat) : Statement (.migrationTransferDone quad) := .neither rfl rfl
theorem migrationResume (quad : Nat) : Statement (.migrationResume quad) := .neither rfl rfl
theorem gateCommit (quad : Nat) : Statement (.gateCommit quad) := .neither rfl rfl
theorem quadWake (quad : Nat) : Statement (.quadWake quad) := .neither rfl rfl
theorem fatalError (cause : FatalCause) (ofModule : Bool) : Statement (.fatalError cause ofModule) :=
  .neither rfl rfl
theorem illegalInstruction (word : BitVec 32) : Statement (.illegalInstruction word) := .neither rfl rfl
theorem fetchFault (addr : Word) (why : FetchFailure) : Statement (.fetchFault addr why) := .neither rfl rfl
theorem commandCompletion (core id : Nat) : Statement (.commandCompletion core id) := .neither rfl rfl
theorem replayFilterAck (quad : Nat) (src : Place) (tag : Nat) : Statement (.replayFilterAck quad src tag) :=
  .neither rfl rfl
theorem coldBoot (b : Boot) : Statement (.coldBoot b) := .neither rfl rfl
theorem gateRequest (quad : Nat) : Statement (.gateRequest quad) := .neither rfl rfl
theorem hostPutAliasWrite (n : Nat) (v : Word) : Statement (.hostPutAliasWrite n v) := .neither rfl rfl
theorem hostBar2Access (write : Bool) (byte len : Nat) (v : Word) : Statement (.hostBar2Access write byte len v) :=
  .neither rfl rfl
theorem hostAtomic (op : HostOp) (byte width : Nat) (v : Word) : Statement (.hostAtomic op byte width v) :=
  .neither rfl rfl
theorem peerRequest (op : PeerOp) (addr : Word) (width : Width) (v : Word) :
    Statement (.peerRequest op addr width v) :=
  .neither rfl rfl
theorem peerBindingRemove (num : BitVec 12) : Statement (.peerBindingRemove num) := .neither rfl rfl
theorem linkBeatRetry (link fails : Nat) : Statement (.linkBeatRetry link fails) := .neither rfl rfl
theorem packageGrant (watts : List Nat) : Statement (.packageGrant watts) := .neither rfl rfl
theorem sensorSample (quad : Nat) (diode ring : Reading) : Statement (.sensorSample quad diode ring) := .neither rfl rfl
theorem analogueTrip (region : Nat) : Statement (.analogueTrip region) := .neither rfl rfl
theorem droopAlarm (region : Nat) : Statement (.droopAlarm region) := .neither rfl rfl
theorem patrolScrub (group : Nat) : Statement (.patrolScrub group) := .neither rfl rfl
theorem ageingReplan (quad : Nat) (present : BitVec 8) : Statement (.ageingReplan quad present) := .neither rfl rfl
theorem imageLoad (img : Image) : Statement (.imageLoad img) := .neither rfl rfl
theorem partitionCreate (p : PartSpec) : Statement (.partitionCreate p) := .neither rfl rfl
theorem partitionStart : Statement (.partitionStart) := .neither rfl rfl
theorem partitionTeardown : Statement (.partitionTeardown) := .neither rfl rfl
theorem attestationReport (nonce : Word) : Statement (.attestationReport nonce) := .neither rfl rfl
theorem peerBindingSetup (p : Peer) (own : BitVec 12) : Statement (.peerBindingSetup p own) := .neither rfl rfl
theorem zholosWatchdog : Statement (.zholosWatchdog) := .neither rfl rfl
theorem colophonRead (slot : Fin 8) : Statement (.colophonRead slot) := .neither rfl rfl
theorem hostCxlMemAccess (write : Bool) (byte len : Nat) (v : Word) :
    Statement (.hostCxlMemAccess write byte len v) :=
  .neither rfl rfl
theorem hostCxlSnoop (line : Nat) : Statement (.hostCxlSnoop line) := .neither rfl rfl
theorem cxlCacheEnable (on : Bool) : Statement (.cxlCacheEnable on) := .neither rfl rfl
theorem msixVectorUnmask (vec : Fin 32) : Statement (.msixVectorUnmask vec) := .neither rfl rfl
theorem ownerKeyDelivery (owner shared : BitVec 256) : Statement (.ownerKeyDelivery owner shared) := .neither rfl rfl
theorem l2pSwapBegin (quad : Nat) : Statement (.l2pSwapBegin quad) := .neither rfl rfl

end Sys2Proof.Laws.FieldsRoundTrip
end

