-- ==== Sys2Proof/Tests/Slice0.lean ====
section
/-! SUPPORT. Tests: words written out from the encodings of the spec, terms that well-formedness refuses, worked examples of
the spec, and for each statement states and operands that meet its hypotheses. -/

namespace Sys2Proof.Tests

set_option Elab.async false

open Sys2Proof.Machine

/-! ## Decoding: every word is put together from the encoding tables of R138 to R191 and R315, and of R192 to R270 -/

theorem test_decode_op_imm :
    decodeWord 0b1010010_11100_00110_000_00101_0010011 = some (.addi 5 6 0xa5c) ∧
    decodeWord 0b1010010_11100_00110_010_00101_0010011 = some (.slti 5 6 0xa5c) ∧
    decodeWord 0b1010010_11100_00110_011_00101_0010011 = some (.sltiu 5 6 0xa5c) ∧
    decodeWord 0b1010010_11100_00110_100_00101_0010011 = some (.xori 5 6 0xa5c) ∧
    decodeWord 0b1010010_11100_00110_110_00101_0010011 = some (.ori 5 6 0xa5c) ∧
    decodeWord 0b1010010_11100_00110_111_00101_0010011 = some (.andi 5 6 0xa5c) ∧
    decodeWord 0b0000000_10011_00110_001_00101_0010011 = some (.slli 5 6 19) ∧
    decodeWord 0b0000000_10011_00110_101_00101_0010011 = some (.srli 5 6 19) ∧
    decodeWord 0b0100000_10011_00110_101_00101_0010011 = some (.srai 5 6 19) := by decide

theorem test_decode_op :
    decodeWord 0b0000000_00111_00110_000_00101_0110011 = some (.add 5 6 7) ∧
    decodeWord 0b0100000_00111_00110_000_00101_0110011 = some (.sub 5 6 7) ∧
    decodeWord 0b0000001_00111_00110_000_00101_0110011 = some (.mul 5 6 7) ∧
    decodeWord 0b0000000_00111_00110_001_00101_0110011 = some (.sll 5 6 7) ∧
    decodeWord 0b0000001_00111_00110_001_00101_0110011 = some (.mulh 5 6 7) ∧
    decodeWord 0b0000000_00111_00110_010_00101_0110011 = some (.slt 5 6 7) ∧
    decodeWord 0b0000001_00111_00110_010_00101_0110011 = some (.mulhsu 5 6 7) ∧
    decodeWord 0b0000000_00111_00110_011_00101_0110011 = some (.sltu 5 6 7) ∧
    decodeWord 0b0000001_00111_00110_011_00101_0110011 = some (.mulhu 5 6 7) ∧
    decodeWord 0b0000000_00111_00110_100_00101_0110011 = some (.xor 5 6 7) ∧
    decodeWord 0b0000001_00111_00110_100_00101_0110011 = some (.div 5 6 7) ∧
    decodeWord 0b0000000_00111_00110_101_00101_0110011 = some (.srl 5 6 7) ∧
    decodeWord 0b0100000_00111_00110_101_00101_0110011 = some (.sra 5 6 7) ∧
    decodeWord 0b0000001_00111_00110_101_00101_0110011 = some (.divu 5 6 7) ∧
    decodeWord 0b0000000_00111_00110_110_00101_0110011 = some (.or 5 6 7) ∧
    decodeWord 0b0000001_00111_00110_110_00101_0110011 = some (.rem 5 6 7) ∧
    decodeWord 0b0000000_00111_00110_111_00101_0110011 = some (.and 5 6 7) ∧
    decodeWord 0b0000001_00111_00110_111_00101_0110011 = some (.remu 5 6 7) := by decide

theorem test_decode_op_32 :
    decodeWord 0b0000000_00111_00110_000_00101_0111011 = some (.addw 5 6 7) ∧
    decodeWord 0b0100000_00111_00110_000_00101_0111011 = some (.subw 5 6 7) ∧
    decodeWord 0b0000001_00111_00110_000_00101_0111011 = some (.mulw 5 6 7) ∧
    decodeWord 0b0000000_00111_00110_001_00101_0111011 = some (.sllw 5 6 7) ∧
    decodeWord 0b0000001_00111_00110_100_00101_0111011 = some (.divw 5 6 7) ∧
    decodeWord 0b0000000_00111_00110_101_00101_0111011 = some (.srlw 5 6 7) ∧
    decodeWord 0b0100000_00111_00110_101_00101_0111011 = some (.sraw 5 6 7) ∧
    decodeWord 0b0000001_00111_00110_101_00101_0111011 = some (.divuw 5 6 7) ∧
    decodeWord 0b0000001_00111_00110_110_00101_0111011 = some (.remw 5 6 7) ∧
    decodeWord 0b0000001_00111_00110_111_00101_0111011 = some (.remuw 5 6 7) ∧
    decodeWord 0b1010010_11100_00110_000_00101_0011011 = some (.addiw 5 6 0xa5c) ∧
    decodeWord 0b0000000_10011_00110_001_00101_0011011 = some (.slliw 5 6 19) ∧
    decodeWord 0b0000000_10011_00110_101_00101_0011011 = some (.srliw 5 6 19) ∧
    decodeWord 0b0100000_10011_00110_101_00101_0011011 = some (.sraiw 5 6 19) := by decide

theorem test_decode_transfers :
    decodeWord 0b1010010_11100_11010_001_00101_0110111 = some (.lui 5 0xa5cd1) ∧
    decodeWord 0b1010010_11100_11010_001_00101_0010111 = some (.auipc 5 0xa5cd1) ∧
    decodeWord 0b1110100_00111_00110_000_11100_1100011 = some (.beq 6 7 0xb4e) ∧
    decodeWord 0b1110100_00111_00110_001_11100_1100011 = some (.bne 6 7 0xb4e) ∧
    decodeWord 0b1110100_00111_00110_100_11100_1100011 = some (.blt 6 7 0xb4e) ∧
    decodeWord 0b1110100_00111_00110_101_11100_1100011 = some (.bge 6 7 0xb4e) ∧
    decodeWord 0b1110100_00111_00110_110_11100_1100011 = some (.bltu 6 7 0xb4e) ∧
    decodeWord 0b1110100_00111_00110_111_11100_1100011 = some (.bgeu 6 7 0xb4e) ∧
    decodeWord 0b1001111_00000_01100_111_00101_1101111 = some (.jal 5 0xb38f0) ∧
    decodeWord 0b1010010_11100_00110_000_00101_1100111 = some (.jalr 5 6 0xa5c) := by decide

theorem test_decode_loads_stores :
    decodeWord 0b1010010_11100_00110_101_00101_0000011 = some (.ld .b16 5 6 0xa5c) ∧
    decodeWord 0b1010010_11100_00110_101_00101_0000111 = some (.lds .b16 5 6 0xa5c) ∧
    decodeWord 0b1010010_00111_00110_101_11100_0100011 = some (.st .b16 7 6 0xa5c) ∧
    decodeWord 0b0000000_00111_00110_101_00101_0100111 = some (.ldx .b16 5 6 7) ∧
    decodeWord 0b0000010_00111_00110_101_00101_0100111 = some (.ldxs .b16 5 6 7) ∧
    decodeWord 0b0000001_00111_00110_101_00101_0100111 = some (.stx .b16 5 6 7) := by decide

theorem test_decode_pointers :
    decodeWord 0b0000000_00111_00110_101_00101_0101011 = some (.padd .b16 5 6 7) ∧
    decodeWord 0b0000001_00111_00110_101_00101_0101011 = some (.pdiff .b16 5 6 7) ∧
    decodeWord 0b0000010_00010_00110_101_00101_0101011 = some (.paln .b16 5 6 2) ∧
    decodeWord 0b0000011_00000_00110_000_00101_0101011 = some (.pxy 5 6) ∧
    decodeWord 0b0000100_00111_00110_000_00101_0101011 = some (.psetxy 5 6 7) ∧
    decodeWord 0b0000101_00000_00110_000_00101_0101011 = some (.play 5 6) ∧
    decodeWord 0b0000101_00111_00110_001_00101_0101011 = some (.playS 5 6 7) ∧
    decodeWord 0b0000110_00000_00110_000_00101_0101011 = some (.prelA 5 6) ∧
    decodeWord 0b0000110_00000_00110_001_00101_0101011 = some (.prelR 5 6) := by decide

theorem test_decode_atomics :
    decodeWord 0b0000101_00111_00110_110_00101_0101111 = some (.amoAdd ⟨true, false, true⟩ .b32 5 7 6) ∧
    decodeWord 0b0001101_00111_00110_110_00101_0101111 = some (.amoAnd ⟨true, false, true⟩ .b32 5 7 6) ∧
    decodeWord 0b0010101_00111_00110_110_00101_0101111 = some (.amoOr ⟨true, false, true⟩ .b32 5 7 6) ∧
    decodeWord 0b0011101_00111_00110_110_00101_0101111 = some (.amoXor ⟨true, false, true⟩ .b32 5 7 6) ∧
    decodeWord 0b0100101_00111_00110_110_00101_0101111 = some (.amoMin ⟨true, false, true⟩ .b32 5 7 6) ∧
    decodeWord 0b0101101_00111_00110_110_00101_0101111 = some (.amoMax ⟨true, false, true⟩ .b32 5 7 6) ∧
    decodeWord 0b0110101_00111_00110_110_00101_0101111 = some (.amoMinn ⟨true, false, true⟩ .b32 5 7 6) ∧
    decodeWord 0b0111101_00111_00110_110_00101_0101111 = some (.amoMaxn ⟨true, false, true⟩ .b32 5 7 6) ∧
    decodeWord 0b1000101_00111_00110_110_00101_0101111 = some (.amoSwap ⟨true, false, true⟩ .b32 5 7 6) ∧
    decodeWord 0b1001101_00111_00110_110_00101_0101111 = some (.amoFadd ⟨true, false, true⟩ .b32 5 7 6) ∧
    decodeWord 0b1010101_00111_00110_110_00101_0101111 = some (.cas ⟨true, false, true⟩ .b32 5 7 6) ∧
    decodeWord 0b1011101_00000_00110_110_01011_0101111 = some (.take ⟨true, false, true⟩ .b32 11 6) ∧
    decodeWord 0b1100101_00111_00110_110_00000_0101111 = some (.put ⟨true, false, true⟩ .b32 7 6) ∧
    decodeWord 0b1101000_00000_00110_111_00101_0101111 = some (.festat 5 6) ∧
    decodeWord 0b1110110_00111_00110_110_01011_0101111 = some (.await .geu true .b32 11 7 6) ∧
    decodeWord 0b1111101_01001_00110_110_00101_0101111 = some (.takeNb ⟨true, false, true⟩ .b32 5 9 6) := by decide

theorem test_decode_fences_engine :
    decodeWord 0b0000001_10000_00000_000_00000_0001111 = some (.fenceAcq .module) ∧
    decodeWord 0b0000001_10001_00000_000_00000_0001111 = some (.fenceRel .module) ∧
    decodeWord 0b0000001_10010_00000_000_00000_0001111 = some (.fenceAr .module) ∧
    decodeWord 0b0000001_10011_00000_000_00000_0001111 = some (.fenceSc .module) ∧
    decodeWord 0b0000000_00000_00110_010_00000_0001011 = some (.qwait 6) ∧
    decodeWord 0b0001001_00111_00110_000_00000_0001011 = some (.cmd ⟨1, 2⟩ 6 7) ∧
    decodeWord 0b0001101_00111_00110_001_00000_0001011 = some (.cmdr ⟨1, 3⟩ 6 7) := by decide

theorem test_decode_tasks :
    decodeWord 0b0000000_00000_00110_000_00000_1011011 = some (.spawn 6) ∧
    decodeWord 0b0000001_00000_00110_000_01100_1011011 = some (.spawnW 12 6) ∧
    decodeWord 0b0000010_00111_00110_000_00000_1011011 = some (.spawnAt 6 7) ∧
    decodeWord 0b0000011_00111_00110_000_01100_1011011 = some (.spawnAtW 12 6 7) ∧
    decodeWord 0b0000000_00000_00000_001_00101_1011011 = some (.popt 5) ∧
    decodeWord 0b0000001_00111_00000_001_00101_1011011 = some (.rnext 5 7) ∧
    decodeWord 0b0000010_00000_00000_001_00000_1011011 = some .suspend ∧
    decodeWord 0b0000011_00000_00000_001_00000_1011011 = some .yield ∧
    decodeWord 0b0000100_00000_00000_001_00000_1011011 = some .exit ∧
    decodeWord 0b0000000_00000_01011_010_00000_1011011 = some (.barrNone 11) ∧
    decodeWord 0b0000001_00000_01011_010_00000_1011011 = some (.barrNamed 11) ∧
    decodeWord 0b0000010_00000_01011_010_00000_1011011 = some (.barrAll 11) ∧
    decodeWord 0b0000000_00000_01011_011_00000_1011011 = some (.bwait 11) ∧
    decodeWord 0b0000101_00111_00110_100_00111_1011011 = some (.sxmit 0xA7 6 7) ∧
    decodeWord 0b0000101_00111_00110_101_00000_1011011 = some (.sxwait 0xA7 6) := by decide

theorem test_decode_tracks :
    decodeWord 0b0000010_10101_00110_000_00000_1111011 = some (.tbind 0x55 6) ∧
    decodeWord 0b0000010_10101_00000_001_00000_1111011 = some (.tfree 0x55) ∧
    decodeWord 0b0000010_10101_00000_010_00101_1111011 = some (.thead 5 0x55) ∧
    decodeWord 0b0000000_00000_00000_011_00101_1111011 = some (.pgalloc 5) ∧
    decodeWord 0b0000000_00000_00110_100_00000_1111011 = some (.pgfree 6) ∧
    decodeWord 0b0000000_00111_00110_101_00101_1111011 = some (.kvmap 5 6 7) ∧
    decodeWord 0b0000001_00111_00110_101_00101_1111011 = some (.kvmapW 5 6 7) := by decide

theorem test_decode_system :
    decodeWord 0b0000000_00000_00000_000_00000_1110011 = some .ecall ∧
    decodeWord 0b0000000_00001_00000_000_00000_1110011 = some .ebreak ∧
    decodeWord 0b0001000_00101_00110_000_00000_1110011 = some (.sleep 6) ∧
    decodeWord 0b1011010_00001_00110_001_00101_1110011 = some (.csrrw 5 6 0xb41) ∧
    decodeWord 0b1011010_00001_00110_010_00101_1110011 = some (.csrrs 5 6 0xb41) ∧
    decodeWord 0b1011010_00001_00110_011_00101_1110011 = some (.csrrc 5 6 0xb41) ∧
    decodeWord 0b1011010_00001_10101_101_00101_1110011 = some (.csrrwi 5 21 0xb41) ∧
    decodeWord 0b1011010_00001_10101_110_00101_1110011 = some (.csrrsi 5 21 0xb41) ∧
    decodeWord 0b1011010_00001_10101_111_00101_1110011 = some (.csrrci 5 21 0xb41) ∧
    decodeWord 0b0011000_00000_00000_000_00000_1110011 = some .tret ∧
    decodeWord 0b0011000_00001_00110_000_00101_1110011 = some (.l2pset 5 6) ∧
    decodeWord 0b0011000_00010_00110_000_00000_1110011 = some (.tlbinvPage 6) ∧
    decodeWord 0b0011000_00011_00000_000_00000_1110011 = some .tlbinvAll ∧
    decodeWord 0b0011000_00100_00110_000_00101_1110011 = some (.capmint 5 6) ∧
    decodeWord 0b0011000_00101_00110_000_00101_1110011 = some (.preempt 5 6) ∧
    decodeWord 0b0011000_00110_00110_000_00000_1110011 = some (.qdrain 6) := by decide

/-- The three slots of the commands below, from A up. -/
def slots : BitVec 192 := (0xC : BitVec 64) ++ (0xB : BitVec 64) ++ (0xA : BitVec 64)

def sl : Slots := ⟨0xA, 0xB, 0xC, false, true⟩

/-- A command word with slot B marked unresolved is a well-formed instruction. -/
def command (w : BitVec 256) (i : Instr) : Bool := decodeCommand w false true == some i && i.wf

theorem test_decode_queue_control :
    command ((0b00000000_0000_0_1_00_000000000000_000_00000_0000000000000000000000000000 : BitVec 64) ++ slots)
      (.qnop true ⟨0, 0, 0, 0⟩ sl) = true ∧
    command ((0b00000001_0000_0_0_00_000000000000_000_00000_0000000000000000000000000000 : BitVec 64) ++ slots)
      (.qtag false ⟨0, 0, 0, 0⟩ sl) = true ∧
    command ((0b00000010_0000_0_1_00_000000000000_000_00000_0000000000000000000000000000 : BitVec 64) ++ slots)
      (.qord true ⟨0, 0, 0, 0⟩ sl) = true ∧
    command ((0b00000011_0000_0_0_00_101001011100_101_10011_0000000000000000000000000000 : BitVec 64) ++ slots)
      (.rep false ⟨0xA5C, 5, 19, 0⟩ sl) = true := by decide

theorem test_decode_track_commands :
    command ((0b00000000_0001_0_1_00_1010101_1010100101_000_0_00_00000_0000000000_0000000000 : BitVec 64) ++ slots)
      (.tseek true ⟨85, 677, 0, false, 0, 0, 0, 0⟩ sl) = true ∧
    command ((0b00000001_0001_0_1_00_1010101_0000000000_101_0_10_10011_0000000000_0000000000 : BitVec 64) ++ slots)
      (.trd true ⟨85, 0, 5, false, 2, 19, 0, 0⟩ sl) = true ∧
    command ((0b00000010_0001_0_0_00_1010101_0000000000_011_1_00_10100_0000000000_0000000000 : BitVec 64) ++ slots)
      (.twr false ⟨85, 0, 3, true, 0, 20, 0, 0⟩ sl) = true ∧
    command ((0b00000011_0001_0_1_00_1010101_0000000000_000_0_00_00000_0000000000_0000000000 : BitVec 64) ++ slots)
      (.trew true ⟨85, 0, 0, false, 0, 0, 0, 0⟩ sl) = true ∧
    command ((0b00000100_0001_0_1_00_1010101_0000000000_001_0_11_00000_0110100101_0000000000 : BitVec 64) ++ slots)
      (.tblk true ⟨85, 0, 1, false, 3, 0, 421, 0⟩ sl) = true ∧
    command ((0b00000101_0001_0_1_00_1010101_0000000000_111_1_00_00000_1001011010_0000000000 : BitVec 64) ++ slots)
      (.tblkw true ⟨85, 0, 7, true, 0, 0, 602, 0⟩ sl) = true := by decide

theorem test_decode_vector_moves :
    command ((0b00000000_0010_0_1_00_10011_00000_00000_00000_10_1_101_1_10010_00000_1_10101_00000 : BitVec 64) ++ slots)
      (.vld true ⟨19, 0, 0, 0, 2, true, 5, true, 18, 0, true, 21, 0⟩ sl) = true ∧
    command ((0b00000001_0010_0_1_00_10011_00000_00000_00000_10_1_101_1_10010_00000_1_10101_00110 : BitVec 64) ++ slots)
      (.vlds true ⟨19, 0, 0, 0, 2, true, 5, true, 18, 0, true, 21, 6⟩ sl) = true ∧
    command ((0b00000010_0010_0_1_00_10011_00000_10110_00000_10_1_101_1_10010_00000_1_10101_00000 : BitVec 64) ++ slots)
      (.vgath true ⟨19, 0, 22, 0, 2, true, 5, true, 18, 0, true, 21, 0⟩ sl) = true ∧
    command ((0b00000011_0010_0_1_00_10011_00000_00000_00000_10_1_101_1_10010_00000_0_10101_00000 : BitVec 64) ++ slots)
      (.vst true ⟨19, 0, 0, 0, 2, true, 5, true, 18, 0, false, 21, 0⟩ sl) = true ∧
    command ((0b00000100_0010_0_1_00_10011_00000_00000_00000_10_1_101_1_10010_00000_0_10101_01001 : BitVec 64) ++ slots)
      (.vsts true ⟨19, 0, 0, 0, 2, true, 5, true, 18, 0, false, 21, 9⟩ sl) = true ∧
    command ((0b00000101_0010_0_1_00_10011_00000_10110_00000_10_1_101_1_10010_00000_0_10101_00000 : BitVec 64) ++ slots)
      (.vscat true ⟨19, 0, 22, 0, 2, true, 5, true, 18, 0, false, 21, 0⟩ sl) = true ∧
    command ((0b00000110_0010_0_1_00_10011_00000_00000_00000_10_1_101_1_10010_00000_0_10101_00000 : BitVec 64) ++ slots)
      (.vbcast true ⟨19, 0, 0, 0, 2, true, 5, true, 18, 0, false, 21, 0⟩ sl) = true ∧
    command ((0b00000111_0010_0_1_00_10011_00000_00000_00000_10_1_101_1_10010_00000_0_00000_00000 : BitVec 64) ++ slots)
      (.vmovxBc true ⟨19, 0, 0, 0, 2, true, 5, true, 18, 0, false, 0, 0⟩ sl) = true ∧
    command ((0b00000111_0010_0_1_00_10011_00000_00000_00000_10_1_101_1_10010_00001_0_00000_00000 : BitVec 64) ++ slots)
      (.vmovxIns true ⟨19, 0, 0, 0, 2, true, 5, true, 18, 1, false, 0, 0⟩ sl) = true := by decide

theorem test_decode_vector_arithmetic :
    command ((0b00001000_0010_0_1_00_10011_10100_10110_00000_10_1_101_1_10010_00100_1_00000_00000 : BitVec 64) ++ slots)
      (.vop true ⟨19, 20, 22, 0, 2, true, 5, true, 18, 4, true, 0, 0⟩ sl) = true ∧
    command ((0b00001001_0010_0_1_00_10011_10100_10110_11001_10_1_101_1_10010_00011_1_00000_00000 : BitVec 64) ++ slots)
      (.vfma true ⟨19, 20, 22, 25, 2, true, 5, true, 18, 3, true, 0, 0⟩ sl) = true ∧
    command ((0b00001010_0010_0_1_00_00011_10100_00000_00000_10_1_101_1_10010_00010_0_00000_00001 : BitVec 64) ++ slots)
      (.vcmp true ⟨3, 20, 0, 0, 2, true, 5, true, 18, 2, false, 0, 1⟩ sl) = true ∧
    command ((0b00001011_0010_0_1_00_10011_10100_10110_00000_11_0_110_0_10010_00000_0_00000_00000 : BitVec 64) ++ slots)
      (.vsel true ⟨19, 20, 22, 0, 3, false, 6, false, 18, 0, false, 0, 0⟩ sl) = true ∧
    command ((0b00001100_0010_0_1_00_10011_10100_00000_11001_10_1_101_1_10010_00000_1_10101_00010 : BitVec 64) ++ slots)
      (.vcvt true ⟨19, 20, 0, 25, 2, true, 5, true, 18, 0, true, 21, 2⟩ sl) = true ∧
    command ((0b00001101_0010_0_1_00_10011_10100_00000_00000_10_1_101_0_10010_00010_1_00000_00000 : BitVec 64) ++ slots)
      (.vred true ⟨19, 20, 0, 0, 2, true, 5, false, 18, 2, true, 0, 0⟩ sl) = true ∧
    command ((0b00001110_0010_0_1_00_10011_10100_00000_00000_10_1_101_1_10010_00000_0_00000_00000 : BitVec 64) ++ slots)
      (.vexp true ⟨19, 20, 0, 0, 2, true, 5, true, 18, 0, false, 0, 0⟩ sl) = true ∧
    command ((0b00001111_0010_0_1_00_10011_10100_00000_00000_10_1_101_1_10010_00000_0_00000_00000 : BitVec 64) ++ slots)
      (.vrcp true ⟨19, 20, 0, 0, 2, true, 5, true, 18, 0, false, 0, 0⟩ sl) = true ∧
    command ((0b00010000_0010_0_1_00_10011_10100_00000_00000_10_1_101_1_10010_00000_0_00000_00000 : BitVec 64) ++ slots)
      (.vrsq true ⟨19, 20, 0, 0, 2, true, 5, true, 18, 0, false, 0, 0⟩ sl) = true ∧
    command ((0b00010001_0010_0_1_00_10011_10100_10110_00000_10_1_101_1_10010_00000_0_00000_00000 : BitVec 64) ++ slots)
      (.vperm true ⟨19, 20, 22, 0, 2, true, 5, true, 18, 0, false, 0, 0⟩ sl) = true ∧
    command ((0b00010010_0010_0_1_00_10011_10100_10110_11001_10_1_101_1_10010_00001_0_11010_00000 : BitVec 64) ++ slots)
      (.vdot true ⟨19, 20, 22, 25, 2, true, 5, true, 18, 1, false, 26, 0⟩ sl) = true := by decide

theorem test_decode_press :
    command ((0b00000000_0011_0_1_00_0000_0000_0000_00_00_00000_0_0_0_0_00000_0_1_1_000_000000000000 : BitVec 64) ++ slots)
      (.mclaim true ⟨0, 0, 0, 0, 0, 0, false, false, false, false, 0, false, true, true, 0, 0⟩ sl) = true ∧
    command ((0b00000001_0011_0_1_00_0000_0000_0000_00_00_00000_0_0_0_0_00000_0_0_0_000_000000000000 : BitVec 64) ++ slots)
      (.mfree true ⟨0, 0, 0, 0, 0, 0, false, false, false, false, 0, false, false, false, 0, 0⟩ sl) = true ∧
    command ((0b00000010_0011_0_1_00_1001_0000_0000_00_00_10010_0_1_0_0_10101_0_0_0_000_000000000000 : BitVec 64) ++ slots)
      (.mload true ⟨9, 0, 0, 0, 0, 18, false, true, false, false, 21, false, false, false, 0, 0⟩ sl) = true ∧
    command ((0b00000010_0011_0_1_00_0000_0000_0000_10_00_10010_0_0_1_1_10101_0_0_0_000_000000000000 : BitVec 64) ++ slots)
      (.mloadAcc true ⟨0, 0, 0, 2, 0, 18, false, false, true, true, 21, false, false, false, 0, 0⟩ sl) = true ∧
    command ((0b00000011_0011_0_1_00_0000_0000_0000_10_00_00000_0_0_0_0_00000_0_0_0_000_000000000000 : BitVec 64) ++ slots)
      (.mzero true ⟨0, 0, 0, 2, 0, 0, false, false, false, false, 0, false, false, false, 0, 0⟩ sl) = true ∧
    command ((0b00000100_0011_0_1_00_1001_1010_0000_10_00_00000_0_0_0_0_00000_0_0_0_000_000000000000 : BitVec 64) ++ slots)
      (.mma true ⟨9, 10, 0, 2, 0, 0, false, false, false, false, 0, false, false, false, 0, 0⟩ sl) = true ∧
    command ((0b00000101_0011_0_1_00_1001_1010_1100_10_00_00000_0_0_0_0_00000_1_0_0_000_000000000000 : BitVec 64) ++ slots)
      (.mmaSp true ⟨9, 10, 12, 2, 0, 0, false, false, false, false, 0, true, false, false, 0, 0⟩ sl) = true ∧
    command ((0b00000110_0011_0_1_00_1001_0000_0000_10_01_00000_0_0_0_0_00000_0_0_0_011_000000000000 : BitVec 64) ++ slots)
      (.msoft true ⟨9, 0, 0, 2, 1, 0, false, false, false, false, 0, false, false, false, 3, 0⟩ sl) = true ∧
    command ((0b00000111_0011_0_1_00_0000_0000_0000_10_01_00000_0_0_0_0_00000_0_0_0_000_000000000000 : BitVec 64) ++ slots)
      (.mmerge true ⟨0, 0, 0, 2, 1, 0, false, false, false, false, 0, false, false, false, 0, 0⟩ sl) = true ∧
    command ((0b00001000_0011_0_1_00_0000_0000_0000_10_00_00000_0_0_0_0_00000_0_0_0_000_000000000000 : BitVec 64) ++ slots)
      (.mnorm true ⟨0, 0, 0, 2, 0, 0, false, false, false, false, 0, false, false, false, 0, 0⟩ sl) = true ∧
    command ((0b00001001_0011_0_1_00_0000_0000_0000_10_00_10010_1_0_0_1_10101_0_0_0_000_000000000000 : BitVec 64) ++ slots)
      (.mdrain true ⟨0, 0, 0, 2, 0, 18, true, false, false, true, 21, false, false, false, 0, 0⟩ sl) = true ∧
    command ((0b00001010_0011_0_1_00_0000_0000_0000_10_00_00000_0_0_0_0_00000_0_1_0_000_000000000000 : BitVec 64) ++ slots)
      (.mstat true ⟨0, 0, 0, 2, 0, 0, false, false, false, false, 0, false, true, false, 0, 0⟩ sl) = true := by decide

theorem test_decode_copy_engine :
    command ((0b00000000_0100_0_1_00_1_0_000_0000_000000000000000000000000000000000000000 : BitVec 64) ++ slots)
      (.cpy true ⟨true, false, 0, 0, 0⟩ sl) = true ∧
    command ((0b00000000_0100_0_1_00_0_1_000_0000_000000000000000000000000000000000000000 : BitVec 64) ++ slots)
      (.cpyRb true ⟨false, true, 0, 0, 0⟩ sl) = true ∧
    command ((0b00000001_0100_0_1_00_0_0_000_0000_000000000000000000000000000000000000000 : BitVec 64) ++ slots)
      (.cfill true ⟨false, false, 0, 0, 0⟩ sl) = true ∧
    command ((0b00000001_0100_0_1_00_1_1_000_0000_000000000000000000000000000000000000000 : BitVec 64) ++ slots)
      (.cfillRb true ⟨true, true, 0, 0, 0⟩ sl) = true ∧
    command ((0b00000010_0100_1_0_00_0_0_101_1010_000000000000000000000000000000000000000 : BitVec 64) ++ slots)
      (.subCommand false true ⟨false, false, 5, 10, 0⟩ sl) = true ∧
    command ((0b00000011_0100_0_1_00_0_0_101_0000_000000000000000000000000000000000000000 : BitVec 64) ++ slots)
      (.unsub true ⟨false, false, 5, 0, 0⟩ sl) = true ∧
    command ((0b00000100_0100_0_1_00_1_0_101_1010_000000000000000000000000000000000000000 : BitVec 64) ++ slots)
      (.retn true ⟨true, false, 5, 10, 0⟩ sl) = true := by decide

/-! ## Words that are no instruction, and the assembled examples of R142, R159, R170, R226, R252, R270 and R307 -/

theorem test_illegal_words :
    [0x00000000#32, 0xFFFFFFFF#32, 0x00000001#32, 0x00000012#32, 0x00000043#32, 0x0000004B#32, 0x00000057#32, 0x0000005F#32,
      0x00000077#32, 0x0000001F#32, 0x0000003F#32, 0x0000007F#32, 0x08001013#32, 0x40001013#32, 0x04000033#32, 0x40001033#32,
      0x4000403B#32, 0x02002063#32, 0x00001067#32, 0x06000027#32, 0x0600002B#32 ||| 0x00100000#32, 0x0E00002B#32,
      0x1000000F#32 ||| 0x08000000#32, 0x0040000F#32, 0x0500000F#32, 0x0000300B#32, 0x0000008B#32, 0x2000000B#32,
      0x000000DB#32, 0x0001205B#32 ||| 0x00080000#32, 0x0000607B#32, 0x0000707B#32, 0x00004073#32, 0x00200073#32,
      0x000080F3#32, 0x30000173#32].all (fun w => decodeWord w == none) = true := by decide

theorem test_assembled_words :
    decodeWord 0xFE029EE3 = some (.bne 5 0 (-2)) ∧
    decodeWord 0x0CB6752F = some (.amoAdd ⟨true, true, false⟩ .b64 10 11 12) ∧
    decodeWord 0xB806752F = some (.take ⟨true, false, false⟩ .b64 10 12) ∧
    decodeWord 0x0205000B = some (.cmd ⟨1, 0⟩ 10 0) ∧
    decodeWord 0x1CC5800B = some (.cmd ⟨2, 3⟩ 11 12) ∧
    decodeWord 0x10601073 = some (.csrrw 0 0 0x106) := by decide

theorem test_assembled_commands :
    decodeCommand ((0x0820443004000000 : BitVec 64) ++ (0 : BitVec 192)) false false =
      some (.vop false ⟨8, 16, 24, 0, 1, false, 0, false, 0, 0, false, 0, 0⟩ ⟨0, 0, 0, false, false⟩) ∧
    decodeCommand ((0x0430010000000000 : BitVec 64) ++ (0 : BitVec 192)) false false =
      some (.mma false ⟨0, 1, 0, 0, 0, 0, false, false, false, false, 0, false, false, false, 0, 0⟩ ⟨0, 0, 0, false, false⟩) ∧
    decodeCommand ((0x02302000087C0000 : BitVec 64) ++ (0 : BitVec 64) ++ (0x200 : BitVec 64) ++ (0 : BitVec 64)) false false =
      some (.mload false ⟨2, 0, 0, 0, 0, 1, false, false, false, false, 31, false, false, false, 0, 0⟩
        ⟨0, 0x200, 0, false, false⟩) ∧
    decodeCommand ((0x0630400400000000 : BitVec 64) ++ (0 : BitVec 192)) false false =
      some (.msoft false ⟨4, 0, 0, 1, 0, 0, false, false, false, false, 0, false, false, false, 0, 0⟩
        ⟨0, 0, 0, false, false⟩) ∧
    decodeCommand ((0x0730000100000000 : BitVec 64) ++ (0 : BitVec 192)) false false =
      some (.mmerge false ⟨0, 0, 0, 0, 1, 0, false, false, false, false, 0, false, false, false, 0, 0⟩
        ⟨0, 0, 0, false, false⟩) := by decide

/-- R194: a command of an unlisted engine or OP, with bit 240 set, or with COMBINE and not SUB, is undefined. -/
theorem test_undefined_commands :
    [0x0050000000000000#64, 0x0400000000000000#64, 0x0610000000000000#64, 0x1320000000000000#64, 0x0B30000000000000#64,
      0x0540000000000000#64, 0x0001000000000000#64, 0x0002000000000000#64, 0x0048000000000000#64].all
      (fun t => decodeCommand (t ++ (0 : BitVec 192)) false false == none) = true := by decide

/-! ## Well-formedness: an ill-formed term for each check -/

/-- No field used. -/
def noVec : VecF := ⟨0, 0, 0, 0, 0, false, 0, false, 0, 0, false, 0, 0⟩

def noPress : PressF := ⟨0, 0, 0, 0, 0, 0, false, false, false, false, 0, false, false, false, 0, 0⟩

def noTrack : TrackF := ⟨0, 0, 0, false, 0, 0, 0, 0⟩

def noCopy : CopyF := ⟨false, false, 0, 0, 0⟩

def noOrder : Order := ⟨false, false, false⟩

/-- R66, R159, R170, R174 and R201 to R270: widths that atomics do not have, registers that a suspension point clears, patches,
and fields that must be zero. -/
theorem test_ill_formed_scalars :
    [Instr.amoAdd noOrder .b3 5 7 6, .amoAnd noOrder .b6 5 7 6, .amoOr noOrder .b3 5 7 6, .amoXor noOrder .b6 5 7 6,
      .amoMin noOrder .b3 5 7 6, .amoMax noOrder .b6 5 7 6, .amoMinn noOrder .b3 5 7 6, .amoMaxn noOrder .b6 5 7 6,
      .amoSwap noOrder .b3 5 7 6, .cas noOrder .b6 5 7 6, .put noOrder .b3 7 6, .takeNb noOrder .b6 5 7 6,
      .amoFadd noOrder .b64 5 7 6, .amoFadd noOrder .b8 5 7 6, .take noOrder .b64 9 6, .take noOrder .b3 10 6,
      .await .eq false .b64 14 7 6, .await .eq false .b6 10 7 6, .cmd ⟨0, 1⟩ 0 7, .cmd ⟨2, 2⟩ 6 7, .cmd ⟨3, 1⟩ 6 7,
      .cmd ⟨0, 0⟩ 6 0, .cmdr ⟨1, 0⟩ 6 7, .cmdr ⟨2, 1⟩ 6 7, .spawnW 5 6, .spawnAtW 14 6 7].all
      (fun i => !i.wf) = true := by decide

theorem test_ill_formed_queue_and_tracks :
    [Instr.qnop false ⟨1, 0, 0, 0⟩ sl, .qtag false ⟨0, 1, 0, 0⟩ sl, .qord false ⟨0, 0, 1, 0⟩ sl, .qnop false ⟨0, 0, 0, 1⟩ sl,
      .rep true ⟨1, 1, 1, 0⟩ sl, .rep false ⟨1, 1, 1, 1⟩ sl, .tseek false { noTrack with step := 1 } sl,
      .tseek false { noTrack with npos := 1 } sl, .trew false { noTrack with head := 1 } sl,
      .trd false { noTrack with four := true, seg := 1 } sl, .twr false { noTrack with head := 1 } sl,
      .trd false { noTrack with npos := 1 } sl, .tblk false { noTrack with vreg := 1 } sl,
      .tblkw false { noTrack with low := 1 } sl].all (fun i => !i.wf) = true := by decide

theorem test_ill_formed_vectors :
    [Instr.vld false { noVec with va := 1 } sl, .vst false { noVec with fn := 1 } sl, .vbcast false { noVec with aux := 1 } sl,
      .vlds false { noVec with vb := 1 } sl, .vsts false { noVec with vc := 1 } sl, .vgath false { noVec with aux := 1 } sl,
      .vscat false { noVec with va := 1 } sl, .vmovxBc false { noVec with fn := 1 } sl, .vmovxIns false noVec sl,
      .vmovxBc false { noVec with rtz := true } sl, .vld false { noVec with mz := true } sl,
      .vop false { noVec with fn := 16 } sl, .vop false { noVec with aux := 2 } sl, .vop false { noVec with fn := 8, vb := 1 } sl,
      .vop false { noVec with fn := 13, aux := 1 } sl, .vop false { noVec with aux := 1, vb := 1 } sl,
      .vop false { noVec with xt := 1 } sl, .vfma false { noVec with fn := 4 } sl, .vcmp false { noVec with fn := 7 } sl,
      .vcmp false { noVec with aux := 2 } sl, .vcmp false { noVec with aux := 1, vb := 1 } sl, .vcmp false { noVec with rtz := true } sl,
      .vsel false { noVec with men := true } sl, .vsel false { noVec with fn := 1 } sl, .vcvt false { noVec with vb := 1 } sl,
      .vred false { noVec with fn := 6 } sl, .vred false { noVec with men := true, mz := true } sl,
      .vexp false { noVec with vb := 1 } sl, .vrcp false { noVec with rtz := true } sl, .vrsq false { noVec with fn := 1 } sl,
      .vperm false { noVec with vc := 1 } sl, .vdot false { noVec with fn := 2 } sl, .vdot false { noVec with rtz := true } sl].all
      (fun i => !i.wf) = true := by decide

theorem test_ill_formed_press_and_copies :
    [Instr.mclaim false { noPress with acc := 1 } sl, .mfree false { noPress with cwput := true } sl,
      .mload false { noPress with rs := true } sl, .mload false { noPress with dk := true } sl,
      .mloadAcc false { noPress with dk := true, sa := 1 } sl, .mloadAcc false noPress sl, .mzero false { noPress with sb := 1 } sl,
      .mnorm false { noPress with acc2 := 1 } sl, .mma false { noPress with sm := 1 } sl, .mmaSp false { noPress with ty := 1 } sl,
      .msoft false { noPress with sb := 1 } sl, .mmerge false { noPress with sa := 1 } sl,
      .mdrain false { noPress with tr := true } sl, .mstat false { noPress with nrow := 1 } sl,
      .mma false { noPress with low := 1 } sl, .cpy false { noCopy with rb := true } sl, .cpyRb false noCopy sl,
      .cfill false { noCopy with subid := 1 } sl, .cfillRb false { noCopy with rb := true, ns := 1 } sl,
      .subCommand false true { noCopy with cwput := true } sl, .unsub false { noCopy with ns := 1 } sl,
      .retn false { noCopy with rb := true } sl, .cpy false { noCopy with low := 1 } sl].all (fun i => !i.wf) = true := by decide

/-- A word with an ill-formed field raises an illegal-instruction fault: AMO.add.b3, AMO.fadd.b64, TAKE into x9, a patch of slot
B after slot B. -/
theorem test_ill_formed_words :
    decodeWord 0b0000000_00111_00110_001_00101_0101111 = none ∧ decodeWord 0b1001000_00111_00110_111_00101_0101111 = none ∧
    decodeWord 0b1011000_00000_00110_111_01001_0101111 = none ∧ decodeWord 0b0001010_00111_00110_000_00000_0001011 = none := by
  decide

/-! ## Worked examples of the spec, one step each -/

/-- A partition of 8 × 8 cores at reset values, a strand of S mode in bank 0 of a core; the core is current. -/
def on (core : Nat) : State :=
  let s := State.reset.placed [] none
  { s with cores := [(core, s.core 0)], cur := core }

def one : State := on 0

/-- The same strand in U mode. -/
def user : State := one.modStrand one.here fun a => { a with priv := false }

/-- Registers set. -/
def State.set (s : State) : List (Reg × Word) → State
  | [] => s
  | (r, v) :: l => State.set (s.setReg r v) l

def after {α : Type} (i : Instr) (s : State) (f : State → α) : Option α :=
  match exec i s with
  | .next t => some (f t)
  | _ => none

/-- R141: −7 ÷ 0, −2⁶³ ÷ −1 and −7 ÷ 2, quotient and remainder. -/
theorem test_division :
    after (.div 5 6 7) (State.set one [(6, -7), (7, 0)]) (·.reg 5) = some (-1) ∧
    after (.rem 5 6 7) (State.set one [(6, -7), (7, 0)]) (·.reg 5) = some (-7) ∧
    after (.div 5 6 7) (State.set one [(6, 0x8000000000000000), (7, -1)]) (·.reg 5) = some 0x8000000000000000 ∧
    after (.remw 5 6 7) (State.set one [(6, -7), (7, 2)]) (·.reg 5) = some (-1) := by decide +kernel

/-- R142: a branch back two instructions. -/
theorem test_branch : after (.bne 5 0 (-2)) (State.set one [(5, 1)]) (·.pc) = some (one.pc - 64) := by decide +kernel

/-- R158's table, on core (3, 5). -/
theorem test_pointers :
    let s := State.set (on (coreId 3 5)) [(11, 0x00180A0000040100), (12, 37), (6, 0x00180A0000040000), (10, 0x00180A0000040194)]
    after (.padd .b4 10 11 12) s (·.reg 10) = some 0x00180A0000040194 ∧
    after (.pdiff .b4 5 10 6) s (·.reg 5) = some 101 ∧
    after (.pxy 7 10) s (·.reg 7) = some 0x0000000500000003 ∧
    after (.prelR 28 10) s (·.reg 28) = some 0x4000000000040194 ∧
    after (.pdiff .b8 5 10 6) s (fun t => (t.bank t.here).tcause) = some 0x06 := by decide +kernel

theorem test_pointers_elsewhere :
    after (.prelR 28 10) (State.set (on (coreId 2 4)) [(10, 0x00180A0000040194)]) (·.reg 28) = some 0x4008020000040194 ∧
    after (.paln .b3 29 30 0) (State.set one [(30, 63)]) (·.reg 29) = some 64 ∧
    after (.paln .b3 29 30 0) (State.set one [(30, 61)]) (·.reg 29) = some 61 := by decide +kernel

/-- R307: CSRRW zero, 0x106, zero clears QERR. -/
theorem test_clear_qerr :
    after (.csrrw 0 0 0x106) (one.modStrand one.here fun a => { a with qerr := 9 }) (fun t => (t.strand t.here).qerr) =
      some 0 := by decide +kernel

/-- R4, R145: four bits stored at bit 20 are the high half of byte 2 of a word loaded at bit 0. -/
theorem test_store_then_load :
    (match exec (.st .b4 7 6 5) (State.set one [(6, 0), (7, 0xAB)]) with
      | .next t => after (.ld .b64 5 6 0) t (·.reg 5)
      | _ => none) = some 0xB00000 := by decide +kernel

/-- R164, R165: PUT fills an empty word; a second PUT takes the put-on-full fault. -/
theorem test_put :
    (match exec (.put ⟨false, false, false⟩ .b64 7 6) (State.set one [(6, 64), (7, 3)]) with
      | .next t => some (t.full, (after (.put ⟨false, false, false⟩ .b64 7 6) t fun u => (u.bank u.here).tcause).getD 0)
      | _ => none) = some ([scratchBase 0 / 64 + 1], 0x0A) := by decide +kernel



/-! ## States that meet the hypotheses of the statements

Each theorem shows that the hypotheses of the statement it is named for are met together; where the statement has
several clauses, those of each clause, at a boundary value of its range where it has one. -/

theorem Tbl.get_all {α : Type} {P : α → Prop} (d : α) (hd : P d) : ∀ (t : Tbl α), (∀ e ∈ t, P e.2) → ∀ k, P (t.get d k)
  | [], _, _ => hd
  | (j, v) :: r, h, k => by
    unfold Tbl.get
    split
    · exact h (j, v) (by simp)
    · exact Tbl.get_all d hd r (fun e he => h e (by simp [he])) k

/-- What every listed quad has, and a quad at reset, every quad has. -/
theorem quad_all {s : State} {P : Quad → Prop} (hd : P .reset) (h : ∀ e ∈ s.quads, P e.2) : ∀ q, P (s.quad q) :=
  Tbl.get_all _ hd _ h

theorem core_all {s : State} {P : Core → Prop} (hd : P .reset) (h : ∀ e ∈ s.cores, P e.2) : ∀ c, P (s.core c) :=
  Tbl.get_all _ hd _ h

theorem cluster_all {s : State} {P : Cluster → Prop} (hd : P .reset) (h : ∀ e ∈ s.clusters, P e.2) : ∀ q, P (s.cluster q) :=
  Tbl.get_all _ hd _ h

theorem no_drain {s : State} (h : (s.core s.cur).draining = []) : s.NoDrain := by simp [State.NoDrain, h]

theorem none_deferred {s : State} (h : ∀ e ∈ s.quads, e.2.deferred = []) : ∀ q, (s.quad q).deferred = [] :=
  quad_all (P := fun k => k.deferred = []) rfl h

theorem Tbl.get_listed {α : Type} {P : Nat → α → Prop} (d : α) (hd : ∀ k, P k d) :
    ∀ (t : Tbl α), (∀ e ∈ t, P e.1 e.2) → ∀ k, P k (t.get d k)
  | [], _, k => hd k
  | (j, v) :: r, h, k => by
    unfold Tbl.get
    split
    · next e => exact e ▸ h (j, v) (by simp)
    · exact Tbl.get_listed d hd r (fun e he => h e (by simp [he])) k

/-- Where the only live bank that is listed is one place, no other bank is live. -/
theorem live_only {s : State} {p : Place}
    (h : ∀ e ∈ s.cores, ∀ b : Fin 4, (e.2.banks[b]).live = true → (⟨e.1, b⟩ : Place) = p) :
    ∀ q : Place, (s.bank q).live = true → q = p := by
  have k := Tbl.get_listed (P := fun c (x : Core) => ∀ b : Fin 4, (x.banks[b]).live = true → (⟨c, b⟩ : Place) = p)
    .reset (fun c b hb => absurd hb (by simp [Core.reset, Bank.reset])) s.cores h
  exact fun q hq => k q.core q.bank hq

/-- `one` with registers a1, a2 and more set: x6, x7, x28. -/
def at6 (a : Word) : State := State.set one [(6, a)]

def at67 (a b : Word) : State := State.set one [(6, a), (7, b)]

/-- A PC that is a multiple of 32; and one that is not, from which a branch or a jump of distance 0 is misaligned. -/
theorem witness_BranchesAndJal :
    let m := one.modStrand one.here fun a => { a with pc := 16 }
    one.pc.toNat % 32 = 0 ∧ m.Handles ∧ (m.pc + ((0 : BitVec 12) ++ 0#1).signExtend 64 * 16).toNat % 32 ≠ 0 ∧
    (m.pc + ((0 : BitVec 20) ++ 0#1).signExtend 64 * 16).toNat % 32 ≠ 0 := by unfold State.Handles; decide +kernel

theorem witness_AuipcAndJalr : one.Handles ∧ ((at6 0).reg 6 + (0xFE0#12).signExtend 64).toNat % 32 = 0 ∧
    ((at6 0).reg 6 + (1#12).signExtend 64).toNat % 32 ≠ 0 := by
  unfold State.Handles; decide +kernel

/-- Each clause: space 101; a sum at both ends of the field and past them; operands of PDIFF; PALN at 0 and past the field. -/
theorem witness_PointerOffsets : one.Handles ∧ 5 ≤ (0xA000000000000000 : Word).toNat / 2 ^ 61 ∧
    (0x000000 : Word).toNat / 2 ^ 61 < 5 ∧
    ((0xFFFFFE : Int) + 1 < 2 ^ 24 ∧ ¬ ((0xFFFFFF : Int) + 1 < 2 ^ 24) ∧ (0 : Int) + (-1) * 1 < 0) ∧
    (0x40 : Word).toNat / 2 ^ 24 = (0x42 : Word).toNat / 2 ^ 24 ∧ ((0x40 : Int) - 0x42) % 4 ≠ 0 ∧ ((0x40 : Int) - 0x44) % 4 = 0 ∧
    (0x40 : Word).toNat / 2 ^ 24 ≠ (0x1000040 : Word).toNat / 2 ^ 24 ∧ 0x1000000 % 512 = 0 := by
  unfold State.Handles; decide +kernel

theorem witness_PointerOffsets_ends :
    after (.padd .b1 5 6 7) (at67 0xFFFFFE 1) (·.reg 5) = some 0xFFFFFF ∧
    after (.padd .b1 5 6 7) (at67 0xFFFFFF 1) (fun t => (t.bank t.here).tcause) = some 0x05 ∧
    after (.padd .b1 5 6 7) (at67 0 (-1)) (fun t => (t.bank t.here).tcause) = some 0x05 ∧
    after (.pdiff .b4 5 6 7) (at67 0x40 0x1000040) (fun t => (t.bank t.here).tval) = some 0x1000040 ∧
    after (.paln .b64 5 6 3) (at6 0xFFFFFF) (fun t => (t.bank t.here).tcause) = some 0x05 := by decide +kernel

theorem witness_PointerFields : one.Handles ∧ (0x2000000000000000 : Word).toNat / 2 ^ 61 = 1 ∧
    (0xA000000000000000 : Word).toNat / 2 ^ 61 = 5 ∧ (0x4000000000000000 : Word).toNat / 2 ^ 61 = 2 ∧
    (0x8000000000000000 : Word).toNat / 2 ^ 61 = 4 ∧ ((15 : Word).toNat ≤ 15 ∧ 15 < (16 : Word).toNat) := by
  unfold State.Handles; decide +kernel

/-- The clauses of PSETXY, PLAY.S, PREL.A and PREL.R at the ends of their ranges. -/
theorem witness_PointerFields_ends :
    after (.psetxy 5 6 7) (at67 0 0x3FF000003FF) (·.reg 5) = some 0x1FFFFE0000000000 ∧
    after (.psetxy 5 6 7) (at67 0 0x400) (fun t => (t.bank t.here).tcause) = some 0x05 ∧
    after (.psetxy 5 6 7) (at67 0x4000000000000000 0xFFFFFE00000001FF) (·.reg 5) = some 0x4FFC000000000000 ∧
    after (.playS 5 6 7) (at67 0 15) (·.reg 5) = some 0x1E000000000 ∧
    after (.playS 5 6 7) (at67 0 16) (fun t => (t.bank t.here).tcause) = some 0x05 ∧
    after (.prelA 5 6) (at6 0x4038000000000000) (·.reg 5) = some 0x0038000000000000 ∧
    after (.prelA 5 6) (at6 0x4040000000000000) (fun t => (t.bank t.here).tcause) = some 0x05 ∧
    after (.prelR 5 6) (at6 (511 * 2 ^ 51)) (·.reg 5) = some 0x4FF8000000000000 ∧
    after (.prelR 5 6) (at6 (512 * 2 ^ 51)) (fun t => (t.bank t.here).tcause) = some 0x05 := by decide +kernel

/-- The last 64 bits of cabinet 0, and the last bit of cabinet 6. -/
theorem witness_OwnQuadLoads : (at6 0x1FFC0).Issues ∧ (at6 0x1FFC0).NamesOwn 0x1FFC0 64 (scratchBase 0 + 0x1FFC0) ∧
    (at6 0x1FFC0).NamesOwn 0xDFFFF 1 (scratchBase 0 + 0xDFFFF) :=
  ⟨by unfold State.Issues; decide +kernel, ⟨0, 0, 0x1FFC0, by decide +kernel⟩, ⟨0, 0, 0xDFFFF, by decide +kernel⟩⟩

theorem witness_OwnQuadStores : (at6 64).Issues ∧ (at6 64).MemoryWf ∧ (at6 64).NamesOwn (64 + 63) 1 (scratchBase 0 + 127) ∧
    ((at6 64).quad 0).deferred = [] :=
  ⟨by unfold State.Issues; decide +kernel, by unfold State.MemoryWf; decide +kernel, ⟨0, 0, 127, by decide +kernel⟩, by decide +kernel⟩

/-- A word that holds the greatest negative number of 8 bits: less than, and equal to, what is compared. -/
theorem witness_OwnQuadAtomics :
    let s := { at6 64 with mem := (one.mem).writeBits (scratchBase 0 + 64) 8 0x80 }
    s.Issues ∧ s.MemoryWf ∧ s.NamesOwn (s.reg 6) 8 (scratchBase 0 + 64) ∧ s.bitsAt (scratchBase 0 + 64) 8 = 0x80 ∧
    (BitVec.ofNat 8 0x80).toInt < (BitVec.ofNat 8 ((s.reg 7).toNat % 2 ^ 8)).toInt :=
  ⟨by unfold State.Issues; decide +kernel, by unfold State.MemoryWf; decide +kernel, ⟨0, 0, 64, by decide +kernel⟩, by decide +kernel⟩

/-- An empty word, whose 4 bits at its end AWAIT compares with 0; and a full one. -/
theorem witness_FullEmptyWords :
    let s := at6 (64 + 60)
    (s.Issues ∧ s.MemoryWf ∧ s.NamesOwn (s.reg 6) 4 (scratchBase 0 + 124) ∧
      (scratchBase 0 + 124) / 64 = (scratchBase 0 + 124 + 4 - 1) / 64 ∧ (s.quad 0).deferred = [] ∧ s.mustDrainVectors = false ∧
      (s.bank s.here).mark = none ∧ s.NoDrain ∧ s.Handles) ∧
    (scratchBase 0 + 124) / 64 ∉ s.full ∧ (scratchBase 0 + 124) / 64 ∈ { s with full := [scratchBase 0 / 64 + 1] }.full ∧
    BitVec.ofNat 4 (s.bitsAt (scratchBase 0 + 124) 4) = BitVec.ofNat 4 (s.reg 7).toNat :=
  ⟨⟨by unfold State.Issues; decide +kernel, by unfold State.MemoryWf; decide +kernel, ⟨0, 0, 124, by decide +kernel⟩,
    by decide +kernel, by decide +kernel, by decide +kernel, by decide +kernel, no_drain (by decide +kernel),
    by unfold State.Handles; decide +kernel⟩, by decide +kernel⟩

/-- Space 101; cabinet 7 from U mode; column 8 of 8; layer 1, and the first bit past the cabinets; bit 1. -/
theorem witness_AddressFaults : one.Handles ∧ user.Handles ∧ user.user = true ∧ (0xE0000 : Word).toNat % 2 ^ 24 / 2 ^ 17 = 7 ∧
    one.part.inside 8 0 = false ∧ one.part.inside 7 7 = true ∧ (0x2000000000 : Word).toNat % 2 ^ 41 / 2 ^ 37 = 1 ∧
    2 ^ 20 ≤ (0x100000 : Word).toNat % 2 ^ 24 ∧ (1 : Word).toNat % 2 ^ 24 % bitsOf .b64 ≠ 0 := by
  unfold State.Handles; decide +kernel

/-- `one` with the first GiB of HBM mapped by a leaf of these low bits. -/
def mapped (leaf : Nat) : State :=
  { one with mem := (placedMemory [] 36 0).writeNat (placedRoot + 0x1000) 8 (2 ^ 63 + 2 ^ 62 + leaf) }

/-- An access that runs past a cabinet, and past a bank; columns −1 and 8, relative; the module's own number, a peer that is bound
and one that is not; register space from each mode. -/
theorem witness_AddressFaults_spaces :
    let m : State := { one with modid := 2 ^ 63 + 5, part := { one.part with peers := [⟨6, 0, 8, 8, [0]⟩] } }
    (2 ^ 17 < 0x1FFFE % 2 ^ 17 + 3 ∧ 2 ^ 20 < 0xFFFFE % 2 ^ 20 + 3 ∧ one.part.inside 0 0 = true) ∧
    ((coreX one.cur : Int) + (1023#10).toInt = -1 ∧ (coreX one.cur : Int) + (8#10).toInt = one.part.width ∧
      (coreX one.cur : Int) + (7#10).toInt < one.part.width) ∧
    (m.modid.getLsbD 63 = true ∧ m.modid.toNat % 2 ^ 12 = (0x800A000000000000 : Word).toNat / 2 ^ 49 % 2 ^ 12 ∧
      m.modid.toNat % 2 ^ 12 ≠ (0x800C000000000000 : Word).toNat / 2 ^ 49 % 2 ^ 12) ∧
    (m.part.peers.map (·.num.toNat) = [6] ∧ (0x800C000000000000 : Word).toNat / 2 ^ 49 % 2 ^ 12 = 6 ∧
      (0x800E000000000000 : Word).toNat / 2 ^ 49 % 2 ^ 12 = 7) ∧ user.user = true ∧ one.user = false ∧ m.Handles := by
  unfold State.Handles; decide +kernel

/-- Space 001: past its end and at it, a multiple and none, bits 60:51; a leaf that permits no load, a malformed one, and none. -/
theorem witness_AddressFaults_virtual :
    (2 ^ 61 < (2 ^ 61 - 2) + 3 ∧ (2 ^ 61 - 64) + 64 ≤ 2 ^ 61 ∧ (2 ^ 61 - 64) % 64 = 0 ∧ (2 ^ 61 - 65) % 64 ≠ 0 ∧
      (0x2008000000000000 : Word).toNat / 2 ^ 51 % 2 ^ 10 ≠ 0) ∧
    ((mapped 2).translation 0 .load (2 ^ 33 - 64) = .leaf 0xC000000000000002 33 ∧ permits 0xC000000000000002 .load false = false ∧
      (mapped (2 ^ 48 + 0xF)).translation 0 .load 0 = .bad ∧ one.translation 0 .load 0 = .absent ∧ (one.cluster 0).fqbase >>> 9 = 0) ∧
    (mapped 2).Handles ∧ (mapped (2 ^ 48 + 0xF)).Handles := by unfold State.Handles; decide +kernel

/-- Block 1 of the core (1, 1), of the own quad, and block 4 and core (7, 7) of register space, from S mode and from U mode. -/
theorem witness_RegisterSpace :
    let a : Word := 0x6000008000000000 + 7 * 2 ^ 51 + 7 * 2 ^ 41
    let o : Word := 0x6000002000000000 + 2 ^ 51 + 2 ^ 41
    (a.toNat / 2 ^ 61 = 3 ∧ a.toNat / 2 ^ 37 % 16 = 4 ∧ a.toNat % 64 = 0 ∧
      one.part.inside (a.toNat / 2 ^ 51 % 1024) (a.toNat / 2 ^ 41 % 1024) = true) ∧
    (o.toNat / 2 ^ 61 = 3 ∧ o.toNat / 2 ^ 37 % 16 = 1 ∧ o.toNat % 64 = 0 ∧
      one.part.inside (o.toNat / 2 ^ 51 % 1024) (o.toNat / 2 ^ 41 % 1024) = true ∧
      quadOf (coreId (o.toNat / 2 ^ 51 % 1024) (o.toNat / 2 ^ 41 % 1024)) = quadOf one.cur) ∧ one.user = false ∧
    user.user = true ∧ user.Handles ∧ one.Handles := by unfold State.Handles; decide +kernel

/-! ### Messages, tasks, barriers, residency -/

/-- A message of bank 0 of core (0, 0), with tag 5: a load of 8 bits, or an atomic on 64. -/
def loads (key : Nat) (a : Word) : Msg := ⟨⟨0, 0⟩, 0x40000, 5, .load true, [⟨key, 8⟩], a, 0, 0, 5, 0, false⟩

def takes : Msg := ⟨⟨0, 0⟩, 0x40000, 5, .take, [⟨scratchBase 0, 64⟩], 0, 0, 0, 5, 0, false⟩

def waits : State := one.modBank one.here fun b => { b with status := .reply .other 64 5 }

/-- A load from the end of a scratchpad, of the end of the last track, and of a register; a TAKE of a word that is full, or
empty with a place among the 64 that wait, or with none. -/
theorem witness_MessagesAndReplies :
    ((∀ q, ∀ e ∈ (waits.quad q).deferred, ¬(e.src = takes.src ∧ e.tag = takes.tag)) ∧ waits.bad = [] ∧
      ∀ c, (waits.core c).slips = [] ∧ (waits.core c).spineBroken = [] ∧ (waits.core c).dead = []) ∧
    (∀ m ∈ [loads (trackBase 0 - 8) 0xFFFF8, loads (trackKey 0 127 4095) 0x4000000000000000, loads 0 0x6000000000000000, takes],
      waits.filter (filterPlace m) = []) ∧
    ((0xFFFF8 : Word).toNat / 2 ^ 61 = 0 ∧ (0x4000000000000000 : Word).toNat / 2 ^ 61 = 2 ∧
      (0x6000000000000000 : Word).toNat / 2 ^ 61 = 3 ∧ scratchBase 0 ≤ trackBase 0 - 8 ∧ trackBase 0 - 8 + 8 ≤ trackBase 0) ∧
    (trackBase 0 ≤ trackKey 0 127 4095 ∧ trackKey 0 127 4095 + 8 ≤ peerBase 0 ∧ (0 : Nat) < 2 ^ 24) ∧
    waits.waiting (loads 64 64) = true ∧ waits.retrying (loads 64 64) = false ∧ waits.filterLoad takes < 256 ∧
    scratchBase 0 / 64 ∉ waits.full ∧ scratchBase 0 / 64 ∈ { waits with full := [scratchBase 0 / 64] }.full ∧
    (waits.quad (waitQuad takes)).deferred.length < 64 :=
  ⟨⟨quad_all (P := fun k => ∀ e ∈ k.deferred, ¬(e.src = takes.src ∧ e.tag = takes.tag)) (by decide) (by decide +kernel),
    by decide +kernel, core_all (P := fun k => k.slips = [] ∧ k.spineBroken = [] ∧ k.dead = []) (by decide) (by decide +kernel)⟩,
    by decide +kernel⟩

theorem witness_MessagesAndReplies_busy :
    let s : State := { waits with quads := [(0, { Quad.reset with deferred := .replicate 64 { takes with tag := 9 } })] }
    (∀ q, ∀ e ∈ (s.quad q).deferred, ¬(e.src = takes.src ∧ e.tag = takes.tag)) ∧ s.filterLoad takes < 256 ∧
    64 ≤ (s.quad (waitQuad takes)).deferred.length :=
  ⟨quad_all (P := fun k => ∀ e ∈ k.deferred, ¬(e.src = takes.src ∧ e.tag = takes.tag)) (by decide) (by decide +kernel),
    by decide +kernel⟩

/-- A U-mode strand that may end, suspend and yield: frame 0x40000, the pool empty. -/
theorem witness_LeavingTheCore : (user.bank user.here).mark = none ∧ (user.strand user.here).trap = false ∧ user.NoDrain ∧
    user.mustDrain = false ∧ user.mustDrainVectors = false ∧ user.NamesOwn (user.strand user.here).sfp 64 (scratchBase 0 + 0x40000) ∧
    user.bad = [] ∧ user.wanting user.cur 0 = false :=
  ⟨by decide +kernel, by decide +kernel, no_drain (by decide +kernel), by decide +kernel, by decide +kernel,
    ⟨0, 0, 0x40000, by decide +kernel⟩, by decide +kernel⟩

/-- A runnable record of another strand waits for the bank. -/
theorem witness_LeavingTheCore_wanted :
    let s := user.modCore 0 fun k => { k with
      banks := .replicate 4 { k.banks[0] with strand := { k.banks[0].strand with sfp := 0x60000 } }
      parked := [⟨0, 0x50000, true, .running, 0⟩] }
    s.wanting s.cur 0 = true ∧ s.mustDrainVectors = false ∧ (s.bank s.here).mark = none := by decide +kernel

/-- `user` with JOIN, DONE and GATE at 0x1000, 0x2000 and 0x3000, where `j` and `d` stand. -/
def leafTask : BitVec 512 := BitVec.ofNat 512 (0x1000 * 2 ^ 256 + 0x2000 * 2 ^ 320 + 0x3000 * 2 ^ 384)

def leafing (j d : Nat) : State :=
  { (user.modStrand user.here fun a => { a with task := leafTask, next := 10, hi := 10, leafEnded := false }) with
    mem := (user.mem.writeBits (scratchBase 0 + 0x1000) 64 j).writeBits (scratchBase 0 + 0x2000) 64 d }

theorem leaf_words {s : State} {r : BitVec 512} (h : s.cur = 0 ∧ s.part.inside 0 0 = true ∧
      taskJoin r = 0x1000 ∧ taskDone r = 0x2000 ∧ taskGate r = 0x3000 ∧ s.bad = [] ∧ Memory.wf s.mem = true ∧
      s.leafBusy s.cur r = false ∧ (s.quad (quadOf s.cur)).deferred = [] ∧ s.part.evbase >>> 9 = 0) :
    s.LeafWords r (scratchBase 0 + 0x1000) (scratchBase 0 + 0x2000) (scratchBase 0 + 0x3000) := by
  obtain ⟨c, i, j, d, g, b, m, l, q, e⟩ := h
  have own (a : Word) (off : Nat) (k : off < 7 * 2 ^ 17 ∧ off % 2 ^ 17 + 64 ≤ 2 ^ 17 ∧ off % 64 = 0 ∧ a.toNat = off) :
      s.NamesOwn a 64 (scratchBase 0 + off) :=
    ⟨0, 0, off, by decide, by decide, i, by rw [c]; decide, k.1, k.2.1, k.2.2.1, by omega, by rw [c]; rfl⟩
  exact ⟨fun _ => own _ 0x1000 (by rw [j]; decide), fun _ => own _ 0x2000 (by rw [d]; decide),
    fun _ => own _ 0x3000 (by rw [g]; decide), by decide, by decide, by decide, b, m, l, q, .inr e⟩

theorem leafing_words {s : State} (j d : Nat) (h : (j, d) ∈ [(1, 1), (1, 2), (2, 1)]) (e : s = leafing j d) :
    s.LeafWords leafTask (scratchBase 0 + 0x1000) (scratchBase 0 + 0x2000) (scratchBase 0 + 0x3000) := by
  subst e
  refine leaf_words ?_
  simp only [List.mem_cons, Prod.mk.injEq, List.not_mem_nil, or_false] at h
  rcases h with ⟨rfl, rfl⟩ | ⟨rfl, rfl⟩ | ⟨rfl, rfl⟩ <;> decide +kernel

/-- The last leaf, with DONE at its last and not, and a leaf that is not the last; GATE empty, and full. -/
theorem witness_LeavingTheCore_leaf :
    (∀ e ∈ [(1, 1), (1, 2), (2, 1)], let s := leafing e.1 e.2
      (s.strand s.here).task = leafTask ∧ (s.strand s.here).leafEnded = false ∧ s.leafWaits = false ∧ s.mustDrain = false ∧
      (s.bank s.here).mark = none ∧ (s.strand s.here).trap = false ∧ s.bitsAt (scratchBase 0 + 0x1000) 64 = e.1 ∧
      s.bitsAt (scratchBase 0 + 0x2000) 64 = e.2) ∧
    LeafClear (scratchBase 0 + 0x40000) 64 (scratchBase 0 + 0x1000) (scratchBase 0 + 0x2000) (scratchBase 0 + 0x3000) ∧
    ({ leafing 1 1 with full := [scratchBase 0 / 64 + 192] }.LeafWords leafTask (scratchBase 0 + 0x1000) (scratchBase 0 + 0x2000)
      (scratchBase 0 + 0x3000)) ∧
    (leafing 1 1).NamesOwn ((leafing 1 1).strand (leafing 1 1).here).sfp 64 (scratchBase 0 + 0x40000) :=
  ⟨by decide +kernel, by unfold LeafClear; decide, leaf_words (by decide +kernel), ⟨0, 0, 0x40000, by decide +kernel⟩⟩

/-- A range with one index left, and one with none whose leaf has ended. -/
theorem witness_RangesAndDeques :
    let s := one.modStrand one.here fun a => { a with next := 9, hi := 10 }
    let e := one.modStrand one.here fun a => { a with next := 10, hi := 10, leafEnded := true }
    ((s.bank s.here).status = .running ∧ (s.core s.cur).dqn = 0 ∧ (s.core s.cur).spn = 0 ∧
      (s.strand s.here).next.toNat < (s.strand s.here).hi.toNat) ∧
    ((e.bank e.here).status = .running ∧ (e.strand e.here).hi.toNat ≤ (e.strand e.here).next.toNat ∧
      (e.strand e.here).leafEnded = true ∧ e.mustDrainVectors = false ∧ (e.bank e.here).mark = none) ∧ e.NoDrain :=
  ⟨by decide +kernel, by decide +kernel, no_drain (by decide +kernel)⟩

/-- POPT with one record in the deque, in both modes, its own leaf at its end; RNEXT of an empty range whose leaf has not ended. -/
theorem witness_RangesAndDeques_record :
    let s (deep : Bool) := (leafing 1 1).modCore 0 fun k => { k with dqn := 1, depthFirst := deep }
    (∀ deep, let s := s deep
      (s.bank s.here).status = .running ∧ (s.core s.cur).dqn ≠ 0 ∧ (s.core s.cur).spn = 0 ∧ s.mustDrain = false ∧
      (s.bank s.here).mark = none ∧ s.holding s.cur = false ∧ (s.strand s.here).sfp ≠ 0 ∧ s.bad = [] ∧ s.part.evbase >>> 9 = 0 ∧
      (s.strand s.here).leafEnded = false ∧ s.mustDrainVectors = false ∧ (s.strand s.here).hi.toNat ≤ (s.strand s.here).next.toNat) ∧
    (∀ deep, (s deep).NoDrain ∧ (s deep).MemoryWf ∧
      (s deep).LeafWords leafTask (scratchBase 0 + 0x1000) (scratchBase 0 + 0x2000) (scratchBase 0 + 0x3000)) ∧
    LeafClear (scratchBase 0 + 0x40000) 1024 (scratchBase 0 + 0x1000) (scratchBase 0 + 0x2000) (scratchBase 0 + 0x3000) ∧
    (s true).Names 0 ((s true).strand (s true).here).sfp 1024 512 (scratchBase 0 + 0x40000) :=
  ⟨by decide +kernel, fun deep => ⟨no_drain (by revert deep; decide +kernel), by unfold State.MemoryWf; revert deep; decide +kernel,
    leaf_words (by revert deep; decide +kernel)⟩, by unfold LeafClear; decide, ⟨0, 0, 0x40000, by decide +kernel⟩⟩

/-- A record at bit 512; the target's deque holds 31 records. -/
def spawnsOf (r : Nat) (x7 : Word) : State :=
  (State.set { one with mem := (one.mem).writeBits (scratchBase 0 + 512) 512 r } [(6, 512), (7, x7)]).modCore 0 fun k => { k with dqn := 31 }

/-- One with ENTRY 32, interval 0 to 1 and GATE 0x2000. -/
def spawns (x7 : Word) : State := spawnsOf (32 + 2 ^ 192 + 0x2000 * 2 ^ 384) x7

def spawned : BitVec 512 := BitVec.ofNat 512 ((spawns 0).bitsAt (scratchBase 0 + 512) 512)

theorem witness_SpawnPushesRecord : ((spawns 0).Issues ∧ (spawns 0).MemoryWf ∧
      (spawns 0).NamesOwn ((spawns 0).reg 6) 512 (scratchBase 0 + 512)) ∧
    taskSys spawned = false ∧ spawned.extractLsb' 474 6 = 0 ∧ (taskEntry spawned).toNat % 32 = 0 ∧ taskJoin spawned = 0 ∧
    (taskLo spawned).toNat < (taskHi spawned).toNat ∧ ((spawns 0).core 0).dqn.toNat < 32 ∧
    ((spawns 0).cluster 0).watched = [] ∧ ((spawns 0).cluster 0).batches = [] ∧ ((spawns 0).quad 0).deferred = [] :=
  ⟨⟨by unfold State.Issues; decide +kernel, by unfold State.MemoryWf; decide +kernel, ⟨0, 0, 512, by decide +kernel⟩⟩,
    by decide +kernel⟩

/-- SPAWN.AT: the target is core (7, 7). -/
theorem witness_SpawnPushesRecord_at : (spawns 0x700000007).part.inside 7 7 = true ∧
    ((spawns 0x700000007).core (coreId 7 7)).dqn.toNat < 32 ∧
    (spawns 0x700000007).reg 7 = BitVec.ofNat 64 (7 * 2 ^ 32 + 7) := by decide +kernel

/-- JOIN at 0x1000; an empty interval with the words of a leaf; a record of S privilege, from S mode and from U mode. -/
theorem witness_SpawnPushesRecord_more :
    let j := spawnsOf (32 + 2 ^ 192 + 0x1000 * 2 ^ 256) 0
    let e := spawnsOf (32 + leafTask.toNat) 0
    let y := spawnsOf (32 + 2 ^ 192 + 2 ^ 473) 0
    let u := y.modStrand y.here fun a => { a with priv := false }
    let rec' (s : State) : BitVec 512 := BitVec.ofNat 512 (s.bitsAt (scratchBase 0 + 512) 512)
    (taskJoin (rec' j) ≠ 0 ∧ (taskLo (rec' j)).toNat < (taskHi (rec' j)).toNat ∧ (j.quad (quadOf (coreId 7 7))).deferred = []) ∧
    (taskSys (rec' y) = true ∧ y.user = false ∧ u.user = true ∧ (rec' y).extractLsb' 474 6 = 0 ∧ taskSys (rec' u) = true) ∧
    ((taskHi (rec' e)).toNat ≤ (taskLo (rec' e)).toNat ∧ (taskEntry (rec' e)).toNat % 32 = 0 ∧ taskSys (rec' e) = false) ∧
    j.NamesOwn (taskJoin (rec' j)) 64 (scratchBase 0 + 0x1000) ∧ u.Handles ∧
    e.LeafWords (rec' e) (scratchBase 0 + 0x1000) (scratchBase 0 + 0x2000) (scratchBase 0 + 0x3000) ∧ (e.Issues ∧ u.Issues ∧ j.Issues) ∧
    (e.MemoryWf ∧ u.MemoryWf ∧ j.MemoryWf) ∧ e.NamesOwn (e.reg 6) 512 (scratchBase 0 + 512) ∧
    u.NamesOwn (u.reg 6) 512 (scratchBase 0 + 512) ∧ j.NamesOwn (j.reg 6) 512 (scratchBase 0 + 512) :=
  ⟨by decide +kernel, by decide +kernel, by decide +kernel, ⟨0, 0, 0x1000, by decide +kernel⟩, by unfold State.Handles; decide +kernel,
    leaf_words (by decide +kernel), by unfold State.Issues; decide +kernel, by unfold State.MemoryWf; decide +kernel,
    ⟨0, 0, 512, by decide +kernel⟩, ⟨0, 0, 512, by decide +kernel⟩, ⟨0, 0, 512, by decide +kernel⟩⟩

/-- GATE is an empty word of the own quad, and a full one. -/
theorem witness_SpawnThenTakesGate : ((spawns 0).mustDrainVectors = false ∧ (spawns 0).NoDrain ∧ ((spawns 0).bank (spawns 0).here).mark = none ∧
      (spawns 0).NamesOwn (taskGate spawned) 64 (scratchBase 0 + 0x2000) ∧ taskGate spawned ≠ 0) ∧
    (scratchBase 0 + 0x2000) / 64 ∉ (spawns 0).full ∧
    (scratchBase 0 + 0x2000) / 64 ∈ { spawns 0 with full := [scratchBase 0 / 64 + 128] }.full :=
  ⟨⟨by decide +kernel, no_drain (by decide +kernel), by decide +kernel, ⟨0, 0, 0x2000, by decide +kernel⟩, by decide +kernel⟩, by decide +kernel⟩

/-- Channel 15 granted, its only member count on core (0, 0). -/
def channels : State :=
  { one with part := { one.part with grant := 0x8000 } }.modCore 0 fun k => { k with bmask := 0x1000000000000000 }

/-- No phase recorded; and phase 1 recorded, which has been released. -/
theorem witness_Barriers :
    let r := channels.modStrand channels.here fun a => { a with bpend := 0x9 <<< 60, joined := [(15, 1)] }
    let s : State := { r with part := { r.part with channels := [(15, ⟨2, some 0⟩)] } }
    (channels.part.grant.getLsbD 15 = true ∧ (channels.core channels.cur).bcnt 15 ≠ 0 ∧
      channels.barrWaits 15 = false ∧ (channels.bank channels.here).status = .running ∧ channels.mustDrainVectors = false ∧
      nibble (channels.strand channels.here).bpend 15 < 8 ∧ (channels.bank channels.here).mark = none) ∧ channels.NoDrain ∧
    (s.part.grant.getLsbD 15 = true ∧ (s.core s.cur).bcnt 15 ≠ 0 ∧ s.mustDrainVectors = false ∧
      (s.strand s.here).joined.find 15 = some 1 ∧ 1 % 8 = nibble (s.strand s.here).bpend 15 % 8 ∧ 1 < (s.channel 15).phase ∧
      (s.bank s.here).mark = none) ∧ s.NoDrain :=
  ⟨by decide +kernel, no_drain (by decide +kernel), by decide +kernel, no_drain (by decide +kernel)⟩

/-- Channel 0 is not granted, and channel 14 has no member on the core. -/
theorem witness_Barriers_faults :
    let s := { channels with part := { channels.part with grant := 0xC000 } }
    channels.part.grant.getLsbD 0 = false ∧ channels.Handles ∧ s.part.grant.getLsbD 14 = true ∧
    (s.core s.cur).bcnt 14 = 0 ∧ s.Handles := by unfold State.Handles; decide +kernel

/-- A route from core (0, 0) to itself in the last slot, its frames counted from now. -/
def routed (b : Option (List Wide)) (l : List (Bool × List Wide)) : State :=
  let r : Route := ⟨⟨0, 0, 1023, 0, 0, 1, 0x400⟩, 0, 4, b, 0, 0, l, 0, 0, false⟩
  { at6 256 with part := { one.part with routes := [(0, r)], channels := [(0, ⟨1, some 0⟩)] }, now := 1023 }

theorem witness_RoutesCarryPayloads :
    let s := routed none []
    ((s.part.routes.find 0).map (fun r : Route => ((r.decl.src, r.buffer, r.freeAt), (r.decl.beats, r.decl.slot, s.frameBase r))) =
      some ((s.cur, none, 0), (1, 1023, some 0)) ∧ s.bad = [] ∧ (s.bank s.here).status = .running) ∧
    s.Names s.cur (s.reg 6) 256 256 (scratchBase 0 + 256) :=
  ⟨by decide +kernel, 0, 0, 256, by decide +kernel⟩

/-- A payload that is due to leave, one in flight, and an arrival count that SXWAIT's is not behind. -/
theorem witness_RoutesCarryPayloads_on_the_way :
    (((routed (some [7]) []).part.routes.find 0).map (·.buffer) = some (some [7]) ∧ 0 + 1024 * 0 + 1023 ≤ (routed none []).now ∧
      ((routed none [(true, [7])]).part.routes.find 0).map (fun r => (r.flying, r.decl.land, r.decl.dst)) = some ([(true, [7])], 0x400, 0) ∧
      (routed none [(true, [7])]).MemoryWf ∧ ((0 : BitVec 32) - ((routed none []).reg 7).extractLsb' 0 32).toNat < 2 ^ 31) ∧
    ∀ q, ((routed none [(true, [7])]).quad q).deferred = [] ∧ ((routed none [(true, [7])]).cluster q).watched = [] ∧
      ((routed none [(true, [7])]).cluster q).batches = [] :=
  ⟨by unfold State.MemoryWf; decide +kernel, fun q => ⟨none_deferred (by decide +kernel) q,
    cluster_all (P := fun k => k.watched = [] ∧ k.batches = []) (by decide) (by decide +kernel) q⟩⟩

/-- A core with a free bank, one task in its deque and a frame in its pool. -/
def fills : State := one.modCore 0 fun k => { k with dqn := 1, fphead := 0x60000 }

theorem witness_ResidencySteps_fill : ((fills.core 0).freeBank = some 1 ∧ (fills.quad 0).gate = .on ∧ fills.holding 0 = false ∧
      (fills.core 0).parked = [] ∧ (fills.core 0).depthFirst = false ∧ (fills.core 0).spn = 0 ∧
      0 < (fills.core 0).dqn.toNat ∧ (fills.core 0).fphead >>> 9 <<< 9 ≠ 0 ∧ fills.bad = []) ∧
    fills.MemoryWf ∧ fills.Names 0 ((fills.core 0).fphead >>> 9 <<< 9) 1024 512 (scratchBase 0 + 0x60000) :=
  ⟨by decide +kernel, by unfold State.MemoryWf; decide +kernel, ⟨0, 0, 0x60000, by decide +kernel⟩⟩

/-- Bank 0 loading; stopped to be written back; and waiting at a barrier. -/
theorem witness_ResidencySteps_banks :
    let l := one.modBank one.here fun b => { b with status := .reply .other 0 0 }
    let w := one.modBank one.here fun b => { b with status := .stopped false }
    let y := one.modBank one.here fun b => { b with status := .stalled .bwait 0 0 }
    ((l.bank ⟨0, 0⟩).live = true ∧ (l.bank ⟨0, 0⟩).status = .reply .other 0 0 ∧ (l.strand ⟨0, 0⟩).cause = 0) ∧
    ((w.bank ⟨0, 0⟩).live = true ∧ (w.strand ⟨0, 0⟩).trap = false ∧ (w.bank ⟨0, 0⟩).status = .stopped false ∧
      w.busy 0 (w.strand ⟨0, 0⟩).sfp = false ∧ w.Names 0 (w.strand ⟨0, 0⟩).sfp 1024 512 (scratchBase 0 + 0x40000) ∧
      w.MemoryWf ∧ w.bad = [] ∧ (w.core 0).rln.toNat < 32 ∧ (w.quad 0).freePool = some 0) ∧
    (y.bank ⟨0, 0⟩).live = true ∧ (y.bank ⟨0, 0⟩).status.suspended = true ∧ (y.strand ⟨0, 0⟩).trap = false :=
  ⟨by decide +kernel, ⟨by decide +kernel, by decide +kernel, by decide +kernel, by decide +kernel, ⟨0, 0, 0x40000, by decide +kernel⟩,
    by unfold State.MemoryWf; decide +kernel, by decide +kernel⟩, by decide +kernel⟩

/-- A thief that asks its first victim, core (1, 0), which has one task; and a thief that a record comes to. -/
theorem witness_ResidencySteps_steal :
    let s := one.modCore 0 fun k => { k with fphead := 0x60000, steal := some 0 }
    let v := s.modCore (coreId 1 0) fun k => { k with dqn := 1 }
    let r := v.dequeBits (coreId 1 0) (v.core (coreId 1 0)).old.toNat
    (((s.core 0).steal = some 0 ∧ s.idleCore 0 = true ∧ (s.victims 0)[0]? = some (coreId 1 0)) ∧
      ((v.quad 0).noSteal = false ∧ v.frozen 0 = false ∧ (v.core (coreId 1 0)).spn = 0 ∧
        0 < (v.core (coreId 1 0)).dqn.toNat ∧ v.part.placed r 0 = true ∧ splitPoint r (taskLo r) (taskHi r) = none) ∧
      (s.core 0).freeBank = some 1 ∧ s.holding 0 = false ∧ (s.core 0).fphead >>> 9 <<< 9 ≠ 0 ∧ s.bad = []) ∧
    s.MemoryWf ∧ s.Names 0 ((s.core 0).fphead >>> 9 <<< 9) 1024 512 (scratchBase 0 + 0x60000) :=
  ⟨by decide +kernel, by unfold State.MemoryWf; decide +kernel, ⟨0, 0, 0x60000, by decide +kernel⟩⟩

/-- One strand of U mode waits at a barrier, the fabric has been idle for 10,000 cycles, HANGW names an empty word. -/
def hung : State :=
  { (user.modBank user.here fun b => { b with status := .stalled .bwait 0 0 }) with
    now := 10000, part := { user.part with hangw := 0x3000 } }

theorem witness_HangTrapSignals : (hung.hangs.isSome = true ∧ hung.part.hangbuf = 0 ∧ hung.part.hangw ≠ 0 ∧ hung.bad = [] ∧
      hung.locate 0 false false .atomic hung.part.hangw 64 64 = .ok [⟨scratchBase 0 + 0x3000, 64⟩] (.scratch 0) ∧
      (scratchBase 0 + 0x3000) / 64 ∉ hung.full ∧ scratchBase 0 + 0x3000 < trackBase 0) ∧
    hung.MemoryWf ∧ ∀ q, (hung.quad q).deferred = [] :=
  ⟨by decide +kernel, by unfold State.MemoryWf; decide +kernel, none_deferred (by decide +kernel)⟩

/-! ### Traps, control registers, privileged instructions -/

/-- A strand in its handler, entered from U mode. -/
def handler : State := one.modStrand one.here fun a => { a with trap := true, priv := true, ppriv := false }

theorem witness_TrapEntryAndReturn : one.Handles ∧ user.Handles ∧ (handler.strand handler.here).trap = true ∧
    (handler.bank handler.here).mark = none ∧ handler.user = false := by unfold State.Handles; decide +kernel

/-- A CSR for every use that a mode has of it, at the ends of the ranges of numbers. -/
theorem witness_ControlRegisters : csrUse 0x800 true = .write ∧ csrUse 0x803 true = .write ∧ csrUse 0xC00 true = .read ∧
    csrUse 0xC0C true = .read ∧ csrUse 0xC0C false = .write ∧ csrUse 0x100 true = .privileged ∧ csrUse 0x108 false = .write ∧
    csrUse 0x109 false = .illegal ∧ csrUse 0x7FF false = .illegal ∧ csrUse 0x804 false = .illegal ∧ user.Handles := by
  unfold State.Handles; decide +kernel

/-- A command of the strand that has not completed. -/
theorem witness_ControlRegisters_waits :
    let s := one.modCore 0 fun k => { k with queue := [⟨0, false, false, 0x40000, true, false⟩] }
    one.mustDrain = false ∧ (one.bank one.here).status = .running ∧ s.mustDrain = true ∧ one.Handles := by
  unfold State.Handles; decide +kernel

/-- NOTICE: an address of each space that is kept, and one that is not; the module's own number and another; the other spaces. -/
theorem witness_ControlRegisters_notice :
    let m : State := { one with modid := 2 ^ 63 + 5 }
    let low (v : Word) : Nat := v.toNat % 2 ^ 41
    (one.part.inside 7 7 = true ∧ low 0xFFFC0 < 2 ^ 20 ∧ (0xFFFC0 : Word).toNat % 64 = 0 ∧ ¬ low 0x100000 < 2 ^ 20 ∧
      one.part.inside 8 0 = false ∧ (0x20 : Word).toNat % 64 ≠ 0) ∧
    ((0x4000000000000000 : Word).toNat / 2 ^ 61 = 2 ∧ (coreX one.cur : Int) + (1023#10).toInt < 0 ∧ (coreX one.cur : Int) + (1023#10).toInt < 1024 ∧
      (coreX one.cur : Int) + (7#10).toInt < one.part.width) ∧
    (m.modid.getLsbD 63 = true ∧ m.modid.toNat % 2 ^ 12 = (0x800A000000000000 : Word).toNat / 2 ^ 49 % 2 ^ 12 ∧
      m.modid.toNat % 2 ^ 12 ≠ (0x800C000000000000 : Word).toNat / 2 ^ 49 % 2 ^ 12) ∧
    [(0x2000000000000000 : Word), 0x6000000000000000, 0xA000000000000000].map (·.toNat / 2 ^ 61) = [1, 3, 5] := by decide +kernel

/-- U mode; then in S mode L2PSET of a quad that is served and of a spare, TLBINV, CAPMINT, PREEMPT and QDRAIN. -/
theorem witness_PrivilegedInstructions : user.user = true ∧ user.Handles ∧ one.user = false ∧
    (one.bank one.here).status = .running ∧ one.operandCore 0 = some 0 ∧ one.clusterMoves 0 = false ∧
    (one.servedBy 0 15).isSome = true ∧ (one.servedBy 0 16).isSome = false ∧ (0x1000000 : Word).toNat / 2 ^ 20 % 32 = 16 ∧
    one.failedHarvest (32 * one.part.physCluster 0 + 16) = false ∧
    (one.quad (spareKey (32 * one.part.physCluster 0 + 16))).gate = .on ∧
    spareKey (32 * one.part.physCluster 0 + 16) ≠ quadOf 0 ∧ (one.quad 0).move = none ∧
    (0x2000000000000000 : Word).toNat / 2 ^ 61 = 1 ∧ one.part.capInside 0 = true ∧
    one.part.capInside 0x30300000000 = true ∧ one.selector 0x400000 = some (0, List.finRange 4) ∧
    (∀ b : Fin 4, (one.bank ⟨0, b⟩).live = true → (⟨0, b⟩ : Place) = one.here) ∧
    one.selector 0 = some (0, [0]) ∧ one.busy 0 (one.strand one.here).sfp = false := by unfold State.Handles; decide +kernel

/-- Another move of the cluster under way; PREEMPT of bank 3, which runs, with a window; a command of a selected strand left. -/
theorem witness_PrivilegedInstructions_more :
    let m : State := { one with quads := [(quadOf 2, { one.quad 1 with move := some ⟨17, 0, false, false, true⟩ })] }
    let p : State := { one.modCore 0 fun k => { k with
      banks := .replicate 4 { k.banks[0] with strand := { k.banks[0].strand with sfp := 0x60000 } }
      queue := [⟨0, false, false, 0x60000, true, false⟩] } with part := { one.part with prewin := 7 } }
    (m.clusterMoves 0 = true ∧ m.user = false ∧ (m.bank m.here).status = .running ∧ m.operandCore 0 = some 0) ∧
    p.selector 0x300000 = some (0, [3]) ∧ (⟨0, 3⟩ : Place) ≠ p.here ∧ (p.bank ⟨0, 3⟩).live = true ∧ (p.bank ⟨0, 3⟩).mark = none ∧
    (p.bank ⟨0, 3⟩).status = .running ∧ p.part.prewin ≠ 0 ∧ p.busy 0 (p.strand ⟨0, 3⟩).sfp = true := by decide +kernel

/-- A strand whose notice word is full, and empty; one that sleeps, its time due; one whose window has ended. -/
theorem witness_SleepAndForcedSave :
    let n := { (at6 1).modStrand one.here fun a => { a with notice := 0x1000 } with full := [scratchBase 0 / 64 + 64] }
    let e := at6 1
    let z := one.modBank one.here fun b => { b with status := .stalled .sleep 0 0 }
    (n.npend n.cur (n.strand n.here) = true ∧ (n.bank n.here).status = .running) ∧
    (e.npend e.cur (e.strand e.here) = false ∧ (e.bank e.here).status = .running ∧ e.reg 6 ≠ 0) ∧
    (z.bank ⟨0, 0⟩).status = .stalled .sleep 0 0 ∧ (z.bank ⟨0, 0⟩).live = true ∧ 0 ≤ z.now := by decide +kernel

theorem witness_SleepAndForcedSave_saved :
    let m := one.modBank one.here fun b => { b with mark := some 0 }
    ((m.bank ⟨0, 0⟩).live = true ∧ (m.bank ⟨0, 0⟩).status = .running ∧ (m.bank ⟨0, 0⟩).mark = some 0 ∧ 0 ≤ m.now ∧
      (m.strand ⟨0, 0⟩).trap = false ∧ m.busy 0 (m.strand ⟨0, 0⟩).sfp = false ∧ m.bad = [] ∧ (m.core 0).rln.toNat < 32 ∧
      (m.quad (quadOf 0)).freePool = some 0) ∧
    m.Names 0 (m.strand ⟨0, 0⟩).sfp 11264 512 (scratchBase 0 + 0x40000) ∧ m.MemoryWf ∧ ∀ q, (m.quad q).deferred = [] :=
  ⟨by decide +kernel, ⟨0, 0, 0x40000, by decide +kernel⟩, by unfold State.MemoryWf; decide +kernel, none_deferred (by decide +kernel)⟩

/-! ### Tracks, pages, descriptors -/

/-- Track 127 bound at head 1023, and nothing of it queued; track 0 free, with seven more bindings allowed. -/
def bound : State :=
  ((at6 1023).modStrand one.here fun a => { a with binds := [(127, 1023)] }).modCore 0 fun k => { k with bound := [(127, 0x40000)] }

theorem witness_TrackBindings : (bound.bank bound.here).status = .running ∧ (bound.reg 6).toNat ≤ 1023 ∧
    (bound.core bound.cur).bound.find 0 = none ∧ (bound.strand bound.here).binds.length < 8 ∧
    (bound.strand bound.here).headOf 0 = none ∧ (bound.strand bound.here).headOf 127 = some 1023 ∧
    (bound.core bound.cur).queuesTrack 0x40000 127 = false ∧ (bound.quad 0).out = [] ∧ bound.Handles ∧
    1023 < ((at6 1024).reg 6).toNat ∧ (at6 1024).Handles ∧ ((bound.core bound.cur).bound.find 127).isSome = true := by
  unfold State.Handles; decide +kernel

/-- TSEEK of track 127 queued; and one issued, with nothing of it queued. -/
theorem witness_TrackBindings_waits :
    let q := bound.modCore 0 fun k => { k with queue := [⟨BitVec.ofNat 256 (2 ^ 244 + 127 * 2 ^ 233), false, false, 0x40000, true, false⟩] }
    let i := bound.modQuad 0 fun k => { k with out := [⟨1, 0, 0x40000, 1, 0, 127, false, [], [], 0, none, none⟩] }
    (q.core q.cur).queuesTrack (q.strand q.here).sfp 127 = true ∧ (i.core i.cur).queuesTrack 0x40000 127 = false ∧
    (∃ e ∈ (i.quad (quadOf i.cur)).out, e.sfp = (i.strand i.here).sfp ∧ e.eng = 1 ∧ e.track = (127 : BitVec 7).toNat) := by
  exact ⟨by decide +kernel, by decide +kernel, ⟨1, 0, 0x40000, 1, 0, 127, false, [], [], 0, none, none⟩, by decide +kernel⟩

/-- The last page of the column of core (0, 0) is free; the first is allocated. -/
def pages : State :=
  { at6 0x10000000000 with dies := [(one.part.dieOf 0, { Die.reset with pool := [(0, .allocated), (511, .free)] })] }

theorem witness_PagePools : (pages.bank pages.here).status = .running ∧
    511 ∈ pagesIn (pages.die (pages.part.dieOf pages.cur)).pool .free ∧ 511 / 512 = pages.cur ∧ 511 < 2 ^ 29 ∧
    (isPage 0x10000000000 = true ∧ pages.part.inside (meshX 0x10000000000) (meshY 0x10000000000) = true ∧
      (pages.die (pages.part.dieOf (coreId (meshX 0x10000000000) (meshY 0x10000000000)))).pool.find (pageKey 0x10000000000) =
        some .allocated) ∧ pages.reg 6 = 0x10000000000 := by decide +kernel

/-- No page anywhere; an address that is no page. -/
theorem witness_PagePools_none : (pagesIn (one.die (one.part.dieOf one.cur)).pool .free = [] ∧ one.dies = [] ∧
      ((one.part.lenders one.cur).map fun e => dieAt (e % 8) (e / 8)).find?
        (fun e => !(pagesIn (one.die e).pool .free).isEmpty) = none ∧ isPage 1 = false) ∧ one.Handles :=
  ⟨by decide +kernel, by unfold State.Handles; decide +kernel⟩

/-- A partition of two dies: a page of the second die that is free, that the first has borrowed, and that it has allocated. -/
def lends (x : PageState) : State :=
  let s : State := { one with part := { one.part with width := 72 } }
  { s with dies := [(s.part.dieOf 64, { Die.reset with pool := [(512 * 64, x)] })] }

theorem witness_PagePools_lent :
    let d := (lends .free).part.dieOf 0
    (pagesIn ((lends .free).die d).pool .free = [] ∧
      (((lends .free).part.lenders 0).map fun e => dieAt (e % 8) (e / 8)).find?
        (fun e => !(pagesIn ((lends .free).die e).pool .free).isEmpty) = some ((lends .free).part.dieOf 64) ∧
      ∀ e ∈ (lends .free).dies, pagesIn e.2.pool (.lentFree d) = []) ∧
    (pagesIn ((lends (.lentFree d)).die d).pool .free = [] ∧ ∃ e ∈ (lends (.lentFree d)).dies, pagesIn e.2.pool (.lentFree d) ≠ []) ∧
    ((lends (.lentAllocated d)).die ((lends (.lentAllocated d)).part.dieOf 64)).pool.find 32768 = some (.lentAllocated d) :=
  ⟨by decide +kernel, ⟨by decide +kernel, _, List.mem_singleton_self _, by decide +kernel⟩, by decide +kernel⟩

/-- A descriptor at bit 0: LEN 1, WINDOW 1, NPAGE 1, generation words at 0x8000, the first page of the column. -/
def sequence : State :=
  { one with mem := ((((one.mem.writeBits (scratchBase 0) 64 (1 + 2 ^ 32)).writeBits (scratchBase 0 + 128) 64 1).writeBits
    (scratchBase 0 + 192) 64 0x8000).writeBits (scratchBase 0 + 256) 64 (2 ^ 40)) }

/-- Position 0 is live; position 1 is at LEN; the words and the generation stand at the keys that the statement takes. -/
theorem witness_SequenceDescriptors :
    let key (i : Nat) : Nat := scratchBase 0 + 64 * i
    let w (i : Nat) : Nat := sequence.bitsAt (key i) 64
    (w 1 / 2 ^ 36 = 0 ∧ w 2 / 2 ^ 32 = 0 ∧ w 1 / 2 ^ 32 % 16 ≤ 10 ∧ w 0 / 2 ^ 32 = 1 ∧ w 1 % 2 ^ 32 = 0 ∧ 0 / 1024 < w 2 % 2 ^ 32 ∧
      isPage (BitVec.ofNat 64 (w (4 + 0 / 1024))) = true ∧ 0 < w 0 % 2 ^ 32 ∧ w 0 % 2 ^ 32 ≤ 1 ∧ sequence.bad = [] ∧
      sequence.bitsAt (scratchBase 0 + 0x8000) 32 = 0 ∧ w 3 + 32 * 0 = 0x8000) ∧ sequence.MemoryWf ∧
    (∀ i < 5, sequence.Names sequence.cur (0 + BitVec.ofNat 64 (64 * i)) 64 64 (key i)) ∧
    sequence.Names sequence.cur (BitVec.ofNat 64 (w 3 + 32 * 0)) 32 32 (scratchBase 0 + 0x8000) :=
  ⟨by decide +kernel, by unfold State.MemoryWf; decide +kernel, fun i h => ⟨0, 0, 64 * i, by revert i; decide +kernel⟩,
    0, 0, 0x8000, by decide +kernel⟩

/-- A descriptor of zeros, whose WINDOW is 0. -/
theorem witness_SequenceDescriptors_faults : one.bitsAt (scratchBase 0) 64 / 2 ^ 32 = 0 ∧ one.Handles :=
  ⟨by decide +kernel, by unfold State.Handles; decide +kernel⟩

/-! ### Commands at the head of a queue -/

/-- The head of core (0, 0)'s engine queue is in progress. -/
def engine : State :=
  { one with ctx := .plain 0 0 0x40000 true }.modCore 0 fun k => { k with queue := [⟨0, false, false, 0x40000, true, false⟩] }

theorem at_head_among {s : State} {p : Place} (reads writes : List Nat) (h : (s.ctx.remote = false ∧ s.ctx.inRep = false ∧
      s.ctx.id = none ∧ s.ctx.performed = 0) ∧ s.ctx.quad = quadOf s.ctx.core ∧ s.bad = [] ∧ (s.bank p).live = true ∧
      (s.strand p).sfp = s.ctx.sfp ∧ (s.quad s.ctx.quad).hazard s.ctx.sfp reads writes = false ∧
      ∀ i ∈ (s.quad s.ctx.quad).out, i.sfp = s.ctx.sfp → i.paused = none)
    (l : ∀ e ∈ s.cores, ∀ b : Fin 4, (e.2.banks[b]).live = true → (⟨e.1, b⟩ : Place) = p) : s.AtHead p reads writes :=
  ⟨h.1, h.2.1, ⟨⟨h.2.2.2.1, h.2.2.2.2.1⟩, fun q hq _ => live_only l q hq⟩, h.2.2.1, h.2.2.2.2.2⟩

theorem at_head {s : State} {p : Place} (reads writes : List Nat) (h : (s.ctx.remote = false ∧ s.ctx.inRep = false ∧
      s.ctx.id = none ∧ s.ctx.performed = 0) ∧ s.ctx.quad = quadOf s.ctx.core ∧ s.bad = [] ∧ (s.bank p).live = true ∧
      (s.strand p).sfp = s.ctx.sfp ∧ (s.quad s.ctx.quad).out = [])
    (l : ∀ e ∈ s.cores, ∀ b : Fin 4, (e.2.banks[b]).live = true → (⟨e.1, b⟩ : Place) = p) : s.AtHead p reads writes :=
  at_head_among reads writes ⟨h.1, h.2.1, h.2.2.1, h.2.2.2.1, h.2.2.2.2.1, by simp [Quad.hazard, h.2.2.2.2.2],
    by simp [h.2.2.2.2.2]⟩ l

/-- The head of `engine` may issue. -/
theorem engine_at_head (reads writes : List Nat) : engine.AtHead ⟨0, 0⟩ reads writes :=
  at_head reads writes (by decide +kernel) (by decide +kernel)

/-- FIELDS of a vector command: VD v1, VA v2, VB v3, VC v4. -/
def vec (rt xt fn : BitVec 5) (men : Bool) : VecF := ⟨1, 2, 3, 4, 0, men, 7, false, rt, fn, false, xt, 0⟩

theorem witness_VectorRawBits : (∀ r w, engine.AtHead ⟨0, 0⟩ r w) ∧ MaskFits (vec 28 0 10 true) 256 ∧ packedType 28 = true ∧
    arithType 26 = true ∧ (31 : Word).toNat < 32 ∧ (vec 26 0 13 true).fn.toNat = 13 :=
  ⟨engine_at_head, by unfold MaskFits; decide, by decide, by decide, by decide, by decide⟩

/-- int8: the function numbers of VOP at both ends, VCMP, VDOT; a mask that fits; VD below v8. -/
theorem witness_VectorIntegers : (∀ r w, engine.AtHead ⟨0, 0⟩ r w) ∧ MaskFits (vec 18 18 0 true) 32 ∧
    MaskFits (vec 18 18 1 true) 8 ∧ (vec 18 18 0 true).rt ∈ [16#5, 17, 18, 24, 25, 26] ∧ (vec 18 26 0 true).xt ∈ [17#5, 18, 20, 25, 26, 27] ∧
    typeWidth 26 = typeWidth 18 ∧ (vec 18 18 0 true).vd.toNat ≤ 7 ∧ (vec 18 18 15 true).fn.toNat = 15 ∧
    (vec 18 18 5 true).fn.toNat = 5 := by
  refine ⟨engine_at_head, ?_⟩; unfold MaskFits; decide

theorem witness_VectorFloats : (∀ r w, engine.AtHead ⟨0, 0⟩ r w) ∧ MaskFits (vec 2 0 0 true) 16 ∧ (vec 2 0 0 true).rt.toNat ≤ 2 ∧
    (vec 2 0 3 true).fn.toNat = 2 * true.toNat + true.toNat ∧ (vec 0 0 0 false).rt = 0 ∧ (vec 0 0 6 true).vd.toNat ≤ 7 ∧
    arithType 0 = true ∧ packedType 3 = true ∧ ({ vec 0 3 0 false with vc := 0, aux := 3 }).aux.toNat < max 1 (256 / (8 * min 32 8)) ∧
    MaskFits { vec 0 3 0 true with vc := 0, aux := 3 } 8 := by
  refine ⟨engine_at_head, ?_⟩; unfold MaskFits; decide

/-- With the mask registers all zero no element is live. -/
theorem witness_VectorReductions : (∀ r w, engine.AtHead ⟨0, 0⟩ r w) ∧ MaskFits (vec 24 0 2 true) 8 ∧
    (List.range 8).filter (vecLive (vec 24 0 2 true) (engine.strand ⟨0, 0⟩).v) = [] ∧ (vec 24 0 2 true).rt ∈ [16#5, 17, 18, 24, 25, 26] ∧
    (vec 1 0 2 true).rt.toNat ≤ 2 ∧ ((List.range 8).filter (vecLive (vec 24 0 2 false) (engine.strand ⟨0, 0⟩).v)).length = 8 ∧
    element (readGroup (engine.strand ⟨0, 0⟩).v 2 1) 32 7 ∈ ((List.range 8).map fun i => element (readGroup (engine.strand ⟨0, 0⟩).v 2 1) 32 i) := by
  refine ⟨engine_at_head, ?_⟩; unfold MaskFits; decide +kernel

/-- `engine` with a cabinet format for the first cabinet. -/
def holds (t : BitVec 5) : State := { engine with quads := engine.quads.map fun e => (e.1, { e.2 with cfmt := e.2.cfmt.set 0 t }) }

theorem holds_at_head (reads writes : List Nat) : (holds 14).AtHead ⟨0, 0⟩ reads writes :=
  at_head reads writes (by decide +kernel) (by decide +kernel)

/-- int8 in the last 32 bytes of a cabinet of int8, in rows of 16, and at indices 0; the same for mxint8 with its records. -/
theorem witness_VectorLoadsAndStores :
    (∀ r w, (holds 14).AtHead ⟨0, 0⟩ r w) ∧ MaskFits (vec 18 0 0 true) 32 ∧ reservedType 18 = false ∧ reservedType 14 = false ∧
    blockType 14 = true ∧ ((holds 14).quad 0).cfmt.toList[(scratchBase 0 + 0x1FF00 - scratchBase 0) / 2 ^ 17]? = some 14 ∧
    (∀ i < 32, (holds 14).Names 0 ((0x1FF00 : Word) + BitVec.ofInt 64 ((i * 8 : Nat))) 8 (elemAlign 8) (scratchBase 0 + 0x1FF00 + 8 * i)) ∧
    (∀ i < 32, (holds 14).Names 0 ((0x1FF00 : Word) + BitVec.ofInt 64 ((i / 16 : Nat) * (-1024) + (i % 16 * 8 : Nat))) 8 (elemAlign 8)
      (scratchBase 0 + 0x1FF00 - 1024 * (i / 16) + 8 * (i % 16))) ∧
    (∀ i < 32, (holds 14).Names 0 ((0x8000 : Word) + BitVec.ofNat 64 (8 * (i / 32))) 8 8 (scratchBase 0 + 0x8000 + 8 * (i / 32))) ∧
    (holds 14).MemoryWf ∧ ∀ q, ((holds 14).quad q).deferred = [] := by
  refine ⟨holds_at_head, by unfold MaskFits; decide, by decide, by decide, by decide, by decide +kernel, fun i h => ⟨0, 0, 0x1FF00 + 8 * i, ?_⟩,
    fun i h => ⟨0, 0, 0x1FF00 - 1024 * (i / 16) + 8 * (i % 16), ?_⟩, fun i h => ⟨0, 0, 0x8000 + 8 * (i / 32), ?_⟩,
    by unfold State.MemoryWf; decide +kernel, none_deferred (by decide +kernel)⟩ <;> (revert i; decide +kernel)

/-- Rows of 16, a pitch of −1,024; a block type is stored without a mask; and indices 0 in a cabinet of int8. -/
theorem witness_VectorLoadsAndStores_forms :
    ((4 : BitVec 5).toNat ≤ 11 ∧ 32 % 2 ^ (4 : BitVec 5).toNat = 0 ∧ (-1024 : Word).toInt % 8 = 0 ∧ (vec 18 0 0 false).men = false ∧
      32 ≤ 64 ∧ blockType 18 = false ∧ ((holds 18).quad 0).cfmt.toList[(scratchBase 0 + 0x4000 - scratchBase 0) / 2 ^ 17]? = some 18) ∧
    (∀ r w, (holds 18).AtHead ⟨0, 0⟩ r w) ∧
    ∀ i < 32, (BitVec.ofNat 32 (element (readGroup ((holds 18).strand ⟨0, 0⟩).v 3 4) 32 i)).toInt = 0 ∧
      (holds 18).Names 0 ((0x4000 : Word) + BitVec.ofInt 64 ((0 : Int) * 8)) 8 (elemAlign 8) (scratchBase 0 + 0x4000) :=
  ⟨by decide +kernel, fun r w => at_head r w (by decide +kernel) (by decide +kernel),
    fun i h => ⟨by revert i; decide +kernel, 0, 0, 0x4000, by decide +kernel⟩⟩

/-! ### The queue, tracks, the press, acceptance -/

/-- S mode at a CMD whose eight words can be fetched; the queue holds `n` commands, and one tag is pending. -/
def pushes (n : Nat) : State :=
  { State.reset.placed (placedMemory [] 36 0) none with cur := 0 }.modCore 0 fun k => { k with
    queue := .replicate n ⟨0, false, false, 0x50000, true, false⟩, tags := [⟨0x40000, 0, none⟩] }

/-- 63 and 64 commands in the queue; a capability of a quad inside, and one of a quad outside. -/
theorem witness_PushingCommands : ((pushes 63).strand (pushes 63).here).qerr = 0 ∧
    (match (pushes 63).fetchWords ((pushes 63).pc + 32) 8 with | .ok n => n == 0 | .error _ => false) = true ∧
    ((pushes 63).core (pushes 63).cur).queue.length < 64 ∧ 64 ≤ ((pushes 64).core (pushes 64).cur).queue.length ∧
    (pushes 63).part.inside (2 * (0x30300000000 / 2 ^ 32 % 256)) (2 * (0x30300000000 / 2 ^ 40 % 256)) = true ∧
    (pushes 63).part.inside (2 * (0x400000000 / 2 ^ 32 % 256)) (2 * (0x400000000 / 2 ^ 40 % 256)) = false ∧ (pushes 63).Handles ∧
    ((pushes 63).core (pushes 63).cur).pendingTags 0x40000 = 1 := by unfold State.Handles; decide +kernel

theorem pushes_resident : (pushes 63).Resident 0x40000 ⟨0, 0⟩ :=
  ⟨by decide +kernel, fun q hq _ => live_only (by decide +kernel) q hq⟩

/-- Inline words that cannot be fetched, from a PC outside space 001; QWAIT for 1 and for 2 with one tag pending, and for 0. -/
theorem witness_PushingCommands_more :
    let s := one.modStrand one.here fun a => { a with pc := 64 }
    (match s.fetchWords (s.pc + 32) 8 with | .error (b, .badPc) => b == 96 | _ => false) = true ∧ s.Handles ∧
    (((0 : Word) - 1).toInt < 0 ∧ 1 ≤ ((1 : Word) - 0).toNat ∧ 1 < ((2 : Word) - 0).toNat ∧ 0 ≤ ((0 : Word) - 0).toInt) ∧
    quadOf (pushes 63).cur = 0 := by
  unfold State.Handles; decide +kernel

/-- A queue that holds no vector command, and one that does; QWAIT for two tags with one pending. -/
theorem witness_PushingCommands_deficits :
    let v := (pushes 1).modCore 0 fun k => { k with queue := [⟨BitVec.ofNat 256 (2 ^ 248 * 8 + 2 ^ 244 * 2), false, false, 0x40000, true, false⟩] }
    ((pushes 63).core 0).queuesVector = false ∧ (v.core 0).queuesVector = true ∧
    ((pushes 63).core 0).pendingTags ((pushes 63).strand (pushes 63).here).sfp < ((2 : Word) - 0).toNat ∧
    ((pushes 63).strand (pushes 63).here).sfp = 0x40000 ∧ (pushes 63).here = ⟨0, 0⟩ := by decide +kernel

/-- A remote MZERO with a capability; the target has 15 remote commands, and 16. -/
def remote (cap : Word) : Remote :=
  ⟨⟨0, 0⟩, 0x40000, true, (0x0330000000000000 : BitVec 64) ++ cap ++ (0 : BitVec 128), false, false⟩

theorem cap_of (a b : BitVec 64) (c : BitVec 128) : (a ++ b ++ c).extractLsb' 128 64 = b := by
  ext i hi
  simp only [BitVec.getElem_extractLsb', BitVec.getLsbD_append]
  have h : ¬ 128 + i < 128 := by omega
  have k : 128 + i - 128 < 64 := by omega
  rw [if_neg h, if_pos k, Nat.add_sub_cancel_left, BitVec.getLsbD_eq_getElem hi]

theorem top_of (a b : BitVec 64) (c : BitVec 128) (k n : Nat) : (a ++ b ++ c).extractLsb' (192 + k) n = a.extractLsb' k n := by
  ext i hi
  simp only [BitVec.getElem_extractLsb', BitVec.getLsbD_append]
  have h : ¬ 192 + k + i < 128 := by omega
  have g : ¬ 192 + k + i - 128 < 64 := by omega
  rw [if_neg h, if_neg g, show 192 + k + i - 128 - 64 = k + i by omega]

theorem remote_split (t cap : BitVec 64) : CmdWord.split (t ++ cap ++ (0 : BitVec 128)) =
    ⟨t.extractLsb' 56 8, t.extractLsb' 52 4, t.getLsbD 51, t.getLsbD 50, t.extractLsb' 48 2, t.extractLsb' 0 48, cap, 0, 0⟩ := by
  have low (k : Nat) (h : k + 64 ≤ 128) : (t ++ cap ++ (0 : BitVec 128)).extractLsb' k 64 = 0 := by
    ext i hi
    simp only [BitVec.getElem_extractLsb', BitVec.getLsbD_append]
    rw [if_pos (by omega)]; simp
  unfold CmdWord.split
  rw [top_of _ _ _ 56 8, top_of _ _ _ 52 4, top_of _ _ _ 48 2, top_of _ _ _ 0 48, cap_of, low 64 (by omega), low 0 (by omega)]
  simp only [BitVec.getLsbD_append, Nat.reduceLT, Nat.reduceSub, if_false]

theorem remote_form (cap : Word) : remoteForm (remote cap).word = true ∧
    (remoteEntry (remote cap)).decode = some (.mzero false (.split 0) ⟨0, 0, cap, false, false⟩) := by
  have e : engOf (remote cap).word = 3 := by
    unfold engOf remote; rw [top_of _ _ _ 52 4]; rfl
  have t : (remote cap).word.getLsbD 242 = false := by
    unfold remote
    simp only [BitVec.getLsbD_append, Nat.reduceLT, Nat.reduceSub, if_false]; decide
  refine ⟨by unfold remoteForm; rw [e, t]; rfl, ?_⟩
  have d : CmdWord.split (remote cap).word = ⟨3, 3, false, false, 0, 0, cap, 0, 0⟩ := (remote_split _ cap).trans rfl
  have f : decodeCmdWord ⟨3, 3, false, false, 0, 0, cap, 0, 0⟩ false false =
    some (.mzero false (.split 0) ⟨0, 0, cap, false, false⟩) := rfl
  have g : (Instr.mzero false (.split 0) ⟨0, 0, cap, false, false⟩).fieldsOk = true := rfl
  show (match decodeCmdWord (.split (remote cap).word) false false with
    | some i => if i.fieldsOk then some i else none
    | none => none) = _
  rw [d, f]; simp only [g, if_true]

/-- The checks of a remote MZERO: whether the sender holds the accumulator. -/
theorem remote_check (cap : Word) (s : State) (x : Ctx) (c : Option Nat)
    (h : (match runMzero (.split 0) ⟨0, 0, cap, false, false⟩ { s with ctx := x } with
      | .fault c _ => if foundByCheck (remote 0).word c then some c else none
      | _ => none) = c) : s.checkCause x (remoteEntry (remote cap)) = c := by
  have f (c : Nat) : foundByCheck (remote cap).word c = foundByCheck (remote 0).word c := by
    unfold foundByCheck engOf opOf remote
    rw [top_of _ _ _ 52 4, top_of _ _ _ 56 8, top_of _ _ _ 52 4, top_of _ _ _ 56 8]
  unfold State.checkCause
  rw [(remote_form cap).2]
  rw [← h]
  simp only [Option.bind_some, headRun, remoteEntry, f]
  all_goals (cases runMzero _ _ _ <;> rfl)

/-- Room and none; the accumulator held by the sender, and not; another capability; a word that is no remote command. -/
theorem witness_PushingCommands_remote :
    let s : State := { one with quads := [(0, { one.quad 0 with
      remote := .replicate 15 (remote 0), owners := .replicate 20 ⟨some 0x40000, true⟩ })] }
    let z : State := { one with quads := [(0, { one.quad 0 with remote := .replicate 16 (remote 0) })] }
    let r := remote (one.part.capability 0 0)
    ((r.word.extractLsb' 128 64 = s.part.capability (0 / 512) (0 % 512) ∧ remoteForm r.word = true ∧ (remoteEntry r).decode.isSome = true) ∧
      s.checkCause (remoteContext r 0 false) (remoteEntry r) = none ∧ one.checkCause (remoteContext r 0 false) (remoteEntry r) = some 0x0A ∧
      (s.strand ⟨0, 0⟩).qerr = 0 ∧ (s.strand ⟨0, 0⟩).sfp = r.sfp ∧ (s.quad 0).gate = .on ∧ (s.quad 0).remote.length < 16 ∧
      (s.quad 0).noRemote = false ∧ s.timers = [] ∧ 16 ≤ (z.quad 0).remote.length) ∧
    r.word.extractLsb' 128 64 ≠ one.part.capability 0 0 + 1 ∧ remoteForm 0 = false := by
  refine ⟨⟨⟨cap_of _ _ _, (remote_form _).1, by rw [(remote_form _).2]; rfl⟩, remote_check _ _ _ _ (by decide +kernel),
    remote_check _ _ _ _ (by decide +kernel), by decide +kernel⟩, ?_, by decide⟩
  rw [show ((remote (one.part.capability 0 0)).word.extractLsb' 128 64) = one.part.capability 0 0 from cap_of _ _ _]
  simp

theorem engine_resident : engine.Resident 0x40000 ⟨0, 0⟩ :=
  ⟨by decide +kernel, fun q hq _ => live_only (by decide +kernel) q hq⟩

/-- An uncompleted command of the strand. -/
def issued : Issued := ⟨1, 0, 0x40000, 2, 0, 0, false, [], [], 1, none, none⟩

/-- REP of 8 commands with 8 and with 7 after it, and one marked short; QORD with an uncompleted command before it; a tag whose
strand's earlier commands have completed; a completion; the last instance of a repetition, and its end. -/
theorem witness_QueueControl :
    let e : QEntry := ⟨0, false, false, 0x40000, true, false⟩
    let rep (i : Nat) : Rep := ⟨1, 1, 0, 64, 0, 0x40000, [e], i, 0⟩
    let m := engine.modCore 0 fun k => { k with queue := .replicate 9 e }
    let f := engine.modCore 0 fun k => { k with queue := .replicate 8 e }
    let h := engine.modCore 0 fun k => { k with queue := [{ e with short := true }] }
    let r := engine.modCore 0 fun k => { k with rep := some (rep 0) }
    let z := engine.modCore 0 fun k => { k with rep := some (rep 1) }
    let t := (engine.modCore 0 fun k => { k with tags := [⟨0x40000, 0, none⟩] }).modQuad 0 fun q => { q with out := [issued] }
    (((∀ i ∈ (engine.quad 0).out, i.sfp = 0x40000 → i.remote = true) ∧ engine.headEntry = some e) ∧
      ((m.core 0).queue.tail.filter (fun x => x.sfp == 0x40000)).length = 8 ∧
      ((f.core 0).queue.tail.filter (fun x => x.sfp == 0x40000)).length < 8 ∧
      (h.headEntry = some { e with short := true } ∧ (h.strand ⟨0, 0⟩).qerr = 0) ∧
      ((r.core 0).rep = some (rep 0) ∧ (r.core 0).latch = none ∧ (rep 0).i < (rep 0).n ∧ (rep 0).captured[(rep 0).j]? = some e ∧
        (rep 0).stagger = 0) ∧
      ((z.core 0).rep = some (rep 1) ∧ (rep 1).n ≤ (rep 1).i) ∧
      ((t.core 0).tags = [⟨0x40000, 0, none⟩] ∧ (t.strand ⟨0, 0⟩).qerr = 0 ∧ ∀ i ∈ (t.quad 0).out, 0 < i.id) ∧
      (t.quad 0).out.find? (fun j => j.id == issued.id) = some issued ∧ issued.remote = false) ∧
    t.AtHead ⟨0, 0⟩ [] [] ∧ ∃ i ∈ (t.quad t.ctx.quad).out, i.sfp = t.ctx.sfp ∧ i.remote = false := by
  intro e rep m f h r z t
  exact ⟨by decide +kernel, at_head_among _ _ (by decide +kernel) (by decide +kernel), issued, by decide +kernel⟩

/-- A repetition's second instance, its stagger at both ends: of TRD, whose vreg is 30; of VFMA, with all its fields; of VOP with a
register B and with a scalar, and of its function 8; of VCVT to a block type. -/
theorem witness_QueueControl_stagger :
    let e (w : Nat) : QEntry := ⟨BitVec.ofNat 256 w, false, false, 0x40000, true, false⟩
    let words : List Nat := [2 ^ 248 + 2 ^ 244 + 30 * 2 ^ 212, 2 ^ 248 * 9 + 2 ^ 244 * 2 + (2 ^ 20 - 1) * 2 ^ 220, 2 ^ 248 * 8 + 2 ^ 244 * 2,
      2 ^ 248 * 8 + 2 ^ 244 * 2 + 2 ^ 192, 2 ^ 248 * 8 + 2 ^ 244 * 2 + 8 * 2 ^ 203, 2 ^ 248 * 12 + 2 ^ 244 * 2 + 14 * 2 ^ 197]
    ∀ stagger ∈ [0#5, 31#5], let s := engine.modCore 0 fun k => { k with
        rep := some ⟨2, 6, stagger, 64, 0, 0x40000, words.map e, 1, 5⟩ }
      ((s.core 0).rep.map fun r => (decide (r.i < r.n), r.captured[r.j]?)) = some (true, some (e (words.getD 5 0))) ∧ (s.core 0).latch = none ∧
      words.map (fun w => (engOf (e w).word, opOf (e w).word)) = [(1, 1), (2, 9), (2, 8), (2, 8), (2, 8), (2, 12)] ∧
      words.map (fun w => ((e w).word.getLsbD 192, (e w).word.toNat / 2 ^ 203 % 32, blockType ((e w).word.extractLsb' 197 5))) =
        [(false, 0, false), (false, 0, false), (false, 0, false), (true, 0, false), (false, 8, false), (false, 0, true)] ∧
      (30 + 1 * 31) % 32 = 29 := by decide +kernel

/-- Track 127 bound by the strand whose command is at the head, its head at 0 or 896. -/
def tracks (h : BitVec 10) : State :=
  (engine.modStrand ⟨0, 0⟩ fun a => { a with binds := [(127, h)] }).modCore 0 fun k => { k with bound := [(127, 0x40000)] }

theorem witness_TrackCommands : (∀ r w, (tracks 1022).AtHead ⟨0, 0⟩ r w) ∧ ((tracks 1022).strand ⟨0, 0⟩).headOf 127 = some 1022 ∧
    (((tracks 1022).core 0).shifting.find 127 = none ∧ ((tracks 1022).core 0).dead.contains 127 = false ∧
      ((tracks 1022).core 0).slips.find 127 = none ∧ ((tracks 1022).core 0).spineBroken = [] ∧ (0 : Nat) < 2 ^ 20) ∧
    ((1022 : Nat) : Int) + (1 : BitVec 3).toInt ≤ 1023 ∧ 0 ≤ ((0 : Nat) : Int) + (0 : BitVec 3).toInt ∧ (tracks 0).MemoryWf ∧
    (engine.strand ⟨0, 0⟩).headOf 127 = none ∧ (engine.strand ⟨0, 0⟩).qerr = 0 ∧ (∀ r w, engine.AtHead ⟨0, 0⟩ r w) :=
  ⟨fun r w => at_head r w (by decide +kernel) (by decide +kernel), by decide +kernel, by decide +kernel, by decide,
    by decide, by unfold State.MemoryWf; decide +kernel, by decide +kernel, by decide +kernel, engine_at_head⟩

/-- A shift in progress; a burst that fills a cabinet with the last positions of four segments. -/
theorem witness_TrackCommands_bursts :
    (((tracks 0).modCore 0 fun k => { k with shifting := [(127, 5)] }).core 0).shifting.find 127 = some 5 ∧ (engine.core 0).slips.find 127 = none ∧
    (∀ r w, (tracks 896).AtHead ⟨0, 0⟩ r w) ∧ (tracks 896).MemoryWf ∧ (∀ q, ((tracks 896).quad q).deferred = []) ∧
    896 + 128 - 1 ≤ 1023 ∧ (tracks 896).Names 0 0x20000 (256 * (128 * 4)) 256 (scratchBase 0 + 0x20000) :=
  ⟨by decide +kernel, by decide +kernel, fun r w => at_head r w (by decide +kernel) (by decide +kernel), by unfold State.MemoryWf; decide +kernel,
    none_deferred (by decide +kernel), by decide, ⟨0, 0, 0x20000, by decide +kernel⟩⟩

/-- Units 0 to 15 and 16 to 19 held by the strand whose command is at the head, or by another. -/
def units (sfp : Word) (x : Slot) : State := { engine with
  quads := engine.quads.map fun e => (e.1, { e.2 with
    owners := .replicate 20 ⟨some sfp, false⟩, slots := .replicate 16 x, cfmt := .replicate 7 (if x.ty = 24 then 0 else x.ty) }) }

theorem units_at_head (reads writes : List Nat) : (units 0x40000 .reset).AtHead ⟨0, 0⟩ reads writes :=
  at_head reads writes (by decide +kernel) (by decide +kernel)

/-- Nothing of the press is uncompleted, so every command starts. -/
theorem starts_alone {q : Quad} (h : q.out = []) (sfp : Word) (pipe : Nat) (r w : List Nat) : q.Starts sfp pipe r w := by
  unfold Quad.Starts; rw [h]; rfl

theorem units_start (x : Slot) (sfp : Word) (pipe : Nat) (r w : List Nat) : ((units 0x40000 x).quad 0).Starts sfp pipe r w :=
  starts_alone (show (engine.quad 0).out = [] by decide +kernel) sfp pipe r w

/-- MZERO behind a command of its pipe that another strand sent and that waits on a page. -/
theorem witness_PressUnits_held :
    let x : Ctx × QEntry := (.plain 0 0 0x60000 true, ⟨0, false, false, 0x60000, true, false⟩)
    let i : Issued := ⟨1, 0, 0x60000, 3, 1, 0, false, [], [], 0, none, some x⟩
    let s := (units 0x40000 .reset).modQuad 0 fun q => { q with out := [i] }
    (((s.quad 0).owners.toList.getD 16 ⟨none, false⟩).holder = some s.ctx.sfp ∧ startHeld (s.quad 0).out s.ctx.sfp 1 [] [48] = true ∧
      (s.headEntry).isSome = true) ∧ s.AtHead ⟨0, 0⟩ [] [48] ∧ (engine.quad 0).Starts engine.ctx.sfp 0 [] [32] := by
  intro x i s
  exact ⟨by decide +kernel, at_head_among _ _ (by decide +kernel) (by decide +kernel), starts_alone (by decide +kernel) _ _ _ _⟩

/-- All units claimed that are free or the strand's own; another strand's; a word; units that the strand holds. -/
theorem witness_PressUnits :
    ((∀ r w, engine.AtHead ⟨0, 0⟩ r w) ∧ (0xFFFFF : Word).toNat < 2 ^ 20 ∧
      ∀ u < 20, (((engine.quad 0).owners.toList.getD u ⟨none, false⟩).holder).isSome = false) ∧
    (∃ u < 20, (0xFFFFF : Word).getLsbD u = true ∧ (((units 0x50000 .reset).quad 0).owners.toList.getD u ⟨none, false⟩).holder = some 0x50000) ∧
    (((units 0x50000 .reset).strand ⟨0, 0⟩).qerr = 0 ∧ ∀ r w, (units 0x50000 .reset).AtHead ⟨0, 0⟩ r w) ∧
    (∀ u < 20, (((units 0x40000 .reset).quad 0).owners.toList.getD u ⟨none, false⟩).holder = some 0x40000) ∧
    (engine.MemoryWf ∧ (∀ r, (engine.quad r).deferred = []) ∧ engine.Names 0 0x3000 64 64 (scratchBase 0 + 0x3000)) ∧
    (engine.quad 0).out = [] :=
  ⟨⟨engine_at_head, by decide, by decide +kernel⟩, ⟨0, by decide +kernel⟩,
    ⟨by decide +kernel, fun r w => at_head r w (by decide +kernel) (by decide +kernel)⟩, by decide +kernel,
    ⟨by unfold State.MemoryWf; decide +kernel, none_deferred (by decide +kernel), ⟨0, 0, 0x3000, by decide +kernel⟩⟩, by decide +kernel⟩

/-- One row of bf16 at the end of a cabinet; one row of mxint8 with its two records; and units that the strand holds. -/
theorem witness_PressTiles :
    ((∀ r w, (units 0x40000 .reset).AtHead ⟨0, 0⟩ r w) ∧ reservedType 1 = false ∧ slotK 1 ≠ 0 ∧ drainType 1 = true ∧
      (units 0x40000 .reset).Names 0 0x1FE00 16 (elemAlign 16) (scratchBase 0 + 0x1FE00) ∧
      ((units 0x40000 .reset).quad 0).cfmt.toList[(scratchBase 0 + 0x1FE00 - scratchBase 0) / 2 ^ 17]? = some 1 ∧
      (∀ k < 32, (units 0x40000 .reset).Names 0 ((0x1FE00 : Word) + BitVec.ofInt 64 ((0 : Nat) * 512 + (k * 16 : Nat))) 16 (elemAlign 16)
        (scratchBase 0 + 0x1FE00 + 16 * k)) ∧
      (units 0x40000 .reset).MemoryWf ∧ ∀ r, ((units 0x40000 .reset).quad r).deferred = []) ∧
    slotK 14 = 64 ∧ blockType 14 = true ∧
    ∀ b < 1 * 64 / 32, (units 0x40000 .reset).Names 0 ((0x8000 : Word) + BitVec.ofNat 64 (recordWidth 14 * b)) 8 8 (scratchBase 0 + 0x8000 + 8 * b) :=
  ⟨⟨units_at_head, by decide, by decide, by decide, ⟨0, 0, 0x1FE00, by decide +kernel⟩, by decide +kernel,
      fun k h => ⟨0, 0, 0x1FE00 + 16 * k, by revert k; decide +kernel⟩, by unfold State.MemoryWf; decide +kernel,
      none_deferred (by decide +kernel)⟩, by decide, by decide, fun b h => ⟨0, 0, 0x8000 + 8 * b, by revert b; decide +kernel⟩⟩

/-- f32 in the cabinet, for an accumulator with its row states; every value of a block of mxint8 that is zero has a press scale. -/
theorem witness_PressTiles_accumulators :
    let s := units 0x40000 ⟨0, 0, 24⟩
    (s.quad 0).cfmt.toList[(scratchBase 0 - scratchBase 0) / 2 ^ 17]? = some 0 ∧ (0 : BitVec 5) = 0 ∧ drainType 0 = true ∧ family 0 ≠ .mx ∧
    (∀ k < 32, s.Names 0 ((0 : Word) + BitVec.ofInt 64 ((0 : Nat) * 1024 + (k * 32 : Nat))) 32 32 (scratchBase 0 + 32 * k)) ∧
    (∀ b < 2, s.Names 0 ((0x9000 : Word) + BitVec.ofNat 64 (64 * b)) 64 64 (scratchBase 0 + 0x9000 + 64 * b)) ∧
    (scaleCode 14 (.replicate 32 0) 0).isSome = true :=
  ⟨by decide +kernel, by decide, by decide, by decide, fun k h => ⟨0, 0, 32 * k, by revert k; decide +kernel⟩,
    fun b h => ⟨0, 0, 0x9000 + 64 * b, by revert b; decide +kernel⟩, by decide +kernel⟩

/-- Operands of bf16; a mask with 16 ones in each group; A in the last two slots; a multiplier of 1. -/
theorem witness_PressArithmetic :
    (∀ r w, (units 0x40000 .reset).AtHead ⟨0, 0⟩ r w) ∧ operandType (Slot.reset).ty = true ∧
    (∀ j < 32, ∀ g < 2 * 32 / 32, onesBelow ((⟨BitVec.ofNat 16384 ((2 ^ 16384 - 1) / (2 ^ 32 - 1) * 0xFFFF), 0, 24⟩ : Slot).maskAt j g) 32 = 32 / 2) ∧
    (14 : BitVec 4).toNat + 2 ≤ 16 ∧ (∃ mag ex, val32 ((0x3F800000 : Word).extractLsb' 0 32) = .fin false mag ex ∧ mag ≠ 0) ∧
    (4 : BitVec 3).toNat ≤ 4 ∧ (0x3F800000 : Word).toNat < 2 ^ 32 :=
  ⟨units_at_head, by decide, by decide +kernel, by decide, ⟨2 ^ 23, -23, by decide +kernel⟩, by decide, by decide⟩

/-- The heads of an engine of quad 0 that are ready; of the vector unit, with the deficits of idle cores at 0. -/
def readyHeads (s : State) (eng : Nat) : List (Nat × QEntry) :=
  let s := if eng = 2 then (quadCores 0).foldl State.idleDeficit s else s
  ((s.engineHeads 0 eng).filter fun x => x.2.1.decode.isSome && (s.quad 0).clear x.2.1 x.2.2.remote && (s.checkCause x.2.2 x.2.1).isNone).map
    fun x => (x.1, x.2.1)

/-- Cores 0 and 2 have a press command at the head; none; one that is taken. -/
theorem witness_EngineAcceptance :
    let e : QEntry := ⟨BitVec.ofNat 256 (2 ^ 244 * 3), false, false, 0x40000, true, false⟩
    let p := (engine.modCore 0 fun k => { k with queue := [e] }).modCore (coreOfQuad 0 2) fun k => { k with queue := [{ e with sfp := 0x60000 }] }
    (p.stopped 0 = false ∧ p.taking 0 3 = false ∧ ((readyHeads p 3).filter (p.accepts 0 3)).map (·.1) = [0, 2]) ∧
    ({ p with agenda := [.issue 0] }.taking 0 3 = true) ∧ engine.taking 0 3 = false ∧ readyHeads engine 3 = [] ∧
    engine.taking 0 4 = false ∧ readyHeads engine 4 = [] ∧ engine.taking 0 2 = false ∧ readyHeads engine 2 = [] := by decide +kernel

/-- A vector command with a deficit left, of one group, and of eight at half width, its first half and its second. -/
theorem witness_EngineAcceptance_vectors :
    let e (g : Nat) : QEntry := ⟨BitVec.ofNat 256 (2 ^ 248 * 8 + 2 ^ 244 * 2 + 2 ^ 218 * g), false, false, 0x40000, true, false⟩
    let v (g : Nat) (w : Bool) (h : Option (Fin 4)) := (engine.modCore 0 fun k => { k with queue := [e g] }).modQuad 0 fun q =>
      { q with deficit := .replicate 4 1, halfw := w, half := h }
    (readyHeads (v 0 false none) 2 = [(0, e 0)] ∧ (v 0 false none).taking 0 2 = false ∧
      ((v 0 false none).core (coreOfQuad 0 0)).queuesVector = true ∧ (v 0 false none).stopped 0 = false ∧
      (0 : Int) < ((v 0 false none).quad 0).deficit[0] ∧ ((v 0 false none).quad 0).half = none ∧ (laneCost (e 0).word).1 = 1) ∧
    (readyHeads (v 3 true none) 2 = [(0, e 3)] ∧ ((v 3 true none).quad 0).halfw = true ∧ (laneCost (e 3).word).1 = 8) ∧
    (readyHeads (v 3 true (some 0)) 2 = [(0, e 3)] ∧ ((v 3 true (some 0)).quad 0).half = some 0) ∧
    ((v 0 false none).core (coreOfQuad 0 1)).queuesVector = false ∧ (0 : Int) < 0 + 8 * (v 0 false none).shareOf (e 0).sfp := by decide +kernel

/-! ### Copies, subscriptions, absent pages -/

/-- `engine` with the first GiB of HBM mapped, and at bit 0x1000 a shape record of one row of two elements of nat32: a
completion word at 0x3000 where `cw` says so, source 0x4000 for the forms that take it from the record, and RSIZE 1 and
TCOUNT 1 for a subscription. -/
def shapes (cw : Word) : State :=
  let w (m : Memory) (k : Nat) (v : Word) : Memory := m.writeBits (scratchBase 0 + 0x1000 + 64 * k) 64 v.toNat
  let m := w (w (placedMemory [] 36 0) 0 (BitVec.ofNat 64 (24 * 2 ^ 35 + 24 * 2 ^ 30 + 2 ^ 26))) 3 2
  { engine with mem := w (w (w m 16 cw) 18 0x4000) 19 0x100000001 }

def shape (cw : Word) : ShapeRec :=
  .ofWords ((List.range 20).map fun k => BitVec.ofNat 64 ((shapes cw).bitsAt (scratchBase 0 + 0x1000 + 64 * k) 64))

theorem shapes_at_head (reads writes : List Nat) : (shapes 0).AtHead ⟨0, 0⟩ reads writes ∧ (shapes 0x3000).AtHead ⟨0, 0⟩ reads writes :=
  ⟨at_head reads writes (by decide +kernel) (by decide +kernel), at_head reads writes (by decide +kernel) (by decide +kernel)⟩

/-- Source 0x4000, destination 0x8000, with no completion word and with one. -/
theorem witness_Copies :
    let us := (shape 0).units 0x4000 0x8000 0 0 24 24
    ((∀ r w, (shapes 0).AtHead ⟨0, 0⟩ r w ∧ (shapes 0x3000).AtHead ⟨0, 0⟩ r w) ∧ (shapes 0).MemoryWf ∧ (∀ q, ((shapes 0).quad q).deferred = []) ∧
      (shape 0).valid = true ∧ (shapes 0).Names 0 0x1000 1280 64 (scratchBase 0 + 0x1000) ∧ (shape 0).cwaddr = 0 ∧ (shape 0).aux = 0x4000) ∧
    (reservedType 24 = false ∧ ((shapes 0).quad 0).cfmt.toList[(scratchBase 0 + 0x4000 - scratchBase 0) / 2 ^ 17]? = some 24 ∧
      (shapes 0).Names 0 0x4000 32 1 (scratchBase 0 + 0x4000) ∧ (shapes 0).Names 0 0x8000 32 1 (scratchBase 0 + 0x8000)) ∧
    us.length = 2 ∧ (∀ x ∈ unitsRead us ++ unitsWrite us, (shapes 0).Names 0 x.a x.w x.align (scratchBase 0 + x.a.toNat)) ∧
    (∀ x ∈ unitsRead us, ∀ y ∈ unitsWrite us, x.a.toNat + x.w ≤ y.a.toNat ∨ y.a.toNat + y.w ≤ x.a.toNat) ∧
    ((shape 0x3000).cwaddr ≠ 0 ∧ space (shape 0x3000).cwaddr ≠ 2 ∧ (shapes 0x3000).part.quadList.contains (quadOf 0) = true ∧
      (shapes 0x3000).Names 0 (shape 0x3000).cwaddr 64 64 (scratchBase 0 + 0x3000)) := by
  intro us
  refine ⟨⟨shapes_at_head, by unfold State.MemoryWf; decide +kernel, none_deferred (by decide +kernel), by decide +kernel,
    ⟨0, 0, 0x1000, by decide +kernel⟩, by decide +kernel, by decide +kernel⟩, ⟨by decide, by decide +kernel, ⟨0, 0, 0x4000, by decide +kernel⟩,
    ⟨0, 0, 0x8000, by decide +kernel⟩⟩, by decide +kernel, fun x hx => ⟨0, 0, x.a.toNat, ?_⟩, by decide +kernel, by decide +kernel,
    by decide +kernel, by decide +kernel, ⟨0, 0, 0x3000, by decide +kernel⟩⟩
  revert x; decide +kernel

/-- A copy at the head that the copy engine accepts. -/
theorem witness_EngineAcceptance_copies :
    let w : BitVec 256 := BitVec.ofNat 256 (2 ^ 244 * 4) ||| BitVec.ofNat 256 (0x1000 * 2 ^ 128 + 0x4000 * 2 ^ 64 + 0x8000)
    let c := (shapes 0).modCore 0 fun k => { k with queue := [⟨w, false, false, 0x40000, true, false⟩] }
    c.taking 0 4 = false ∧ ((readyHeads c 4).filter (c.accepts 0 4)).map (·.1) = [0] ∧
    { c with agenda := [.issue 0] }.taking 0 4 = true := by decide +kernel

/-- An issued copy command with a completion word to come, PUT to a word that is empty, and to one that is full. -/
theorem witness_Copies_words :
    let l : Late := ⟨some (scratchBase 0 + 0x3000), 7, true, 0, 0, true, 24⟩
    let i : Issued := ⟨1, 0, 0x40000, 4, 0, 512, false, [], [], 0, some l, none⟩
    let r : Issued := { i with id := 2, track := 16 * 7 + 15 }
    let s : State := { engine with quads := [(0, { engine.quad 0 with out := [i, r] })] }
    let f : State := { s with full := [scratchBase 0 / 64 + 192] }
    (s.issuedWith 0 (fun j => j.id == i.id) = some (i, l) ∧ s.issuedWith 0 (fun j => j.track == 16 * 7 + 15) = some (r, l) ∧
      s.bad = [] ∧ inUserCabinets 0 (scratchBase 0 + 0x3000) 64 = true ∧ (scratchBase 0 + 0x3000) % 64 = 0 ∧
      (scratchBase 0 + 0x3000) / 64 ∉ s.full ∧ s.placeBusy (scratchBase 0 + 0x3000) = false ∧ (0 : Nat) < 2 ^ 18 ∧ (∀ j ∈ (s.quad 0).out, j.id = i.id → j = i) ∧ (∀ j ∈ (s.quad 0).out, j.id = r.id → j = r)) ∧
    (scratchBase 0 + 0x3000) / 64 ∈ f.full ∧ (f.strand ⟨0, 0⟩).qerr = 0 ∧ s.MemoryWf ∧ ∀ q, (s.quad q).deferred = [] :=
  ⟨by decide +kernel, by decide +kernel, by decide +kernel, by unfold State.MemoryWf; decide +kernel, none_deferred (by decide +kernel)⟩

/-- A subscription of one tile and two slots, its source the start of HBM, its ring at 0x8000, its words at 0x3000. -/
def subscription (slots : List RingState) (next : Nat) : Sub :=
  ⟨true, 0x2000000000000000, 0x8000, (List.range 20).map fun k =>
    BitVec.ofNat 64 ((shapes 0x3000).bitsAt (scratchBase 0 + 0x1000 + 64 * k) 64), [24, 24], slots, next, 1, 0, 0x40000, true, 0, false, 0, []⟩

def subscribed (u : Sub) : State :=
  { shapes 0x3000 with quads := [(0, { engine.quad 0 with subs := (engine.quad 0).subs.set 7 (some u) })] }

theorem witness_Subscriptions : ((∀ r w, (shapes 0x3000).AtHead ⟨0, 0⟩ r w) ∧ (shape 0x3000).valid = true ∧ (shape 0x3000).rsize ≠ 0 ∧
      (shape 0x3000).tcount ≠ 0 ∧ (shape 0x3000).cwaddr ≠ 0 ∧ (shapes 0x3000).Names 0 0x1000 1280 64 (scratchBase 0 + 0x1000) ∧
      ((shapes 0x3000).quad 0).subs[7] = none ∧
      (shapes 0x3000).spot .load ⟨0x2000000000000000, 1, 1⟩ = .ok [⟨0, 1⟩] .hbm ∧
      (0x2000000000000000 : Word).toNat % elemAlign (typeWidth (shape 0x3000).stype) = 0) ∧
    (shapes 0x3000).Names 0 0x8000 (2 * (shape 0x3000).rsize * 256) 256 (scratchBase 0 + 0x8000) ∧ space (shape 0x3000).cwaddr ≠ 2 ∧
    (shapes 0x3000).Names 0 (shape 0x3000).cwaddr (64 * 2) 64 (scratchBase 0 + 0x3000) ∧
    ((shapes 0x3000).quad 0).cfmt.toList[(scratchBase 0 + 0x8000 - scratchBase 0) / 2 ^ 17]? = some 24 ∧
    reservedType (shape 0x3000).stype = false ∧ (shape 0x3000).badStride (shape 0x3000).sstr 24 = false ∧
    (shape 0x3000).badStride (shape 0x3000).dstr 24 = false :=
  ⟨⟨fun r w => (shapes_at_head r w).2, by decide +kernel, by decide +kernel, by decide +kernel, by decide +kernel, ⟨0, 0, 0x1000, by decide +kernel⟩,
    by decide +kernel, by decide +kernel, by decide +kernel⟩, ⟨0, 0, 0x8000, by decide +kernel⟩, by decide +kernel, ⟨0, 0, 0x3000, by decide +kernel⟩,
    by decide +kernel, by decide +kernel, by decide +kernel, by decide +kernel⟩

/-- The physical place of an address of HBM's first bits or of the own scratchpad. -/
def placeOf (a : Word) : Nat := if space a = 1 then a.toNat % 2 ^ 61 else scratchBase 0 + a.toNat

theorem shapes_plain : (shapes 0x3000).bad = [] ∧ (shapes 0x3000).MemoryWf ∧ (shapes 0x3000).Resident 0x40000 ⟨0, 0⟩ :=
  ⟨by decide +kernel, by unfold State.MemoryWf; decide +kernel, by decide +kernel, fun q hq _ => live_only (by decide +kernel) q hq⟩

theorem subscribed_plain (u : Sub) : (subscribed u).bad = [] ∧ (subscribed u).MemoryWf ∧ (subscribed u).Resident 0x40000 ⟨0, 0⟩ :=
  shapes_plain

theorem subscribed_deferred (u : Sub) : ∀ q, ((subscribed u).quad q).deferred = [] := by
  refine none_deferred fun e he => ?_
  rcases List.mem_singleton.1 he with rfl
  show (engine.quad 0).deferred = []
  decide +kernel

/-- A tile that may start; and one that arrives: where its source and its slot lie. -/
theorem witness_Subscriptions_tiles :
    let u := subscription [.free, .free] 0
    let f := subscription [.filling 0, .free] 1
    let s := subscribed f
    let m := s.asSub 0 f
    let o := f.shape
    let us := o.units (f.base + BitVec.ofNat 64 0 * o.aux) (f.slotBase 0)
      (o.sscale + BitVec.ofNat 64 (0 * (recordWidth o.stype * o.blocks))) (o.dscale + BitVec.ofNat 64 (0 * (recordWidth (f.typeOf 0) * o.blocks)))
      o.stype (f.typeOf 0)
    ((u.active = true ∧ u.comb = false ∧ u.merged = [] ∧ u.next < u.tiles ∧ u.slots[u.slotOf u.next]? = some .free ∧
        (subscribed u).sub 0 7 = some u) ∧
      (f.active = true ∧ f.comb = false ∧ f.merged = [] ∧ f.next = 0 + 1 ∧ f.slotOf 0 = 0 ∧ f.slots[0]? = some (.filling 0) ∧
        s.sub 0 7 = some f ∧ quadOf f.core = 0) ∧
      (space o.sscale ≠ 2 ∧ space o.dscale ≠ 2 ∧ space o.cwaddr ≠ 2 ∧ us.length = 2 ∧
        (∀ y ∈ us.flatMap (·.src), m.spot .load y = .ok [⟨placeOf y.a, y.w⟩] .hbm) ∧
        (∀ y ∈ unitsRead us, m.spot .load y = .ok [⟨placeOf y.a, y.w⟩] .hbm ∧ placeOf y.a + y.w ≤ trackBase 0) ∧
        (∀ y ∈ unitsWrite us, m.spot .store y = .ok [⟨placeOf y.a, y.w⟩] (.scratch 0) ∧ placeOf y.a + y.w ≤ trackBase 0 ∧
          s.guarded (placeOf y.a) = false ∧ space y.a ≠ 1) ∧
        (∀ y ∈ unitsWrite us, ∀ z ∈ unitsWrite us, placeOf y.a / 2 ^ 46 = placeOf z.a / 2 ^ 46) ∧
        (scratchBase 0 + 0x3000) / 64 ∉ s.full ∧ s.placeBusy (scratchBase 0 + 0x3000) = false)) ∧
    m.Names f.core (o.cwaddr + BitVec.ofNat 64 (64 * 0)) 64 64 (scratchBase 0 + 0x3000) ∧ s.bad = [] ∧ s.MemoryWf ∧
    (∀ r, (s.quad r).deferred = []) ∧ s.Resident f.sfp ⟨0, 0⟩ := by
  intro u f s m o us
  exact ⟨by decide +kernel, ⟨0, 0, 0x3000, by decide +kernel⟩, (subscribed_plain f).1, (subscribed_plain f).2.1, subscribed_deferred f,
    (subscribed_plain f).2.2⟩

/-- A slot that is READY, to be released and to be stored; a tile that RETN has released and that the storer reads. -/
theorem witness_Subscriptions_later :
    let r := subscription [.ready 0, .free] 1
    let u := subscription [.reading 0, .free] 1
    let l : Late := ⟨none, 0, false, 0, 0x2000000000100000, true, 24⟩
    let i : Issued := ⟨1, 0, 0x40000, 4, 0, 16 * 7, false, [], [], 0, some l, none⟩
    let s : State := { subscribed u with quads := (subscribed u).quads.map fun (e : Nat × Quad) => (e.1, { e.2 with out := [i] }) }
    let m := s.asSub 0 u
    let us := m.storeUnits u 0 0 l.ty l.dst
    (r.slots[0]? = some (.ready 0) ∧ (subscribed r).sub 0 7 = some r ∧ space 0x2000000000100000 ≠ 3 ∧
      reservedType ((subscribed r).typeAt (r.slotBase 0) r.shape.dtype) = false ∧
      (subscribed r).part.quadList.contains (quadOf 0) = true ∧
      ∀ y ∈ ((subscribed r).storeUnits r 0 0 24 0x2000000000100000).flatMap (·.dst),
        (subscribed r).spot .store y = .ok [⟨placeOf y.a, y.w⟩] .hbm) ∧
    (s.issuedWith 0 (fun j => j.track == 16 * 7) = some (i, l) ∧ s.sub 0 7 = some u ∧ u.slots[0]? = some (.reading 0) ∧
      us.length = 2 ∧ (∀ y ∈ unitsRead us, m.spot .load y = .ok [⟨placeOf y.a, y.w⟩] (.scratch 0) ∧ placeOf y.a + y.w ≤ trackBase 0 ∧
        space y.a ≠ 1) ∧
      (∀ y ∈ unitsWrite us, { m with ctx := { m.ctx with priv := l.priv } }.spot .store y = .ok [⟨placeOf y.a, y.w⟩] .hbm ∧
        placeOf y.a + y.w ≤ trackBase 0 ∧ s.guarded (placeOf y.a) = false) ∧
      ∀ y ∈ unitsWrite us, ∀ z ∈ unitsWrite us, placeOf y.a / 2 ^ 46 = placeOf z.a / 2 ^ 46) := by
  decide +kernel

/-- UNSUB with no SUB waiting and with one, which is the state that combines, 64 cycles after it came. -/
theorem witness_Subscriptions_combine :
    let v : Sub := { subscription [.free, .free] 0 with comb := true }
    let l : Late := ⟨none, 0, false, 0, 0, true, 24⟩
    let i : Issued := ⟨1, 0, 0x40000, 4, 0, 256 + 7, false, [], [], 0, some l, none⟩
    let c : State := { subscribed v with now := 64 }
    let w : State := { c with quads := c.quads.map fun (e : Nat × Quad) => (e.1, { e.2 with out := [i] }) }
    (c.sub 0 7 = some v ∧ v.active = true ∧ c.issuedWith 0 (fun j => j.track == 256 + 7) = none ∧ v.waits = true ∧
      v.arrived + 64 ≤ c.now) ∧
    (w.issuedWith 0 (fun j => j.track == 256 + 7) = some (i, l) ∧ w.sub 0 7 = some v ∧ v.arrived + 64 ≤ w.now ∧
      ∀ j ∈ (w.quad 0).out, j.id = i.id → j = i) ∧ w.AtHead ⟨0, 0⟩ [] [] := by
  intro v l i c w
  exact ⟨by decide +kernel, by decide +kernel, at_head_among _ _ (by decide +kernel) (by decide +kernel)⟩

/-- A cluster with a fault queue of one slot at the last place of cabinet 7 that a queue may have, its slot empty or not. -/
def faulting (status : Nat) (b : Batch) (bk : Bank → Bank) : State :=
  { one with
    mem := (one.mem).writeBits (scratchBase 0 + 0xFF600 + 512) 64 (status * 2 ^ 62)
    cores := one.cores.map fun (e : Nat × Core) => (e.1, { e.2 with banks := e.2.banks.set 0 (bk e.2.banks[0]) })
    clusters := [(0, { Cluster.reset with fqbase := 0xFF600, batches := [b], watched := [(0, b)] })] }

def batch : Batch := ⟨0, some 0, none, some 0x40000, 0x2000000000080000, .replicate 16 0x10⟩

def waitsOnPage (b : Bank) : Bank := { b with status := .page 0x2000000000080000 .load (some 0) }

theorem witness_AbsentPages :
    (one.Handles ∧ (one.cluster 0).fqbase.toNat / 2 ^ 9 = 0 ∧ ((faulting 0 batch id).cluster 0).fqbase.toNat / 2 ^ 9 ≠ 0) ∧
    ((pushes 0).translation 0 .fetch (2 ^ 33 - 1) = .leaf 0xC00000000000000F 33 ∧ (pushes 0).bad = [] ∧
      permits 0xC00000000000000F .atomic true = true ∧ permits 0 .load false = false ∧
      tlbFind ((pushes 0).core 0).itlb 0 = none ∧ tlbFind ((pushes 0).cluster 0).tlb 0 = none) ∧
    (((faulting 0 batch id).cluster 0).batches.find? (fun b => b.core == 0 && b.bank.getD 0 == 0) = some batch ∧
      ((faulting 0 batch id).cluster 0).slotCount = 1 ∧ (faulting 0 batch id).slotStatus 0 0 = 0 ∧ (faulting 1 batch id).slotStatus 0 0 ≠ 0 ∧
      batch.pages.length ≤ 16 ∧ (faulting 0 batch id).bad = [] ∧ Memory.wf (faulting 0 batch id).mem = true ∧
      scratchBase 0 + 0xFF600 + 2 ^ 17 ≤ trackBase 0 ∧ (scratchBase 0 + 0xFF600) % 64 = 0 ∧ space ((faulting 0 batch id).cluster 0).posts = 0 ∧
      ∀ acc ∈ [Access.load, .store, .atomic, .fetch], ∀ o < 40,
        (faulting 0 batch id).locate (firstCore 0) false false acc (((faulting 0 batch id).cluster 0).posts + BitVec.ofNat 64 (64 * o)) 64 64 =
          .ok [⟨scratchBase 0 + 0xFF600 + 64 * o, 64⟩] (.scratch 0)) := by
  unfold State.Handles; decide +kernel

/-- A slot whose STATUS is 01, 10 and 11, of a strand that waits on its page and of an engine's command. -/
theorem witness_AbsentPages_outcomes :
    let e : Batch := { batch with bank := none, cmd := some 1 }
    let i : Issued := { issued with paused := some (.plain 0 0 0x40000 true, ⟨0, false, false, 0x40000, true, false⟩) }
    let c := (faulting 3 e id).modQuad 0 fun k => { k with out := [i] }
    (∀ n ∈ [1, 2, 3], let s := faulting n batch waitsOnPage
      (s.cluster 0).watched.find? (fun x => x.1 == 0) = some (0, batch) ∧ s.bitsAt (scratchBase 0 + 0xFF600 + 512) 64 / 2 ^ 62 = n ∧
      (s.bank ⟨0, 0⟩).live = true ∧ batch.sfp = some (s.strand ⟨0, 0⟩).sfp ∧ (s.bank ⟨0, 0⟩).status = .page 0x2000000000080000 .load (some 0) ∧
      (s.strand ⟨0, 0⟩).trap = false ∧ (s.bank ⟨0, 0⟩).mark = none ∧ s.bad = [] ∧ Memory.wf s.mem = true ∧
      space ((s.cluster 0).slotWord 0 0) = 0 ∧ ∀ acc ∈ [Access.load, .store, .atomic, .fetch],
        s.locate (firstCore 0) false false acc ((s.cluster 0).slotWord 0 0) 64 64 = .ok [⟨scratchBase 0 + 0xFF600 + 512, 64⟩] (.scratch 0)) ∧
    ((c.cluster 0).watched.find? (fun x => x.1 == 0) = some (0, e) ∧ e.bank = none ∧ e.cmd = some 1 ∧
      (c.quad 0).out.find? (fun j => j.id == 1) = some i ∧ i.id = 1 ∧ i.paused.isSome = true ∧ (c.strand ⟨0, 0⟩).qerr = 0 ∧
      (c.bank ⟨0, 0⟩).live = true ∧ (c.strand ⟨0, 0⟩).sfp = 0x40000) ∧
    (∀ q, ((faulting 1 batch waitsOnPage).quad q).deferred = []) ∧ ∀ q, (c.bank q).live = true → q = ⟨0, 0⟩ :=
  ⟨by decide +kernel, by decide +kernel, none_deferred (by decide +kernel), live_only (by decide +kernel)⟩

/-- A strand that waits on a page, with a runnable record that has waited 1,024 cycles for a bank, and with none. -/
theorem witness_AbsentPages_waiting :
    let s := faulting 1 batch waitsOnPage
    let w : State := { s.modCore 0 fun k => { k with
      banks := .replicate 4 { k.banks[0] with strand := { k.banks[0].strand with sfp := 0x60000 } }
      parked := [⟨0, 0x50000, true, .running, 0⟩] } with now := 1024 }
    (w.bank ⟨0, 0⟩).live = true ∧ (w.bank ⟨0, 0⟩).status = .page 0x2000000000080000 .load (some 0) ∧ (w.strand ⟨0, 0⟩).trap = false ∧
    w.wanting 0 1024 = true ∧ s.wanting 0 1024 = false ∧ (s.bank ⟨0, 0⟩).live = true := by decide +kernel

/-! ### Registers, moves, power, sensors -/

/-- A quad with QCTL.HOLD and NOSTEAL set. -/
def held : State := { one with quads := [(0, { one.quad 0 with qctl := 3 })] }

/-- QCTL.HOLD and NOSTEAL, and PCTL.HOLD alone; channels without an arrival and with one; SCALEHOME in the cluster and outside; a
masked vector and one that is not; a partition quiet for 1,024 cycles, and one that runs. -/
theorem witness_RegisterWrites :
    let q : State := { one with cores := [], now := 1024 }
    let m : State := { one with part := { one.part with masked := 0x7FFFFFFF } }
    let h : State := { one with part := { one.part with hold := true } }
    let a := one.modCore 0 fun k => { k with arrivals := [(15, 1)] }
    ((held.quad 0).qctl.getLsbD 0 = true ∧ (held.quad 0).qctl.getLsbD 1 = true) ∧ h.part.hold = true ∧
    ((one.quad 0).qctl.getLsbD 0 = false ∧ one.part.hold = false ∧ one.part.evbase.toNat / 512 = 0) ∧
    (0x240 ∉ [0x000, 0x040, 0x080, 0x0C0, 0x100, 0x140, 0x180, 0x1C0, 0x200, 0x280, 0x300, 0x340] ∧ 0x280 ∉ (List.range 10).map (64 * ·) ∧
      0x0C0 ∉ [0x000, 0x040, 0x080] ∧ 0x100 ∉ [0x000, 0x040, 0x080, 0x0C0] ∧ 0x540 ∉ (List.range 21).map (64 * ·) ∧
      0x001 ∉ (List.range 21).map (64 * ·)) ∧ (∀ e ∈ one.cores, e.2.arrivals.get 0 15 = 0) ∧ (∃ e ∈ a.cores, e.2.arrivals.get 0 15 ≠ 0) ∧
    ((0x700000007 : Word).toNat % 2 ^ 32 / 8 = clusterOf 0 % 128 ∧ (0x700000007 : Word).toNat / 2 ^ 32 / 8 = clusterOf 0 / 128) ∧
    ((8 : Word).toNat % 2 ^ 32 / 8 ≠ clusterOf 0 % 128) ∧ one.part.masked.getLsbD 31 = true ∧
    m.part.masked.getLsbD 31 = false ∧ q.quiet = true ∧ one.quiet = false :=
  ⟨by decide +kernel, by decide +kernel, by decide +kernel, by decide +kernel, by decide +kernel, ⟨_, List.mem_singleton_self _, by decide +kernel⟩,
    by decide +kernel⟩

/-- An event ring at bit 0x2000 of the core's scratchpad, at its last slot. -/
theorem witness_RegisterWrites_ring :
    let s : State := { one with part := { one.part with evbase := 0x2000, evhead := 63 } }
    s.part.evbase.toNat / 512 ≠ 0 ∧ (s.quad 0).qctl.getLsbD 0 = false ∧ s.part.hold = false ∧ Memory.wf s.mem = true ∧
    (scratchBase 0 + 0x2000 + 63 * 256) % 256 = 0 ∧ s.bad = [] ∧
    ∀ w ∈ [0, coreId 7 7], s.locate w false false .store (BitVec.ofNat 64 (s.part.evbase.toNat / 512 * 512 +
        s.part.evhead.toNat % 2 ^ (s.part.evbase.toNat % 16 + 6) * 256)) 256 256 =
      .ok [⟨scratchBase 0 + 0x2000 + 63 * 256, 256⟩] (.scratch 0) := by decide +kernel

/-- A quad that moves to spare 16: before its boundary, with a strand that runs and with none; stopped; and copied. -/
def moving (bounded transferred : Bool) : State :=
  { one with quads := [(0, { one.quad 0 with move := some ⟨16, 0, bounded, transferred, false⟩ })] }

theorem witness_MovesAndGating :
    ((moving false false).quad 0).move = some ⟨16, 0, false, false, false⟩ ∧ (moving false false).atBoundary 0 = false ∧
    { moving false false with cores := [] }.atBoundary 0 = true ∧
    (((moving true false).quad 0).move = some ⟨16, 0, true, false, false⟩ ∧ Memory.wf (moving true false).mem = true ∧ (0 : Nat) < 2 ^ 18) ∧
    ((moving true true).quad 0).move = some ⟨16, 0, true, true, false⟩ ∧ (16 : BitVec 5) ≠ ((moving true true).l2pOf 0).pq ∧
    ((moving true true).cluster (clusterOfQuad 0)).moves = [] ∧ (moving true false).bad = [] ∧
    (one.hasIssue 0 = true ∧ one.hasIssue 1 = false ∧
      ({ one with quads := [(0, { one.quad 0 with gate := .gated })] }.quad 0).gate = .gated) ∧
    ((one.quad 1).gate = .on ∧ one.mayGate 1 = true) ∧
    ((one.quad 0).gate = .on ∧ one.mayGate 0 = false) ∧
    ({ one with quads := [(1, { one.quad 1 with gate := .requested })] }.quad 1).gate = .requested ∧
    ({ one with quads := [(1, { one.quad 1 with gate := .gated })] }.quad 1).gate = .gated ∧
    one.admitting (one.quadRegion 1) = false := by decide +kernel

/-- Starts that wait, one of them due, and none; grants of 30,000 W and of more; the last cycle before the fail-safe and its first;
droop. -/
theorem witness_PowerBudgets :
    let s : State := { one with now := 179999, regions := [(0, { Region.reset with starts := [(0, 179999), (1, 180000)] })] }
    (((s.region 0).starts.filter fun e => e.2 ≤ s.now).map (·.1) = [0] ∧ s.admitting 0 = false ∧
      { s with timers := [(s.now + 240, .startAdmission 0)] }.admitting 0 = true ∧
      { s with timers := [(s.now + 241, .startAdmission 0)] }.admitting 0 = false) ∧ (s.region 1).starts = [] ∧
    30000 < (s.grantsAfter [1876]).sum ∧ (s.grantsAfter [1875]).sum ≤ 30000 ∧
    ((s.grantsAfter (.replicate 17 1000)).sum ≤ 30000 ∧ 15 < min 16 (List.replicate 17 1000).length ∧ 1 < min 16 [0, 100].length) ∧
    s.now < (s.region 0).grantAt + 180000 ∧ (s.region 0).grantAt + 180000 ≤ { s with now := 180000 }.now ∧
    (s.region 0).droopEnd ≤ s.now ∧ one.now < ({ one with regions := [(0, { Region.reset with droopEnd := 1 })] }.region 0).droopEnd := by
  decide +kernel

/-- Readings at TLIM; sensors that fail, a quad beside it having a reading and none; a reading of 115 °C; a physical quad that
serves none. -/
theorem witness_SensorsAndAgeing :
    let near := one.nearReadings 0
    let power := one.estimate 0 (one.quad 0).opp.toNat
    let f : State := { one with quads := [(0, { one.quad 0 with diode := { Sensor.reset with failed := true } })] }
    let n : State := { one with quads := [(0, one.quad 0), (1, { one.quad 1 with diode := { Sensor.reset with last := some (5000, 0) } })] }
    ((one.quad 0).diode.failed = false ∧ (one.quad 0).diode.broken 10000 one.now power near = none ∧
      (one.quad 0).ring.failed = false ∧ (one.quad 0).ring.broken 15000 one.now power near = none ∧
      (one.quad 0).ring.broken 15001 one.now power near = some 0 ∧ max 10000 9000 ≤ 100 * (one.part.tlim.toNat : Int)) ∧
    ((f.quad 0).diode.failed = true ∧ (9200 : Int) + 800 ≤ 100 * (f.part.tlim.toNat : Int)) ∧ near = [] ∧ n.nearReadings 0 = [5000] ∧
    (one.region (one.regionAt 0)).off = false ∧ 2 ^ 20 ≤ spareKey 16 ∧
    (one.quad (spareKey 16)).diode.broken 11500 one.now power (one.nearReadings (spareKey 16)) = none := by decide +kernel

/-- A quad above TLIM, with a spare that qualifies, and with none; no request waits in any cluster; a region that is off. -/
theorem witness_SensorsAndAgeing_moves :
    let h (k : Nat) : Nat × Quad := (spareKey k, { one.quad (spareKey k) with temp := 9100 })
    let s : State := { one with quads := [h 272, h 273, h 274, h 275].foldl (fun t e => t.set e.1 e.2) one.quads }
    (100 * (one.part.tlim.toNat : Int) < max 10001 9000 ∧ (one.quad 0).move = none ∧ one.clusterMoves 0 = false ∧ one.coolest 0 = some 16 ∧
      s.coolest 0 = none ∧ (s.quad 0).move = none ∧ s.clusterMoves 0 = false) ∧
    (∀ c, (one.cluster c).moves = []) ∧ ({ one with regions := [(0, { Region.reset with off := true })] }.region 0).off = true :=
  ⟨by decide +kernel, cluster_all (P := fun k => k.moves = []) (by decide) (by decide +kernel), by decide +kernel⟩

/-- A strand whose notice word is 0x1000, empty or full, in a quad that moves or not; readings that set HARD, and readings that change
nothing. -/
def noticing (full : Bool) (m : Option Move) : State :=
  { (one.modStrand one.here fun a => { a with notice := 0x1000 }) with
    quads := [(0, { one.quad 0 with move := m })], full := if full then [scratchBase 0 / 64 + 64] else [] }

theorem noticing_one (full : Bool) (m : Option Move) (h : m = none ∨ m = some ⟨16, 0, true, true, false⟩) :
    (noticing full m).OneNotice 0 ⟨0, 0⟩ (scratchBase 0 + 0x1000) := by
  have l : ∀ q : Place, ((noticing full m).bank q).live = true → q = ⟨0, 0⟩ := live_only (by
    rcases h with rfl | rfl <;> revert full <;> decide +kernel)
  refine ⟨⟨?_, ?_, ?_, ⟨0, 0, 0x1000, ?_⟩, fun c _ b hb hp => absurd (l ⟨c, b⟩ hb) hp⟩, ?_, ?_,
    none_deferred ?_, ?_⟩ <;> (try unfold State.MemoryWf) <;> clear l <;> rcases h with rfl | rfl <;> revert full <;> decide +kernel

theorem witness_SensorsAndAgeing_notices : (∀ full, (noticing full none).OneNotice 0 ⟨0, 0⟩ (scratchBase 0 + 0x1000)) ∧
    (∀ full, (noticing full (some ⟨16, 0, true, true, false⟩)).OneNotice 0 ⟨0, 0⟩ (scratchBase 0 + 0x1000)) ∧
    (let k := (noticing true none).quad 0
      let read (v : Int) : Sensor := { k.diode with last := some (v, 0) }
      (k.sampled (read 10501) (read 10501) []).hard ≠ k.hard ∧
      (let z := k.sampled (read 5000) (read 5000) []; (z.hard, z.pin, z.rate) = (k.hard, k.pin, k.rate))) ∧
    ∀ c, ((noticing true none).cluster c).moves = [] :=
  ⟨fun full => noticing_one full none (.inl rfl), fun full => noticing_one full _ (.inr rfl), by decide +kernel,
    cluster_all (P := fun k => k.moves = []) (by decide) (by decide +kernel)⟩

/-! ### The host, peers, Zholos -/

/-- Sixteen launch words in the last kilobyte of cabinet 7. -/
def launching : State := { one with part := { one.part with lwcfg := 0xFFC00 + 16 } }

theorem witness_HostAccesses :
    ((one.part.live = true ∧ one.dumping = false ∧ one.part.lwcfg.toNat % 32 ≤ 0) ∧
      (¬ (launching.part.lwcfg.toNat % 32 ≤ 15 ∨ launching.part.lwcfg.toNat / 512 = 0) ∧
        launching.launchWord 15 = some (scratchBase 0 + 0xFFFC0) ∧ (scratchBase 0 + 0xFFFC0) / 64 ∉ launching.full ∧
        launching.placeBusy (scratchBase 0 + 0xFFFC0) = false ∧ one.placeBusy (8 * (2 ^ 30 - 8)) = false ∧
        (scratchBase 0 + 0xFFFC0) % 64 = 0 ∧ scratchBase 0 + 0xFFFC0 < trackBase 0 ∧ launching.bad = [] ∧ Memory.wf launching.mem = true) ∧
      (scratchBase 0 + 0xFFFC0) / 64 ∈ { launching with full := [scratchBase 0 / 64 + 16383] }.full ∧
      (one.part.inShare (2 ^ 30 - 8) 8 = true ∧ 2 ^ 30 - 8 + 8 ≤ 2 ^ 43 ∧ Memory.wf one.mem = true ∧ one.bad = []) ∧
      (State.reset.dumping = false ∧ State.reset.part.live = false) ∧
      one.part.inShare (2 ^ 30 - 7) 8 = false ∧ (2 ^ 30 - 8) % (64 / 8) = 0 ∧ 8 * (2 ^ 30 - 4) % 64 ≠ 0 ∧
      { one with dumping := true }.dumping = true) ∧
    (∀ k, one.part.hostKeys.get 0 k ≤ 2) ∧ ∀ q, (launching.quad q).deferred = [] :=
  ⟨by decide +kernel, Tbl.get_all (P := fun n => n ≤ 2) 0 (by decide) _ (by decide +kernel), none_deferred (by decide +kernel)⟩

/-- A partition bound to module 5; requests of a word at the end of its share and past it, of its last cabinet and of a column that
it has not, of a module that is not bound, and of a TAKE. -/
theorem witness_PeersAndLinks :
    let s : State := { one with part := { one.part with peers := [⟨5, 23, 8, 8, [0]⟩] } }
    let op (o : MemOp) : PeerOp := ⟨o, 0, 23, 5, ⟨0, 0⟩, 1⟩
    let h : Nat := 2 ^ 33 - 64
    let a : Word := BitVec.ofNat 64 (4 * 2 ^ 61 + 7 * 2 ^ 39 + 7 * 2 ^ 29 + 0xDFFC0)
    let k := scratchBase (quadOf (coreId 7 7)) + 0xDFFC0
    let first (m : Msg) : Prop := s.filter (filterPlace m) = [] ∧ s.filterLoad m < 256
    (one.part.peers = [] ∧ (∃ b ∈ s.part.peers, b.num = (op .store).num) ∧ needsLayer0 (op .take).op = true ∧ (0 : Nat) < 2 ^ 24 ∧
      s.part.inShare (h / 8) ((h % 8 + 64 + 7) / 8) = true ∧ h + 64 ≤ 2 ^ 46 ∧ (BitVec.ofNat 64 h).toNat / 2 ^ 61 ≠ 4 ∧
      s.part.inShare ((h + 8) / 8) (((h + 8) % 8 + 64 + 7) / 8) = false ∧
      a.toNat / 2 ^ 61 = 4 ∧ s.part.inside 7 7 = true ∧ 0xDFFC0 % 2 ^ 17 + 64 ≤ 2 ^ 17 ∧ s.part.inside 8 7 = false ∧
      (∀ o ∈ [MemOp.load true, .store, .amoAdd], first (peerMsg (op o) [⟨h, 64⟩] (BitVec.ofNat 64 h) 0) ∧ first (peerMsg (op o) [⟨k, 64⟩] a 0)) ∧
      s.bad = [] ∧ Memory.wf s.mem = true) ∧ ∀ q, (s.quad q).deferred = [] :=
  ⟨⟨rfl, ⟨_, List.mem_singleton_self _, rfl⟩, by decide +kernel⟩, none_deferred (by decide +kernel)⟩

/-- A binding that may be made, one of this module itself, one on a link that is not there; requests that wait here for a peer, on a
peer's memory, and for the partition alone; a peer's page cached; 15 and 16 failures. -/
theorem witness_PeersAndLinks_bindings :
    let p : Peer := ⟨6, 23, 8, 8, [0]⟩
    let itself : Msg := { takes with src := ⟨peerCore 23 6 0, 0⟩ }
    let there : Msg := { takes with parts := [⟨peerBase 6, 64⟩] }
    let s : State := { one with quads := [(0, { Quad.reset with deferred := [itself, there, takes] })] }
    (p.num ≠ 7 ∧ one.part.live = true ∧ p.link < 24 ∧ one.part.peers.length < 16 ∧ ∀ b ∈ one.part.peers, b.num ≠ p.num) ∧
    ¬ ({ p with link := 24 } : Peer).link < 24 ∧ one.modid.getLsbD 63 = false ∧
    (itself.src.core / 2 ^ 24 % 8192 = p.num.toNat + 1 ∧ itself.src.core / 2 ^ 37 = 23 ∧ there.src.core / 2 ^ 24 % 8192 ≠ p.num.toNat + 1 ∧
      (∃ x ∈ there.parts, inPeer p.num.toNat x.key = true) ∧ ¬ (∃ x ∈ takes.parts, inPeer p.num.toNat x.key = true)) ∧
    ∀ m ∈ [itself, there, takes], m ∈ (s.quad 0).deferred :=
  ⟨by decide +kernel, by decide, by decide +kernel, ⟨by decide +kernel, by decide +kernel, by decide +kernel, ⟨_, List.mem_singleton_self _, by decide +kernel⟩,
    by decide +kernel⟩, by decide +kernel⟩

/-- An image with something of each kind that stands on the chip. -/
def image : Image :=
  ⟨[(6, 14)], [(7 * 2 ^ 14 - 1, 0x5A)], [(127, 4095, 1)], [⟨255, 15, 1023, 0, coreId 7 7, 1, 0⟩], [], [], []⟩

/-- A partition that is quiet, with the first GiB of HBM mapped. -/
def loading : State := { State.reset.placed (placedMemory [] 36 0) none with cores := [], now := 1024 }

theorem witness_ImagesLoad :
    (loading.part.live = true ∧ loading.quiet = true ∧ loading.imageRefused image = false ∧ Memory.wf loading.mem = true ∧ loading.bad = [] ∧
      loading.part.width ≤ 1024 ∧ loading.part.height ≤ 1024 ∧ (image.cabinets.map (·.1)).Nodup ∧
      (image.tracks.map fun w => (w.1, w.2.1)).Nodup ∧ (image.routes.map (·.id)).Nodup ∧ (∀ w ∈ image.tracks, w.2.1 < 4096) ∧
      image.sections = [] ∧ image.relocs = []) ∧
    (∀ q, (loading.quad q).deferred = []) ∧ ∀ c, (loading.core c).dead = [] ∧ (loading.core c).spineBroken = [] :=
  ⟨by decide +kernel, none_deferred (by decide +kernel), core_all (P := fun k => k.dead = [] ∧ k.spineBroken = []) (by decide) (by decide +kernel)⟩

/-- Relocations that leave their range by one, or are no multiple; one that is placed. -/
theorem witness_ImagesLoad_relocations :
    let r (k : RelocKind) (v : Int) : Reloc := ⟨k, .inSection 0 32, none, v, 0, 2, 0⟩
    let img (l : List Reloc) : Image := ⟨[], (List.range 8).map fun i => (8 + i, 0), [], [], [⟨.text, 0, 16, []⟩], l, []⟩
    let z : Reloc := ⟨.abs64, .inCabinets 64, none, 2 ^ 64 - 1, 0, 1, 0⟩
    let good : Image := { img [z] with sections := [] }
    (∀ k v, relocTarget (r k v) (img []) = some (v + 0)) ∧
    relocPlace (r .br13 0) (img []) = some (0 + 32) ∧ relocPlace (r .pclo12i 0) (img []) = some (0 + 0) ∧
    (-(2 ^ 63) - 1 : Int) < -(2 ^ 63) ∧ (2 ^ 31 : Int) ≤ 2 ^ 31 ∧ (1 - 4096 * ((1 + 2048) / 4096) : Int) % 2 ≠ 0 ∧
    (16 : Int) % 32 ≠ 0 ∧ ((2 : Int) ^ 12 - 2 < 2 ^ 16 / 16 ∧ (2 : Int) ^ 20 - 2 < 2 ^ 24 / 16) ∧
    (loading.imageRefused good = false ∧ relocTarget z good = some (2 ^ 64 - 1) ∧ 64 % 8 = 0 ∧ ∀ i < 8, (64 / 8 + i, 0) ∈ good.cabinets) := by
  intro r img z good
  exact ⟨fun k v => by simp [relocTarget, r], by decide, by decide, by decide, by decide, by decide, by decide, by decide, by decide +kernel⟩

/-- Images that are refused: a type that disagrees with one loaded, and in itself; a route outside, a link-cycle reserved twice, by
two routes of the image and by one that is loaded; contents of cabinet 7; a section without pages; a U-mode launch at a sys
entry. -/
theorem witness_ImagesLoad_refused :
    let f : State := { loading with part := { loading.part with formats := [(6, 3)] } }
    let a : RouteDecl := ⟨1, 0, 0, 0, 7, 1, 0⟩
    let l : State := { loading with part := { loading.part with routes := [(2, ⟨{ a with id := 2 }, 0, 4, none, 0, 0, [], 0, 0, false⟩)] } }
    let launch : Section := ⟨.launch, 0x2000000000080000, 64, [(2, 8), (7, 0x20)]⟩
    let img : Image := ⟨[], [], [], [], [launch], [], [⟨0, 0, true⟩]⟩
    State.reset.part.live = false ∧ one.quiet = false ∧ (f.part.formats.find 6 = some 3 ∧ (3 : BitVec 5) ≠ 14) ∧ loading.part.formats.find 6 = none ∧
    loading.part.inside (coreX (coreId 8 0)) (coreY (coreId 8 0)) = false ∧
    (∃ x ∈ loading.linkCycles a, x ∈ loading.linkCycles { a with id := 2 }) ∧
    (l.part.routes.find 2).map (·.detoured) = some false ∧ loading.sectionPlaced ⟨.text, 0, 1, []⟩ = false ∧
    (imageLaunches img).map (fun e => (taskSys e.2, some ((taskEntry e.2).toNat : Int))) = [(false, sectionBit img 0 0)] :=
  ⟨by decide +kernel, by decide +kernel, by decide +kernel, by decide +kernel, by decide +kernel, ⟨((82, 1), 0), by decide +kernel⟩, by decide +kernel⟩

/-- `loading` with the first GiB of HBM mapped by a leaf of these low bits. -/
def loads' (leaf : Nat) : State := { loading with mem := (placedMemory [] 36 0).writeNat (placedRoot + 0x1000) 8 (2 ^ 63 + 2 ^ 62 + leaf) }

/-- A section of each kind, in pages that may be executed, read or written: its bytes, and where they lie; and pages whose
permissions each kind refuses. -/
theorem witness_ImagesLoad_sections :
    let x (k : SectionKind) : Section := ⟨k, 0x2000000000080000, 2, [(0, 1), (1, 2)]⟩
    let placed (leaf : Nat) (k : SectionKind) : Bool :=
      !(loads' leaf).imageRefused ⟨[], [], [], [], [x k], [], []⟩ &&
      (List.range 2).all fun i => decide ((loads' leaf).walk (((x k).base.extractLsb' 0 51).toNat + 8 * i) = .leaf (BitVec.ofNat 64 (2 ^ 63 + 2 ^ 62 + leaf)) 33) &&
        (leafPlace (BitVec.ofNat 64 (2 ^ 63 + 2 ^ 62 + leaf)) 33 (((x k).base.extractLsb' 0 51).toNat + 8 * i)).1 == 0x80000 + 8 * i
    (placed 0xD .text = true ∧ placed 0x9 .rodata = true ∧ placed 0xB .rwdata = true ∧ placed 0xB .zero = true ∧ placed 0x9 .launch = true) ∧
    ((x .text).bytes.map (·.1)).Nodup ∧ (∀ e ∈ (x .text).bytes, e.1 < 2) ∧
    (∀ i < 2, (0x80000 + 8 * i) % 8 = 0 ∧ (0x80000 + 8 * i) / 2 ^ 46 = 0x80000 / 2 ^ 46) ∧
    ((loads' 0xF).walk (1 * 2 ^ 19) = .leaf 0xC00000000000000F 33 ∧ (loads' 0x9).walk (1 * 2 ^ 19) = .leaf 0xC000000000000009 33 ∧
      (loads' 0xC).walk (1 * 2 ^ 19) = .leaf 0xC00000000000000C 33 ∧ ((x .text).base.toNat % 2 ^ 61 + 8 * 2 - 1) / 2 ^ 19 = 1 ∧
      ((0xC00000000000000F : Word).getLsbD 1, (0xC000000000000009 : Word).getLsbD 1, (0xC000000000000009 : Word).getLsbD 2,
        (0xC00000000000000C : Word).getLsbD 0) = (true, false, false, false)) := by decide +kernel

/-- A partition of 8 × 8 cores with block 0, over a cluster with four failed quads. -/
def asked : PartSpec := ⟨1, 64, 0, 8, 8, 0, [0], [(0, 2)], 7, 8, 0, 0⟩

theorem witness_PartitionLife_created :
    let s : State := { State.reset with harvest := [(8, [0, 1, 2, 19])] }
    let d : State := { s with regions := [(dieAt 1 0 / 2, { Region.reset with droopEnd := 1, failsafe := true })] }
    ((∀ r, s.quad r = .reset) ∧ (∀ c, s.core c = .reset) ∧ (∀ r, d.quad r = .reset) ∧ ∀ c, d.core c = .reset) ∧
    (d.now < (d.region (dieAt 1 0 / 2)).droopEnd ∧ (d.region (dieAt 1 0 / 2)).failsafe = true ∧ (d.region (dieAt 1 0 / 2)).off = false ∧
      (s.region (dieAt 1 0 / 2)).failsafe = false) ∧
    (s.part.live = false ∧ asked.ident ≠ 0 ∧ asked.ident.toNat ∉ s.idents ∧ specClusters asked = [8] ∧
      (¬ ((8 % 128 / 8 = 0 ∨ 8 % 128 / 8 = 5) ∧ (8 / 128 / 10 = 0 ∨ 8 / 128 / 10 = 5)) ∧ (s.harvest.get [] 8).length ≤ 4 ∧
        (s.region (dieAt (8 % 128 / 8) (8 / 128 / 10) / 2)).off = false) ∧
      asked.share ≠ [] ∧ (∀ b ∈ asked.share, b < 64 * 24 ∧ ¬ (60 ≤ b ∧ b < 64) ∧ ¬ (828 ≤ b ∧ b < 832) ∧ b / 64 ∉ s.lost) ∧
      (asked.hostKeys.map (·.1)).Nodup ∧ asked.link < 8 ∧ 1 ≤ asked.function ∧ asked.function ≤ 8) ∧ one.part.live = true ∧
    ¬ ({ asked with link := 8 } : PartSpec).link < 8 := by
  have q : ∀ r, State.reset.quad r = .reset := quad_all (P := fun k => k = .reset) rfl (by decide +kernel)
  have c : ∀ r, State.reset.core r = .reset := core_all (P := fun k => k = .reset) rfl (by decide +kernel)
  exact ⟨⟨q, c, q, c⟩, by decide +kernel⟩

/-- A boot header: the marker, tables, entry, handler, frame and argument. -/
def booting (mark tables entry handler frame : Nat) : State :=
  let w (m : Memory) (k v : Nat) : Memory := m.writeBits (8 * one.part.bootByte + 64 * k) 64 v
  { one with cores := [], mem := w (w (w (w (w (w [] 0 mark) 1 tables) 2 entry) 3 handler) 4 frame) 5 9 }

/-- Word `k` of the header. -/
def headWord (s : State) (k : Nat) : Word :=
  BitVec.ofNat 64 (s.bitsAt (8 * s.part.bootByte + s.part.hostKeys.get 0 (s.part.bootByte / 2 ^ 30) * 2 ^ 46 + 64 * k) 64)

/-- A header that is good; and others with no marker, and with bad tables, entry and frame. -/
theorem witness_PartitionLife_started :
    let s := booting 0x534B424F 4096 0x2000000000080000 0x2000000000090000 0x40000
    (s.part.live = true ∧ headWord s 0 = 0x534B424F ∧ (headWord s 1).toNat % 4096 = 0 ∧ s.part.inShare (headWord s 1).toNat 4096 = true ∧
      (headWord s 2).toNat % 32 = 0 ∧ (headWord s 3).toNat % 32 = 0 ∧ (headWord s 4).toNat % 512 = 0 ∧ headWord s 4 ≠ 0 ∧ s.bad = [] ∧
      s.part.inside 0 0 = true ∧ (s.core 0).freeBank = some 0 ∧ Memory.wf s.mem = true) ∧
    s.Names 0 (headWord s 4) 1024 512 (scratchBase 0 + 0x40000) ∧ headWord (booting 0 0 0 0 0) 0 ≠ 0x534B424F ∧
    (let t := booting 0x534B424F 4095 0 0 0; headWord t 0 = 0x534B424F ∧ (headWord t 1).toNat % 4096 ≠ 0) ∧
    (let t := booting 0x534B424F 4096 1 0 0
     headWord t 0 = 0x534B424F ∧ (headWord t 1).toNat % 4096 = 0 ∧ t.part.inShare (headWord t 1).toNat 4096 = true ∧ (headWord t 2).toNat % 32 ≠ 0) ∧
    (let t := booting 0x534B424F 4096 0 0 1
     (headWord t 2).toNat % 32 = 0 ∧ (headWord t 3).toNat % 32 = 0 ∧ (headWord t 4).toNat % 512 ≠ 0) :=
  ⟨by decide +kernel, ⟨0, 0, 0x40000, by decide +kernel⟩, by decide +kernel, by decide +kernel, by decide +kernel, by decide +kernel⟩

/-- Teardown of a partition, and of one that a fatal error reset; its quads are on silicon of their own; a key that a report gave,
and none. -/
theorem witness_PartitionLife_ended : State.reset.part.live = false ∧ one.part.live = true ∧
    one.dumping = false ∧ { one with dumping := true }.dumping = true ∧ one.part.encap = none ∧
    ({ one.part with encap := some 0 } : Partition).encap.isSome = true ∧
    ∀ q ∈ one.part.quadList, q < 2 ^ 20 ∧ ∀ r ∈ one.part.quadList, one.physId q = one.physId r → q = r := by decide +kernel

/-- A link and a router on a path of the partition; a link on none; a region that serves it, and one that does not; a lost stack with
its root, with a block of its share, and with neither. -/
theorem witness_FatalErrors :
    let s : State := { one with part := { one.part with share := [0, 64] } }
    (one.dumping = false ∧ one.part.live = true ∧ 0 ∈ one.part.coreList ∧ 7 ∈ one.part.coreList ∧
      (82, 1) ∈ one.links (one.routerOf 7).1 (one.routerOf 7).2 2048 (one.routerOf 0).1 (one.routerOf 0).2 0) ∧
    (one.regionQuads 0 ≠ [] ∧ one.regionQuads 1 = []) ∧
    (s.part.ptbase.toNat / 4096 ≠ 0 ∧ s.part.ptbase.toNat / 2 ^ 36 = 0 ∧ s.part.ptbase.toNat / 2 ^ 36 ≠ 1 ∧ s.part.ptbase.toNat / 2 ^ 36 ≠ 2) ∧
    (∀ x ∈ s.part.share, x / 64 ≠ 2) ∧ (∃ x ∈ s.part.share, x / 64 = 1) ∧ State.reset.part.live = false :=
  ⟨by decide +kernel, by decide +kernel, by decide +kernel, by decide +kernel, ⟨64, by decide +kernel⟩, by decide +kernel⟩

/-- A second fatal error; a colophon held, one not, and stack 0 lost; a group that is uncorrectable and one that is not; firmware
that may run after one that may not, and none that may. -/
theorem witness_FatalErrors_afterwards :
    let c : Colophon := ⟨[(24, 0), (4 * 2 ^ 20, 1), (448 * 2 ^ 20, 2)], none⟩
    let s : State := { one with dumping := true, colophonSeq := 8, colophons := [(0xF00000000, c)], bad := [4] }
    let old : Firmware := ⟨1, 1, true⟩
    let new : Firmware := ⟨2, 2, false⟩
    let b : Boot := ⟨1, [new, old], [], [], none⟩
    (s.dumping = true ∧ s.part.live = true ∧ s.colophons.find 0xF00000000 = some c ∧ one.colophons.find 0xF00000000 = none ∧ 0 ∉ s.lost ∧
      0 ∈ { s with lost := [0] }.lost ∧ 4 ∉ one.bad ∧ 4 ∈ s.bad ∧ s.part.evbase.toNat / 512 = 0 ∧
      ({ s.part with evbase := 0x2000 } : Partition).evbase.toNat / 512 ≠ 0) ∧
    (one.ownsGroup (scratchBase 0 / 64) = true ∧ one.ownsGroup (scratchBase 16 / 64) = false ∧ State.reset.ownsGroup (scratchBase 0 / 64) = false) ∧
    (0 ∈ one.part.quadList ∧ ∀ q ∈ one.part.quadList, q < 2 ^ 20 ∧ one.physId q ≠ 32 * one.part.physCluster 0 + 16) ∧
    b.images = [new] ++ old :: [] ∧ (∀ g ∈ [new], g.signed = false ∨ g.version < b.fuses) ∧ ¬ (old.signed = false ∨ old.version < b.fuses) ∧
    (∀ g ∈ [new], g.signed = false) ∧ b.stops = none ∧ ({ b with stops := some 3 } : Boot).stops = some 3 := by decide +kernel

/-- No path of a partition of 8 × 8 cores on die (1, 0) leads through a link of the last router row. -/
theorem witness_FatalErrors_elsewhere : (one.part.coreList.any fun a => one.part.coreList.any fun b =>
    (one.links (one.routerOf b).1 (one.routerOf b).2 2048 (one.routerOf a).1 (one.routerOf a).2 0).any fun e => 4 * e.1 + e.2 == 0) = false := by
  decide +kernel

/-! ### The step, encodings, memory -/

/-- A word that decodes, one that decodes to nothing, a fetch that fails, and a core whose guard has run out. -/
theorem witness_StepsRunInstructions :
    let s := State.reset.withFetchWord 32 0x02A00293
    let z := State.reset.withFetchWord 32 0
    let g := s.modCore 0 fun k => { k with guard := 4096 }
    (s.modeDue = false ∧ s.agenda = [] ∧ s.halted = false ∧ s.timers = [] ∧ s.hangs = none ∧ s.nextCore = some 0 ∧ (s.core 0).guard < 4096 ∧
      (s.takeTurn 0).fetch 0 (s.takeTurn 0).user (s.takeTurn 0).pc = .ok 0x02A00293 ∧ decodeWord 0x02A00293 = some (.addi 5 0 42)) ∧
    ((z.takeTurn 0).fetch 0 (z.takeTurn 0).user (z.takeTurn 0).pc = .ok 0 ∧ decodeWord 0 = none) ∧
    (one.nextCore = some 0 ∧ (one.takeTurn 0).fetch 0 true one.pc = .error .absent) ∧
    4096 ≤ (g.core 0).guard ∧ g.nextCore = some 0 := by decide +kernel

/-- A mode that is due; an event on the agenda; a timer that is due, and one that is not; a hang; no core that can run; a halt. -/
theorem witness_StepsRunInstructions_otherwise :
    let q : State := { one with cores := [], now := 1024 }
    let m : State := { q with part := { q.part with modeNew := true } }
    (m.modeDue = true ∧ q.modeDue = false ∧ { q with agenda := [.event .hangTrap] }.agenda = .event .hangTrap :: []) ∧
    ({ q with timers := [(1024, .hangTrap)] }.timers = (1024, .hangTrap) :: [] ∧ 1024 ≤ q.now ∧ q.now < 1025) ∧
    (hung.hangs.isSome = true ∧ hung.agenda = [] ∧ hung.halted = false ∧ hung.timers = [] ∧ hung.modeDue = false) ∧
    (q.hangs = none ∧ q.nextCore = none) ∧ { q with halted := true }.halted = true := by decide +kernel

theorem witness_EncodingsRoundTrip : (Instr.addi 31 31 0xFFF).wf = true ∧ encode (.addi 31 31 0xFFF) = some 0xFFFF8F93 ∧
    decodeWord 0xFFFF8F93 = some (.addi 31 31 0xFFF) ∧
    (encodeCmdWord (.tseek true ⟨127, 1023, 0, false, 0, 0, 0, 0⟩ ⟨0, 0, 0, true, false⟩)).isSome = true := by decide

/-- A step from a state in canonical form that goes on. -/
theorem witness_MemoryStaysCanonical : State.reset.MemoryWf ∧
    (match step (State.reset.withFetchWord 32 0x02A00293) with | .next t => t.reg 5 == 42 && Memory.wf t.mem | _ => false) = true := by
  unfold State.MemoryWf; decide +kernel

/-- A load and a store of the first word of a scratchpad, whose group is uncorrectable. -/
def wordAccess (op : MemOp) : Msg := ⟨⟨0, 0⟩, 0x40000, 5, op, [⟨scratchBase 0, 64⟩], 0, 7, 0, 5, 0, false⟩

theorem witness_StorageErrors_upset :
    let s : State := { one with agenda := [.upset (.group (scratchBase 0 / 64))] }
    s.modeDue = false ∧ inControlState (scratchBase 0 / 64) = false ∧ s.MemoryWf ∧
    inControlState ((scratchBase 0 + 7 * 2 ^ 17) / 64) = true ∧ inControlState ((scratchBase 0 + 7 * 2 ^ 17 + 98304) / 64) = false :=
  ⟨by decide +kernel, by decide +kernel, by unfold State.MemoryWf; decide +kernel, by decide +kernel, by decide +kernel⟩

theorem witness_StorageErrors :
    let s : State := { waits with bad := [scratchBase 0 / 64] }
    let load := wordAccess (.load true)
    (64 * (scratchBase 0 / 64) = scratchBase 0 ∧ scratchBase 0 + 64 ≤ trackBase 0 ∧ load.src.core < 2 ^ 24 ∧
      load.addr.toNat / 2 ^ 61 = 0 ∧ s.part.evbase.toNat / 512 = 0 ∧ s.guarded (scratchBase 0) = false ∧
      s.filter (filterPlace load) = [] ∧ s.filter (filterPlace (wordAccess .store)) = []) ∧
    s.MemoryWf ∧ s.Resident load.sfp ⟨0, 0⟩ ∧ ∀ r, (s.quad r).deferred = [] :=
  ⟨by decide +kernel, by unfold State.MemoryWf; decide +kernel,
    ⟨by decide +kernel, fun q hq _ => live_only (by decide +kernel) q hq⟩, none_deferred (by decide +kernel)⟩
end Sys2Proof.Tests
end

section
/-! O52 fails. The statement says where a section's bytes stand by the tables as they are before the load, but the loader
places sections (log entry 72) after it has written the cabinets. PTBASE is a register of 64 free bits: where it names a byte
of a scratchpad, the cabinets of an image can overwrite the root table that its own sections are placed through. -/

namespace Sys2Proof.Machine

/-! ## What loads that place nothing leave -/

/-- The tracks of a core stay as they are where an image has no words for them. -/
theorem State.loadTracks_of_no_tracks (s : State) (img : Image) (c : Nat) (h : img.tracks = []) :
    s.loadTracks img c = s := by
  simp [State.loadTracks, imageTracks, h]

/-- A section none of whose bytes has a page is not written anywhere. -/
theorem State.loadSection_of_absent (s : State) (img : Image) (n : Nat) (x : Section)
    (h : ∀ e ∈ imageSection img n x, s.walk ((x.base.extractLsb' 0 51).toNat + 8 * e.1) = .absent) :
    s.loadSection img n x = s := by
  have none_placed : ((imageSection img n x).filterMap fun e =>
      match s.walk ((x.base.extractLsb' 0 51).toNat + 8 * e.1) with
      | .leaf p bits => some ((leafPlace p bits ((x.base.extractLsb' 0 51).toNat + 8 * e.1)).1, e.2)
      | _ => none) = [] := by
    rw [List.filterMap_eq_nil_iff]
    intro e he
    rw [h e he]
  exact congrArg s.loadBytes none_placed

/-- What IMAGE_LOAD does with an image of cabinets and sections alone that it does not refuse and that launches nothing: each
quad's cabinets are written, and then the sections. -/
theorem exec_imageLoad_of_accepted (s : State) (img : Image) (live : s.part.live = true) (quiet : s.quiet = true)
    (accepted : s.imageRefused img = false) (tracks : img.tracks = []) (routes : img.routes = [])
    (formats : img.formats = []) (launches : imageLaunches img = []) :
    exec (.imageLoad img) s = .next (img.sections.zipIdx.foldl (fun s e => s.loadSection img e.2 e.1)
      (s.part.quadList.foldl (fun s q => s.loadQuad img q) s)) := by
  have no_tracks (l : List Nat) (u : State) : l.foldl (fun u c => u.loadTracks img c) u = u := by
    induction l with
    | nil => rfl
    | cons c l ih => rw [List.foldl_cons, u.loadTracks_of_no_tracks img c tracks, ih]
  show execImageLoad img s = _
  unfold execImageLoad
  simp only [live, quiet, accepted, routes, formats, launches, no_tracks, List.foldl_nil, List.isEmpty_nil,
    Bool.not_true, Bool.or_self, Bool.false_eq_true, if_false, if_true]
  rfl

/-! ## A partition whose root table stands in a scratchpad -/

/-- A quiet partition of one quad with PTBASE = 2^50, the first byte of the quad's scratchpad. The entry there leads to a table
at byte 4,096 of HBM, whose first leaf maps the first GiB to be read. -/
def rootInScratch : State :=
  { State.reset with
    now := 1024
    mem := (Memory.writeNat [] (2 ^ 50) 8 (2 ^ 63 + 4096)).writeNat 4096 8 (2 ^ 63 + 2 ^ 62 + 1)
    part := { Partition.reset with live := true, width := 2, height := 2, share := [0], ptbase := BitVec.ofNat 64 (2 ^ 50) } }

/-- One byte 1 to be read at the start of virtual space. -/
def oneByte : Section := ⟨.rodata, 0x2000000000000000, 1, [(0, 1)]⟩

/-- An image that clears byte 7 of layer 0, and with it the bit that makes the root entry present, and holds `oneByte`. -/
def clearsRoot : Image := ⟨[], [(7, 0)], [], [], [oneByte], [], []⟩

/-- The tables map the section before the load. -/
theorem walk_rootInScratch : rootInScratch.walk 0 = .leaf 0xC000000000000001 33 := by decide +kernel

theorem rootInScratch_accepts_clearsRoot : rootInScratch.imageRefused clearsRoot = false := by decide +kernel

theorem rootInScratch_memoryWf : rootInScratch.MemoryWf :=
  Memory.wf_writeNat _ _ _ _ (Memory.wf_writeNat _ _ _ _ Memory.wf_nil)

/-- The tables map nothing once the cabinets are written. -/
theorem walk_after_cabinets : (rootInScratch.loadQuad clearsRoot 0).walk 0 = .absent := by decide +kernel

/-- The section's byte still reads as zero. -/
theorem bitsAt_after_cabinets : (rootInScratch.loadQuad clearsRoot 0).bitsAt 0 8 = 0 := by decide +kernel

/-- The load writes the cabinets and no byte of the section. -/
theorem exec_imageLoad_clearsRoot :
    exec (.imageLoad clearsRoot) rootInScratch = .next (rootInScratch.loadQuad clearsRoot 0) := by
  rw [exec_imageLoad_of_accepted _ _ rfl (by decide) rootInScratch_accepts_clearsRoot rfl rfl rfl (by decide)]
  have not_placed : (rootInScratch.loadQuad clearsRoot 0).loadSection clearsRoot 0 oneByte =
      rootInScratch.loadQuad clearsRoot 0 := by
    have contents : imageSection clearsRoot 0 oneByte = [(0, 1)] := by decide
    refine State.loadSection_of_absent _ _ _ _ fun e he => ?_
    obtain rfl : e = (0, 1) := List.mem_singleton.1 (contents ▸ he)
    exact walk_after_cabinets
  exact congrArg Host.Outcome.next not_placed

/-- Refutes O52: in `rootInScratch`, whose PTBASE names the scratchpad of its quad, the image `clearsRoot` is not refused and
its section has a page, but its cabinets clear the root entry before the section is placed, and the section's byte 1 is never
written. -/
theorem not_imagesLoad : ¬ Obligations.ImagesLoad := by
  unfold Obligations.ImagesLoad
  intro h
  obtain ⟨-, -, -, -, -, -, -, -, -, -, loads⟩ := h rootInScratch clearsRoot
  obtain ⟨-, -, sections⟩ := loads rfl (by decide) rootInScratch_accepts_clearsRoot rootInScratch_memoryWf rfl
    (fun _ => rfl) (fun _ => ⟨rfl, rfl⟩) (by decide) (by decide) (by decide) (by decide) (by decide) (by decide)
  have mapped : ∀ i < oneByte.size, 8 * i % 8 = 0 ∧ 8 * i / 2 ^ 46 = 8 * 0 / 2 ^ 46 ∧ ∃ e bits,
      rootInScratch.walk ((oneByte.base.extractLsb' 0 51).toNat + 8 * i) = .leaf e bits ∧
      (leafPlace e bits ((oneByte.base.extractLsb' 0 51).toNat + 8 * i)).1 = 8 * i := by
    intro i hi
    obtain rfl : i = 0 := Nat.lt_one_iff.1 hi
    exact ⟨rfl, rfl, _, _, walk_rootInScratch, by decide⟩
  obtain ⟨t, loaded, bytes, -, -⟩ := sections oneByte (8 * ·) rfl rfl (by decide) (by decide) mapped (by omega)
  obtain rfl : rootInScratch.loadQuad clearsRoot 0 = t := by
    rw [exec_imageLoad_clearsRoot] at loaded
    exact Host.Outcome.next.inj loaded
  have one_read := bytes (by decide) (0, 1) (List.mem_singleton_self _)
  exact absurd (bitsAt_after_cabinets.symm.trans one_read) (by decide)

end Sys2Proof.Machine
end

section
/-! Addresses: what each field of one is as a number, and what each space's check of an access gives, as an equation. -/

namespace Sys2Proof.Machine

/-! ## Fields -/

/-- A field of an address as a number. -/
theorem toNat_extractLsb' (a : Word) (lo n : Nat) : (a.extractLsb' lo n).toNat = a.toNat / 2 ^ lo % 2 ^ n := by
  rw [BitVec.extractLsb'_toNat, Nat.shiftRight_eq_div_pow]

theorem space_eq (a : Word) : space a = a.toNat / 2 ^ 61 := by
  have := a.isLt
  rw [space, toNat_extractLsb']
  omega

theorem meshX_eq (a : Word) : meshX a = a.toNat / 2 ^ 51 % 2 ^ 10 := toNat_extractLsb' a 51 10

theorem meshY_eq (a : Word) : meshY a = a.toNat / 2 ^ 41 % 2 ^ 10 := toNat_extractLsb' a 41 10

theorem meshLayer_eq (a : Word) : meshLayer a = a.toNat / 2 ^ 37 % 2 ^ 4 := toNat_extractLsb' a 37 4

theorem meshMbz_eq (a : Word) : meshMbz a = a.toNat / 2 ^ 24 % 2 ^ 13 := toNat_extractLsb' a 24 13

theorem meshOff_eq (a : Word) : meshOff a = a.toNat % 2 ^ 24 := by
  rw [meshOff, toNat_extractLsb', Nat.pow_zero, Nat.div_one]

/-! ## The address that a load or a store computes -/

/-- An address with a displacement, which counts units of the width. -/
theorem State.dispAddr_eq (s : State) (w : Width) (rs1 : Reg) (imm : BitVec 12) :
    s.dispAddr w rs1 imm = s.reg rs1 + BitVec.ofInt 64 (imm.toInt * bitsOf w) := by
  have extended : simm imm = BitVec.ofInt 64 imm.toInt := rfl
  rw [State.dispAddr, extended, BitVec.ofInt_mul, BitVec.ofInt_natCast]

theorem State.dispAddr_zero (s : State) (w : Width) (rs1 : Reg) : s.dispAddr w rs1 0 = s.reg rs1 := by
  simp [State.dispAddr, simm]

/-- An address with an index, which counts units of the width. -/
theorem State.indexAddr_eq (s : State) (w : Width) (rs1 rs2 : Reg) :
    s.indexAddr w rs1 rs2 = s.reg rs1 + BitVec.ofNat 64 ((s.reg rs2).toNat * bitsOf w) := by
  rw [State.indexAddr, BitVec.ofNat_mul, BitVec.ofNat_toNat, BitVec.setWidth_eq]

/-! ## The executing strand across a switch -/

@[simp] theorem State.bank_switch (s : State) (c : Nat) (p : Place) : (s.switch c).bank p = s.bank p := by
  unfold State.switch State.bank
  by_cases h : p.core = c
  · subst h; simp
  · rw [State.core_modCore_ne _ _ h]

@[simp] theorem State.strand_switch (s : State) (c : Nat) (p : Place) : (s.switch c).strand p = s.strand p := by
  rw [State.strand, State.bank_switch, State.strand]

theorem State.strand_advance (s : State) : s.advance.strand s.here = { s.strand s.here with pc := s.pc + 32 } :=
  s.strand_setPc _

end Sys2Proof.Machine
end

section
/-! O13 holds. An access of device register space has no part of memory; one that its own quad does not serve is a request. -/

namespace Sys2Proof.Machine

variable (s : State)

/-- An access that reaches a register: 64 bits in S mode, at a block of a core of the partition. -/
theorem State.locate_register {acc : Access} {a : Word} (sp : space a = 3) (priv : s.user = false)
    (inside : s.part.inside (meshX a) (meshY a) = true) (block : meshLayer a ≤ 4) (aligned : a.toNat % 64 = 0) :
    s.locate s.cur s.user true acc a 64 64 = .ok [] .register := by
  simp [State.locate, sp, locateRegister, priv, inside, Nat.not_lt.2 block]
  omega

theorem State.locate_register_user {acc : Access} {a : Word} {n : Nat} (sp : space a = 3) (user : s.user = true) (scalar : Bool) :
    s.locate s.cur s.user scalar acc a n n = .flt ⟨.privilege, a⟩ := by
  simp [State.locate, sp, locateRegister, user]

theorem State.locate_register_width {acc : Access} {a : Word} {n : Nat} (sp : space a = 3) (priv : s.user = false)
    (scalar : Bool) (width : scalar = false ∨ n ≠ 64) : s.locate s.cur s.user scalar acc a n n = .flt ⟨.space, a⟩ := by
  have refused : (!scalar || n != 64) = true := by
    obtain rfl | h := width
    · rfl
    · simp [h]
  simp [State.locate, sp, locateRegister, priv, refused]

/-- A load or a store of device register space that faults. -/
theorem State.load_register_fault {a : Word} {w : Width} {f : Flt} (sp : space a = 3) (signed : Bool) (rd : Reg)
    (e : s.locate s.cur s.user true .load a (bitsOf w) (bitsOf w) = .flt f) : s.load signed w rd a = s.trapAt s.here f := by
  simp [State.load, sp, e, State.badAccess]

theorem State.store_register_fault {a : Word} {w : Width} {f : Flt} (sp : space a = 3) (v : Word)
    (e : s.locate s.cur s.user true .store a (bitsOf w) (bitsOf w) = .flt f) : s.store w a v = s.trapAt s.here f := by
  simp [State.store, sp, e, State.badAccess]

/-- What a request for a register carries. -/
def State.registerRequest (s : State) (op : MemOp) (a v : Word) (rd : Reg) : Msg :=
  ⟨s.here, (s.strand s.here).sfp, s.seq + 1, op, [], a, v, 0, rd, 0, false⟩

/-- The state that has sent it: its latency is noted, and nothing else is done. -/
def State.askedRegister (s : State) (m : Msg) : State := (s.bumpSeq.measure s.here .register).post (.memRequest m)

theorem State.strand_askedRegister (m : Msg) : ∃ l, (s.askedRegister m).strand s.here = { s.strand s.here with msglat := l } := by
  let r := s.bumpSeq.latency s.here.core .register
  exact ⟨r.1, State.strand_modStrand_self r.2 s.here fun st => { st with msglat := r.1 }⟩

@[simp] theorem State.here_askedRegister (m : Msg) : (s.askedRegister m).here = s.here := by
  simp [State.askedRegister, State.measure, State.noteTraffic]
  rfl

@[simp] theorem State.pc_askedRegister (m : Msg) : (s.askedRegister m).pc = s.pc := by
  obtain ⟨l, strand⟩ := s.strand_askedRegister m
  rw [State.pc, State.here_askedRegister, strand, State.pc]

@[simp] theorem State.mem_askedRegister (m : Msg) : (s.askedRegister m).mem = s.mem := rfl

theorem State.posted_askedRegister (m : Msg) : (s.askedRegister m).Posted (.memRequest m) := by
  simp [State.askedRegister, State.Posted, State.post, State.push]

theorem State.request_register_load (sg : Bool) (a : Word) (rd : Reg) :
    s.request (.load sg) [] .register a 0 0 rd 0 .other =
      ((s.askedRegister (s.registerRequest (.load sg) a 0 rd)).setStatus s.here (.reply .other a (s.seq + 1))).switch s.cur := rfl

theorem State.request_register_store (a v : Word) :
    s.request .store [] .register a v 0 0 0 .other =
      (s.askedRegister (s.registerRequest .store a v 0)).advance.switch s.cur := rfl

/-- Settles O13: by the branches of a load and a store of device register space. -/
theorem registerSpace : Obligations.RegisterSpace := by
  unfold Obligations.RegisterSpace
  intro s w rd rs1 rs2 a x y block near sp
  have sp3 : space a = 3 := (space_eq a).trans sp
  have loads (w : Width) : exec (.ld w rd rs1 0) s = .next (s.load false w rd a) :=
    congrArg (fun b => Host.Outcome.next (s.load false w rd b)) (s.dispAddr_zero w rs1)
  have stores (w : Width) : exec (.st w rs2 rs1 0) s = .next (s.store w a (s.reg rs2)) :=
    congrArg (fun b => Host.Outcome.next (s.store w b (s.reg rs2))) (s.dispAddr_zero w rs1)
  rw [loads, stores, loads, stores]
  refine ⟨fun user handles => ?_, fun priv handles width => ?_, fun priv inside blocks aligned => ?_⟩
  · exact ⟨⟨_, rfl, s.load_register_fault sp3 _ _ (s.locate_register_user sp3 user _) ▸ s.trapped_trapAt handles _⟩,
      ⟨_, rfl, s.store_register_fault sp3 _ (s.locate_register_user sp3 user _) ▸ s.trapped_trapAt handles _⟩⟩
  · have other : bitsOf w ≠ 64 := by cases w <;> simp_all [bitsOf]
    exact ⟨⟨_, rfl, s.load_register_fault sp3 _ _ (s.locate_register_width sp3 priv _ (.inr other)) ▸ s.trapped_trapAt handles _⟩,
      ⟨_, rfl, s.store_register_fault sp3 _ (s.locate_register_width sp3 priv _ (.inr other)) ▸ s.trapped_trapAt handles _⟩⟩
  · have reached (acc : Access) : s.locate s.cur s.user true acc a 64 64 = .ok [] .register :=
      s.locate_register sp3 priv (by rw [meshX_eq, meshY_eq]; exact inside) (by rw [meshLayer_eq]; exact blocks) aligned
    have own : ownBlock s.cur a = true ↔ near := by
      simp [ownBlock, registerCore, meshX_eq, meshY_eq, meshLayer_eq, near, x, y, block]
    refine ⟨fun h => ⟨?_, ?_⟩, fun h => ⟨?_, ?_⟩⟩
    · refine ⟨_, rfl, ?_⟩
      simp [State.load, sp3, bitsOf, reached, own.2 h, s.wrote_complete]
    · refine ⟨_, rfl, ?_⟩
      simp only [State.store, sp3, bitsOf, reached, own.2 h]
      exact ⟨rfl, State.wentTo_advance _⟩
    · let m := s.registerRequest (.load false) a 0 rd
      refine ⟨_, rfl, ?_⟩
      simp only [State.load, sp3, bitsOf, reached, mt own.1 h, Bool.false_eq_true, ↓reduceIte, State.request_register_load]
      refine ⟨by simp [State.setStatus], ?_, rfl, m, ?_, rfl, rfl, rfl, rfl⟩
      · rw [State.strand_switch, State.strand, State.setStatus, State.bank_modBank_self]
        have pc := s.pc_askedRegister m
        rwa [State.pc, State.here_askedRegister] at pc
      · exact s.posted_askedRegister m
    · let m := s.registerRequest .store a (s.reg rs2) 0
      obtain ⟨l, strand⟩ := s.strand_askedRegister m
      have moved := (s.askedRegister m).strand_advance
      rw [State.here_askedRegister, State.pc_askedRegister, strand] at moved
      refine ⟨_, rfl, ?_⟩
      simp only [State.store, sp3, bitsOf, reached, mt own.1 h, Bool.false_eq_true, ↓reduceIte, State.request_register_store,
        State.strand_switch]
      rw [moved]
      exact ⟨rfl, rfl, rfl, m, s.posted_askedRegister m, rfl, rfl, rfl⟩

end Sys2Proof.Machine
end

section
/-! O12 holds. Each space's checks of an address are stated once as what they find; an access that finds a fault takes it. -/

namespace Sys2Proof.Machine

/-! ## Mesh addresses -/

/-- U mode in cabinet 7 (R52). -/
def PrivateCabinet (user : Bool) (layer off : Nat) : Prop := user = true ∧ layer = 0 ∧ off / 2 ^ 17 % 8 = 7

/-- A mesh place that no access of `n` bits can use: a must-be-zero field, a reserved layer, an offset past the cabinets, or an access
that runs past the end of its unit (R60). -/
def Malformed (layer mbz off n : Nat) : Prop :=
  let unit := if layer = 0 then 2 ^ 17 else 2 ^ 20
  mbz ≠ 0 ∨ (1 ≤ layer ∧ layer ≤ 7) ∨ (layer = 0 ∧ 2 ^ 20 ≤ off) ∨ unit < off % unit + n

theorem inCabinet7_iff (user : Bool) (layer off : Nat) :
    (user && inCabinet7 layer off) = true ↔ PrivateCabinet user layer off := by
  simp [inCabinet7, PrivateCabinet]

theorem aligned_eq_false {off n : Nat} (packed : ¬ (n = 3 ∨ n = 6)) (odd : off % n ≠ 0) : aligned off n n = false := by
  obtain ⟨h3, h6⟩ := not_or.1 packed
  simp [aligned, packedWidth, h3, h6, odd]

theorem checkOffset_of_malformed {layer mbz off n : Nat} (h : Malformed layer mbz off n) (align : Nat) :
    checkOffset layer mbz off n align = some .bounds := by
  unfold checkOffset
  dsimp only
  split
  · rfl
  · rename_i fields
    rw [if_pos]
    obtain h | h | ⟨h, past⟩ | h := h
    · exact absurd (.inl h) fields
    · exact absurd (.inr (.inl h)) fields
    · exact absurd (.inr (.inr ⟨h, by omega⟩)) fields
    · exact h

theorem checkOffset_of_misaligned {layer mbz off n align : Nat} (h : ¬ Malformed layer mbz off n)
    (odd : aligned off n align = false) : checkOffset layer mbz off n align = some .misaligned := by
  obtain ⟨zero, h⟩ := not_or.1 h
  obtain ⟨layers, h⟩ := not_or.1 h
  obtain ⟨cabinets, fits⟩ := not_or.1 h
  unfold checkOffset
  rw [if_neg (by rintro (h | h | ⟨h, past⟩) <;> [exact zero h; exact layers h; exact cabinets ⟨h, by omega⟩])]
  simp only [odd, Bool.not_false, if_true]
  rw [if_neg fits]

/-- What is found at a mesh address where it cannot be used, in the order of R60: `inside` says that its coordinates are, and `fits`
that they are as the resolved address holds them. -/
structure MeshFaults (found : Found) (user : Bool) (inside fits : Prop) (layer mbz off n : Nat) (a : Word) : Prop where
  privilege : PrivateCabinet user layer off → found = .flt ⟨.privilege, a⟩
  bounds : ¬ PrivateCabinet user layer off → ¬ inside ∨ Malformed layer mbz off n → found = .flt ⟨.bounds, a⟩
  misaligned : ¬ PrivateCabinet user layer off → inside → fits → ¬ Malformed layer mbz off n → ¬ (n = 3 ∨ n = 6) → off % n ≠ 0 →
    found = .flt ⟨.misaligned, a⟩

theorem meshFaults_locateMesh (p : Partition) (user : Bool) (a issued : Word) (n : Nat) :
    MeshFaults (locateMesh p user a n n issued) user (p.inside (meshX a) (meshY a) = true) True (meshLayer a) (meshMbz a)
      (meshOff a) n issued where
  privilege h := by rw [locateMesh, if_pos ((inCabinet7_iff ..).2 h)]
  bounds free bad := by
    rw [locateMesh, if_neg (mt (inCabinet7_iff ..).1 free)]
    split
    · rfl
    · rename_i inside
      rw [checkOffset_of_malformed (bad.resolve_left (by simpa using inside))]
  misaligned free inside _ good packed odd := by
    rw [locateMesh, if_neg (mt (inCabinet7_iff ..).1 free), if_neg (by simp [inside]),
      checkOffset_of_misaligned good (aligned_eq_false packed odd)]

/-- The fields below the coordinates of a mesh address put together from coordinates and the low bits of another. -/
theorem meshAddr_low (x y : Nat) (a : Word) :
    meshLayer (meshAddr x y a) = meshLayer a ∧ meshMbz (meshAddr x y a) = meshMbz a ∧ meshOff (meshAddr x y a) = meshOff a := by
  simp only [meshLayer_eq, meshMbz_eq, meshOff_eq, meshAddr, toNat_extractLsb', BitVec.toNat_ofNat]
  omega

theorem meshAddr_coordinates {x y : Nat} (hx : x < 1024) (hy : y < 1024) (a : Word) :
    meshX (meshAddr x y a) = x ∧ meshY (meshAddr x y a) = y := by
  simp only [meshX_eq, meshY_eq, meshAddr, toNat_extractLsb', BitVec.toNat_ofNat]
  omega

variable (s : State)

theorem State.meshFaults_absolute {a : Word} (sp : space a = 0) (scalar : Bool) (acc : Access) (n : Nat) :
    MeshFaults (s.locate s.cur s.user scalar acc a n n) s.user (s.part.inside (meshX a) (meshY a) = true) True (meshLayer a)
      (meshMbz a) (meshOff a) n a := by
  have e : s.locate s.cur s.user scalar acc a n n = locateMesh s.part s.user a n n a := by simp [State.locate, sp]
  exact e ▸ meshFaults_locateMesh ..

/-- A relative address is refused outside the partition, and is otherwise the absolute one that it resolves to. -/
theorem State.meshFaults_relative {a : Word} (sp : space a = 2) (scalar : Bool) (acc : Access) (n : Nat) :
    let x : Int := coreX s.cur + (a.extractLsb' 51 10).toInt
    let y : Int := coreY s.cur + (a.extractLsb' 41 10).toInt
    MeshFaults (s.locate s.cur s.user scalar acc a n n) s.user (0 ≤ x ∧ x < s.part.width ∧ 0 ≤ y ∧ y < s.part.height)
      (x < 1024 ∧ y < 1024) (meshLayer a) (meshMbz a) (meshOff a) n a := by
  intro x y
  obtain ⟨layer, mbz, off⟩ := meshAddr_low x.toNat y.toNat a
  have at' := meshFaults_locateMesh s.part s.user (meshAddr x.toNat y.toNat a) a n
  rw [layer, mbz, off] at at'
  have e : s.locate s.cur s.user scalar acc a n n =
      if s.user && inCabinet7 (meshLayer a) (meshOff a) then .flt ⟨.privilege, a⟩
      else if 0 ≤ x ∧ x < s.part.width ∧ 0 ≤ y ∧ y < s.part.height then
        locateMesh s.part s.user (meshAddr x.toNat y.toNat a) n n a
      else .flt ⟨.bounds, a⟩ := by
    have resolved : resolveRel s.part s.cur a = if 0 ≤ x ∧ x < s.part.width ∧ 0 ≤ y ∧ y < s.part.height then
        some (meshAddr x.toNat y.toNat a) else none := by
      have inside : s.part.inside x.toNat y.toNat = true ↔ x.toNat < s.part.width ∧ y.toNat < s.part.height := by
        simp [Partition.inside]
      unfold resolveRel
      dsimp only
      split
      · rw [if_neg (by omega)]
      · change (if s.part.inside x.toNat y.toNat = true then some (meshAddr x.toNat y.toNat a) else none) = _
        simp only [inside]
        exact if_congr (by omega) rfl rfl
    simp only [State.locate, sp, resolved]
    split
    · rfl
    · by_cases within : 0 ≤ x ∧ x < s.part.width ∧ 0 ≤ y ∧ y < s.part.height
      · simp only [if_pos within]
      · simp only [if_neg within]
  rw [e]
  refine ⟨fun h => if_pos ((inCabinet7_iff ..).2 h), fun free bad => ?_, fun free inside fits good packed odd => ?_⟩
  · rw [if_neg (mt (inCabinet7_iff ..).1 free)]
    split
    · rename_i inside
      exact at'.bounds free (.inr (bad.resolve_left (not_not_intro inside)))
    · rfl
  · obtain ⟨hx, hy⟩ := meshAddr_coordinates (x := x.toNat) (y := y.toNat) (by omega) (by omega) a
    rw [if_neg (mt (inCabinet7_iff ..).1 free), if_pos inside]
    refine at'.misaligned free ?_ trivial good packed odd
    rw [hx, hy, Partition.inside]
    simp only [Bool.and_eq_true, decide_eq_true_eq]
    omega

/-- Whether space 100 names the module itself (R59). -/
def State.ownNumber (s : State) (a : Word) : Prop := s.modid.getLsbD 63 = true ∧ s.modid.toNat % 2 ^ 12 = a.toNat / 2 ^ 49 % 2 ^ 12

theorem State.ownNumber_iff (a : Word) :
    (s.modid.getLsbD 63 && (s.modid.extractLsb' 0 12).toNat == (a.extractLsb' 49 12).toNat) = true ↔ s.ownNumber a := by
  rw [Bool.and_eq_true, beq_iff_eq, toNat_extractLsb', toNat_extractLsb', Nat.pow_zero, Nat.div_one, State.ownNumber]

/-- The fields of a mesh address put together from them. -/
theorem meshFields_joined {x y l m o : Nat} (hx : x < 2 ^ 10) (hy : y < 2 ^ 10) (hl : l < 2 ^ 4) (hm : m < 2 ^ 1) (ho : o < 2 ^ 24) :
    let b := BitVec.ofNat 64 (x * 2 ^ 51 + y * 2 ^ 41 + l * 2 ^ 37 + m * 2 ^ 24 + o)
    meshX b = x ∧ meshY b = y ∧ meshLayer b = l ∧ meshMbz b = m ∧ meshOff b = o := by
  simp only [meshX_eq, meshY_eq, meshLayer_eq, meshMbz_eq, meshOff_eq, BitVec.toNat_ofNat]
  omega

/-- Under the module's own number, space 100 is space 000 with the fields at other places. -/
theorem State.meshFaults_ownNumber {a : Word} (sp : space a = 4) (own : s.ownNumber a) (scalar : Bool) (acc : Access) (n : Nat) :
    MeshFaults (s.locate s.cur s.user scalar acc a n n) s.user
      (s.part.inside (a.toNat / 2 ^ 39 % 2 ^ 10) (a.toNat / 2 ^ 29 % 2 ^ 10) = true) True (a.toNat / 2 ^ 25 % 2 ^ 4)
      (a.toNat / 2 ^ 24 % 2 ^ 1) (a.toNat % 2 ^ 24) n a := by
  have e : s.locate s.cur s.user scalar acc a n n = s.locatePeer s.user a n n := by simp [State.locate, sp]
  rw [e, State.locatePeer]
  dsimp only
  rw [if_pos ((s.ownNumber_iff a).2 own)]
  simp only [toNat_extractLsb', Nat.pow_zero, Nat.div_one]
  obtain ⟨hx, hy, hl, hm, ho⟩ := meshFields_joined (Nat.mod_lt (a.toNat / 2 ^ 39) (Nat.two_pow_pos 10))
    (Nat.mod_lt (a.toNat / 2 ^ 29) (Nat.two_pow_pos 10)) (Nat.mod_lt (a.toNat / 2 ^ 25) (Nat.two_pow_pos 4))
    (Nat.mod_lt (a.toNat / 2 ^ 24) (Nat.two_pow_pos 1)) (Nat.mod_lt a.toNat (Nat.two_pow_pos 24))
  have at' := meshFaults_locateMesh s.part s.user (BitVec.ofNat 64 (a.toNat / 2 ^ 39 % 2 ^ 10 * 2 ^ 51 +
    a.toNat / 2 ^ 29 % 2 ^ 10 * 2 ^ 41 + a.toNat / 2 ^ 25 % 2 ^ 4 * 2 ^ 37 + a.toNat / 2 ^ 24 % 2 ^ 1 * 2 ^ 24 + a.toNat % 2 ^ 24)) a n
  rwa [hx, hy, hl, hm, ho] at at'

/-- A peer's mesh, with its own fields (R59). -/
theorem State.meshFaults_peer {a : Word} (sp : space a = 4) (other : ¬ s.ownNumber a) (scalar : Bool) (acc : Access) (n : Nat) :
    MeshFaults (s.locate s.cur s.user scalar acc a n n) s.user (∃ b ∈ s.part.peers, b.num.toNat = a.toNat / 2 ^ 49 % 2 ^ 12) True
      (a.toNat / 2 ^ 25 % 2 ^ 4) (a.toNat / 2 ^ 24 % 2 ^ 1) (a.toNat % 2 ^ 24) n a := by
  have e : s.locate s.cur s.user scalar acc a n n = s.locatePeer s.user a n n := by simp [State.locate, sp]
  have bound : (s.part.peers.any fun b => b.num.toNat == a.toNat / 2 ^ 49 % 2 ^ 12) = true ↔
      ∃ b ∈ s.part.peers, b.num.toNat = a.toNat / 2 ^ 49 % 2 ^ 12 := by simp
  rw [e, State.locatePeer]
  dsimp only
  rw [if_neg (mt (s.ownNumber_iff a).1 other)]
  simp only [toNat_extractLsb', Nat.pow_zero, Nat.div_one]
  refine ⟨fun h => if_pos ((inCabinet7_iff ..).2 h), fun free bad => ?_, fun free inside _ good packed odd => ?_⟩
  · rw [if_neg (mt (inCabinet7_iff ..).1 free)]
    split
    · rfl
    · rename_i inside
      rw [checkOffset_of_malformed (bad.resolve_left (not_not_intro (bound.1 (by simpa using inside))))]
  · rw [if_neg (mt (inCabinet7_iff ..).1 free), if_neg (by simpa using bound.2 inside),
      checkOffset_of_misaligned good (aligned_eq_false packed odd)]

/-! ## Virtual addresses -/

/-- The first piece of a virtual access starts at its address. -/
theorem pieces_cons (off n : Nat) : ∃ m r, (splitParts off n).flatMap (pageParts off) = (0, m) :: r := by
  unfold splitParts
  dsimp only
  split
  · unfold pageParts
    dsimp only
    rw [List.flatMap_cons]
    split
    · exact ⟨_, _, rfl⟩
    · exact ⟨_, _, rfl⟩
  · unfold pageParts
    dsimp only
    rw [List.flatMap_cons]
    split
    · exact ⟨_, _, rfl⟩
    · exact ⟨_, _, rfl⟩

/-- A virtual access whose first bit is not translated to memory finds what the translation of that bit does. -/
theorem locateVirtual_of_first {tr : Nat → Walk} {acc : Access} {user : Bool} {a : Word} {n : Nat} {f : Found}
    (fits : a.toNat % 2 ^ 61 + n ≤ 2 ^ 61) (multiple : aligned (a.toNat % 2 ^ 61) n n = true)
    (first : ∀ m, translatePart tr acc user a m = f) (stop : ∀ ps h, f ≠ .ok ps h) : locateVirtual tr acc user a n n = f := by
  obtain ⟨m, r, pieces⟩ := pieces_cons (a.toNat % 2 ^ 61) n
  unfold locateVirtual
  simp only [toNat_extractLsb', Nat.pow_zero, Nat.div_one, multiple, pieces, List.foldl_cons]
  rw [if_neg (by omega), if_neg (by simp)]
  have same : a + BitVec.ofNat 64 0 = a := BitVec.add_zero a
  rw [same, first m]
  cases f with
  | ok ps h => exact absurd rfl (stop ps h)
  | flt f => exact List.foldl_fixed' (fun _ => rfl) r
  | absent va => exact List.foldl_fixed' (fun _ => rfl) r

/-! ## Forms that take the fault of their address -/

/-- A form that accesses memory at an address takes the fault found there, or waits on the page. A plain one, a load or a store, may
reach device register space. -/
structure State.TakesFaults (s : State) (i : Instr) (plain : Bool) (acc : Access) (n : Nat) (a : Word) : Prop where
  fault : ∀ f, (space a = 3 → plain = false) → s.locate s.cur s.user false acc a n n = .flt f →
    exec i s = .next (s.trapAt s.here f)
  absent : ∀ va, space a ≠ 3 → s.locate s.cur s.user false acc a n n = .absent va → exec i s = .next (s.pageFault s.here acc va)

theorem State.takesFaults_access {i : Instr} {op : MemOp} {w : Width} {a d x : Word} {rd rt : Reg} {kind : WaitKind} (plain : Bool)
    (e : exec i s = .next (s.access op w a d x rd rt kind)) : s.TakesFaults i plain (accessOf op) (bitsOf w) a where
  fault f _ found := by rw [e, State.access, found]; rfl
  absent va _ found := by rw [e, State.access, found]; rfl

theorem State.takesFaults_load {i : Instr} {signed : Bool} {w : Width} {a : Word} {rd : Reg}
    (e : exec i s = .next (s.load signed w rd a)) : s.TakesFaults i true .load (bitsOf w) a where
  fault f memory found := by
    rw [e, State.load, if_neg (fun sp => nomatch memory sp), State.access, accessOf, found]; rfl
  absent va memory found := by rw [e, State.load, if_neg memory, State.access, accessOf, found]; rfl

theorem State.takesFaults_store {i : Instr} {w : Width} {a v : Word}
    (e : exec i s = .next (s.store w a v)) : s.TakesFaults i true .store (bitsOf w) a where
  fault f memory found := by
    rw [e, State.store, if_neg (fun sp => nomatch memory sp), State.access, accessOf, found]; rfl
  absent va memory found := by rw [e, State.store, if_neg memory, State.access, accessOf, found]; rfl

/-- With nothing to drain and no drain open, what a suspending form does is done at once. -/
theorem State.whenDrained_of_noDrain (drained : s.mustDrainVectors = false) (none : s.NoDrain) (f : State → State) :
    s.whenDrained true f = f s := by
  have closed : (s.core s.cur).draining.contains ((s.strand s.here).sfp, true) = false := by
    rw [List.contains_eq_mem, decide_eq_false_iff_not]
    exact fun open' => none _ open' rfl
  have same : s.closeDrain s.cur ((s.strand s.here).sfp, true) = s := by
    rw [State.closeDrain, closed]
    rfl
  rw [State.whenDrained, same]
  simp [drained]

/-- A fault that a form takes, in the terms of the statements. -/
theorem State.TakesFaults.trapped {s : State} {i : Instr} {plain : Bool} {acc : Access} {n : Nat} {a : Word}
    (takes : s.TakesFaults i plain acc n a) (handles : s.Handles) {c : Cause} (memory : space a = 3 → plain = false)
    (found : s.locate s.cur s.user false acc a n n = .flt ⟨c, a⟩) : Done (exec i s) (s.Trapped · c.code a) :=
  ⟨_, takes.fault _ memory found, s.trapped_trapAt handles _⟩

/-- A page that is absent is a translation fault where there is no fault queue (R332). -/
theorem State.TakesFaults.trapped_absent {s : State} {i : Instr} {plain : Bool} {acc : Access} {n : Nat} {a : Word}
    (takes : s.TakesFaults i plain acc n a) (handles : s.Handles) (memory : space a ≠ 3) (data : acc ≠ .fetch)
    (found : s.locate s.cur s.user false acc a n n = .absent a) (queue : (s.cluster (clusterOf s.cur)).fqbase >>> 9 = 0) :
    Done (exec i s) (s.Trapped · 0x07 a) := by
  refine ⟨_, takes.absent _ memory found, ?_⟩
  have e : s.pageFault s.here acc a = s.trapAt s.here ⟨.translation, a⟩ := by
    rw [State.pageFault, State.pageFaultAs, if_neg data]
    exact if_pos queue
  exact e ▸ s.trapped_trapAt handles _

theorem State.locate_reserved {a : Word} {scalar : Bool} {acc : Access} {n : Nat} (sp : 5 ≤ space a) :
    s.locate s.cur s.user scalar acc a n n = .flt ⟨.space, a⟩ := by
  obtain ⟨k, hk⟩ := Nat.exists_eq_add_of_le' sp
  simp [State.locate, hk]

theorem State.locate_virtual_past {acc : Access} {a : Word} {n : Nat} (sp : space a = 1) (past : 2 ^ 61 < a.toNat % 2 ^ 61 + n) :
    s.locate s.cur s.user false acc a n n = .flt ⟨.bounds, a⟩ := by
  simp only [State.locate, sp, locateVirtual, toNat_extractLsb', Nat.pow_zero, Nat.div_one]
  exact if_pos past

theorem State.locate_virtual_misaligned {acc : Access} {a : Word} {n : Nat} (sp : space a = 1)
    (fits : a.toNat % 2 ^ 61 + n ≤ 2 ^ 61) (packed : ¬ (n = 3 ∨ n = 6)) (odd : a.toNat % 2 ^ 61 % n ≠ 0) :
    s.locate s.cur s.user false acc a n n = .flt ⟨.misaligned, a⟩ := by
  simp only [State.locate, sp, locateVirtual, toNat_extractLsb', Nat.pow_zero, Nat.div_one, aligned_eq_false packed odd]
  rw [if_neg (Nat.not_lt.2 fits)]
  rfl

/-- The fault that the first bit of a virtual address takes. -/
theorem State.locate_virtual_first {acc : Access} {a : Word} {n : Nat} {f : Found} (sp : space a = 1)
    (fits : a.toNat % 2 ^ 61 + n ≤ 2 ^ 61) (multiple : (n = 3 ∨ n = 6) ∨ a.toNat % 2 ^ 61 % n = 0)
    (first : ∀ m, translatePart (s.translation s.cur acc) acc s.user a m = f) (stop : ∀ ps h, f ≠ .ok ps h) :
    s.locate s.cur s.user false acc a n n = f := by
  have e : s.locate s.cur s.user false acc a n n = locateVirtual (s.translation s.cur acc) acc s.user a n n := by
    simp [State.locate, sp]
  rw [e]
  exact locateVirtual_of_first fits (by simpa [aligned, packedWidth] using multiple) first stop

/-- What the translation of the first bit of an access gives where it leads to no memory (R330). -/
theorem State.translatePart_fault {acc : Access} {a : Word} (data : acc ≠ .fetch) (m : Nat)
    (bad : a.toNat / 2 ^ 51 % 2 ^ 10 ≠ 0 ∨ s.translation s.cur acc (a.toNat % 2 ^ 51) = .bad ∨
      ∃ e bits, s.translation s.cur acc (a.toNat % 2 ^ 51) = .leaf e bits ∧ permits e acc s.user = false) :
    translatePart (s.translation s.cur acc) acc s.user a m = .flt ⟨.translation, a⟩ := by
  have high : a.extractLsb' 51 10 ≠ 0 ↔ a.toNat / 2 ^ 51 % 2 ^ 10 ≠ 0 := by
    rw [← toNat_extractLsb', ne_eq, ne_eq, BitVec.toNat_eq]
    rfl
  unfold translatePart
  simp only [if_neg data, toNat_extractLsb', Nat.pow_zero, Nat.div_one]
  obtain h | h | ⟨e, bits, h, denied⟩ := bad
  · exact if_pos (high.2 h)
  · split
    · rfl
    · rw [h]
  · split
    · rfl
    · simp only [h, denied]
      rfl

theorem State.translatePart_absent {acc : Access} {a : Word} (m : Nat) (low : a.toNat / 2 ^ 51 % 2 ^ 10 = 0)
    (absent : s.translation s.cur acc (a.toNat % 2 ^ 51) = .absent) :
    translatePart (s.translation s.cur acc) acc s.user a m = .absent a := by
  have high : a.extractLsb' 51 10 = 0 := by rw [BitVec.toNat_eq, toNat_extractLsb', low]; rfl
  unfold translatePart
  simp only [toNat_extractLsb', Nat.pow_zero, Nat.div_one, high, absent]
  rfl

/-- The three faults of a mesh address, in the terms of the statements. -/
theorem State.TakesFaults.mesh {s : State} {i : Instr} {plain : Bool} {acc : Access} {n : Nat} {a : Word}
    (takes : s.TakesFaults i plain acc n a) (handles : s.Handles) (memory : space a ≠ 3) {inside fits : Prop} {layer mbz off : Nat}
    (found : MeshFaults (s.locate s.cur s.user false acc a n n) s.user inside fits layer mbz off n a) :
    (PrivateCabinet s.user layer off → Done (exec i s) (s.Trapped · 0x03 a)) ∧
    (¬ PrivateCabinet s.user layer off → ¬ inside ∨ Malformed layer mbz off n → Done (exec i s) (s.Trapped · 0x05 a)) ∧
    (¬ PrivateCabinet s.user layer off → inside → fits → ¬ Malformed layer mbz off n → ¬ (n = 3 ∨ n = 6) → off % n ≠ 0 →
      Done (exec i s) (s.Trapped · 0x06 a)) :=
  have at' {c : Cause} := takes.trapped handles (c := c) (absurd · memory)
  ⟨fun h => at' (found.privilege h), fun h bad => at' (found.bounds h bad),
    fun h inside fits good packed odd => at' (found.misaligned h inside fits good packed odd)⟩

/-- Settles O12: each form takes the fault of its address, and each space's checks find it in their order. -/
theorem addressFaults : Obligations.AddressFaults := by
  unfold Obligations.AddressFaults
  intro s o w aq c rd rt rs1 rs2 imm handles faults n a disp idx
  have all {plain : Bool} {acc : Access} {n : Nat} {a : Word} {i : Instr} (data : acc ≠ .fetch)
      (takes : s.TakesFaults i plain acc n a) : faults plain acc n a i := by
    have space_a : a.toNat / 2 ^ 61 % 2 ^ 3 = space a := by rw [space_eq]; have := a.isLt; omega
    have memory {k : Nat} (sp : space a = k) (other : k ≠ 3) : space a ≠ 3 := sp ▸ other
    simp only [faults, Nat.pow_zero, Nat.div_one, space_a]
    refine ⟨fun sp => ?_, fun sp => ?_, fun sp => ?_, fun sp => ⟨fun own => ?_, fun other => ?_⟩,
      fun sp mixed => ⟨fun user => ?_, fun priv => ?_⟩, fun sp => ⟨fun past => ?_, fun fits packed odd => ?_, fun fits multiple => ?_⟩⟩
    · exact takes.trapped handles (fun h => absurd h (by omega)) (s.locate_reserved sp)
    · exact takes.mesh handles (memory sp (by decide)) (by
        have found := s.meshFaults_absolute sp false acc n
        rwa [meshX_eq, meshY_eq, meshLayer_eq, meshMbz_eq, meshOff_eq] at found)
    · exact takes.mesh handles (memory sp (by decide)) (by
        have found := s.meshFaults_relative sp false acc n
        simpa only [meshLayer_eq, meshMbz_eq, meshOff_eq] using found)
    · exact takes.mesh handles (memory sp (by decide)) (s.meshFaults_ownNumber sp own false acc n)
    · exact takes.mesh handles (memory sp (by decide)) (s.meshFaults_peer sp other false acc n)
    · exact takes.trapped handles (fun _ => mixed) (s.locate_register_user sp user false)
    · exact takes.trapped handles (fun _ => mixed) (s.locate_register_width sp priv false (.inl rfl))
    · exact takes.trapped handles (absurd · (memory sp (by decide))) (s.locate_virtual_past sp past)
    · exact takes.trapped handles (absurd · (memory sp (by decide))) (s.locate_virtual_misaligned sp fits packed odd)
    · have first {f : Found} := s.locate_virtual_first (acc := acc) (f := f) sp fits multiple
      have bad (h : a.toNat / 2 ^ 51 % 2 ^ 10 ≠ 0 ∨ s.translation s.cur acc (a.toNat % 2 ^ 51) = .bad ∨
          ∃ e bits, s.translation s.cur acc (a.toNat % 2 ^ 51) = .leaf e bits ∧ permits e acc s.user = false) :
          Done (exec i s) (s.Trapped · 0x07 a) :=
        takes.trapped handles (c := .translation) (absurd · (memory sp (by decide)))
          (first (fun m => s.translatePart_fault data m h) (by simp))
      exact ⟨fun high => bad (.inl high), fun _ malformed => bad (.inr (.inl malformed)),
        fun e bits _ leaf denied => bad (.inr (.inr ⟨e, bits, leaf, denied⟩)),
        fun low absent queue => takes.trapped_absent handles (memory sp (by decide)) data
          (first (fun m => s.translatePart_absent m low absent) (by simp)) queue⟩
  have atDisp : s.dispAddr w rs1 imm = disp := s.dispAddr_eq w rs1 imm
  have atIdx : s.indexAddr w rs1 rs2 = idx := s.indexAddr_eq w rs1 rs2
  have atomics {op : MemOp} {d x : Word} {rd rt : Reg} {i : Instr} (acc : accessOf op = .atomic)
      (e : exec i s = .next (s.access op w a d x rd rt .other)) : faults false .atomic n a i :=
    all (by decide) (acc ▸ s.takesFaults_access false e)
  simp only [List.forall_mem_cons, List.not_mem_nil, false_implies, implies_true, and_true]
  refine ⟨⟨all (by decide) (s.takesFaults_load (congrArg (fun b => Host.Outcome.next (s.load false w rd b)) atDisp)),
      all (by decide) (s.takesFaults_load (congrArg (fun b => Host.Outcome.next (s.load true w rd b)) atDisp))⟩,
    all (by decide) (s.takesFaults_store (congrArg (fun b => Host.Outcome.next (s.store w b (s.reg rs2))) atDisp)),
    ⟨all (by decide) (s.takesFaults_load (congrArg (fun b => Host.Outcome.next (s.load false w rd b)) atIdx)),
      all (by decide) (s.takesFaults_load (congrArg (fun b => Host.Outcome.next (s.load true w rd b)) atIdx))⟩,
    all (by decide) (s.takesFaults_store (congrArg (fun b => Host.Outcome.next (s.store w b (s.reg rd))) atIdx)),
    ⟨atomics rfl rfl, atomics rfl rfl, atomics rfl rfl, atomics rfl rfl, atomics rfl rfl, atomics rfl rfl, atomics rfl rfl,
      atomics rfl rfl, atomics rfl rfl, atomics rfl rfl, atomics rfl rfl, atomics rfl rfl, atomics rfl rfl⟩,
    all (by decide) (s.takesFaults_access (op := .festat) (w := .b64) false rfl), fun drained none => ⟨?_, ?_⟩⟩
  · exact all (by decide) (s.takesFaults_access (op := .take) false
      (congrArg Host.Outcome.next (s.whenDrained_of_noDrain drained none _)))
  · exact all (by decide) (s.takesFaults_access (op := .await c) false
      (congrArg Host.Outcome.next (s.whenDrained_of_noDrain drained none _)))

end Sys2Proof.Machine
end

section
/-! O57 fails. R403's part of a fetch is done before the word is taken: an uncorrectable group under the word at the PC is replaced by
zeros, and what decodes is the zero word, while the statement takes the word that stands there before. -/

namespace Sys2Proof.Machine

/-- A core about to run `ADDI x5, x0, 42`, whose word stands in an uncorrectable group. -/
def uncorrectableWord : State := { State.reset.withFetchWord 32 0x02A00293 with bad := [8192] }

/-- What x5 of the executing bank holds in the state that an outcome goes on to. -/
def nextX5 (o : Outcome) : Word :=
  match o with
  | .next t => t.reg 5
  | _ => 0

/-- A step takes the word after its group is replaced, and finds the zero word: no ADDI is done. -/
theorem nextX5_step_uncorrectableWord : nextX5 (step uncorrectableWord) = 0 := by decide +kernel

/-- The instruction that the word decodes to, done, would write x5. -/
theorem nextX5_exec_uncorrectableWord :
    let u := uncorrectableWord.takeTurn 0
    nextX5 (exec (.addi 5 0 42) (u.noteAccess 0 .fetch u.user u.pc)) = 42 := by decide +kernel

/-- Nothing goes before an instruction of core 0. -/
theorem uncorrectableWord_issues : uncorrectableWord.modeDue = false ∧ uncorrectableWord.agenda = [] ∧
    uncorrectableWord.halted = false ∧ uncorrectableWord.timers = [] ∧ uncorrectableWord.hangs = none ∧
    uncorrectableWord.nextCore = some 0 ∧ (uncorrectableWord.core 0).guard < 4096 := by decide +kernel

theorem fetch_uncorrectableWord :
    let u := uncorrectableWord.takeTurn 0
    u.fetch 0 u.user u.pc = .ok 0x02A00293 := by decide +kernel

/-- Refutes O57: the word at the PC stands in an uncorrectable group, which the fetch replaces (R403); an illegal instruction is found
where the statement has an ADDI. -/
theorem not_stepsRunInstructions : ¬ Obligations.StepsRunInstructions := by
  unfold Obligations.StepsRunInstructions
  intro h
  obtain ⟨mode, agenda, halted, timers, hangs, next, guard⟩ := uncorrectableWord_issues
  obtain ⟨-, noMode⟩ := h uncorrectableWord 0 0 0x02A00293 (.addi 5 0 42) .absent
  obtain ⟨-, -, noAgenda⟩ := noMode mode
  obtain ⟨-, noTimer⟩ := noAgenda agenda halted
  obtain ⟨-, -, issues⟩ := noTimer (by simp [timers])
  obtain ⟨inTime, -⟩ := issues hangs next
  obtain ⟨fetched, -⟩ := inTime guard
  obtain ⟨runs, -⟩ := fetched fetch_uncorrectableWord
  have same := congrArg nextX5 (runs (by decide))
  rw [nextX5_step_uncorrectableWord, nextX5_exec_uncorrectableWord] at same
  exact absurd same (by decide)

end Sys2Proof.Machine
end

section
/-! Memory stays in canonical form (O60): the states that answers, queues, homes and records leave. An outcome is canonical where its next
state has its memory in canonical form. Each function of the model that returns a state has one lemma here, which rests on the lemmas
of the functions that it calls; what writes bytes does so by `Memory.writeBits`, which keeps the form (`Memory.wf_writeBits`). -/

namespace Sys2Proof.Machine

/-- An outcome whose next state, where it is one, has its memory in canonical form. -/
def Canonical (o : Outcome) : Prop := ∀ t, o = .next t → t.MemoryWf

theorem canonical_next {t : State} (h : t.MemoryWf) : Canonical (.next t) := by
  rintro _ ⟨⟩; exact h

/-- A run of a command whose state, where it gives one, has its memory in canonical form. -/
def Ran.Canonical : Ran → Prop
  | .fault _ s | .page _ _ s _ | .done s _ | .later s _ _ _ => s.MemoryWf
  | .hold | .busy => True

theorem memoryWf_of_mem_eq {s t : State} (h : s.MemoryWf) (e : t.mem = s.mem) : t.MemoryWf := by
  unfold State.MemoryWf
  rw [e]
  exact h

-- A proof at a time: elaborated together, they wait for each other, each in a thread with a stack of its own.
set_option Elab.async false

variable {s : State}

/-! ## What State defines -/

theorem memoryWf_reset : State.reset.MemoryWf := by
  rfl

/-! ## What Ops defines -/

theorem memoryWf_setCore (h : s.MemoryWf) (c : Nat) (v : Core) : (s.setCore c v).MemoryWf := by
  unfold State.setCore
  grind -ring -linarith [State.MemoryWf]

theorem memoryWf_setQuad (h : s.MemoryWf) (q : Nat) (v : Quad) : (s.setQuad q v).MemoryWf := by
  unfold State.setQuad
  grind -ring -linarith [State.MemoryWf]

theorem memoryWf_modCore (h : s.MemoryWf) (c : Nat) (f : Core → Core) : (s.modCore c f).MemoryWf := by
  unfold State.modCore
  grind -ring -linarith [memoryWf_setCore]

theorem memoryWf_modQuad (h : s.MemoryWf) (q : Nat) (f : Quad → Quad) : (s.modQuad q f).MemoryWf := by
  unfold State.modQuad
  grind -ring -linarith [memoryWf_setQuad]

theorem memoryWf_modCluster (h : s.MemoryWf) (k : Nat) (f : Cluster → Cluster) : (s.modCluster k f).MemoryWf := by
  unfold State.modCluster
  grind -ring -linarith [State.MemoryWf]

theorem memoryWf_modDie (h : s.MemoryWf) (d : Nat) (f : Die → Die) : (s.modDie d f).MemoryWf := by
  unfold State.modDie
  grind -ring -linarith [State.MemoryWf]

theorem memoryWf_modRegion (h : s.MemoryWf) (r : Nat) (f : Region → Region) : (s.modRegion r f).MemoryWf := by
  unfold State.modRegion
  grind -ring -linarith [State.MemoryWf]

theorem memoryWf_modPart (h : s.MemoryWf) (f : Partition → Partition) : (s.modPart f).MemoryWf := by
  unfold State.modPart
  grind -ring -linarith [State.MemoryWf]

theorem memoryWf_setBank (h : s.MemoryWf) (p : Place) (b : Bank) : (s.setBank p b).MemoryWf := by
  unfold State.setBank
  grind -ring -linarith [memoryWf_modCore]

theorem memoryWf_modBank (h : s.MemoryWf) (p : Place) (f : Bank → Bank) : (s.modBank p f).MemoryWf := by
  unfold State.modBank
  grind -ring -linarith [memoryWf_setBank]

theorem memoryWf_modStrand (h : s.MemoryWf) (p : Place) (f : Strand → Strand) : (s.modStrand p f).MemoryWf := by
  unfold State.modStrand
  grind -ring -linarith [memoryWf_modBank]

theorem memoryWf_setStatus (h : s.MemoryWf) (p : Place) (st : Status) : (s.setStatus p st).MemoryWf := by
  unfold State.setStatus
  grind -ring -linarith [memoryWf_modBank]

theorem memoryWf_setReg (h : s.MemoryWf) (r : Reg) (v : Word) : (s.setReg r v).MemoryWf := by
  unfold State.setReg
  grind -ring -linarith [memoryWf_modStrand]

theorem memoryWf_setPc (h : s.MemoryWf) (v : Word) : (s.setPc v).MemoryWf := by
  unfold State.setPc
  grind -ring -linarith [memoryWf_modStrand]

theorem memoryWf_advance (h : s.MemoryWf) : s.advance.MemoryWf := by
  unfold State.advance
  grind -ring -linarith [memoryWf_setPc]

theorem memoryWf_complete (h : s.MemoryWf) (rd : Reg) (v : Word) : (s.complete rd v).MemoryWf := by
  unfold State.complete
  grind -ring -linarith [memoryWf_advance, memoryWf_setReg]

theorem memoryWf_push (h : s.MemoryWf) (a : Activity) : (s.push a).MemoryWf := by
  unfold State.push
  grind -ring -linarith [State.MemoryWf]

theorem memoryWf_post (h : s.MemoryWf) (i : Instr) : (s.post i).MemoryWf := by
  unfold State.post
  grind -ring -linarith [memoryWf_push]

theorem memoryWf_after (h : s.MemoryWf) (n : Nat) (i : Instr) : (s.after n i).MemoryWf := by
  unfold State.after
  grind -ring -linarith [State.MemoryWf]

theorem memoryWf_bumpSeq (h : s.MemoryWf) : s.bumpSeq.MemoryWf := by
  unfold State.bumpSeq
  grind -ring -linarith [State.MemoryWf]

theorem memoryWf_freeWord (h : s.MemoryWf) : s.freeWord.2.MemoryWf := by
  unfold State.freeWord
  grind -ring -linarith [State.MemoryWf]

theorem memoryWf_out (h : s.MemoryWf) (p : Port) (a : HostAns) : (s.out p a).MemoryWf := by
  unfold State.out
  grind -ring -linarith [State.MemoryWf]

theorem memoryWf_toHost (h : s.MemoryWf) (a : HostAns) : (s.toHost a).MemoryWf := by
  unfold State.toHost
  grind -ring -linarith [memoryWf_out]

theorem memoryWf_toZholos (h : s.MemoryWf) (a : HostAns) : (s.toZholos a).MemoryWf := by
  unfold State.toZholos
  grind -ring -linarith [memoryWf_out]

theorem memoryWf_switch (h : s.MemoryWf) (c : Nat) : (s.switch c).MemoryWf := by
  unfold State.switch
  grind -ring -linarith [memoryWf_modCore]

theorem memoryWf_stall (h : s.MemoryWf) (kind : WaitKind) (addr : Word) (datum : Nat) : (s.stall kind addr datum).MemoryWf
    := by
  unfold State.stall
  grind -ring -linarith [memoryWf_switch, memoryWf_setStatus]

theorem memoryWf_resume (h : s.MemoryWf) : s.resume.MemoryWf := by
  unfold State.resume
  grind -ring -linarith [memoryWf_setStatus]

theorem memoryWf_trapAt (h : s.MemoryWf) (p : Place) (f : Flt) : (s.trapAt p f).MemoryWf := by
  unfold State.trapAt
  grind -ring -linarith [memoryWf_switch, memoryWf_push, memoryWf_setStatus, memoryWf_post, memoryWf_setBank]

theorem memoryWf_trap (h : s.MemoryWf) (c : Cause) (tval : Word) : (s.trap c tval).MemoryWf := by
  unfold State.trap
  grind -ring -linarith [memoryWf_trapAt]

theorem memoryWf_trapReturn (h : s.MemoryWf) : s.trapReturn.MemoryWf := by
  unfold State.trapReturn
  grind -ring -linarith [memoryWf_modBank, memoryWf_post]

/-! ## What Address defines -/

theorem memoryWf_unseal (h : s.MemoryWf) (key : Nat) : (s.unseal key).MemoryWf := by
  simp only [State.unseal]
  split
  · exact h
  · exact Memory.wf_writeBits _ _ _ _ h

theorem memoryWf_setBitsAt (h : s.MemoryWf) (key w v : Nat) : (s.setBitsAt key w v).MemoryWf := by
  unfold State.setBitsAt
  refine List.foldlRecOn (motive := fun r : State × Nat => r.1.MemoryWf) _ _ h fun r hr p _ => ?_
  exact Memory.wf_writeBits _ _ _ _ (memoryWf_unseal hr _)

theorem memoryWf_fillTlb (h : s.MemoryWf) (core : Nat) (va : Word) (acc : Access) (user : Bool) : (s.fillTlb core va acc
    user).MemoryWf := by
  unfold State.fillTlb
  grind -ring -linarith [memoryWf_modCluster, memoryWf_modCore]

theorem memoryWf_fillEngine (h : s.MemoryWf) (core : Nat) (acc : Access) (user : Bool) (a : Word) : (s.fillEngine core acc
    user a).MemoryWf := by
  unfold State.fillEngine
  grind -ring -linarith [memoryWf_modCluster]

theorem memoryWf_noteAccess (h : s.MemoryWf) (core : Nat) (acc : Access) (user : Bool) (a : Word) : (s.noteAccess core acc
    user a).MemoryWf := by
  unfold State.noteAccess
  grind -ring -linarith [memoryWf_post]

/-! ## What Fabric defines -/

theorem memoryWf_latency (h : s.MemoryWf) (core : Nat) (s0 : Home) : (s.latency core s0).2.MemoryWf := by
  unfold State.latency
  grind -ring -linarith [memoryWf_freeWord]

/-! ## What Home defines -/

theorem memoryWf_fill (h : s.MemoryWf) (key : Nat) : (s.fill key).MemoryWf := by
  unfold State.fill
  grind -ring -linarith [State.MemoryWf]

theorem memoryWf_empty (h : s.MemoryWf) (key : Nat) : (s.empty key).MemoryWf := by
  unfold State.empty
  grind -ring -linarith [State.MemoryWf]

theorem memoryWf_logEvent (h : s.MemoryWf) (kind : Nat) (core : Option Nat) (addr detail : Word) : (s.logEvent kind core
    addr detail).MemoryWf := by
  unfold State.logEvent
  grind -ring -linarith [memoryWf_modPart, memoryWf_setBitsAt, State.MemoryWf]

theorem memoryWf_zholosEvent (h : s.MemoryWf) (kind detail : Nat) : (s.zholosEvent kind detail).MemoryWf := by
  unfold State.zholosEvent
  grind -ring -linarith [State.MemoryWf]

theorem memoryWf_countReplaced (h : s.MemoryWf) (core : Option Nat) (key : Nat) : (s.countReplaced core key).MemoryWf := by
  unfold State.countReplaced
  grind -ring -linarith [memoryWf_modQuad, memoryWf_modDie]

theorem memoryWf_zeroBad (h : s.MemoryWf) (core : Option Nat) (sel g : Nat) : (s.zeroBad core sel g).MemoryWf := by
  unfold State.zeroBad
  grind -ring -linarith [memoryWf_setBitsAt, memoryWf_logEvent, memoryWf_countReplaced, State.MemoryWf]

theorem memoryWf_markLoss (h : s.MemoryWf) (sfp : Word) : (s.markLoss sfp).MemoryWf := by
  unfold State.markLoss
  grind -ring -linarith [memoryWf_modStrand, memoryWf_setBitsAt, memoryWf_zeroBad]

theorem memoryWf_lose (h : s.MemoryWf) (who : Who) : (s.lose who).MemoryWf := by
  unfold State.lose
  grind -ring -linarith [memoryWf_markLoss]

theorem memoryWf_replaceGroup (h : s.MemoryWf) (who : Who) (sel g : Nat) : (s.replaceGroup who sel g).MemoryWf := by
  unfold State.replaceGroup
  grind -ring -linarith [memoryWf_lose, memoryWf_zeroBad]

theorem memoryWf_meetBad (h : s.MemoryWf) (who : Who) (whole : Nat → Bool) (key w : Nat) : (s.meetBad who whole key
    w).MemoryWf := by
  unfold State.meetBad
  split
  · exact h
  · refine List.foldlRecOn (motive := State.MemoryWf) _ _ h fun s hs g _ => ?_
    grind -ring -linarith [State.MemoryWf, memoryWf_replaceGroup]

/-- Entries left out of a memory leave it in canonical form. -/
theorem Memory.wf_filter {m : Memory} (h : Memory.wf m = true) (f : Nat × Byte → Bool) : Memory.wf (m.filter f) = true := by
  induction m with
  | nil => rfl
  | cons e r ih =>
    obtain ⟨hv, hlt, hr⟩ := (Memory.wf_cons e.1 e.2 r).1 h
    rw [List.filter_cons]
    split
    · exact (Memory.wf_cons _ _ _).2 ⟨hv, fun x hx => hlt x (List.mem_of_mem_filter hx), ih hr⟩
    · exact ih hr

theorem memoryWf_clearTrack (h : s.MemoryWf) (c tr : Nat) : (s.clearTrack c tr).MemoryWf := by
  exact Memory.wf_filter h _

theorem memoryWf_realign (h : s.MemoryWf) (c : Nat) : (s.realign c).MemoryWf := by
  unfold State.realign
  grind -ring -linarith [memoryWf_modQuad]

theorem memoryWf_retireTrack (h : s.MemoryWf) (c tr : Nat) (who : Who) : (s.retireTrack c tr who).MemoryWf := by
  unfold State.retireTrack
  grind -ring -linarith [memoryWf_modQuad, memoryWf_lose, memoryWf_logEvent, memoryWf_modCore, memoryWf_clearTrack]

theorem memoryWf_checkMarks (h : s.MemoryWf) (who : Who) (c t p : Nat) : (s.checkMarks who c t p).MemoryWf := by
  unfold State.checkMarks
  have realigned (s : State) (hs : s.MemoryWf) (n : Nat) : ((List.range n).foldl (fun s _ => s.realign c) s).MemoryWf :=
    List.foldlRecOn (motive := State.MemoryWf) _ _ hs fun s hs _ _ => memoryWf_realign hs c
  grind -ring -linarith [State.MemoryWf, memoryWf_retireTrack, memoryWf_modCore]

theorem memoryWf_touchTrack (h : s.MemoryWf) (who : Who) (key : Nat) (store : Bool) : (s.touchTrack who key store).MemoryWf
    := by
  unfold State.touchTrack
  grind -ring -linarith [memoryWf_setCore, memoryWf_checkMarks]

theorem memoryWf_deadAccess (h : s.MemoryWf) (who : Who) (key : Nat) : (s.deadAccess who key).MemoryWf := by
  unfold State.deadAccess
  grind -ring -linarith [memoryWf_lose, memoryWf_modQuad]

theorem memoryWf_spineFails (h : s.MemoryWf) (c : Nat) (g : Fin 4) : (s.spineFails c g).MemoryWf := by
  unfold State.spineFails
  grind -ring -linarith [memoryWf_modQuad, memoryWf_logEvent, memoryWf_modCore]

theorem memoryWf_meetSpine (h : s.MemoryWf) (who : Who) (ps : List Part) : (s.meetSpine who ps).MemoryWf := by
  unfold State.meetSpine
  refine List.foldlRecOn (motive := State.MemoryWf) _ _ h fun s hs g _ => ?_
  exact memoryWf_replaceGroup hs who 0 g

theorem memoryWf_meetParts (h : s.MemoryWf) (who : Who) (ps : List Part) : (s.meetParts who ps).MemoryWf := by
  unfold State.meetParts
  refine List.foldlRecOn (motive := State.MemoryWf) _ _ h fun s hs p _ => ?_
  exact memoryWf_meetBad hs who noGroup p.key p.width

theorem memoryWf_readSector (h : s.MemoryWf) (who : Who) (ps : List Part) : (s.readSector who ps).2.MemoryWf := by
  unfold State.readSector
  grind -ring -linarith [memoryWf_deadAccess, memoryWf_meetSpine, memoryWf_meetParts]

theorem memoryWf_readHome (h : s.MemoryWf) (who : Who) (p : Part) : (s.readHome who p).2.MemoryWf := by
  unfold State.readHome
  grind -ring -linarith [memoryWf_readSector]

theorem memoryWf_loadPieces (h : s.MemoryWf) (who : Who) (ps : List Part) : (s.loadPieces who ps).2.MemoryWf := by
  induction ps generalizing s with
  | nil => exact h
  | cons p r ih => grind -ring -linarith [State.loadPieces, memoryWf_touchTrack, memoryWf_readHome]

theorem memoryWf_homeLoad (h : s.MemoryWf) (who : Who) (key w : Nat) : (s.homeLoad who key w).2.MemoryWf := by
  unfold State.homeLoad
  grind -ring -linarith [memoryWf_loadPieces]

theorem memoryWf_keepAnswer (h : s.MemoryWf) (m : Msg) (a : Answer) : (s.keepAnswer m a).MemoryWf := by
  unfold State.keepAnswer
  grind -ring -linarith [State.MemoryWf]

theorem memoryWf_answer (h : s.MemoryWf) (m : Msg) : (s.answer m).MemoryWf := by
  unfold State.answer
  grind -ring -linarith [memoryWf_post, memoryWf_keepAnswer]

theorem memoryWf_wake (h : s.MemoryWf) (q word : Nat) : (s.wake q word).MemoryWf := by
  unfold State.wake
  have answered (l : List Msg) : (l.foldl State.answer s).MemoryWf :=
    List.foldlRecOn (motive := State.MemoryWf) _ _ h fun s hs m _ => memoryWf_answer hs m
  grind -ring -linarith [State.MemoryWf, memoryWf_modQuad, memoryWf_answer, memoryWf_empty]

theorem memoryWf_watchQueues (h : s.MemoryWf) (q word : Nat) : (s.watchQueues q word).MemoryWf := by
  simp only [State.watchQueues]
  split
  · exact h
  · refine List.foldlRecOn (motive := State.MemoryWf) _ _ ?_ fun s hs b _ => memoryWf_post hs _
    exact List.foldlRecOn (motive := State.MemoryWf) _ _ h fun s hs w _ => memoryWf_post hs _

theorem memoryWf_wakeWords (h : s.MemoryWf) (words : List Nat) : (s.wakeWords words).MemoryWf := by
  unfold State.wakeWords
  refine List.foldlRecOn (motive := State.MemoryWf) _ _ h fun s hs w _ => ?_
  have woken (l : List Nat) : (l.foldl (fun s q => s.wake q w) s).MemoryWf :=
    List.foldlRecOn (motive := State.MemoryWf) _ _ hs fun s hs q _ => memoryWf_wake hs q w
  grind -ring -linarith [memoryWf_wake, memoryWf_watchQueues]

theorem memoryWf_putBits (h : s.MemoryWf) (who : Who) (ws : List (Part × Nat)) : (s.putBits who ws).MemoryWf := by
  unfold State.putBits
  refine List.foldlRecOn (motive := State.MemoryWf) _ _ ?_ fun s hs e _ => memoryWf_setBitsAt hs _ _ _
  exact List.foldlRecOn (motive := State.MemoryWf) _ _ h fun s hs e _ => memoryWf_meetBad hs _ _ _ _

theorem memoryWf_wakeWritten (h : s.MemoryWf) (ws : List (Part × Nat)) : (s.wakeWritten ws).MemoryWf := by
  unfold State.wakeWritten
  grind -ring -linarith [memoryWf_wakeWords]

theorem memoryWf_writeHome (h : s.MemoryWf) (who : Who) (ws : List (Part × Nat)) : (s.writeHome who ws).MemoryWf := by
  unfold State.writeHome
  grind -ring -linarith [memoryWf_deadAccess, memoryWf_wakeWritten, memoryWf_meetSpine, memoryWf_putBits]

theorem memoryWf_storeSector (h : s.MemoryWf) (who : Who) (ws : List (Part × Nat)) : (s.storeSector who ws).MemoryWf := by
  unfold State.storeSector
  grind -ring -linarith [memoryWf_writeHome, memoryWf_touchTrack]

theorem memoryWf_homeStore (h : s.MemoryWf) (who : Who) (key w v : Nat) : (s.homeStore who key w v).MemoryWf := by
  unfold State.homeStore
  refine List.foldlRecOn (motive := State.MemoryWf) _ _ h fun s hs e _ => ?_
  exact memoryWf_storeSector hs who [e]

theorem memoryWf_loadParts (h : s.MemoryWf) (who : Who) (ps : List Part) : (s.loadParts who ps).2.MemoryWf := by
  induction ps generalizing s with
  | nil => exact h
  | cons p r ih => grind -ring -linarith [State.loadParts, memoryWf_homeLoad]

theorem memoryWf_storeParts (h : s.MemoryWf) (who : Who) (v : Nat) (ps : List Part) : (s.storeParts who v ps).MemoryWf := by
  induction ps generalizing s v with
  | nil => exact h
  | cons p r ih => grind -ring -linarith [State.storeParts, memoryWf_homeStore]

theorem memoryWf_storeStreamed (h : s.MemoryWf) (who : Who) (ws : List (Part × Nat)) : (s.storeStreamed who ws).MemoryWf :=
    by
  unfold State.storeStreamed
  exact List.foldlRecOn (motive := State.MemoryWf) _ _ h fun s hs e _ => memoryWf_storeSector hs who e.2

theorem memoryWf_readSectors (h : s.MemoryWf) (who : Who) (ps : List (Nat × List Part)) : (s.readSectors who ps).2.MemoryWf
    := by
  induction ps generalizing s with
  | nil => exact h
  | cons p r ih => exact ih (memoryWf_readSector (memoryWf_touchTrack h _ _ _) _ _)

theorem memoryWf_loadStreamed (h : s.MemoryWf) (who : Who) (es : List (List Part)) : (s.loadStreamed who es).2.MemoryWf :=
    by
  unfold State.loadStreamed
  grind -ring -linarith [memoryWf_readSectors]

theorem memoryWf_peerReply (h : s.MemoryWf) (m : Msg) (a : Answer) : (s.peerReply m a).MemoryWf := by
  unfold State.peerReply
  grind -ring -linarith [memoryWf_out]

theorem memoryWf_discardStore (h : s.MemoryWf) (who : Who) (addr : Word) (v : Nat) : (s.discardStore who addr v).MemoryWf :=
    by
  unfold State.discardStore
  grind -ring -linarith [memoryWf_logEvent]

theorem memoryWf_updateAt (h : s.MemoryWf) (who : Who) (addr : Word) (p : Part) (new : Nat → Option Nat) : (s.updateAt who
    addr p new).2.MemoryWf := by
  unfold State.updateAt
  grind -ring -linarith [memoryWf_touchTrack, memoryWf_readHome, memoryWf_discardStore, memoryWf_wakeWritten,
    memoryWf_putBits]

theorem memoryWf_atomicAt (h : s.MemoryWf) (m : Msg) (new : Nat → Option Nat) : (s.atomicAt m new).2.MemoryWf := by
  unfold State.atomicAt
  grind -ring -linarith [memoryWf_updateAt]

theorem memoryWf_operate (h : s.MemoryWf) (m : Msg) : (s.operate m).1.MemoryWf := by
  unfold State.operate
  grind -ring -linarith [memoryWf_loadParts, memoryWf_discardStore, memoryWf_storeParts, memoryWf_atomicAt, memoryWf_empty,
    memoryWf_fill]

theorem memoryWf_perform (h : s.MemoryWf) (m : Msg) (k : Nat) : (s.perform m k).1.MemoryWf := by
  unfold State.perform
  grind -ring -linarith [memoryWf_after, memoryWf_keepAnswer, memoryWf_operate, memoryWf_modQuad]

theorem memoryWf_traffic (h : s.MemoryWf) : s.traffic.MemoryWf := by
  unfold State.traffic
  grind -ring -linarith [memoryWf_modPart]

theorem memoryWf_noteTraffic (h : s.MemoryWf) (core : Nat) (home : Home) : (s.noteTraffic core home).MemoryWf := by
  unfold State.noteTraffic
  grind -ring -linarith [memoryWf_traffic]

theorem memoryWf_meetAt (h : s.MemoryWf) (who : Who) (a : Word) (w align : Nat) : (s.meetAt who a w align).MemoryWf := by
  unfold State.meetAt
  grind -ring -linarith [memoryWf_meetParts]

theorem memoryWf_readHw (h : s.MemoryWf) (core : Nat) (a : Word) (w align : Nat) {x} {t : State} (e : s.readHw core a w
    align = some (x, t)) : t.MemoryWf := by
  unfold State.readHw at e
  grind -ring -linarith [memoryWf_loadParts, memoryWf_noteTraffic]

theorem memoryWf_poke (h : s.MemoryWf) (core : Nat) (a : Word) (w align v : Nat) {t : State} (e : s.poke core a w align v =
    some t) : t.MemoryWf := by
  unfold State.poke at e
  grind -ring -linarith [memoryWf_noteTraffic, memoryWf_storeParts]

theorem memoryWf_getD_poke (h : s.MemoryWf) (core : Nat) (a : Word) (w align v : Nat) :
    ((s.poke core a w align v).getD s).MemoryWf := by
  cases e : s.poke core a w align v with
  | none => exact h
  | some t => exact memoryWf_poke h core a w align v e

theorem memoryWf_putWord (h : s.MemoryWf) (who : Who) (key v : Nat) : (s.putWord who key v).1.MemoryWf := by
  unfold State.putWord
  grind -ring -linarith [memoryWf_homeStore, memoryWf_fill]

theorem memoryWf_putAt (h : s.MemoryWf) (core : Nat) (a : Word) (v : Nat) {x} {t : State} (e : s.putAt core a v = some (t,
    x)) : t.MemoryWf := by
  unfold State.putAt at e
  grind -ring -linarith [memoryWf_putWord]

/-! ## What Records defines -/

theorem memoryWf_leafAdd (h : s.MemoryWf) (core : Nat) (sys : Bool) (a d : Word) {x} {t : State} (e : s.leafAdd core sys a d
    = .ok (t, x)) : t.MemoryWf := by
  unfold State.leafAdd at e
  grind -ring -linarith [memoryWf_updateAt]

theorem memoryWf_leafLost (h : s.MemoryWf) (core : Nat) (a : Word) (which : Nat) (c : Cause) : (s.leafLost core a which
    c).MemoryWf := by
  unfold State.leafLost
  grind -ring -linarith [memoryWf_logEvent]

theorem memoryWf_leafGate (h : s.MemoryWf) (core : Nat) (sys : Bool) (a : Word) : (s.leafGate core sys a).MemoryWf := by
  unfold State.leafGate
  grind -ring -linarith [memoryWf_leafLost, memoryWf_discardStore, memoryWf_putWord, memoryWf_logEvent]

theorem memoryWf_leafEnd (h : s.MemoryWf) (core : Nat) (r : BitVec 512) : (s.leafEnd core r).MemoryWf := by
  simp only [State.leafEnd]
  grind -ring -linarith [→ memoryWf_leafAdd, memoryWf_leafGate, memoryWf_leafLost]

theorem memoryWf_takeFrame (h : s.MemoryWf) (core : Nat) : (s.takeFrame core).1.MemoryWf := by
  unfold State.takeFrame
  grind -ring -linarith [memoryWf_logEvent, memoryWf_meetAt, memoryWf_poke, memoryWf_modCore]

theorem memoryWf_giveFrame (h : s.MemoryWf) (core : Nat) (frame : Word) : (s.giveFrame core frame).1.MemoryWf := by
  unfold State.giveFrame
  grind -ring -linarith [memoryWf_poke, memoryWf_modCore]

theorem memoryWf_endDrain (h : s.MemoryWf) (core : Nat) (sfp : Word) : (s.endDrain core sfp).MemoryWf := by
  unfold State.endDrain
  grind -ring -linarith [memoryWf_modCore]

theorem memoryWf_closeDrain (h : s.MemoryWf) (core : Nat) (e0 : Word × Bool) : (s.closeDrain core e0).MemoryWf := by
  unfold State.closeDrain
  split
  · exact memoryWf_modCore h core _
  · exact h

theorem memoryWf_meetParked (h : s.MemoryWf) (core : Nat) (r : Parked) : (s.meetParked core r).MemoryWf := by
  unfold State.meetParked
  grind -ring -linarith [memoryWf_meetAt]

theorem memoryWf_setParkedBits (h : s.MemoryWf) (core : Nat) (r : Parked) (b : BitVec 512) : (s.setParkedBits core r
    b).MemoryWf := by
  unfold State.setParkedBits
  grind -ring -linarith [memoryWf_getD_poke, memoryWf_homeStore]

theorem memoryWf_chain (h : s.MemoryWf) (core : Nat) (slots : List Nat) : (s.chain core slots).MemoryWf := by
  induction slots generalizing s with
  | nil => exact h
  | cons i r ih => exact ih (memoryWf_getD_poke h _ _ _ _ _)

theorem memoryWf_unchain (h : s.MemoryWf) (core slot : Nat) : (s.unchain core slot).MemoryWf := by
  unfold State.unchain
  grind -ring -linarith [memoryWf_modCore, memoryWf_chain]

theorem memoryWf_parkRecord (h : s.MemoryWf) (core : Nat) (b : BitVec 512) (r : Parked) {t : State} (e : s.parkRecord core b
    r = some t) : t.MemoryWf := by
  simp only [State.parkRecord] at e
  grind -ring -linarith [Option.map_eq_some_iff, memoryWf_setParkedBits, memoryWf_modCore, memoryWf_modQuad, memoryWf_poke,
    memoryWf_chain]

theorem memoryWf_refillPool (h : s.MemoryWf) (q i : Nat) : (s.refillPool q i).MemoryWf := by
  unfold State.refillPool
  grind -ring -linarith [memoryWf_modQuad, memoryWf_meetParked, memoryWf_modCore, memoryWf_setParkedBits, memoryWf_unchain]

theorem memoryWf_unpark (h : s.MemoryWf) (core : Nat) (r : Parked) : (s.unpark core r).MemoryWf := by
  unfold State.unpark
  grind -ring -linarith [memoryWf_modCore, memoryWf_refillPool, memoryWf_unchain]

theorem memoryWf_spillOldest (h : s.MemoryWf) (core : Nat) {t : State} (e : s.spillOldest core = some t) : t.MemoryWf := by
  simp only [State.spillOldest, Option.bind_eq_some_iff, Option.map_eq_some_iff] at e
  obtain ⟨i, -, u, hu, rfl⟩ := e
  exact memoryWf_modCore (memoryWf_poke h _ _ _ _ _ hu) core _

theorem memoryWf_dropRound (h : s.MemoryWf) (core : Nat) : (s.dropRound core).MemoryWf := by
  unfold State.dropRound
  grind -ring -linarith [State.MemoryWf]

theorem memoryWf_dequePush (h : s.MemoryWf) (core : Nat) (r : BitVec 512) {t : State} (e : s.dequePush core r = some t) :
    t.MemoryWf := by
  simp only [State.dequePush] at e
  grind -ring -linarith [Option.map_eq_some_iff, memoryWf_spillOldest, memoryWf_homeStore, memoryWf_modCore, memoryWf_dropRound,
    memoryWf_post]

theorem memoryWf_readSpilled (h : s.MemoryWf) (core : Nat) (a : Word) {x} {t : State} (e : s.readSpilled core a = some (x,
    t)) : t.MemoryWf := by
  simp only [State.readSpilled, Option.map_eq_some_iff, Prod.mk.injEq] at e
  obtain ⟨b, -, -, rfl⟩ := e
  exact memoryWf_meetAt h _ _ _ _

theorem memoryWf_oldestTask (h : s.MemoryWf) (core : Nat) {x} {t : State} (e : s.oldestTask core = some (x, t)) : t.MemoryWf
    := by
  unfold State.oldestTask at e
  grind -ring -linarith [memoryWf_readSpilled]

theorem memoryWf_dropOldest (h : s.MemoryWf) (core : Nat) : (s.dropOldest core).MemoryWf := by
  unfold State.dropOldest
  grind -ring -linarith [memoryWf_modCore]

theorem memoryWf_dequePop (h : s.MemoryWf) (core : Nat) {x} {t : State} (e : s.dequePop core = some (x, t)) : t.MemoryWf :=
    by
  simp only [State.dequePop] at e
  grind -ring -linarith [Option.map_eq_some_iff, memoryWf_readSpilled, memoryWf_oldestTask, memoryWf_dropOldest, memoryWf_modCore]

theorem memoryWf_writeRunList (h : s.MemoryWf) (core n : Nat) : (s.writeRunList core n).MemoryWf := by
  unfold State.writeRunList
  grind -ring -linarith [memoryWf_modQuad, memoryWf_modCore]

theorem memoryWf_writeDqstat (h : s.MemoryWf) (core : Nat) (v : Word) : (s.writeDqstat core v).MemoryWf := by
  unfold State.writeDqstat
  grind -ring -linarith [memoryWf_writeRunList, memoryWf_modCore]

theorem memoryWf_startTask (h : s.MemoryWf) (p : Place) (r : BitVec 512) : (s.startTask p r).1.MemoryWf := by
  unfold State.startTask
  grind -ring -linarith [memoryWf_takeFrame, memoryWf_bumpSeq, memoryWf_after, memoryWf_modBank]

theorem memoryWf_saveFrame (h : s.MemoryWf) (p : Place) (full : Bool) {t : State} (e : s.saveFrame p full = some t) :
    t.MemoryWf := by
  simp only [State.saveFrame, Option.bind_eq_some_iff] at e
  obtain ⟨u, hu, ht⟩ := e
  have low := memoryWf_poke h _ _ _ _ _ hu
  split at ht
  · refine List.foldlRecOn (motive := fun o : Option State => ∀ t, o = some t → t.MemoryWf) _ _ ?_ ?_ t ht
    · rintro _ ⟨⟩; exact low
    · intro o ho i _ t ht
      obtain ⟨v, hv, hp⟩ := Option.bind_eq_some_iff.1 ht
      exact memoryWf_poke (ho v hv) _ _ _ _ _ hp
  · cases ht; exact low

theorem memoryWf_seekBoundary (h : s.MemoryWf) (core : Nat) : (s.seekBoundary core).MemoryWf := by
  unfold State.seekBoundary
  grind -ring -linarith [memoryWf_post]

theorem memoryWf_save (h : s.MemoryWf) (p : Place) (full runnable : Bool) (status : Status) (outcome : BitVec 2) {t : State}
    (e : s.save p full runnable status outcome = some t) : t.MemoryWf := by
  simp only [State.save, Option.bind_eq_some_iff, Option.map_eq_some_iff] at e
  obtain ⟨u, hu, v, hv, rfl⟩ := e
  have parked := memoryWf_parkRecord (memoryWf_saveFrame h _ _ hu) _ _ _ hv
  grind -ring -linarith [memoryWf_modPart, memoryWf_modBank, memoryWf_modCluster, memoryWf_endDrain, memoryWf_switch, memoryWf_seekBoundary, memoryWf_post]

theorem memoryWf_doubleFault (h : s.MemoryWf) (p : Place) : (s.doubleFault p).MemoryWf := by
  unfold State.doubleFault
  grind -ring -linarith [memoryWf_switch, memoryWf_push, memoryWf_setStatus]

theorem memoryWf_park (h : s.MemoryWf) (p : Place) (full runnable : Bool) (status : Status) : (s.park p full runnable
    status).MemoryWf := by
  unfold State.park
  grind -ring -linarith [memoryWf_save, memoryWf_saveFrame, memoryWf_doubleFault, memoryWf_after, memoryWf_setStatus]

theorem memoryWf_endSubs (h : s.MemoryWf) (q : Nat) (sfp : Word) : (s.endSubs q sfp).MemoryWf := by
  unfold State.endSubs
  exact List.foldlRecOn (motive := State.MemoryWf) _ _ (memoryWf_modQuad h q _) fun s hs m _ => memoryWf_post hs _

theorem memoryWf_endAllSubs (h : s.MemoryWf) (sfp : Word) : (s.endAllSubs sfp).MemoryWf := by
  unfold State.endAllSubs
  refine List.foldlRecOn (motive := State.MemoryWf) _ _ h fun s hs q _ => ?_
  exact memoryWf_endSubs hs q sfp

theorem memoryWf_endStrand (h : s.MemoryWf) (p : Place) : (s.endStrand p).1.MemoryWf := by
  unfold State.endStrand
  grind -ring -linarith [memoryWf_endAllSubs, memoryWf_modQuad, memoryWf_modStrand, memoryWf_endDrain, memoryWf_modCore,
    memoryWf_leafEnd, memoryWf_giveFrame, memoryWf_modBank, memoryWf_doubleFault]

theorem memoryWf_loadRecord (h : s.MemoryWf) (p : Place) (b : BitVec 512) {t : State} (e : s.loadRecord p b = some t) :
    t.MemoryWf := by
  simp only [State.loadRecord] at e
  have met := memoryWf_meetAt h (.hardware p.core) (b.extractLsb' 64 64) 1024 512
  split at e
  · cases e
  · obtain ⟨⟨st, u⟩, hu, rfl⟩ := Option.map_eq_some_iff.1 e
    suffices u.MemoryWf from memoryWf_after (memoryWf_modBank (memoryWf_modPart this _) _ _) _ _
    split at hu
    · obtain ⟨⟨n, v⟩, hv, hr⟩ := Option.map_eq_some_iff.1 hu
      cases hr
      refine List.foldlRecOn (motive := fun o : Option (Nat × State) => ∀ x, o = some x → x.2.MemoryWf) _ _ ?_ ?_ _ hv
      · rintro _ ⟨⟩; exact met
      · intro o ho i _ x hx
        obtain ⟨y, hy, hm⟩ := Option.bind_eq_some_iff.1 hx
        obtain ⟨z, -, rfl⟩ := Option.map_eq_some_iff.1 hm
        exact memoryWf_meetAt (ho y hy) _ _ _ _
    · cases hu; exact met

end Sys2Proof.Machine
end

section
/-! Memory stays in canonical form (O60): operands, the scalar instructions, power, registers, atomics, fault queues and the engine. -/

namespace Sys2Proof.Machine

set_option Elab.async false

variable {s : State}

/-! ## What Operands defines -/

theorem memoryWf_pageFaultAs (h : s.MemoryWf) (p : Place) (acc : Access) (va tval : Word) : (s.pageFaultAs p acc va
    tval).MemoryWf := by
  unfold State.pageFaultAs
  grind -ring -linarith [memoryWf_trapAt, memoryWf_switch, memoryWf_after, memoryWf_push, memoryWf_setStatus]

theorem memoryWf_pageFault (h : s.MemoryWf) (p : Place) (acc : Access) (va : Word) : (s.pageFault p acc va).MemoryWf := by
  unfold State.pageFault
  grind -ring -linarith [memoryWf_pageFaultAs]

theorem memoryWf_badAccess (h : s.MemoryWf) (acc : Access) (f : Found) : (s.badAccess acc f).MemoryWf := by
  unfold State.badAccess
  grind -ring -linarith [memoryWf_trapAt, memoryWf_pageFault]

theorem memoryWf_badAccessAs (h : s.MemoryWf) (acc : Access) (f : Found) (tval : Word) : (s.badAccessAs acc f tval).MemoryWf
    := by
  unfold State.badAccessAs
  grind -ring -linarith [memoryWf_trapAt, memoryWf_pageFaultAs]

theorem memoryWf_finish (h : s.MemoryWf) (m : Msg) (ans : Answer) : (s.finish m ans).MemoryWf := by
  unfold State.finish
  grind -ring -linarith [memoryWf_trapAt, memoryWf_setStatus, memoryWf_modBank, memoryWf_closeDrain, memoryWf_post]

theorem memoryWf_acknowledge (h : s.MemoryWf) (m : Msg) : (s.acknowledge m).MemoryWf := by
  unfold State.acknowledge
  grind -ring -linarith [memoryWf_post]

theorem memoryWf_beginWait (h : s.MemoryWf) (p : Place) : (s.beginWait p).MemoryWf := by
  unfold State.beginWait
  grind -ring -linarith [memoryWf_seekBoundary, memoryWf_after, memoryWf_post]

theorem memoryWf_measure (h : s.MemoryWf) (p : Place) (home : Home) : (s.measure p home).MemoryWf := by
  unfold State.measure
  grind -ring -linarith [memoryWf_latency, memoryWf_noteTraffic, memoryWf_modStrand]

theorem memoryWf_armResend (h : s.MemoryWf) (m : Msg) : (s.armResend m).MemoryWf := by
  unfold State.armResend
  grind -ring -linarith [memoryWf_after]

theorem memoryWf_readOwn (h : s.MemoryWf) (a : Word) (ps : List Part) (home : Home) : (s.readOwn a ps home).2.MemoryWf := by
  unfold State.readOwn
  grind -ring -linarith [memoryWf_measure, memoryWf_post, memoryWf_loadParts]

theorem memoryWf_send (h : s.MemoryWf) (m : Msg) (home : Home) (kind : WaitKind) : (s.send m home kind).MemoryWf := by
  unfold State.send
  grind -ring -linarith [memoryWf_armResend, memoryWf_setStatus, memoryWf_switch, memoryWf_beginWait, memoryWf_perform,
    memoryWf_finish, memoryWf_acknowledge, memoryWf_post, memoryWf_measure, memoryWf_advance]

theorem memoryWf_request (h : s.MemoryWf) (op : MemOp) (parts : List Part) (home : Home) (a data expect : Word) (rd rt :
    Reg) (kind : WaitKind) : (s.request op parts home a data expect rd rt kind).MemoryWf := by
  unfold State.request
  grind -ring -linarith [memoryWf_bumpSeq, memoryWf_send]

theorem memoryWf_access (h : s.MemoryWf) (op : MemOp) (w : Width) (a data expect : Word) (rd rt : Reg) (kind : WaitKind) :
    (s.access op w a data expect rd rt kind).MemoryWf := by
  unfold State.access
  grind -ring -linarith [memoryWf_trap, memoryWf_request, memoryWf_noteAccess, memoryWf_badAccess]

/-! ## What Integer defines -/

theorem memoryWf_branch (h : s.MemoryWf) (taken : Bool) (imm : BitVec 12) : (s.branch taken imm).MemoryWf := by
  unfold State.branch
  grind -ring -linarith [memoryWf_setPc, memoryWf_trap, memoryWf_advance]

theorem memoryWf_jump (h : s.MemoryWf) (rd : Reg) (tr : Word) : (s.jump rd tr).MemoryWf := by
  unfold State.jump
  grind -ring -linarith [memoryWf_setPc, memoryWf_setReg, memoryWf_trap]

theorem canonical_execAddi (h : s.MemoryWf) (rd rs1 : Reg) (imm : BitVec 12) : Canonical (execAddi rd rs1 imm s) := by
  unfold execAddi
  grind -ring -linarith [memoryWf_complete, canonical_next]

theorem canonical_execSlti (h : s.MemoryWf) (rd rs1 : Reg) (imm : BitVec 12) : Canonical (execSlti rd rs1 imm s) := by
  unfold execSlti
  grind -ring -linarith [memoryWf_complete, canonical_next]

theorem canonical_execSltiu (h : s.MemoryWf) (rd rs1 : Reg) (imm : BitVec 12) : Canonical (execSltiu rd rs1 imm s) := by
  unfold execSltiu
  grind -ring -linarith [memoryWf_complete, canonical_next]

theorem canonical_execXori (h : s.MemoryWf) (rd rs1 : Reg) (imm : BitVec 12) : Canonical (execXori rd rs1 imm s) := by
  unfold execXori
  grind -ring -linarith [memoryWf_complete, canonical_next]

theorem canonical_execOri (h : s.MemoryWf) (rd rs1 : Reg) (imm : BitVec 12) : Canonical (execOri rd rs1 imm s) := by
  unfold execOri
  grind -ring -linarith [memoryWf_complete, canonical_next]

theorem canonical_execAndi (h : s.MemoryWf) (rd rs1 : Reg) (imm : BitVec 12) : Canonical (execAndi rd rs1 imm s) := by
  unfold execAndi
  grind -ring -linarith [memoryWf_complete, canonical_next]

theorem canonical_execSlli (h : s.MemoryWf) (rd rs1 : Reg) (sh : BitVec 6) : Canonical (execSlli rd rs1 sh s) := by
  unfold execSlli
  grind -ring -linarith [memoryWf_complete, canonical_next]

theorem canonical_execSrli (h : s.MemoryWf) (rd rs1 : Reg) (sh : BitVec 6) : Canonical (execSrli rd rs1 sh s) := by
  unfold execSrli
  grind -ring -linarith [memoryWf_complete, canonical_next]

theorem canonical_execSrai (h : s.MemoryWf) (rd rs1 : Reg) (sh : BitVec 6) : Canonical (execSrai rd rs1 sh s) := by
  unfold execSrai
  grind -ring -linarith [memoryWf_complete, canonical_next]

theorem canonical_execAdd (h : s.MemoryWf) (rd rs1 rs2 : Reg) : Canonical (execAdd rd rs1 rs2 s) := by
  unfold execAdd
  grind -ring -linarith [memoryWf_complete, canonical_next]

theorem canonical_execSub (h : s.MemoryWf) (rd rs1 rs2 : Reg) : Canonical (execSub rd rs1 rs2 s) := by
  unfold execSub
  grind -ring -linarith [memoryWf_complete, canonical_next]

theorem canonical_execMul (h : s.MemoryWf) (rd rs1 rs2 : Reg) : Canonical (execMul rd rs1 rs2 s) := by
  unfold execMul
  grind -ring -linarith [memoryWf_complete, canonical_next]

theorem canonical_execSll (h : s.MemoryWf) (rd rs1 rs2 : Reg) : Canonical (execSll rd rs1 rs2 s) := by
  unfold execSll
  grind -ring -linarith [memoryWf_complete, canonical_next]

theorem canonical_execMulh (h : s.MemoryWf) (rd rs1 rs2 : Reg) : Canonical (execMulh rd rs1 rs2 s) := by
  unfold execMulh
  grind -ring -linarith [memoryWf_complete, canonical_next]

theorem canonical_execSlt (h : s.MemoryWf) (rd rs1 rs2 : Reg) : Canonical (execSlt rd rs1 rs2 s) := by
  unfold execSlt
  grind -ring -linarith [memoryWf_complete, canonical_next]

theorem canonical_execMulhsu (h : s.MemoryWf) (rd rs1 rs2 : Reg) : Canonical (execMulhsu rd rs1 rs2 s) := by
  unfold execMulhsu
  grind -ring -linarith [memoryWf_complete, canonical_next]

theorem canonical_execSltu (h : s.MemoryWf) (rd rs1 rs2 : Reg) : Canonical (execSltu rd rs1 rs2 s) := by
  unfold execSltu
  grind -ring -linarith [memoryWf_complete, canonical_next]

theorem canonical_execMulhu (h : s.MemoryWf) (rd rs1 rs2 : Reg) : Canonical (execMulhu rd rs1 rs2 s) := by
  unfold execMulhu
  grind -ring -linarith [memoryWf_complete, canonical_next]

theorem canonical_execXor (h : s.MemoryWf) (rd rs1 rs2 : Reg) : Canonical (execXor rd rs1 rs2 s) := by
  unfold execXor
  grind -ring -linarith [memoryWf_complete, canonical_next]

theorem canonical_execDiv (h : s.MemoryWf) (rd rs1 rs2 : Reg) : Canonical (execDiv rd rs1 rs2 s) := by
  unfold execDiv
  grind -ring -linarith [memoryWf_complete, canonical_next]

theorem canonical_execSrl (h : s.MemoryWf) (rd rs1 rs2 : Reg) : Canonical (execSrl rd rs1 rs2 s) := by
  unfold execSrl
  grind -ring -linarith [memoryWf_complete, canonical_next]

theorem canonical_execSra (h : s.MemoryWf) (rd rs1 rs2 : Reg) : Canonical (execSra rd rs1 rs2 s) := by
  unfold execSra
  grind -ring -linarith [memoryWf_complete, canonical_next]

theorem canonical_execDivu (h : s.MemoryWf) (rd rs1 rs2 : Reg) : Canonical (execDivu rd rs1 rs2 s) := by
  unfold execDivu
  grind -ring -linarith [memoryWf_complete, canonical_next]

theorem canonical_execOr (h : s.MemoryWf) (rd rs1 rs2 : Reg) : Canonical (execOr rd rs1 rs2 s) := by
  unfold execOr
  grind -ring -linarith [memoryWf_complete, canonical_next]

theorem canonical_execRem (h : s.MemoryWf) (rd rs1 rs2 : Reg) : Canonical (execRem rd rs1 rs2 s) := by
  unfold execRem
  grind -ring -linarith [memoryWf_complete, canonical_next]

theorem canonical_execAnd (h : s.MemoryWf) (rd rs1 rs2 : Reg) : Canonical (execAnd rd rs1 rs2 s) := by
  unfold execAnd
  grind -ring -linarith [memoryWf_complete, canonical_next]

theorem canonical_execRemu (h : s.MemoryWf) (rd rs1 rs2 : Reg) : Canonical (execRemu rd rs1 rs2 s) := by
  unfold execRemu
  grind -ring -linarith [memoryWf_complete, canonical_next]

theorem canonical_execAddw (h : s.MemoryWf) (rd rs1 rs2 : Reg) : Canonical (execAddw rd rs1 rs2 s) := by
  unfold execAddw
  grind -ring -linarith [memoryWf_complete, canonical_next]

theorem canonical_execSubw (h : s.MemoryWf) (rd rs1 rs2 : Reg) : Canonical (execSubw rd rs1 rs2 s) := by
  unfold execSubw
  grind -ring -linarith [memoryWf_complete, canonical_next]

theorem canonical_execMulw (h : s.MemoryWf) (rd rs1 rs2 : Reg) : Canonical (execMulw rd rs1 rs2 s) := by
  unfold execMulw
  grind -ring -linarith [memoryWf_complete, canonical_next]

theorem canonical_execSllw (h : s.MemoryWf) (rd rs1 rs2 : Reg) : Canonical (execSllw rd rs1 rs2 s) := by
  unfold execSllw
  grind -ring -linarith [memoryWf_complete, canonical_next]

theorem canonical_execDivw (h : s.MemoryWf) (rd rs1 rs2 : Reg) : Canonical (execDivw rd rs1 rs2 s) := by
  unfold execDivw
  grind -ring -linarith [memoryWf_complete, canonical_next]

theorem canonical_execSrlw (h : s.MemoryWf) (rd rs1 rs2 : Reg) : Canonical (execSrlw rd rs1 rs2 s) := by
  unfold execSrlw
  grind -ring -linarith [memoryWf_complete, canonical_next]

theorem canonical_execSraw (h : s.MemoryWf) (rd rs1 rs2 : Reg) : Canonical (execSraw rd rs1 rs2 s) := by
  unfold execSraw
  grind -ring -linarith [memoryWf_complete, canonical_next]

theorem canonical_execDivuw (h : s.MemoryWf) (rd rs1 rs2 : Reg) : Canonical (execDivuw rd rs1 rs2 s) := by
  unfold execDivuw
  grind -ring -linarith [memoryWf_complete, canonical_next]

theorem canonical_execRemw (h : s.MemoryWf) (rd rs1 rs2 : Reg) : Canonical (execRemw rd rs1 rs2 s) := by
  unfold execRemw
  grind -ring -linarith [memoryWf_complete, canonical_next]

theorem canonical_execRemuw (h : s.MemoryWf) (rd rs1 rs2 : Reg) : Canonical (execRemuw rd rs1 rs2 s) := by
  unfold execRemuw
  grind -ring -linarith [memoryWf_complete, canonical_next]

theorem canonical_execAddiw (h : s.MemoryWf) (rd rs1 : Reg) (imm : BitVec 12) : Canonical (execAddiw rd rs1 imm s) := by
  unfold execAddiw
  grind -ring -linarith [memoryWf_complete, canonical_next]

theorem canonical_execSlliw (h : s.MemoryWf) (rd rs1 : Reg) (sh : BitVec 5) : Canonical (execSlliw rd rs1 sh s) := by
  unfold execSlliw
  grind -ring -linarith [memoryWf_complete, canonical_next]

theorem canonical_execSrliw (h : s.MemoryWf) (rd rs1 : Reg) (sh : BitVec 5) : Canonical (execSrliw rd rs1 sh s) := by
  unfold execSrliw
  grind -ring -linarith [memoryWf_complete, canonical_next]

theorem canonical_execSraiw (h : s.MemoryWf) (rd rs1 : Reg) (sh : BitVec 5) : Canonical (execSraiw rd rs1 sh s) := by
  unfold execSraiw
  grind -ring -linarith [memoryWf_complete, canonical_next]

theorem canonical_execLui (h : s.MemoryWf) (rd : Reg) (imm : BitVec 20) : Canonical (execLui rd imm s) := by
  unfold execLui
  grind -ring -linarith [memoryWf_complete, canonical_next]

theorem canonical_execAuipc (h : s.MemoryWf) (rd : Reg) (imm : BitVec 20) : Canonical (execAuipc rd imm s) := by
  unfold execAuipc
  grind -ring -linarith [memoryWf_complete, canonical_next]

theorem canonical_execBeq (h : s.MemoryWf) (rs1 rs2 : Reg) (imm : BitVec 12) : Canonical (execBeq rs1 rs2 imm s) := by
  unfold execBeq
  grind -ring -linarith [memoryWf_branch, canonical_next]

theorem canonical_execBne (h : s.MemoryWf) (rs1 rs2 : Reg) (imm : BitVec 12) : Canonical (execBne rs1 rs2 imm s) := by
  unfold execBne
  grind -ring -linarith [memoryWf_branch, canonical_next]

theorem canonical_execBlt (h : s.MemoryWf) (rs1 rs2 : Reg) (imm : BitVec 12) : Canonical (execBlt rs1 rs2 imm s) := by
  unfold execBlt
  grind -ring -linarith [memoryWf_branch, canonical_next]

theorem canonical_execBge (h : s.MemoryWf) (rs1 rs2 : Reg) (imm : BitVec 12) : Canonical (execBge rs1 rs2 imm s) := by
  unfold execBge
  grind -ring -linarith [memoryWf_branch, canonical_next]

theorem canonical_execBltu (h : s.MemoryWf) (rs1 rs2 : Reg) (imm : BitVec 12) : Canonical (execBltu rs1 rs2 imm s) := by
  unfold execBltu
  grind -ring -linarith [memoryWf_branch, canonical_next]

theorem canonical_execBgeu (h : s.MemoryWf) (rs1 rs2 : Reg) (imm : BitVec 12) : Canonical (execBgeu rs1 rs2 imm s) := by
  unfold execBgeu
  grind -ring -linarith [memoryWf_branch, canonical_next]

theorem canonical_execJal (h : s.MemoryWf) (rd : Reg) (imm : BitVec 20) : Canonical (execJal rd imm s) := by
  unfold execJal
  grind -ring -linarith [memoryWf_jump, canonical_next]

theorem canonical_execJalr (h : s.MemoryWf) (rd rs1 : Reg) (imm : BitVec 12) : Canonical (execJalr rd rs1 imm s) := by
  unfold execJalr
  grind -ring -linarith [memoryWf_jump, canonical_next]

/-! ## What Power defines -/

theorem memoryWf_movePoint (h : s.MemoryWf) (q : Nat) : (s.movePoint q).MemoryWf := by
  unfold State.movePoint
  grind -ring -linarith [memoryWf_modQuad, memoryWf_after]

theorem canonical_execOppVoltageSettled (h : s.MemoryWf) (quad : Nat) : Canonical (execOppVoltageSettled quad s) := by
  unfold execOppVoltageSettled
  grind -ring -linarith [memoryWf_modQuad, canonical_next]

theorem memoryWf_oldNotice (h : s.MemoryWf) (core key : Nat) : (s.oldNotice core key).2.MemoryWf := by
  unfold State.oldNotice
  grind -ring -linarith [memoryWf_homeLoad]

theorem memoryWf_notice (h : s.MemoryWf) (core q : Nat) (flags : BitVec 6) (a : Word) : (s.notice core q flags a).MemoryWf
    := by
  unfold State.notice
  grind -ring -linarith [memoryWf_oldNotice, memoryWf_homeStore, memoryWf_fill]

theorem memoryWf_noticeAll (h : s.MemoryWf) (q : Nat) (mig : Bool) : (s.noticeAll q mig).MemoryWf := by
  refine List.foldlRecOn (motive := State.MemoryWf) _ _ h fun s hs i _ => List.foldlRecOn (motive := State.MemoryWf) _ _ hs fun s hs b _ => ?_
  dsimp only
  split
  · exact memoryWf_notice hs _ _ _ _
  · exact hs

theorem memoryWf_power (h : s.MemoryWf) (q : Nat) (mig : Bool) (f : Quad → Quad) : (s.power q mig f).MemoryWf := by
  unfold State.power
  grind -ring -linarith [memoryWf_modQuad, memoryWf_movePoint, memoryWf_noticeAll]

theorem canonical_execOpreqWrite (h : s.MemoryWf) (core : Nat) (v : Word) : Canonical (execOpreqWrite core v s) := by
  unfold execOpreqWrite
  grind -ring -linarith [memoryWf_movePoint, memoryWf_modCore, canonical_next]

theorem memoryWf_capQuad (h : s.MemoryWf) (fsafe : Bool) (q share : Nat) : (s.capQuad fsafe q share).MemoryWf := by
  unfold State.capQuad
  grind -ring -linarith [memoryWf_power, memoryWf_freeWord]

theorem memoryWf_divideAmong (h : s.MemoryWf) (active : List Nat) (r budget : Nat) (fsafe : Bool) : (s.divideAmong active r
    budget fsafe).MemoryWf := by
  refine List.foldlRecOn (motive := State.MemoryWf) _ _ h fun s hs q _ => ?_
  split
  · exact memoryWf_capQuad hs _ _ _
  · exact memoryWf_power hs _ _ _

theorem memoryWf_divide (h : s.MemoryWf) (r budget : Nat) (fsafe : Bool) : (s.divide r budget fsafe).MemoryWf := by
  unfold State.divide
  grind -ring -linarith [memoryWf_divideAmong]

theorem canonical_execPackageGrant (h : s.MemoryWf) (watts : List Nat) : Canonical (execPackageGrant watts s) := by
  refine canonical_next ?_
  split
  · exact h
  · exact List.foldlRecOn (motive := State.MemoryWf) _ _ h fun s hs r _ => memoryWf_after (memoryWf_divide (memoryWf_modRegion hs _ _) _ _ _) _ _

theorem canonical_execFailsafeBudget (h : s.MemoryWf) (region : Nat) : Canonical (execFailsafeBudget region s) := by
  unfold execFailsafeBudget
  grind -ring -linarith [memoryWf_divide, memoryWf_modRegion, canonical_next]

theorem memoryWf_holdStart (h : s.MemoryWf) (q start : Nat) : (s.holdStart q start).MemoryWf := by
  unfold State.holdStart
  grind -ring -linarith [memoryWf_modRegion, memoryWf_modQuad]

theorem memoryWf_beginStart (h : s.MemoryWf) (q : Nat) : (s.beginStart q).MemoryWf := by
  unfold State.beginStart
  grind -ring -linarith [memoryWf_holdStart, memoryWf_post]

theorem memoryWf_holdMembers (h : s.MemoryWf) (members : List Nat) : (s.holdMembers members).MemoryWf := by
  simp only [State.holdMembers]
  have held : (members.foldl (fun s c => s.holdStart (quadOf c) (s.now + 240 * s.quadRegion (quadOf c))) s).MemoryWf :=
    List.foldlRecOn (motive := State.MemoryWf) _ _ h fun s hs c _ => memoryWf_holdStart hs _ _
  split
  · exact h
  · refine List.foldlRecOn (motive := State.MemoryWf) _ _ held fun s hs r _ => ?_
    grind -ring -linarith [memoryWf_after]

theorem memoryWf_wakeQuad (h : s.MemoryWf) (q : Nat) : (s.wakeQuad q).MemoryWf := by
  unfold State.wakeQuad
  grind -ring -linarith [memoryWf_modQuad, memoryWf_after]

theorem memoryWf_sensorFailed (h : s.MemoryWf) (q which : Nat) (check : Option Nat) : (s.sensorFailed q which
    check).MemoryWf := by
  unfold State.sensorFailed
  grind -ring -linarith [memoryWf_modDie, memoryWf_logEvent, memoryWf_zholosEvent]

/-! ## What Registers defines -/

theorem memoryWf_adopt (h : s.MemoryWf) (ch : Nat) : (s.adopt ch).MemoryWf := by
  unfold State.adopt
  grind -ring -linarith [memoryWf_modPart, State.MemoryWf]

theorem memoryWf_adoptIdle (h : s.MemoryWf) : s.adoptIdle.MemoryWf := by
  unfold State.adoptIdle
  have adopted : ((List.range 16).foldl (fun s ch => if s.arrived ch then s else s.adopt ch) s).MemoryWf :=
    List.foldlRecOn (motive := State.MemoryWf) _ _ h fun s hs ch _ => by grind -ring -linarith [memoryWf_adopt]
  grind -ring -linarith [memoryWf_modPart]

theorem memoryWf_refill (h : s.MemoryWf) (cs : List Nat) : (s.refill cs).MemoryWf := by
  unfold State.refill
  refine List.foldlRecOn (motive := State.MemoryWf) _ _ h fun s hs c _ => ?_
  exact memoryWf_post hs _

theorem memoryWf_writeBmask (h : s.MemoryWf) (c : Nat) (v : Word) : (s.writeBmask c v).MemoryWf := by
  unfold State.writeBmask
  grind -ring -linarith [memoryWf_adoptIdle, memoryWf_modCore]

theorem memoryWf_writeCore (h : s.MemoryWf) (at_ : RegCore) (off : Nat) (a v : Word) : (s.writeCore at_ off a v).MemoryWf :=
    by
  unfold State.writeCore
  grind -ring -linarith [memoryWf_modCore, memoryWf_writeBmask, memoryWf_writeDqstat, memoryWf_logEvent]

theorem memoryWf_writeQuad (h : s.MemoryWf) (q off : Nat) (v : Word) : (s.writeQuad q off v).MemoryWf := by
  unfold State.writeQuad
  grind -ring -linarith [memoryWf_modQuad, memoryWf_refill]

theorem memoryWf_writeCluster (h : s.MemoryWf) (cl off : Nat) (v : Word) : (s.writeCluster cl off v).MemoryWf := by
  unfold State.writeCluster
  grind -ring -linarith [memoryWf_modCluster]

theorem memoryWf_writeDie (h : s.MemoryWf) (d off : Nat) (v : Word) : (s.writeDie d off v).MemoryWf := by
  unfold State.writeDie
  grind -ring -linarith [memoryWf_modRegion, memoryWf_modDie]

theorem memoryWf_writePart (h : s.MemoryWf) (off : Nat) (v : Word) : (s.writePart off v).MemoryWf := by
  unfold State.writePart
  grind -ring -linarith [memoryWf_modPart, memoryWf_refill, memoryWf_adoptIdle]

theorem canonical_execRegisterWrite (h : s.MemoryWf) (core : RegCore) (block : BitVec 4) (off : BitVec 37) (v : Word) :
    Canonical (execRegisterWrite core block off v s) := by
  unfold execRegisterWrite
  grind -ring -linarith [memoryWf_writeCore, memoryWf_writeQuad, memoryWf_writeCluster, memoryWf_writeDie,
    memoryWf_writePart, canonical_next]

theorem canonical_execFpheadWrite (h : s.MemoryWf) (core : RegCore) (addr v : Word) : Canonical (execFpheadWrite core addr v
    s) := by
  unfold execFpheadWrite
  grind -ring -linarith [memoryWf_post, memoryWf_modCore, memoryWf_logEvent, canonical_next]

theorem canonical_execPgasnWrite (h : s.MemoryWf) (at_ : RegCore) (hi : Bool) (addr v : Word) : Canonical (execPgasnWrite
    at_ hi addr v s) := by
  unfold execPgasnWrite
  grind -ring -linarith [memoryWf_modCore, memoryWf_modDie, memoryWf_logEvent, canonical_next]

theorem canonical_execToccWrite (h : s.MemoryWf) (core : Nat) (hi : Bool) (v : Word) : Canonical (execToccWrite core hi v s)
    := by
  unfold execToccWrite
  grind -ring -linarith [memoryWf_modCore, canonical_next]

theorem canonical_execFqbaseWrite (h : s.MemoryWf) (cluster : Nat) (v : Word) : Canonical (execFqbaseWrite cluster v s) :=
    by
  unfold execFqbaseWrite
  grind -ring -linarith [memoryWf_modCluster, canonical_next]

theorem canonical_execLwcfgWrite (h : s.MemoryWf) (v : Word) : Canonical (execLwcfgWrite v s) := by
  unfold execLwcfgWrite
  grind -ring -linarith [memoryWf_modPart, canonical_next]

theorem canonical_execMsixtrigWrite (h : s.MemoryWf) (v : Word) : Canonical (execMsixtrigWrite v s) := by
  unfold execMsixtrigWrite
  grind -ring -linarith [memoryWf_modPart, memoryWf_toHost, canonical_next]

theorem canonical_execAtomodeWrite (h : s.MemoryWf) (v : Word) : Canonical (execAtomodeWrite v s) := by
  unfold execAtomodeWrite
  grind -ring -linarith [memoryWf_modPart, canonical_next]

theorem canonical_execAtomodeSwitch (h : s.MemoryWf) : Canonical (execAtomodeSwitch s) := by
  unfold execAtomodeSwitch
  grind -ring -linarith [memoryWf_modPart, canonical_next]

/-! ## What MemoryOps defines -/

theorem memoryWf_load (h : s.MemoryWf) (signed : Bool) (w : Width) (rd : Reg) (a : Word) : (s.load signed w rd a).MemoryWf
    := by
  unfold State.load
  grind -ring -linarith [memoryWf_complete, memoryWf_request, memoryWf_badAccess, memoryWf_access]

theorem memoryWf_store (h : s.MemoryWf) (w : Width) (a v : Word) : (s.store w a v).MemoryWf := by
  unfold State.store
  grind -ring -linarith [memoryWf_advance, memoryWf_post, memoryWf_request, memoryWf_badAccess, memoryWf_access]

theorem canonical_execLd (h : s.MemoryWf) (w : Width) (rd rs1 : Reg) (imm : BitVec 12) : Canonical (execLd w rd rs1 imm s)
    := by
  unfold execLd
  grind -ring -linarith [memoryWf_load, canonical_next]

theorem canonical_execLds (h : s.MemoryWf) (w : Width) (rd rs1 : Reg) (imm : BitVec 12) : Canonical (execLds w rd rs1 imm s)
    := by
  unfold execLds
  grind -ring -linarith [memoryWf_load, canonical_next]

theorem canonical_execSt (h : s.MemoryWf) (w : Width) (rs2 rs1 : Reg) (imm : BitVec 12) : Canonical (execSt w rs2 rs1 imm s)
    := by
  unfold execSt
  grind -ring -linarith [memoryWf_store, canonical_next]

theorem canonical_execLdx (h : s.MemoryWf) (w : Width) (rd rs1 rs2 : Reg) : Canonical (execLdx w rd rs1 rs2 s) := by
  unfold execLdx
  grind -ring -linarith [memoryWf_load, canonical_next]

theorem canonical_execLdxs (h : s.MemoryWf) (w : Width) (rd rs1 rs2 : Reg) : Canonical (execLdxs w rd rs1 rs2 s) := by
  unfold execLdxs
  grind -ring -linarith [memoryWf_load, canonical_next]

theorem canonical_execStx (h : s.MemoryWf) (w : Width) (rd rs1 rs2 : Reg) : Canonical (execStx w rd rs1 rs2 s) := by
  unfold execStx
  grind -ring -linarith [memoryWf_store, canonical_next]

/-! ## What Atomics defines -/

theorem memoryWf_amo (h : s.MemoryWf) (op : MemOp) (w : Width) (rd rs2 rs1 : Reg) : (s.amo op w rd rs2 rs1).MemoryWf := by
  unfold State.amo
  grind -ring -linarith [memoryWf_access]

theorem canonical_execAmoAdd (h : s.MemoryWf) (x0 : Order) (w : Width) (rd rs2 rs1 : Reg) : Canonical (execAmoAdd x0 w rd
    rs2 rs1 s) := by
  unfold execAmoAdd
  grind -ring -linarith [memoryWf_amo, canonical_next]

theorem canonical_execAmoAnd (h : s.MemoryWf) (x0 : Order) (w : Width) (rd rs2 rs1 : Reg) : Canonical (execAmoAnd x0 w rd
    rs2 rs1 s) := by
  unfold execAmoAnd
  grind -ring -linarith [memoryWf_amo, canonical_next]

theorem canonical_execAmoOr (h : s.MemoryWf) (x0 : Order) (w : Width) (rd rs2 rs1 : Reg) : Canonical (execAmoOr x0 w rd rs2
    rs1 s) := by
  unfold execAmoOr
  grind -ring -linarith [memoryWf_amo, canonical_next]

theorem canonical_execAmoXor (h : s.MemoryWf) (x0 : Order) (w : Width) (rd rs2 rs1 : Reg) : Canonical (execAmoXor x0 w rd
    rs2 rs1 s) := by
  unfold execAmoXor
  grind -ring -linarith [memoryWf_amo, canonical_next]

theorem canonical_execAmoMin (h : s.MemoryWf) (x0 : Order) (w : Width) (rd rs2 rs1 : Reg) : Canonical (execAmoMin x0 w rd
    rs2 rs1 s) := by
  unfold execAmoMin
  grind -ring -linarith [memoryWf_amo, canonical_next]

theorem canonical_execAmoMax (h : s.MemoryWf) (x0 : Order) (w : Width) (rd rs2 rs1 : Reg) : Canonical (execAmoMax x0 w rd
    rs2 rs1 s) := by
  unfold execAmoMax
  grind -ring -linarith [memoryWf_amo, canonical_next]

theorem canonical_execAmoMinn (h : s.MemoryWf) (x0 : Order) (w : Width) (rd rs2 rs1 : Reg) : Canonical (execAmoMinn x0 w rd
    rs2 rs1 s) := by
  unfold execAmoMinn
  grind -ring -linarith [memoryWf_amo, canonical_next]

theorem canonical_execAmoMaxn (h : s.MemoryWf) (x0 : Order) (w : Width) (rd rs2 rs1 : Reg) : Canonical (execAmoMaxn x0 w rd
    rs2 rs1 s) := by
  unfold execAmoMaxn
  grind -ring -linarith [memoryWf_amo, canonical_next]

theorem canonical_execAmoSwap (h : s.MemoryWf) (x0 : Order) (w : Width) (rd rs2 rs1 : Reg) : Canonical (execAmoSwap x0 w rd
    rs2 rs1 s) := by
  unfold execAmoSwap
  grind -ring -linarith [memoryWf_amo, canonical_next]

theorem canonical_execAmoFadd (h : s.MemoryWf) (x0 : Order) (w : Width) (rd rs2 rs1 : Reg) : Canonical (execAmoFadd x0 w rd
    rs2 rs1 s) := by
  unfold execAmoFadd
  grind -ring -linarith [memoryWf_amo, canonical_next]

theorem canonical_execCas (h : s.MemoryWf) (x0 : Order) (w : Width) (rd rs2 rs1 : Reg) : Canonical (execCas x0 w rd rs2 rs1
    s) := by
  unfold execCas
  grind -ring -linarith [memoryWf_access, canonical_next]

theorem canonical_execPut (h : s.MemoryWf) (x0 : Order) (w : Width) (rs2 rs1 : Reg) : Canonical (execPut x0 w rs2 rs1 s) :=
    by
  unfold execPut
  grind -ring -linarith [memoryWf_access, canonical_next]

theorem canonical_execFestat (h : s.MemoryWf) (rd rs1 : Reg) : Canonical (execFestat rd rs1 s) := by
  unfold execFestat
  grind -ring -linarith [memoryWf_access, canonical_next]

theorem canonical_execTakeNb (h : s.MemoryWf) (x0 : Order) (w : Width) (rd rt rs1 : Reg) : Canonical (execTakeNb x0 w rd rt
    rs1 s) := by
  unfold execTakeNb
  grind -ring -linarith [memoryWf_access, canonical_next]

theorem canonical_execFenceAcq (h : s.MemoryWf) (x0 : Scope) : Canonical (execFenceAcq x0 s) := by
  unfold execFenceAcq
  grind -ring -linarith [memoryWf_advance, canonical_next]

theorem canonical_execFenceRel (h : s.MemoryWf) (x0 : Scope) : Canonical (execFenceRel x0 s) := by
  unfold execFenceRel
  grind -ring -linarith [memoryWf_advance, canonical_next]

theorem canonical_execFenceAr (h : s.MemoryWf) (x0 : Scope) : Canonical (execFenceAr x0 s) := by
  unfold execFenceAr
  grind -ring -linarith [memoryWf_advance, canonical_next]

theorem canonical_execFenceSc (h : s.MemoryWf) (x0 : Scope) : Canonical (execFenceSc x0 s) := by
  unfold execFenceSc
  grind -ring -linarith [memoryWf_advance, canonical_next]

theorem memoryWf_serve (h : s.MemoryWf) (m : Msg) (k : Nat) : (s.serve m k).MemoryWf := by
  unfold State.serve
  grind -ring -linarith [memoryWf_perform, memoryWf_post]

theorem canonical_execDeferredRetry (h : s.MemoryWf) (m : Msg) (k : Nat) : Canonical (execDeferredRetry m k s) := by
  unfold execDeferredRetry
  grind -ring -linarith [memoryWf_serve, canonical_next]

theorem canonical_execTrackAccess (h : s.MemoryWf) (m : Msg) : Canonical (execTrackAccess m s) := by
  unfold execTrackAccess
  grind -ring -linarith [memoryWf_serve, canonical_next]

theorem canonical_execMemRequest (h : s.MemoryWf) (m : Msg) : Canonical (execMemRequest m s) := by
  unfold execMemRequest
  grind -ring -linarith [memoryWf_post, memoryWf_serve, canonical_next]

theorem memoryWf_answerParked (h : s.MemoryWf) (m : Msg) (v : Word) : (s.answerParked m v).MemoryWf := by
  unfold State.answerParked
  grind -ring -linarith [memoryWf_setParkedBits, memoryWf_post, memoryWf_modCore]

theorem canonical_execMemReply (h : s.MemoryWf) (m : Msg) (ans : Answer) : Canonical (execMemReply m ans s) := by
  unfold execMemReply
  grind -ring -linarith [memoryWf_peerReply, memoryWf_acknowledge, memoryWf_post, memoryWf_finish, memoryWf_answerParked,
    canonical_next]

theorem canonical_execAtomicResend (h : s.MemoryWf) (m : Msg) : Canonical (execAtomicResend m s) := by
  unfold execAtomicResend
  grind -ring -linarith [memoryWf_after, memoryWf_post, canonical_next]

theorem canonical_execReplayFilterAck (h : s.MemoryWf) (quad : Nat) (src : Place) (tag : Nat) : Canonical
    (execReplayFilterAck quad src tag s) := by
  unfold execReplayFilterAck
  grind -ring -linarith [canonical_next, State.MemoryWf]

/-! ## What FaultQueue defines -/

theorem memoryWf_pokeWord (h : s.MemoryWf) (cl : Nat) (a : Word) (v : Nat) : (s.pokeWord cl a v).MemoryWf := by
  unfold State.pokeWord
  grind -ring -linarith [memoryWf_getD_poke]

theorem memoryWf_fillSlot (h : s.MemoryWf) (cl i : Nat) (b : Batch) : (s.fillSlot cl i b).MemoryWf := by
  simp only [State.fillSlot]
  refine memoryWf_pokeWord (memoryWf_modCluster ?_ _ _) _ _ _
  have words (l : List Nat) (n : Nat) :
      (l.foldl (fun (x : State × Nat) v => (x.1.pokeWord cl ((s.cluster cl).slotWord i x.2) v, x.2 + 1)) (s, n)).1.MemoryWf :=
    List.foldlRecOn (motive := fun x : State × Nat => x.1.MemoryWf) _ _ h fun x hx v _ => memoryWf_pokeWord hx _ _ _
  generalize hu : State.pokeWord _ _ _ _ = u
  have hu : u.MemoryWf := hu ▸ memoryWf_pokeWord (words _ _) _ _ _
  cases e : u.readHw (firstCore cl) (s.cluster cl).posts 64 64 with
  | none => exact hu
  | some r => exact memoryWf_readHw hu _ _ _ _ e

theorem memoryWf_nameSlot (h : s.MemoryWf) (i : Nat) (b : Batch) : (s.nameSlot i b).MemoryWf := by
  unfold State.nameSlot
  grind -ring -linarith [memoryWf_setStatus]

theorem memoryWf_meetSlots (h : s.MemoryWf) (cl : Nat) : (s.meetSlots cl).MemoryWf := by
  unfold State.meetSlots
  exact List.foldlRecOn (motive := State.MemoryWf) _ _ h fun s hs i _ => memoryWf_meetAt hs _ _ _ _

theorem memoryWf_postBatch (h : s.MemoryWf) (b : Batch) : (s.postBatch b).MemoryWf := by
  unfold State.postBatch
  grind -ring -linarith [memoryWf_meetSlots, memoryWf_fillSlot, memoryWf_nameSlot, memoryWf_modCluster]

/-! ## What Engine defines -/

theorem memoryWf_meetFetch (h : s.MemoryWf) (pc : Word) : (s.meetFetch pc).MemoryWf := by
  unfold State.meetFetch
  grind -ring -linarith [memoryWf_meetParts]

theorem memoryWf_meetWords (h : s.MemoryWf) (pc : Word) (n : Nat) : (s.meetWords pc n).MemoryWf := by
  induction n generalizing s pc with
  | zero => exact h
  | succ n ih => grind -ring -linarith [State.meetWords, memoryWf_meetFetch]

theorem memoryWf_fetchFailed (h : s.MemoryWf) (addr : Word) (why : FetchFailure) : (s.fetchFailed addr why).MemoryWf := by
  unfold State.fetchFailed
  grind -ring -linarith [memoryWf_pageFault, memoryWf_trap]

theorem canonical_execFetchFault (h : s.MemoryWf) (addr : Word) (why : FetchFailure) : Canonical (execFetchFault addr why s)
    := by
  unfold execFetchFault
  grind -ring -linarith [memoryWf_fetchFailed, canonical_next]

theorem canonical_execIllegalInstruction (h : s.MemoryWf) (word : BitVec 32) : Canonical (execIllegalInstruction word s) :=
    by
  unfold execIllegalInstruction
  grind -ring -linarith [memoryWf_trap, canonical_next]

theorem memoryWf_pushOffer (h : s.MemoryWf) (core : Nat) : (s.pushOffer core).MemoryWf := by
  unfold State.pushOffer
  grind -ring -linarith [memoryWf_push]

theorem memoryWf_offerRemote (h : s.MemoryWf) (q : Nat) : (s.offerRemote q).MemoryWf := by
  unfold State.offerRemote
  grind -ring -linarith [memoryWf_post]

theorem memoryWf_offerAll (h : s.MemoryWf) (q : Nat) : (s.offerAll q).MemoryWf := by
  refine memoryWf_offerRemote (List.foldlRecOn (motive := State.MemoryWf) _ _ h fun s hs c _ => ?_) q
  split
  · exact memoryWf_pushOffer hs c
  · exact hs

theorem memoryWf_dropHead (h : s.MemoryWf) : s.dropHead.MemoryWf := by
  unfold State.dropHead
  grind -ring -linarith [memoryWf_offerRemote, memoryWf_modQuad, memoryWf_post, memoryWf_modCore, memoryWf_pushOffer]

theorem memoryWf_recordFault (h : s.MemoryWf) (sfp q : Word) : (s.recordFault sfp q).MemoryWf := by
  unfold State.recordFault
  grind -ring -linarith [memoryWf_modStrand, memoryWf_meetAt, memoryWf_getD_poke]

theorem memoryWf_addFlags (h : s.MemoryWf) (sfp : Word) (fx : BitVec 5) : (s.addFlags sfp fx).MemoryWf := by
  unfold State.addFlags
  grind -ring -linarith [memoryWf_modStrand, memoryWf_meetAt, memoryWf_getD_poke]

theorem memoryWf_discardQueued (h : s.MemoryWf) (sfp : Word) : (s.discardQueued sfp).MemoryWf := by
  unfold State.discardQueued
  grind -ring -linarith [memoryWf_pushOffer, memoryWf_modCore]

theorem memoryWf_lateFault (h : s.MemoryWf) (sfp q : Word) : (s.lateFault sfp q).MemoryWf := by
  unfold State.lateFault
  grind -ring -linarith [memoryWf_discardQueued, memoryWf_recordFault]

theorem memoryWf_engineFault (h : s.MemoryWf) (cause eng op : Nat) : (s.engineFault cause eng op).MemoryWf := by
  unfold State.engineFault
  grind -ring -linarith [memoryWf_offerRemote, memoryWf_modQuad, memoryWf_lateFault, memoryWf_pushOffer, memoryWf_modCore,
    memoryWf_recordFault]

theorem memoryWf_addTag (h : s.MemoryWf) (core : Nat) (sfp : Word) (cmd : Option Nat) : (s.addTag core sfp cmd).MemoryWf :=
    by
  unfold State.addTag
  grind -ring -linarith [memoryWf_post, memoryWf_modCore]

theorem memoryWf_dropTag (h : s.MemoryWf) (core id : Nat) : (s.dropTag core id).MemoryWf := by
  unfold State.dropTag
  grind -ring -linarith [memoryWf_modCore]

theorem memoryWf_issued (h : s.MemoryWf) (eng pipe track : Nat) (tagged : Bool) (reads writes : List Nat) (fx : BitVec 5)
    (late : Option Late) (paused : Option (Ctx × QEntry)) (event : Nat → Option Instr) : (s.issued eng pipe track tagged
    reads writes fx late paused event).MemoryWf := by
  unfold State.issued
  grind -ring -linarith [memoryWf_bumpSeq, memoryWf_modQuad, memoryWf_dropHead, memoryWf_addTag, memoryWf_post]

theorem memoryWf_modIssued (h : s.MemoryWf) (q id : Nat) (g : Issued → Issued) : (s.modIssued q id g).MemoryWf := by
  unfold State.modIssued
  grind -ring -linarith [memoryWf_modQuad]

theorem memoryWf_commandBatch (h : s.MemoryWf) (id : Nat) (va : Word) (acc : Access) : (s.commandBatch id va acc).MemoryWf
    := by
  unfold State.commandBatch
  grind -ring -linarith [memoryWf_postBatch]

theorem memoryWf_failIssued (h : s.MemoryWf) (cause eng op id : Nat) : (s.failIssued cause eng op id).MemoryWf := by
  unfold State.failIssued
  grind -ring -linarith [memoryWf_post, memoryWf_modIssued, memoryWf_dropTag, memoryWf_lateFault]

theorem memoryWf_accepted (h : s.MemoryWf) (pipe track : Nat) (tagged : Bool) (reads writes : List Nat) (types : List
    (BitVec 5)) : (s.accepted pipe track tagged reads writes types).MemoryWf := by
  unfold State.accepted
  grind -ring -linarith [memoryWf_issued]

theorem memoryWf_runCommand (h : s.MemoryWf) (eng op pipe track : Nat) (tagged : Bool) (reads writes : List Nat) (run :
    State → Ran) (hrun : ∀ s, s.MemoryWf → (run s).Canonical) : (s.runCommand eng op pipe track tagged reads writes
    run).MemoryWf := by
  unfold State.runCommand
  grind -ring -linarith [memoryWf_accepted, memoryWf_after, memoryWf_engineFault, memoryWf_commandBatch, memoryWf_issued,
    memoryWf_modIssued, memoryWf_failIssued, memoryWf_post, Ran.Canonical]

theorem memoryWf_resumeOf (h : s.MemoryWf) (q id : Nat) {x} {t : State} (e : s.resumeOf q id = some (x, t)) : t.MemoryWf :=
    by
  unfold State.resumeOf at e
  obtain ⟨_, _, e⟩ := Option.bind_eq_some_iff.1 e
  obtain ⟨_, _, e⟩ := Option.bind_eq_some_iff.1 e
  obtain ⟨_, _, hx⟩ := Option.map_eq_some_iff.1 e
  rw [← (Prod.mk.inj hx).2]
  exact h

theorem memoryWf_offerPaused (h : s.MemoryWf) (q : Nat) : (s.offerPaused q).MemoryWf := by
  refine List.foldlRecOn (motive := State.MemoryWf) _ _ h fun s hs i _ => ?_
  split
  · exact hs
  · exact memoryWf_push hs _

theorem memoryWf_restart (h : s.MemoryWf) (q : Nat) : (s.restart q).MemoryWf := by
  unfold State.restart
  grind -ring -linarith [memoryWf_refill, memoryWf_offerPaused, memoryWf_offerAll]

theorem canonical_execCommandCompletion (h : s.MemoryWf) (core id : Nat) : Canonical (execCommandCompletion core id s) := by
  unfold execCommandCompletion
  grind -ring -linarith [memoryWf_offerPaused, memoryWf_modQuad, memoryWf_addFlags, memoryWf_offerAll, memoryWf_post,
    canonical_next]

theorem canonical_execQtagAdvance (h : s.MemoryWf) (core : Nat) : Canonical (execQtagAdvance core s) := by
  unfold execQtagAdvance
  grind -ring -linarith [memoryWf_modCore, memoryWf_post, memoryWf_modStrand, canonical_next]

theorem memoryWf_atOnce (h : s.MemoryWf) (tags : Nat) : (s.atOnce tags).MemoryWf := by
  unfold State.atOnce
  exact List.foldlRecOn (motive := State.MemoryWf) _ _ (memoryWf_dropHead h) fun s hs _ _ => memoryWf_addTag hs _ _ _

theorem canonical_execQnop (h : s.MemoryWf) (tagged : Bool) (x0 : QueueF) (x0' : Slots) : Canonical (execQnop tagged x0 x0'
    s) := by
  unfold execQnop
  grind -ring -linarith [memoryWf_atOnce, canonical_next]

theorem canonical_execQtag (h : s.MemoryWf) (tagged : Bool) (x0 : QueueF) (x0' : Slots) : Canonical (execQtag tagged x0 x0'
    s) := by
  unfold execQtag
  grind -ring -linarith [memoryWf_atOnce, canonical_next]

theorem canonical_execQord (h : s.MemoryWf) (tagged : Bool) (x0 : QueueF) (x0' : Slots) : Canonical (execQord tagged x0 x0'
    s) := by
  unfold execQord
  grind -ring -linarith [memoryWf_atOnce, canonical_next]

theorem canonical_execRep (h : s.MemoryWf) (x0 : Bool) (f : QueueF) (sl : Slots) : Canonical (execRep x0 f sl s) := by
  unfold execRep
  grind -ring -linarith [memoryWf_engineFault, memoryWf_post, memoryWf_modCore, canonical_next]

theorem canonical_execRepInstance (h : s.MemoryWf) (core : Nat) : Canonical (execRepInstance core s) := by
  unfold execRepInstance
  grind -ring -linarith [memoryWf_pushOffer, memoryWf_modCore, canonical_next]

theorem memoryWf_issueOf (h : s.MemoryWf) (core : Nat) {x} {t : State} (e : s.issueOf core = some (x, t)) : t.MemoryWf := by
  unfold State.issueOf at e
  split at e
  · cases e
  · split at e
    · cases e
    · obtain ⟨_, _, hx⟩ := Option.map_eq_some_iff.1 e
      rw [← (Prod.mk.inj hx).2]
      exact h

theorem memoryWf_withCommand (h : s.MemoryWf) (p : Patch) (rs1 rs2 : Reg) (f : State → QEntry → State) (hf : ∀ s e,
    s.MemoryWf → (f s e).MemoryWf) : (s.withCommand p rs1 rs2 f).MemoryWf := by
  unfold State.withCommand
  grind -ring -linarith [memoryWf_meetWords, memoryWf_fetchFailed, memoryWf_trap]

theorem memoryWf_idleDeficit (h : s.MemoryWf) (core : Nat) : (s.idleDeficit core).MemoryWf := by
  unfold State.idleDeficit
  grind -ring -linarith [memoryWf_modQuad]

theorem canonical_execCmd (h : s.MemoryWf) (p : Patch) (rs1 rs2 : Reg) : Canonical (execCmd p rs1 rs2 s) := by
  unfold execCmd
  grind -ring -linarith [memoryWf_withCommand, memoryWf_stall, memoryWf_setPc, memoryWf_resume, memoryWf_pushOffer,
    memoryWf_modCore, memoryWf_idleDeficit, canonical_next]

theorem canonical_execCmdr (h : s.MemoryWf) (p : Patch) (rs1 rs2 : Reg) : Canonical (execCmdr p rs1 rs2 s) := by
  unfold execCmdr
  grind -ring -linarith [memoryWf_withCommand, memoryWf_setPc, memoryWf_post, memoryWf_switch, memoryWf_traffic,
    memoryWf_lateFault, canonical_next]

theorem canonical_execQwait (h : s.MemoryWf) (rs1 : Reg) : Canonical (execQwait rs1 s) := by
  unfold execQwait
  grind -ring -linarith [memoryWf_trap, memoryWf_advance, memoryWf_resume, memoryWf_lateFault, memoryWf_stall,
    canonical_next]

theorem memoryWf_discardPaused (h : s.MemoryWf) (q : Nat) (i : Issued) : (s.discardPaused q i).MemoryWf := by
  unfold State.discardPaused
  grind -ring -linarith [memoryWf_failIssued, memoryWf_modCluster, State.MemoryWf]

theorem memoryWf_beginDrain (h : s.MemoryWf) (core : Nat) (sfp : Word) (vec : Bool) : (s.beginDrain core sfp vec).MemoryWf
    := by
  unfold State.beginDrain
  split
  · exact h
  · refine memoryWf_pushOffer (List.foldlRecOn (motive := State.MemoryWf) _ _ ?_ fun s hs i _ => memoryWf_discardPaused hs _ i) core
    exact memoryWf_modCore h core _

theorem memoryWf_whenDrained (h : s.MemoryWf) (vec : Bool) (f : State → State) (hf : ∀ s, s.MemoryWf → (f s).MemoryWf) :
    (s.whenDrained vec f).MemoryWf := by
  unfold State.whenDrained
  grind -ring -linarith [memoryWf_stall, memoryWf_beginDrain, memoryWf_closeDrain]

theorem memoryWf_refuseRemote (h : s.MemoryWf) (r : Remote) (cause : Nat) : (s.refuseRemote r cause).MemoryWf := by
  unfold State.refuseRemote
  grind -ring -linarith [memoryWf_lateFault]

theorem memoryWf_remoteIssueOf (h : s.MemoryWf) (q : Nat) {x} {t : State} (e : s.remoteIssueOf q = some (x, t)) : t.MemoryWf
    := by
  unfold State.remoteIssueOf at e
  split at e
  · cases e
  · split at e
    · cases e
    · obtain ⟨_, _, hx⟩ := Option.map_eq_some_iff.1 e
      rw [← (Prod.mk.inj hx).2]
      exact h

theorem memoryWf_dropUndefinedRemote (h : s.MemoryWf) (q : Nat) : (s.dropUndefinedRemote q).MemoryWf := by
  unfold State.dropUndefinedRemote
  grind -ring -linarith [memoryWf_engineFault, State.MemoryWf]

theorem canonical_execPeerFaultReturn (h : s.MemoryWf) (p : Place) (sfp : Word) : Canonical (execPeerFaultReturn p sfp s) :=
    by
  unfold execPeerFaultReturn
  grind -ring -linarith [memoryWf_pushOffer, memoryWf_modCore, memoryWf_modStrand, memoryWf_lateFault, canonical_next]

/-! ## What Pointer defines -/

theorem memoryWf_pointer (h : s.MemoryWf) (rd : Reg) (r : PtrResult) : (s.pointer rd r).MemoryWf := by
  unfold State.pointer
  grind -ring -linarith [memoryWf_complete, memoryWf_trapAt]

theorem canonical_execPadd (h : s.MemoryWf) (w : Width) (rd rs1 rs2 : Reg) : Canonical (execPadd w rd rs1 rs2 s) := by
  unfold execPadd
  grind -ring -linarith [memoryWf_pointer, canonical_next]

theorem canonical_execPdiff (h : s.MemoryWf) (w : Width) (rd rs1 rs2 : Reg) : Canonical (execPdiff w rd rs1 rs2 s) := by
  unfold execPdiff
  grind -ring -linarith [memoryWf_pointer, canonical_next]

theorem canonical_execPaln (h : s.MemoryWf) (w : Width) (rd rs1 : Reg) (c : BitVec 2) : Canonical (execPaln w rd rs1 c s) :=
    by
  unfold execPaln
  grind -ring -linarith [memoryWf_pointer, canonical_next]

theorem canonical_execPxy (h : s.MemoryWf) (rd rs1 : Reg) : Canonical (execPxy rd rs1 s) := by
  unfold execPxy
  grind -ring -linarith [memoryWf_pointer, canonical_next]

theorem canonical_execPsetxy (h : s.MemoryWf) (rd rs1 rs2 : Reg) : Canonical (execPsetxy rd rs1 rs2 s) := by
  unfold execPsetxy
  grind -ring -linarith [memoryWf_pointer, canonical_next]

theorem canonical_execPlay (h : s.MemoryWf) (rd rs1 : Reg) : Canonical (execPlay rd rs1 s) := by
  unfold execPlay
  grind -ring -linarith [memoryWf_pointer, canonical_next]

theorem canonical_execPlayS (h : s.MemoryWf) (rd rs1 rs2 : Reg) : Canonical (execPlayS rd rs1 rs2 s) := by
  unfold execPlayS
  grind -ring -linarith [memoryWf_pointer, canonical_next]

theorem canonical_execPrelA (h : s.MemoryWf) (rd rs1 : Reg) : Canonical (execPrelA rd rs1 s) := by
  unfold execPrelA
  grind -ring -linarith [memoryWf_pointer, canonical_next]

theorem canonical_execPrelR (h : s.MemoryWf) (rd rs1 : Reg) : Canonical (execPrelR rd rs1 s) := by
  unfold execPrelR
  grind -ring -linarith [memoryWf_pointer, canonical_next]

end Sys2Proof.Machine
end

section
/-! Memory stays in canonical form (O60): scheduling, tasks, migration, the host, tracks, the loader and ZholOS. -/

namespace Sys2Proof.Machine

set_option Elab.async false

variable {s : State}

/-! ## What Scheduling defines -/

theorem memoryWf_beginSteal (h : s.MemoryWf) (core : Nat) : (s.beginSteal core).MemoryWf := by
  unfold State.beginSteal
  grind -ring -linarith [memoryWf_post, memoryWf_modCore]

theorem memoryWf_entered (h : s.MemoryWf) (u : State) (core : Nat) : (s.entered u core).MemoryWf := by
  unfold State.entered
  grind -ring -linarith [memoryWf_beginStart]

theorem canonical_execBankFill (h : s.MemoryWf) (core : Nat) : Canonical (execBankFill core s) := by
  refine canonical_next ?_
  have filled (u : State) (hu : u.MemoryWf) :
      (((((u.modCore core fun k => { k with stealIdle := false }).dropRound core).entered s core).post (.bankFill core))).MemoryWf :=
    memoryWf_post (memoryWf_entered (memoryWf_dropRound (memoryWf_modCore hu _ _) _) _ _) _
  split
  · exact h
  · split
    · grind -ring -linarith [memoryWf_wakeQuad, memoryWf_post]
    · split
      · exact h
      · split
        · have met := memoryWf_meetParked h core
          grind -ring -linarith [memoryWf_unpark, memoryWf_loadRecord]
        · grind -ring -linarith [memoryWf_dequePop, memoryWf_startTask, memoryWf_beginSteal]

theorem canonical_execRecordLoadDone (h : s.MemoryWf) (p : Place) : Canonical (execRecordLoadDone p s) := by
  unfold execRecordLoadDone
  grind -ring -linarith [memoryWf_modStrand, memoryWf_setStatus, memoryWf_trapAt, canonical_next]

theorem canonical_execRecordWriteback (h : s.MemoryWf) (p : Place) : Canonical (execRecordWriteback p s) := by
  unfold execRecordWriteback
  grind -ring -linarith [memoryWf_switch, memoryWf_after, memoryWf_beginDrain, memoryWf_setStatus, memoryWf_park,
    memoryWf_endDrain, canonical_next]

theorem canonical_execWaitWritebackTimeout (h : s.MemoryWf) (p : Place) : Canonical (execWaitWritebackTimeout p s) := by
  unfold execWaitWritebackTimeout
  grind -ring -linarith [memoryWf_after, memoryWf_post, canonical_next]

theorem canonical_execIssueGuardExpiry (h : s.MemoryWf) (core : Nat) : Canonical (execIssueGuardExpiry core s) := by
  unfold execIssueGuardExpiry
  grind -ring -linarith [memoryWf_switch, canonical_next]

theorem canonical_execStealRequest (h : s.MemoryWf) (thief : Nat) : Canonical (execStealRequest thief s) := by
  unfold execStealRequest
  grind -ring -linarith [memoryWf_modCore, memoryWf_post, memoryWf_after, canonical_next]

theorem canonical_execStealRoundTimer (h : s.MemoryWf) (core : Nat) : Canonical (execStealRoundTimer core s) := by
  unfold execStealRoundTimer
  grind -ring -linarith [memoryWf_post, memoryWf_modCore, canonical_next]

theorem memoryWf_setTaskAt (h : s.MemoryWf) (core i : Nat) (r : BitVec 512) : (s.setTaskAt core i r).MemoryWf := by
  unfold State.setTaskAt
  grind -ring -linarith [memoryWf_getD_poke, memoryWf_homeStore]

theorem memoryWf_removeTask (h : s.MemoryWf) (core i : Nat) : (s.removeTask core i).MemoryWf := by
  induction i generalizing s with
  | zero => exact memoryWf_dropOldest h core
  | succ i ih => grind -ring -linarith [State.removeTask, memoryWf_setTaskAt]

theorem memoryWf_takeable (h : s.MemoryWf) (victim thief left i : Nat) : (s.takeable victim thief left i).2.MemoryWf := by
  induction left generalizing s i with
  | zero => exact h
  | succ n ih => grind -ring -linarith [State.takeable, memoryWf_meetAt]

theorem memoryWf_splitFor (h : s.MemoryWf) (thief victim : Nat) (r upper : BitVec 512) (keep : State → State) (hkeep : ∀ s,
    s.MemoryWf → (keep s).MemoryWf) : (s.splitFor thief victim r upper keep).MemoryWf := by
  unfold State.splitFor
  grind -ring -linarith [memoryWf_after, memoryWf_leafAdd, memoryWf_post, memoryWf_leafLost]

theorem canonical_execStealAnswer (h : s.MemoryWf) (thief victim : Nat) : Canonical (execStealAnswer thief victim s) := by
  unfold execStealAnswer
  grind -ring -linarith [memoryWf_post, memoryWf_takeable, memoryWf_splitFor, memoryWf_setTaskAt, memoryWf_removeTask,
    memoryWf_modStrand, memoryWf_meetParked, memoryWf_unpark, canonical_next]

theorem canonical_execSplitJoinReply (h : s.MemoryWf) (thief _victim : Nat) (record : BitVec 512) : Canonical
    (execSplitJoinReply thief _victim record s) := by
  unfold execSplitJoinReply
  grind -ring -linarith [memoryWf_post, canonical_next]

theorem memoryWf_keepWork (h : s.MemoryWf) (c : Nat) (w : StealWork) : (s.keepWork c w).MemoryWf := by
  unfold State.keepWork
  split
  · rename_i r
    cases e : s.dequePush c r with
    | none => exact h
    | some t => exact memoryWf_dequePush h c r e
  · refine memoryWf_post ?_ _
    generalize hp : s.parkRecord _ _ _ = o
    cases o with
    | none => exact h
    | some t => exact memoryWf_parkRecord h _ _ _ hp
  · exact h

theorem canonical_execStealReply (h : s.MemoryWf) (thief : Nat) (work : StealWork) : Canonical (execStealReply thief work s)
    := by
  unfold execStealReply
  grind -ring -linarith [memoryWf_dropRound, memoryWf_modCore, memoryWf_post, memoryWf_keepWork, memoryWf_startTask,
    memoryWf_entered, memoryWf_loadRecord, canonical_next]

theorem memoryWf_signal (h : s.MemoryWf) (core : Option Nat) (v : Word) : (s.signal core v).MemoryWf := by
  unfold State.signal
  grind -ring -linarith [memoryWf_logEvent, memoryWf_putAt]

theorem memoryWf_partitionTrap (h : s.MemoryWf) (kind : Nat) (p : Place) : (s.partitionTrap kind p).MemoryWf := by
  unfold State.partitionTrap
  grind -ring -linarith [memoryWf_signal]

theorem memoryWf_snapshot (h : s.MemoryWf) (l : List WaitEntry) : (s.snapshot l).MemoryWf := by
  unfold State.snapshot
  split
  · exact h
  · exact List.foldlRecOn (motive := fun r : State × Nat => r.1.MemoryWf) _ _ h fun r hr v _ => memoryWf_getD_poke hr _ _ _ _ _

theorem canonical_execHangTrap (h : s.MemoryWf) : Canonical (execHangTrap s) := by
  unfold execHangTrap
  grind -ring -linarith [memoryWf_modPart, memoryWf_signal, memoryWf_snapshot, canonical_next]

/-! ## What Tasks defines -/

theorem memoryWf_passHere (h : s.MemoryWf) : s.passHere.MemoryWf := by
  unfold State.passHere
  grind -ring -linarith [memoryWf_modStrand, memoryWf_resume]

theorem memoryWf_obeyMark (h : s.MemoryWf) : s.obeyMark.MemoryWf := by
  unfold State.obeyMark
  grind -ring -linarith [memoryWf_post]

theorem memoryWf_passOn (h : s.MemoryWf) : s.passOn.MemoryWf := by
  unfold State.passOn
  grind -ring -linarith [memoryWf_obeyMark, memoryWf_advance, memoryWf_passHere]

theorem canonical_execTake (h : s.MemoryWf) (x0 : Order) (w : Width) (rd rs1 : Reg) : Canonical (execTake x0 w rd rs1 s) :=
    by
  unfold execTake
  grind -ring -linarith [memoryWf_whenDrained, memoryWf_access, canonical_next]

theorem canonical_execAwait (h : s.MemoryWf) (cmp : AwaitCmp) (x0 : Bool) (w : Width) (rd rs2 rs1 : Reg) : Canonical
    (execAwait cmp x0 w rd rs2 rs1 s) := by
  unfold execAwait
  grind -ring -linarith [memoryWf_whenDrained, memoryWf_access, canonical_next]

theorem canonical_execSuspend (h : s.MemoryWf) : Canonical (execSuspend s) := by
  unfold execSuspend
  grind -ring -linarith [memoryWf_whenDrained, memoryWf_switch, memoryWf_advance, memoryWf_passHere, memoryWf_post,
    memoryWf_setStatus, memoryWf_seekBoundary, canonical_next]

theorem canonical_execYield (h : s.MemoryWf) : Canonical (execYield s) := by
  unfold execYield
  grind -ring -linarith [memoryWf_whenDrained, memoryWf_advance, memoryWf_passHere, memoryWf_switch, memoryWf_seekBoundary,
    memoryWf_post, memoryWf_setStatus, canonical_next]

theorem canonical_execExit (h : s.MemoryWf) : Canonical (execExit s) := by
  unfold execExit
  grind -ring -linarith [memoryWf_whenDrained, memoryWf_stall, memoryWf_endStrand, memoryWf_post, memoryWf_switch,
    memoryWf_seekBoundary, canonical_next]

theorem canonical_execPopt (h : s.MemoryWf) (rd : Reg) : Canonical (execPopt rd s) := by
  refine canonical_next ?_
  split
  · exact memoryWf_complete (memoryWf_resume h) rd 0
  · refine memoryWf_whenDrained h _ _ fun s hs => ?_
    grind -ring -linarith [memoryWf_stall, memoryWf_endStrand, memoryWf_switch, memoryWf_post, memoryWf_dequePop, memoryWf_startTask]

theorem canonical_execRnext (h : s.MemoryWf) (rd re : Reg) : Canonical (execRnext rd re s) := by
  unfold execRnext
  grind -ring -linarith [memoryWf_advance, memoryWf_setReg, memoryWf_modStrand, memoryWf_resume, memoryWf_whenDrained,
    memoryWf_stall, memoryWf_leafEnd, memoryWf_passHere, memoryWf_obeyMark, canonical_next]

theorem memoryWf_initJoin (h : s.MemoryWf) (core : Nat) (r : BitVec 512) : (s.initJoin core r).MemoryWf := by
  unfold State.initJoin
  grind -ring -linarith [memoryWf_leafLost, memoryWf_discardStore, memoryWf_storeParts]

theorem memoryWf_placeTask (h : s.MemoryWf) (target : Nat) (r : BitVec 512) {t : State} (e : s.placeTask target r = some t)
    : t.MemoryWf := by
  simp only [State.placeTask] at e
  grind -ring -linarith [Option.map_eq_some_iff, memoryWf_initJoin, memoryWf_leafEnd, memoryWf_measure, memoryWf_dequePush]

theorem memoryWf_spawnChecked (h : s.MemoryWf) (a : Word) (at' : Option Word) (wait : Option Reg) : (s.spawnChecked a at'
    wait).MemoryWf := by
  simp only [State.spawnChecked]
  split
  · exact memoryWf_trapAt h _ _
  · exact memoryWf_pageFault h _ _ _
  · rename_i ps home _
    have read := memoryWf_readOwn (memoryWf_noteAccess h s.cur .load s.user a) a ps home
    generalize ((s.noteAccess s.cur .load s.user a).readOwn a ps home) = l at read ⊢
    split
    · exact memoryWf_trap read _ _
    · split
      · exact memoryWf_trap read _ _
      · split <;> grind -ring -linarith [memoryWf_pageFaultAs, memoryWf_trap, memoryWf_stall, memoryWf_placeTask,
          memoryWf_resume, memoryWf_advance, memoryWf_switch, memoryWf_request]

theorem memoryWf_spawn (h : s.MemoryWf) (a : Word) (at' : Option Word) (wait : Option Reg) : (s.spawn a at' wait).MemoryWf
    := by
  unfold State.spawn
  grind -ring -linarith [memoryWf_whenDrained, memoryWf_spawnChecked]

theorem canonical_execSpawn (h : s.MemoryWf) (rs1 : Reg) : Canonical (execSpawn rs1 s) := by
  unfold execSpawn
  grind -ring -linarith [memoryWf_spawn, canonical_next]

theorem canonical_execSpawnW (h : s.MemoryWf) (rd rs1 : Reg) : Canonical (execSpawnW rd rs1 s) := by
  unfold execSpawnW
  grind -ring -linarith [memoryWf_spawn, canonical_next]

theorem canonical_execSpawnAt (h : s.MemoryWf) (rs1 rs2 : Reg) : Canonical (execSpawnAt rs1 rs2 s) := by
  unfold execSpawnAt
  grind -ring -linarith [memoryWf_spawn, canonical_next]

theorem canonical_execSpawnAtW (h : s.MemoryWf) (rd rs1 rs2 : Reg) : Canonical (execSpawnAtW rd rs1 rs2 s) := by
  unfold execSpawnAtW
  grind -ring -linarith [memoryWf_spawn, canonical_next]

theorem memoryWf_barr (h : s.MemoryWf) (c : BitVec 4) : (s.barr c).MemoryWf := by
  unfold State.barr
  grind -ring -linarith [memoryWf_trap, memoryWf_stall, memoryWf_modCore, memoryWf_advance, memoryWf_resume,
    memoryWf_modStrand, memoryWf_after]

theorem canonical_execBarrNone (h : s.MemoryWf) (ch : BitVec 4) : Canonical (execBarrNone ch s) := by
  unfold execBarrNone
  grind -ring -linarith [memoryWf_barr, canonical_next]

theorem canonical_execBarrNamed (h : s.MemoryWf) (ch : BitVec 4) : Canonical (execBarrNamed ch s) := by
  unfold execBarrNamed
  grind -ring -linarith [memoryWf_barr, canonical_next]

theorem canonical_execBarrAll (h : s.MemoryWf) (ch : BitVec 4) : Canonical (execBarrAll ch s) := by
  unfold execBarrAll
  grind -ring -linarith [memoryWf_barr, canonical_next]

theorem canonical_execBwait (h : s.MemoryWf) (c : BitVec 4) : Canonical (execBwait c s) := by
  unfold execBwait
  grind -ring -linarith [memoryWf_trap, memoryWf_whenDrained, memoryWf_switch, memoryWf_beginWait, memoryWf_setStatus,
    memoryWf_passOn, memoryWf_modStrand, canonical_next]

theorem canonical_execBarrierRelease (h : s.MemoryWf) (c : BitVec 4) : Canonical (execBarrierRelease c s) := by
  unfold execBarrierRelease
  grind -ring -linarith [memoryWf_modPart, memoryWf_holdMembers, memoryWf_refill, memoryWf_adoptIdle, memoryWf_adopt,
    canonical_next, State.MemoryWf]

theorem memoryWf_setRoute (h : s.MemoryWf) (id : Nat) (r : Route) : (s.setRoute id r).MemoryWf := by
  unfold State.setRoute
  grind -ring -linarith [memoryWf_modPart]

theorem canonical_execSxmit (h : s.MemoryWf) (route : BitVec 8) (rs1 rs2 : Reg) : Canonical (execSxmit route rs1 rs2 s) :=
    by
  unfold execSxmit
  grind -ring -linarith [memoryWf_trapAt, memoryWf_pageFault, memoryWf_trap, memoryWf_stall, memoryWf_loadParts,
    memoryWf_advance, memoryWf_resume, memoryWf_after, memoryWf_setRoute, canonical_next]

theorem canonical_execRouteSlotInject (h : s.MemoryWf) (route : BitVec 8) : Canonical (execRouteSlotInject route s) := by
  unfold execRouteSlotInject
  grind -ring -linarith [memoryWf_after, memoryWf_setRoute, memoryWf_traffic, canonical_next]

theorem canonical_execRouteLand (h : s.MemoryWf) (route : BitVec 8) : Canonical (execRouteLand route s) := by
  unfold execRouteLand
  split
  · exact canonical_next h
  · split
    · exact canonical_next h
    · refine canonical_next (memoryWf_setRoute ?_ _ _)
      exact List.foldlRecOn (motive := fun x : State × Nat => x.1.MemoryWf) _ _ h fun x hx w _ => memoryWf_homeStore hx _ _ _ _

theorem canonical_execSxwait (h : s.MemoryWf) (route : BitVec 8) (rs1 : Reg) : Canonical (execSxwait route rs1 s) := by
  unfold execSxwait
  grind -ring -linarith [memoryWf_trap, memoryWf_advance, memoryWf_resume, memoryWf_stall, canonical_next]

/-! ## What Migration defines -/

theorem memoryWf_letStart (h : s.MemoryWf) (q : Nat) : (s.letStart q).MemoryWf := by
  unfold State.letStart
  grind -ring -linarith [memoryWf_restart, memoryWf_modQuad]

theorem canonical_execStartAdmission (h : s.MemoryWf) (region : Nat) : Canonical (execStartAdmission region s) := by
  refine canonical_next ?_
  split
  · exact h
  · exact List.foldlRecOn (motive := State.MemoryWf) _ _ (memoryWf_after (memoryWf_modRegion h _ _) _ _) fun s hs q _ => memoryWf_letStart hs q

theorem memoryWf_nextDroopCheck (h : s.MemoryWf) (r : Nat) : (s.nextDroopCheck r).MemoryWf := by
  unfold State.nextDroopCheck
  grind -ring -linarith [memoryWf_freeWord, memoryWf_after]

theorem memoryWf_setDroop (h : s.MemoryWf) (r : Nat) (on : Bool) : (s.setDroop r on).MemoryWf := by
  exact List.foldlRecOn (motive := State.MemoryWf) _ _ h fun s hs q _ => memoryWf_power hs _ _ _

theorem canonical_execDroopAlarm (h : s.MemoryWf) (region : Nat) : Canonical (execDroopAlarm region s) := by
  unfold execDroopAlarm
  grind -ring -linarith [memoryWf_modRegion, memoryWf_setDroop, memoryWf_nextDroopCheck, canonical_next]

theorem canonical_execDroopCheck (h : s.MemoryWf) (region : Nat) (below : Bool) : Canonical (execDroopCheck region below s)
    := by
  unfold execDroopCheck
  grind -ring -linarith [memoryWf_nextDroopCheck, memoryWf_modRegion, memoryWf_setDroop, canonical_next]

theorem memoryWf_beginMove (h : s.MemoryWf) (q target : Nat) (asked : Bool) : (s.beginMove q target asked).MemoryWf := by
  unfold State.beginMove
  grind -ring -linarith [memoryWf_modQuad, memoryWf_after, memoryWf_post]

theorem memoryWf_tellAsker (h : s.MemoryWf) (r : MoveRequest) (n : Nat) : (s.tellAsker r n).MemoryWf := by
  unfold State.tellAsker
  grind -ring -linarith [memoryWf_setStatus]

theorem memoryWf_serveMoves (h : s.MemoryWf) (cl fuel : Nat) : (s.serveMoves cl fuel).MemoryWf := by
  induction fuel generalizing s with
  | zero => exact h
  | succ n ih => grind -ring -linarith [State.serveMoves, memoryWf_modCluster, memoryWf_beginMove, memoryWf_tellAsker]

theorem memoryWf_nextMove (h : s.MemoryWf) (cl : Nat) : (s.nextMove cl).MemoryWf := by
  unfold State.nextMove
  grind -ring -linarith [memoryWf_serveMoves]

theorem memoryWf_requestMove (h : s.MemoryWf) (q : Nat) : (s.requestMove q).MemoryWf := by
  unfold State.requestMove
  grind -ring -linarith [memoryWf_modCluster]

theorem memoryWf_switchOff (h : s.MemoryWf) (r : Nat) : (s.switchOff r).MemoryWf := by
  unfold State.switchOff
  grind -ring -linarith [memoryWf_post, memoryWf_modRegion]

theorem memoryWf_repower (h : s.MemoryWf) (q : Nat) (f : Quad → Quad) : (s.repower q f).MemoryWf := by
  unfold State.repower
  grind -ring -linarith [memoryWf_power, memoryWf_restart]

theorem canonical_execSensorSample (h : s.MemoryWf) (quad : Nat) (diode ring : Reading) : Canonical (execSensorSample quad
    diode ring s) := by
  unfold execSensorSample
  grind -ring -linarith [memoryWf_sensorFailed, memoryWf_repower, memoryWf_nextMove, memoryWf_requestMove,
    memoryWf_switchOff, canonical_next]

theorem canonical_execAnalogueTrip (h : s.MemoryWf) (region : Nat) : Canonical (execAnalogueTrip region s) := by
  unfold execAnalogueTrip
  grind -ring -linarith [memoryWf_switchOff, canonical_next]

theorem canonical_execAgeingReplan (h : s.MemoryWf) (quad : Nat) (present : BitVec 8) : Canonical (execAgeingReplan quad
    present s) := by
  unfold execAgeingReplan
  grind -ring -linarith [memoryWf_repower, memoryWf_zholosEvent, canonical_next]

theorem memoryWf_startTransfer (h : s.MemoryWf) (q : Nat) : (s.startTransfer q).MemoryWf := by
  unfold State.startTransfer
  grind -ring -linarith [memoryWf_after, memoryWf_modQuad]

theorem canonical_execMigrationBoundary (h : s.MemoryWf) (quad : Nat) : Canonical (execMigrationBoundary quad s) := by
  unfold execMigrationBoundary
  grind -ring -linarith [memoryWf_startTransfer, canonical_next]

theorem canonical_execMigrationForce (h : s.MemoryWf) (quad : Nat) : Canonical (execMigrationForce quad s) := by
  unfold execMigrationForce
  grind -ring -linarith [memoryWf_startTransfer, canonical_next]

/-- Filling bytes keeps the canonical form. -/
theorem Memory.wf_fillFree {m : Memory} (h : Memory.wf m = true) (a fresh n : Nat) : Memory.wf (fillFree m a fresh n) = true := by
  induction n generalizing m a fresh with
  | zero => exact h
  | succ n ih => exact ih (Memory.wf_write _ _ _ h) _ _

theorem memoryWf_landTracks (h : s.MemoryWf) (c : Nat) : (s.landTracks c).MemoryWf := by
  refine List.foldlRecOn (motive := State.MemoryWf) _ _ (memoryWf_modCore h _ _) fun s hs t _ => ?_
  split
  · exact hs
  · unfold State.MemoryWf
    dsimp only
    exact Memory.wf_fillFree hs _ _ _

theorem memoryWf_writeL2pByte (h : s.MemoryWf) (q : Nat) : (s.writeL2pByte q).MemoryWf := by
  unfold State.writeL2pByte
  grind -ring -linarith [memoryWf_putBits]

theorem memoryWf_writeL2p (h : s.MemoryWf) (q : Nat) (e0 : L2p) : (s.writeL2p q e0).MemoryWf := by
  unfold State.writeL2p
  grind -ring -linarith [memoryWf_writeL2pByte, memoryWf_modPart]

theorem memoryWf_beginSwap (h : s.MemoryWf) (q target : Nat) : (s.beginSwap q target).MemoryWf := by
  unfold State.beginSwap
  grind -ring -linarith [memoryWf_post, memoryWf_writeL2p]

theorem canonical_execL2pSwapBegin (h : s.MemoryWf) (quad : Nat) : Canonical (execL2pSwapBegin quad s) := by
  unfold execL2pSwapBegin
  grind -ring -linarith [memoryWf_beginSwap, canonical_next]

theorem canonical_execMigrationTransferDone (h : s.MemoryWf) (quad : Nat) : Canonical (execMigrationTransferDone quad s) :=
    by
  refine canonical_next ?_
  split
  · exact h
  · split
    · exact h
    · exact memoryWf_beginSwap (memoryWf_modQuad (List.foldlRecOn (motive := State.MemoryWf) _ _ h fun s hs c _ => memoryWf_landTracks hs c) _ _) _ _

theorem memoryWf_leaveSilicon (h : s.MemoryWf) (q phys : Nat) : (s.leaveSilicon q phys).MemoryWf := by
  unfold State.leaveSilicon
  exact List.foldlRecOn (motive := State.MemoryWf) _ _ (memoryWf_setQuad h _ _) fun s hs i _ => memoryWf_of_mem_eq hs rfl

theorem memoryWf_takePhysical (h : s.MemoryWf) (q phys : Nat) : (s.takePhysical q phys).MemoryWf := by
  simp only [State.takePhysical]
  refine memoryWf_of_mem_eq (List.foldlRecOn (motive := State.MemoryWf) _ _ (memoryWf_setQuad h q _) fun s hs i _ => ?_) rfl
  exact memoryWf_of_mem_eq hs rfl

theorem memoryWf_recomputeRoutes (h : s.MemoryWf) (q : Nat) : (s.recomputeRoutes q).MemoryWf := by
  refine List.foldlRecOn (motive := State.MemoryWf) _ _ h fun s hs e _ => ?_
  dsimp only
  split
  · exact hs
  · exact memoryWf_setRoute hs _ _

theorem canonical_execL2pSwapComplete (h : s.MemoryWf) (quad : Nat) (pq : BitVec 5) : Canonical (execL2pSwapComplete quad pq
    s) := by
  unfold execL2pSwapComplete
  grind -ring -linarith [memoryWf_takePhysical, memoryWf_leaveSilicon, memoryWf_writeL2p, memoryWf_post,
    memoryWf_recomputeRoutes, canonical_next]

theorem canonical_execMigrationResume (h : s.MemoryWf) (quad : Nat) : Canonical (execMigrationResume quad s) := by
  unfold execMigrationResume
  grind -ring -linarith [memoryWf_modQuad, memoryWf_logEvent, memoryWf_power, memoryWf_nextMove, memoryWf_restart,
    canonical_next]

theorem canonical_execGateRequest (h : s.MemoryWf) (quad : Nat) : Canonical (execGateRequest quad s) := by
  unfold execGateRequest
  grind -ring -linarith [memoryWf_after, memoryWf_modQuad, canonical_next]

theorem canonical_execGateCommit (h : s.MemoryWf) (quad : Nat) : Canonical (execGateCommit quad s) := by
  unfold execGateCommit
  grind -ring -linarith [memoryWf_modQuad, canonical_next]

theorem canonical_execQuadWake (h : s.MemoryWf) (quad : Nat) : Canonical (execQuadWake quad s) := by
  unfold execQuadWake
  grind -ring -linarith [memoryWf_modQuad, memoryWf_refill, memoryWf_beginStart, memoryWf_restart, canonical_next]

/-! ## What HostLink defines -/

theorem memoryWf_ofFunction (h : s.MemoryWf) (f : State → State) (hf : ∀ s, s.MemoryWf → (f s).MemoryWf) : (s.ofFunction
    f).MemoryWf := by
  unfold State.ofFunction
  grind -ring -linarith [memoryWf_toHost]

theorem canonical_execHostPutAliasWrite (h : s.MemoryWf) (n : Nat) (v : Word) : Canonical (execHostPutAliasWrite n v s) :=
    by
  unfold execHostPutAliasWrite
  grind -ring -linarith [memoryWf_ofFunction, memoryWf_logEvent, memoryWf_after, memoryWf_putWord, memoryWf_traffic,
    canonical_next]

theorem memoryWf_bar0 (h : s.MemoryWf) (write : Bool) : (s.bar0 write).MemoryWf := by
  unfold State.bar0
  grind -ring -linarith [memoryWf_ofFunction, memoryWf_toHost]

theorem memoryWf_hostAccess (h : s.MemoryWf) (write : Bool) (byte len : Nat) (v : Word) : (s.hostAccess write byte len
    v).MemoryWf := by
  unfold State.hostAccess
  grind -ring -linarith [memoryWf_ofFunction, memoryWf_toHost, memoryWf_storeParts, memoryWf_traffic, memoryWf_loadParts]

theorem canonical_execHostBar2Access (h : s.MemoryWf) (write : Bool) (byte len : Nat) (v : Word) : Canonical
    (execHostBar2Access write byte len v s) := by
  unfold execHostBar2Access
  grind -ring -linarith [memoryWf_hostAccess, canonical_next]

theorem canonical_execHostCxlMemAccess (h : s.MemoryWf) (write : Bool) (byte len : Nat) (v : Word) : Canonical
    (execHostCxlMemAccess write byte len v s) := by
  unfold execHostCxlMemAccess
  grind -ring -linarith [memoryWf_hostAccess, canonical_next]

theorem canonical_execHostCxlSnoop (h : s.MemoryWf) (_line : Nat) : Canonical (execHostCxlSnoop _line s) := by
  unfold execHostCxlSnoop
  grind -ring -linarith [canonical_next]

theorem canonical_execCxlCacheEnable (h : s.MemoryWf) (on : Bool) : Canonical (execCxlCacheEnable on s) := by
  unfold execCxlCacheEnable
  grind -ring -linarith [memoryWf_modPart, canonical_next]

theorem canonical_execHostAtomic (h : s.MemoryWf) (op : HostOp) (byte width : Nat) (v : Word) : Canonical (execHostAtomic op
    byte width v s) := by
  unfold execHostAtomic
  grind -ring -linarith [memoryWf_ofFunction, memoryWf_toHost, memoryWf_after, memoryWf_updateAt, memoryWf_traffic,
    canonical_next]

theorem canonical_execMsixVectorUnmask (h : s.MemoryWf) (vec : Fin 32) : Canonical (execMsixVectorUnmask vec s) := by
  unfold execMsixVectorUnmask
  grind -ring -linarith [memoryWf_modPart, memoryWf_toHost, canonical_next]

theorem canonical_execPeerRequest (h : s.MemoryWf) (op : PeerOp) (addr : Word) (width : Width) (v : Word) : Canonical
    (execPeerRequest op addr width v s) := by
  unfold execPeerRequest
  grind -ring -linarith [memoryWf_peerReply, memoryWf_perform, memoryWf_traffic, canonical_next]

theorem canonical_execPeerBindingSetup (h : s.MemoryWf) (p : Peer) (own : BitVec 12) : Canonical (execPeerBindingSetup p own
    s) := by
  unfold execPeerBindingSetup
  grind -ring -linarith [memoryWf_modPart, canonical_next, State.MemoryWf]

theorem canonical_execPeerBindingRemove (h : s.MemoryWf) (num : BitVec 12) : Canonical (execPeerBindingRemove num s) := by
  refine canonical_next (List.foldlRecOn (motive := State.MemoryWf) _ _ h fun s hs m _ => ?_)
  split
  · exact memoryWf_peerReply hs _ _
  · exact memoryWf_post hs _

theorem canonical_execLinkBeatRetry (h : s.MemoryWf) (link fails : Nat) : Canonical (execLinkBeatRetry link fails s) := by
  unfold execLinkBeatRetry
  grind -ring -linarith [memoryWf_modDie, memoryWf_post, canonical_next]

/-! ## What Tracks defines -/

theorem canonical_execTbind (h : s.MemoryWf) (tr : BitVec 7) (rs1 : Reg) : Canonical (execTbind tr rs1 s) := by
  unfold execTbind
  grind -ring -linarith [memoryWf_trap, memoryWf_advance, memoryWf_modStrand, memoryWf_modCore, canonical_next]

theorem canonical_execTfree (h : s.MemoryWf) (tr : BitVec 7) : Canonical (execTfree tr s) := by
  unfold execTfree
  grind -ring -linarith [memoryWf_trap, memoryWf_stall, memoryWf_advance, memoryWf_resume, memoryWf_modStrand,
    memoryWf_modCore, canonical_next]

theorem canonical_execThead (h : s.MemoryWf) (rd : Reg) (tr : BitVec 7) : Canonical (execThead rd tr s) := by
  unfold execThead
  grind -ring -linarith [memoryWf_trap, memoryWf_stall, memoryWf_complete, memoryWf_resume, canonical_next]

theorem memoryWf_pickPage (h : s.MemoryWf) (core : Nat) (l : List Nat) : (s.pickPage core l).2.MemoryWf := by
  unfold State.pickPage
  grind -ring -linarith [memoryWf_modCore]

theorem memoryWf_setPage (h : s.MemoryWf) (k : Nat) (p : PageState) : (s.setPage k p).MemoryWf := by
  unfold State.setPage
  grind -ring -linarith [memoryWf_modDie]

theorem canonical_execPgalloc (h : s.MemoryWf) (rd : Reg) : Canonical (execPgalloc rd s) := by
  unfold execPgalloc
  grind -ring -linarith [memoryWf_complete, memoryWf_resume, memoryWf_stall, memoryWf_post, memoryWf_pickPage,
    memoryWf_setPage, canonical_next]

theorem canonical_execPoolBorrowReply (h : s.MemoryWf) (p : Place) (lender : Nat) : Canonical (execPoolBorrowReply p lender
    s) := by
  exact canonical_next (List.foldlRecOn (motive := State.MemoryWf) _ _ h fun s hs k _ => memoryWf_setPage hs k _)

theorem canonical_execPgfree (h : s.MemoryWf) (rs1 : Reg) : Canonical (execPgfree rs1 s) := by
  unfold execPgfree
  grind -ring -linarith [memoryWf_advance, memoryWf_setPage, memoryWf_trap, canonical_next]

theorem memoryWf_readPlace (h : s.MemoryWf) (a : Word) (ps : List Part) (home : Home) : (s.readPlace a ps home).2.MemoryWf
    := by
  unfold State.readPlace
  grind -ring -linarith [memoryWf_measure, memoryWf_readOwn, memoryWf_noteAccess]

theorem memoryWf_readWords (h : s.MemoryWf) (w : Nat) (as : List Word) : (s.readWords w as).2.MemoryWf := by
  induction as generalizing s with
  | nil => exact h
  | cons a r ih => grind -ring -linarith [State.readWords, memoryWf_readPlace]

theorem memoryWf_kvSlot (h : s.MemoryWf) (desc : Word) (p : Nat) : (s.kvSlot desc p).2.MemoryWf := by
  unfold State.kvSlot
  grind -ring -linarith [memoryWf_readWords]

theorem memoryWf_kvFault (h : s.MemoryWf) (desc : Word) (f : KvFail) : (s.kvFault desc f).MemoryWf := by
  unfold State.kvFault
  grind -ring -linarith [memoryWf_badAccess, memoryWf_badAccessAs, memoryWf_trap]

theorem memoryWf_kvDone (h : s.MemoryWf) (far : Bool) (rd : Reg) (v : Word) : (s.kvDone far rd v).MemoryWf := by
  unfold State.kvDone
  grind -ring -linarith [memoryWf_complete, memoryWf_switch]

theorem canonical_execKvmap (h : s.MemoryWf) (rd rs1 rs2 : Reg) : Canonical (execKvmap rd rs1 rs2 s) := by
  unfold execKvmap
  grind -ring -linarith [memoryWf_kvSlot, memoryWf_kvFault, memoryWf_readWords, memoryWf_badAccessAs, memoryWf_kvDone,
    canonical_next]

theorem memoryWf_storeGen (h : s.MemoryWf) (a : Word) (gen : Nat) (ps : List Part) (home : Home) : (s.storeGen a gen ps
    home).MemoryWf := by
  unfold State.storeGen
  grind -ring -linarith [memoryWf_noteAccess, memoryWf_measure, memoryWf_post, memoryWf_discardStore, memoryWf_storeParts]

theorem canonical_execKvmapW (h : s.MemoryWf) (rd rs1 rs2 : Reg) : Canonical (execKvmapW rd rs1 rs2 s) := by
  unfold execKvmapW
  grind -ring -linarith [memoryWf_kvSlot, memoryWf_kvFault, memoryWf_trap, memoryWf_kvDone, memoryWf_storeGen,
    memoryWf_badAccessAs, canonical_next]

theorem memoryWf_modSender (h : s.MemoryWf) (f : Strand → Strand) : (s.modSender f).MemoryWf := by
  unfold State.modSender
  grind -ring -linarith [memoryWf_modStrand]

theorem memoryWf_align (h : s.MemoryWf) (c tr s0 : Nat) : (s.align c tr s0).MemoryWf := by
  unfold State.align
  grind -ring -linarith [memoryWf_modCore, memoryWf_checkMarks]

/-- Canonical memory, of the second part of a pair. -/
theorem memoryWf_snd {α : Type} (a : α) {t : State} (h : t.MemoryWf) : State.MemoryWf (a, t).2 := h

theorem memoryWf_readTrack (h : s.MemoryWf) (c tr pos : Nat) : (s.readTrack c tr pos).2.MemoryWf := by
  have read := memoryWf_readHome h s.who ⟨trackKey c tr pos, 256⟩
  exact memoryWf_snd (BitVec.ofNat 256 (s.readHome s.who ⟨trackKey c tr pos, 256⟩).1) read

theorem memoryWf_writeTrack (h : s.MemoryWf) (c tr pos v : Nat) : (s.writeTrack c tr pos v).MemoryWf := by
  unfold State.writeTrack
  grind -ring -linarith [memoryWf_modCore, memoryWf_writeHome]

theorem memoryWf_trackHead (h : s.MemoryWf) (tr : BitVec 7) (last final : Int → Int) {x} {t : State} (e : s.trackHead tr
    last final = .ok (x, t)) : t.MemoryWf := by
  unfold State.trackHead at e
  grind -ring -linarith [memoryWf_modSender]

theorem canonical_seek (h : s.MemoryWf) (tr : BitVec 7) (s0 : Nat) : (s.seek tr s0).Canonical := by
  simp only [State.seek]
  grind -ring -linarith [Ran.Canonical, memoryWf_trackHead, memoryWf_modCore, memoryWf_after]

theorem canonical_execTseek (h : s.MemoryWf) (tagged : Bool) (f : TrackF) (x0 : Slots) : Canonical (execTseek tagged f x0 s)
    := by
  unfold execTseek
  grind -ring -linarith [memoryWf_runCommand, canonical_seek, canonical_next]

theorem canonical_execTrew (h : s.MemoryWf) (tagged : Bool) (f : TrackF) (x0 : Slots) : Canonical (execTrew tagged f x0 s)
    := by
  exact canonical_next (memoryWf_runCommand h _ _ _ _ _ _ _ _ fun s hs => canonical_seek hs _ _)

theorem canonical_execTrackShiftDone (h : s.MemoryWf) (core : Nat) (tr : BitVec 7) : Canonical (execTrackShiftDone core tr
    s) := by
  unfold execTrackShiftDone
  grind -ring -linarith [memoryWf_checkMarks, memoryWf_modCore, canonical_next]

theorem canonical_execTrd (h : s.MemoryWf) (tagged : Bool) (f : TrackF) (x0 : Slots) : Canonical (execTrd tagged f x0 s) :=
    by
  refine canonical_next (memoryWf_runCommand h _ _ _ _ _ _ _ _ fun s hs => ?_)
  split
  · exact hs
  · rename_i e
    refine List.foldlRecOn (motive := State.MemoryWf) _ _ (memoryWf_align (memoryWf_trackHead hs _ _ _ e) _ _ _) fun s hs p _ => ?_
    exact memoryWf_modSender (memoryWf_readTrack hs _ _ _) _

theorem canonical_execTwr (h : s.MemoryWf) (tagged : Bool) (f : TrackF) (x0 : Slots) : Canonical (execTwr tagged f x0 s) :=
    by
  refine canonical_next (memoryWf_runCommand h _ _ _ _ _ _ _ _ fun s hs => ?_)
  split
  · exact hs
  · rename_i e
    refine List.foldlRecOn (motive := State.MemoryWf) _ _ (memoryWf_align (memoryWf_trackHead hs _ _ _ e) _ _ _) fun s hs p _ => ?_
    exact memoryWf_writeTrack hs _ _ _ _

theorem memoryWf_burst (h : s.MemoryWf) (f : TrackF) (sl : Slots) {x} {t : State} (e : s.burst f sl = .ok (t, x)) :
    t.MemoryWf := by
  unfold State.burst at e
  grind -ring -linarith [memoryWf_trackHead]

theorem memoryWf_eachPosition (h : s.MemoryWf) (f : TrackF) (s0 : Nat) (move : State → Nat → Nat → State) (hmove : ∀ s i j,
    s.MemoryWf → (move s i j).MemoryWf) : (s.eachPosition f s0 move).MemoryWf := by
  unfold State.eachPosition
  refine List.foldlRecOn (motive := State.MemoryWf) _ _ h fun s hs i _ => ?_
  exact List.foldlRecOn (motive := State.MemoryWf) _ _ (memoryWf_align hs _ _ _) fun s hs p _ => hmove s _ _ hs

theorem canonical_execTblk (h : s.MemoryWf) (tagged : Bool) (f : TrackF) (sl : Slots) : Canonical (execTblk tagged f sl s)
    := by
  unfold execTblk
  grind -ring -linarith [memoryWf_runCommand, memoryWf_burst, memoryWf_eachPosition, memoryWf_readTrack,
    memoryWf_discardStore, memoryWf_homeStore, canonical_next, State.MemoryWf, Ran.Canonical]

theorem canonical_execTblkw (h : s.MemoryWf) (tagged : Bool) (f : TrackF) (sl : Slots) : Canonical (execTblkw tagged f sl s)
    := by
  unfold execTblkw
  grind -ring -linarith [memoryWf_runCommand, memoryWf_burst, memoryWf_eachPosition, memoryWf_homeLoad, memoryWf_writeTrack,
    canonical_next, State.MemoryWf, Ran.Canonical]

/-! ## What Loader defines -/

theorem memoryWf_loadBytes (h : s.MemoryWf) (l : List (Nat × Byte)) : (s.loadBytes l).MemoryWf := by
  exact List.foldlRecOn (motive := State.MemoryWf) _ _ h fun s hs e _ => memoryWf_writeHome hs _ _

theorem memoryWf_loadQuad (h : s.MemoryWf) (img : Image) (q : Nat) : (s.loadQuad img q).MemoryWf := by
  unfold State.loadQuad
  grind -ring -linarith [memoryWf_modQuad, memoryWf_loadBytes, State.MemoryWf]

theorem memoryWf_loadTracks (h : s.MemoryWf) (img : Image) (c : Nat) : (s.loadTracks img c).MemoryWf := by
  exact List.foldlRecOn (motive := State.MemoryWf) _ _ h fun s hs w _ => memoryWf_modCore (memoryWf_writeHome hs _ _) _ _

theorem memoryWf_loadSection (h : s.MemoryWf) (img : Image) (n : Nat) (x0 : Section) : (s.loadSection img n x0).MemoryWf :=
    by
  unfold State.loadSection
  grind -ring -linarith [memoryWf_loadBytes]

theorem canonical_execImageLoad (h : s.MemoryWf) (img : Image) : Canonical (execImageLoad img s) := by
  refine canonical_next ?_
  split
  · exact memoryWf_toZholos h _
  · have sections (qs cs : List Nat) (l : List (Section × Nat)) : (l.foldl (fun s e => s.loadSection img e.2 e.1)
        (cs.foldl (fun s c => s.loadTracks img c) (qs.foldl (fun s q => s.loadQuad img q) s))).MemoryWf :=
      List.foldlRecOn (motive := State.MemoryWf) _ _ (List.foldlRecOn (motive := State.MemoryWf) _ _ (List.foldlRecOn (motive := State.MemoryWf) _ _ h fun s hs q _ => memoryWf_loadQuad hs img q) fun s hs c _ => memoryWf_loadTracks hs img c)
        fun s hs e _ => memoryWf_loadSection hs img e.2 e.1
    dsimp only
    split
    · exact memoryWf_modPart (sections _ _ _) _
    · exact memoryWf_toZholos (memoryWf_modPart (sections _ _ _) _) _

/-! ## What Zholos defines -/

theorem memoryWf_powerNew (h : s.MemoryWf) : s.powerNew.MemoryWf := by
  refine List.foldlRecOn (motive := State.MemoryWf) _ _ (List.foldlRecOn (motive := State.MemoryWf) _ _ h fun s hs q _ => memoryWf_power hs _ _ _) fun s hs r _ => ?_
  split
  · exact memoryWf_divideAmong hs _ _ _ _
  · exact hs

theorem memoryWf_createPartition (h : s.MemoryWf) (p : PartSpec) : (s.createPartition p).MemoryWf := by
  refine memoryWf_toZholos (memoryWf_powerNew (List.foldlRecOn (motive := State.MemoryWf) _ _ ?_ fun s hs x _ => memoryWf_takePhysical hs _ _)) _
  exact List.foldlRecOn (motive := State.MemoryWf) _ _ h fun s hs r _ => memoryWf_modRegion hs _ _

theorem canonical_execPartitionCreate (h : s.MemoryWf) (p : PartSpec) : Canonical (execPartitionCreate p s) := by
  unfold execPartitionCreate
  grind -ring -linarith [memoryWf_createPartition, memoryWf_toZholos, canonical_next]

theorem memoryWf_leaveAll (h : s.MemoryWf) : s.leaveAll.MemoryWf := by
  exact List.foldlRecOn (motive := State.MemoryWf) _ _ h fun s hs q _ => memoryWf_leaveSilicon hs _ _

theorem memoryWf_tearDown (h : s.MemoryWf) : s.tearDown.MemoryWf := by
  unfold State.tearDown
  grind -ring -linarith [memoryWf_leaveAll, State.MemoryWf]

theorem canonical_execPartitionTeardown (h : s.MemoryWf) : Canonical (execPartitionTeardown s) := by
  unfold execPartitionTeardown
  grind -ring -linarith [memoryWf_tearDown, memoryWf_createPartition, memoryWf_toZholos, canonical_next]

theorem memoryWf_firstEntered (h : s.MemoryWf) (u : State) : (s.firstEntered u).MemoryWf := by
  unfold State.firstEntered
  grind -ring -linarith [memoryWf_wakeQuad, memoryWf_entered]

theorem memoryWf_firstStrand (h : s.MemoryWf) : s.firstStrand.MemoryWf := by
  have framed (u : State) (hu : u.MemoryWf) (l : List Nat) (a v : Word) :
      ((((l.foldl (fun s q => s.writeL2pByte q) u).poke 0 a 64 64 0).getD (l.foldl (fun s q => s.writeL2pByte q) u)).modCore 0
        fun k => { k with fphead := v }).MemoryWf :=
    memoryWf_modCore (memoryWf_getD_poke (List.foldlRecOn (motive := State.MemoryWf) _ _ hu fun s hs q _ => memoryWf_writeL2pByte hs q) _ _ _ _ _) _ _
  have body := Eq.refl State.firstStrand
  conv at body =>
    rhs
    delta State.firstStrand
  rw [body]
  beta_reduce
  clear body
  extract_lets +onlyGivenNames head w
  generalize e : ({ s with
    part := { s.part with ptbase := w 1 }
    cores := s.part.coreList.foldl (fun (t : Tbl Core) c =>
      Tbl.set t c { Tbl.get t Core.reset c with tvec := w 3 }) s.cores } : State) = s1
  have hs1 : s1.MemoryWf := memoryWf_of_mem_eq h (by rw [← e])
  extract_lets s1' s2 s3
  have hs3 : s3.MemoryWf := framed s1 hs1 _ _ _
  have started := memoryWf_startTask hs3
  obtain ⟨free, hfree⟩ : ∃ f, f = (s3.core 0).freeBank := ⟨_, rfl⟩
  obtain ⟨task, htask⟩ : ∃ f, f = s3.startTask := ⟨_, rfl⟩
  rw [← hfree, ← htask]
  rw [← htask] at started
  clear hfree htask
  obtain _ | b := free
  · exact memoryWf_toZholos hs3 _
  · have begun := started ⟨0, b⟩ 0
    dsimp only
    generalize task ⟨0, b⟩ 0 = r at begun ⊢
    obtain ⟨t, _ | _⟩ := r
    · exact memoryWf_toZholos begun _
    · exact memoryWf_toZholos (memoryWf_firstEntered (memoryWf_modStrand begun _ _) _) _

theorem memoryWf_meetBoot (h : s.MemoryWf) : s.meetBoot.MemoryWf := by
  unfold State.meetBoot
  grind -ring -linarith [memoryWf_meetParts]

theorem canonical_execPartitionStart (h : s.MemoryWf) : Canonical (execPartitionStart s) := by
  unfold execPartitionStart
  refine canonical_next ?_
  split
  · exact memoryWf_toZholos h _
  · split
    · exact memoryWf_toZholos (memoryWf_meetBoot h) _
    · exact memoryWf_firstStrand (memoryWf_meetBoot h)

theorem canonical_execOwnerKeyDelivery (h : s.MemoryWf) (owner shared : BitVec 256) : Canonical (execOwnerKeyDelivery owner
    shared s) := by
  unfold execOwnerKeyDelivery
  grind -ring -linarith [memoryWf_modPart, canonical_next, State.MemoryWf]

theorem canonical_execAttestationReport (h : s.MemoryWf) (nonce : Word) : Canonical (execAttestationReport nonce s) := by
  unfold execAttestationReport
  grind -ring -linarith [memoryWf_toZholos, memoryWf_modPart, canonical_next, State.MemoryWf]

theorem canonical_execPatrolScrub (h : s.MemoryWf) (group : Nat) : Canonical (execPatrolScrub group s) := by
  unfold execPatrolScrub
  grind -ring -linarith [memoryWf_logEvent, memoryWf_zholosEvent, canonical_next]

theorem memoryWf_writeColophon (h : s.MemoryWf) (seq : Nat) (c : Colophon) : (s.writeColophon seq c).MemoryWf := by
  unfold State.writeColophon
  grind -ring -linarith [State.MemoryWf]

theorem memoryWf_secondCause (h : s.MemoryWf) (cause : Nat) : (s.secondCause cause).MemoryWf := by
  unfold State.secondCause
  grind -ring -linarith [State.MemoryWf]

theorem memoryWf_fatalIn (h : s.MemoryWf) (cause : Nat) (ofModule : Bool) : (s.fatalIn cause ofModule).MemoryWf := by
  unfold State.fatalIn
  grind -ring -linarith [memoryWf_secondCause, memoryWf_writeColophon, memoryWf_post, State.MemoryWf]

theorem canonical_execFatalError (h : s.MemoryWf) (cause : FatalCause) (ofModule : Bool) : Canonical (execFatalError cause
    ofModule s) := by
  unfold execFatalError
  grind -ring -linarith [memoryWf_zholosEvent, memoryWf_fatalIn, canonical_next, State.MemoryWf]

theorem canonical_execZholosWatchdog (h : s.MemoryWf) : Canonical (execZholosWatchdog s) := by
  unfold execZholosWatchdog
  grind -ring -linarith [memoryWf_fatalIn, canonical_next]

theorem canonical_execColophonRead (h : s.MemoryWf) (slot : Fin 8) : Canonical (execColophonRead slot s) := by
  unfold execColophonRead
  grind -ring -linarith [memoryWf_toZholos, canonical_next]

theorem memoryWf_powered (h : s.MemoryWf) (b : Boot) : (s.powered b).MemoryWf := by
  unfold State.powered
  grind -ring -linarith [memoryWf_leaveAll, memoryWf_reset, State.MemoryWf]

theorem memoryWf_bootStops (h : s.MemoryWf) (n : Nat) : (s.bootStops n).MemoryWf := by
  unfold State.bootStops
  grind -ring -linarith [memoryWf_toZholos, State.MemoryWf]

theorem canonical_execColdBoot (h : s.MemoryWf) (b : Boot) : Canonical (execColdBoot b s) := by
  unfold execColdBoot
  grind -ring -linarith [memoryWf_powered, memoryWf_bootStops, canonical_next, State.MemoryWf]

/-! ## What Errors defines -/

theorem memoryWf_groupLost (h : s.MemoryWf) (q structure' : Nat) (owner : Option Word) : (s.groupLost q structure'
    owner).MemoryWf := by
  unfold State.groupLost
  grind -ring -linarith [memoryWf_lose, memoryWf_logEvent, memoryWf_modQuad]

theorem memoryWf_upset (h : s.MemoryWf) (u : Upset) : (s.upset u).MemoryWf := by
  cases u with
  | correctedQuad q => exact memoryWf_modQuad h _ _
  | correctedCache c => exact memoryWf_modCluster h _ _
  | correctedHbm d => exact memoryWf_modDie h _ _
  | group g =>
    simp only [State.upset]
    split
    · exact memoryWf_post h _
    · exact Memory.wf_writeBits _ _ _ _ h
  | scalarRegister p r => exact memoryWf_groupLost (memoryWf_modStrand h _ _) _ _ _
  | vectorRegister p v g => exact memoryWf_groupLost (memoryWf_modStrand h _ _) _ _ _
  | slotGroup q i g => exact memoryWf_groupLost (memoryWf_modQuad h _ _) _ _ _
  | accGroup q i g => exact memoryWf_groupLost (memoryWf_modQuad h _ _) _ _ _
  | cleanLine c => exact memoryWf_modCluster h _ _
  | dirtyGroup c sfp g =>
    simp only [State.upset]
    have zeroed : State.MemoryWf { s with mem := s.mem.writeBits (64 * g) 64 0 } := Memory.wf_writeBits _ _ _ _ h
    exact memoryWf_lose (memoryWf_logEvent (memoryWf_modCluster zeroed _ _) _ _ _ _) _
  | parity cl core va =>
    simp only [State.upset]
    split
    · exact memoryWf_modCore (memoryWf_modCluster h _ _) _ _
    · exact memoryWf_modCluster h _ _
  | slip c t d fails => exact memoryWf_modCore h _ _
  | spineWire c g => exact memoryWf_spineFails h _ _

end Sys2Proof.Machine
end

section
/-! Memory stays in canonical form (O60): the press, copies, faults, vectors and the heads of the queues. -/

namespace Sys2Proof.Machine

set_option Elab.async false

variable {s : State}

/-! ## What Stream defines -/

theorem canonical_checked (h : s.MemoryWf) (l : List (Bool × Nat)) (run : State → Ran) (hrun : ∀ s, s.MemoryWf → (run
    s).Canonical) : (s.checked l run).Canonical := by
  unfold State.checked
  grind -ring -linarith [Ran.Canonical]

theorem canonical_ran (h : s.MemoryWf) (e0 : Stop) (acc : Access) (n : Nat) : (Stop.ran e0 s acc n).Canonical := by
  unfold Stop.ran
  grind -ring -linarith [Ran.Canonical]

theorem memoryWf_noteReached (h : s.MemoryWf) (acc : Access) (l : List Reached) : (s.noteReached acc l).MemoryWf := by
  unfold State.noteReached
  have filled : (l.foldl (fun s p => s.fillEngine s.ctx.home acc (!s.ctx.priv) p.spot.a) s).MemoryWf :=
    List.foldlRecOn (motive := State.MemoryWf) _ _ h fun s hs p _ => memoryWf_fillEngine hs _ _ _ _
  grind -ring -linarith [memoryWf_traffic]

theorem memoryWf_readSpots (h : s.MemoryWf) (l : List Spot) {vs : List Nat} {t : State} (e : s.readSpots l = .ok (vs, t)) :
    t.MemoryWf := by
  unfold State.readSpots at e
  grind -ring -linarith [memoryWf_noteReached, memoryWf_loadStreamed]

theorem canonical_readSpots (h : s.MemoryWf) (l : List Spot) {r : Ran} (e : s.readSpots l = .error r) : r.Canonical := by
  unfold State.readSpots at e
  grind -ring -linarith [memoryWf_noteReached, memoryWf_loadStreamed, canonical_ran]

theorem memoryWf_storeReached (h : s.MemoryWf) (l : List (Reached × Nat)) : (s.storeReached l).MemoryWf := by
  unfold State.storeReached
  exact memoryWf_storeStreamed (List.foldlRecOn (motive := State.MemoryWf) _ _ h fun s hs e _ => memoryWf_discardStore hs _ _ _) _ _

theorem memoryWf_writeSpots (h : s.MemoryWf) (n : Nat) (l : List (Spot × Nat)) {t : State} (e : s.writeSpots n l = .ok t) :
    t.MemoryWf := by
  unfold State.writeSpots at e
  grind -ring -linarith [memoryWf_storeReached, memoryWf_noteReached, canonical_ran]

theorem canonical_writeSpots (h : s.MemoryWf) (n : Nat) (l : List (Spot × Nat)) {r : Ran} (e : s.writeSpots n l = .error r)
    :
    r.Canonical := by
  unfold State.writeSpots at e
  grind -ring -linarith [memoryWf_noteReached, memoryWf_storeReached, canonical_ran]

theorem memoryWf_writeRest (h : s.MemoryWf) (l : List (Spot × Nat)) {t : State} (e : s.writeRest l = .ok t) : t.MemoryWf :=
    by
  exact memoryWf_writeSpots h _ _ e

theorem canonical_writeRest (h : s.MemoryWf) (l : List (Spot × Nat)) {r : Ran} (e : s.writeRest l = .error r) : r.Canonical
    :=
  canonical_writeSpots h _ _ e

theorem memoryWf_holdTypes (h : s.MemoryWf) (ts : List (BitVec 5)) : (s.holdTypes ts).MemoryWf := by
  unfold State.holdTypes
  grind -ring -linarith [State.MemoryWf]

/-! ## What Press defines -/

theorem canonical_pressChecked (h : s.MemoryWf) (op : Nat) (f : PressF) (sl : Slots) (undef : Bool) (run : State → Ran)
    (hrun : ∀ s, s.MemoryWf → (run s).Canonical) : (s.pressChecked op f sl undef run).Canonical := by
  unfold State.pressChecked
  grind -ring -linarith [canonical_checked]

theorem memoryWf_press (h : s.MemoryWf) (op : Nat) (tagged : Bool) (f : PressF) (sl : Slots) (run : State → Ran) (hrun : ∀
    s, s.MemoryWf → (run s).Canonical) : (s.press op tagged f sl run).MemoryWf := by
  unfold State.press
  grind -ring -linarith [memoryWf_runCommand]

theorem memoryWf_setSlot (h : s.MemoryWf) (k : Nat) (v : Slot) : (s.setSlot k v).MemoryWf := by
  unfold State.setSlot
  grind -ring -linarith [memoryWf_modQuad]

theorem memoryWf_setAcc (h : s.MemoryWf) (a : BitVec 2) (v : Acc) : (s.setAcc a v).MemoryWf := by
  unfold State.setAcc
  grind -ring -linarith [memoryWf_modQuad]

theorem canonical_resultWord (h : s.MemoryWf) (put : Bool) (key v : Nat) : (s.resultWord put key v).Canonical := by
  unfold State.resultWord
  grind -ring -linarith [memoryWf_discardStore, memoryWf_putWord, memoryWf_homeStore, Ran.Canonical]

theorem canonical_runMclaim (h : s.MemoryWf) (f : PressF) (sl : Slots) : (runMclaim f sl s).Canonical := by
  unfold runMclaim
  grind -ring -linarith [canonical_pressChecked, canonical_checked, memoryWf_modQuad, canonical_resultWord, Ran.Canonical]

theorem canonical_runMfree (h : s.MemoryWf) (f : PressF) (sl : Slots) : (runMfree f sl s).Canonical := by
  unfold runMfree
  grind -ring -linarith [canonical_pressChecked, memoryWf_modQuad, Ran.Canonical]

theorem canonical_runMload (h : s.MemoryWf) (f : PressF) (sl : Slots) : (runMload f sl s).Canonical := by
  refine canonical_pressChecked h _ _ _ _ _ fun s h => ?_
  refine canonical_checked (memoryWf_holdTypes h _) _ _ fun s hs => ?_
  split
  · exact canonical_readSpots hs _ ‹_›
  · rename_i e
    have ht := memoryWf_readSpots hs _ e
    split
    · exact canonical_readSpots ht _ ‹_›
    · rename_i e'
      have hu := memoryWf_readSpots ht _ e'
      split
      · exact hu
      · exact memoryWf_setSlot hu _ _

theorem canonical_runMloadAcc (h : s.MemoryWf) (f : PressF) (sl : Slots) : (runMloadAcc f sl s).Canonical := by
  refine canonical_pressChecked h _ _ _ _ _ fun s h => ?_
  refine canonical_checked (memoryWf_holdTypes h _) _ _ fun s hs => ?_
  split
  · exact canonical_readSpots hs _ ‹_›
  · rename_i e
    have ht := memoryWf_readSpots hs _ e
    split
    · exact canonical_readSpots ht _ ‹_›
    · rename_i e'
      have hu := memoryWf_readSpots ht _ e'
      exact memoryWf_setAcc hu _ _

theorem canonical_runMzero (h : s.MemoryWf) (f : PressF) (sl : Slots) : (runMzero f sl s).Canonical := by
  unfold runMzero
  grind -ring -linarith [canonical_pressChecked, memoryWf_setAcc, Ran.Canonical]

theorem canonical_runMma (h : s.MemoryWf) (f : PressF) (sl : Slots) : (runMma f sl s).Canonical := by
  unfold runMma
  grind -ring -linarith [canonical_pressChecked, canonical_checked, memoryWf_setAcc, Ran.Canonical]

theorem canonical_runMmaSp (h : s.MemoryWf) (f : PressF) (sl : Slots) : (runMmaSp f sl s).Canonical := by
  unfold runMmaSp
  grind -ring -linarith [canonical_pressChecked, canonical_checked, memoryWf_setAcc, Ran.Canonical]

theorem canonical_runMdrain (h : s.MemoryWf) (f : PressF) (sl : Slots) : (runMdrain f sl s).Canonical := by
  refine canonical_pressChecked h _ _ _ _ _ fun s hs => ?_
  refine canonical_checked (memoryWf_holdTypes hs _) _ _ fun s hs => ?_
  grind -ring -linarith [Ran.Canonical, memoryWf_writeRest, canonical_writeRest]

theorem canonical_runMstat (h : s.MemoryWf) (f : PressF) (sl : Slots) : (runMstat f sl s).Canonical := by
  unfold runMstat
  grind -ring -linarith [canonical_pressChecked, canonical_resultWord, Ran.Canonical]

theorem canonical_execMclaim (h : s.MemoryWf) (tagged : Bool) (f : PressF) (sl : Slots) : Canonical (execMclaim tagged f sl
    s) := by
  unfold execMclaim
  grind -ring -linarith [memoryWf_press, canonical_runMclaim, canonical_next]

theorem canonical_execMfree (h : s.MemoryWf) (tagged : Bool) (f : PressF) (sl : Slots) : Canonical (execMfree tagged f sl s)
    := by
  unfold execMfree
  grind -ring -linarith [memoryWf_press, canonical_runMfree, canonical_next]

theorem canonical_execMload (h : s.MemoryWf) (tagged : Bool) (f : PressF) (sl : Slots) : Canonical (execMload tagged f sl s)
    := by
  unfold execMload
  grind -ring -linarith [memoryWf_press, canonical_runMload, canonical_next]

theorem canonical_execMloadAcc (h : s.MemoryWf) (tagged : Bool) (f : PressF) (sl : Slots) : Canonical (execMloadAcc tagged f
    sl s) := by
  unfold execMloadAcc
  grind -ring -linarith [memoryWf_press, canonical_runMloadAcc, canonical_next]

theorem canonical_execMzero (h : s.MemoryWf) (tagged : Bool) (f : PressF) (sl : Slots) : Canonical (execMzero tagged f sl s)
    := by
  unfold execMzero
  grind -ring -linarith [memoryWf_press, canonical_runMzero, canonical_next]

theorem canonical_execMma (h : s.MemoryWf) (tagged : Bool) (f : PressF) (sl : Slots) : Canonical (execMma tagged f sl s) :=
    by
  unfold execMma
  grind -ring -linarith [memoryWf_press, canonical_runMma, canonical_next]

theorem canonical_execMmaSp (h : s.MemoryWf) (tagged : Bool) (f : PressF) (sl : Slots) : Canonical (execMmaSp tagged f sl s)
    := by
  unfold execMmaSp
  grind -ring -linarith [memoryWf_press, canonical_runMmaSp, canonical_next]

theorem canonical_execMdrain (h : s.MemoryWf) (tagged : Bool) (f : PressF) (sl : Slots) : Canonical (execMdrain tagged f sl
    s) := by
  unfold execMdrain
  grind -ring -linarith [memoryWf_press, canonical_runMdrain, canonical_next]

theorem canonical_execMstat (h : s.MemoryWf) (tagged : Bool) (f : PressF) (sl : Slots) : Canonical (execMstat tagged f sl s)
    := by
  unfold execMstat
  grind -ring -linarith [memoryWf_press, canonical_runMstat, canonical_next]

/-! ## What Copy defines -/

theorem memoryWf_shapeWords (h : s.MemoryWf) (a : Word) (unresolved : Bool) {x} {t : State} (e : s.shapeWords a unresolved =
    .ok (x, t)) : t.MemoryWf := by
  simp only [State.shapeWords] at e
  grind -ring -linarith [memoryWf_readSpots]

theorem canonical_finishCopy (h : s.MemoryWf) (op : Nat) (f : CopyF) (word : Option Nat) (value : Nat) (fx : Fx) :
    (s.finishCopy op f word value fx).Canonical := by
  unfold State.finishCopy
  grind -ring -linarith [Ran.Canonical]

theorem canonical_withRecord (h : s.MemoryWf) (a : Word) (unresolved : Bool) (run : State → ShapeRec → Option Nat → Ran)
    (hrun : ∀ s r k, s.MemoryWf → (run s r k).Canonical) : (s.withRecord a unresolved run).Canonical := by
  simp only [State.withRecord]
  split
  · exact h
  · rename_i ws t e
    have ht : t.MemoryWf := by
      split at e
      · cases e; exact h
      · exact memoryWf_shapeWords h _ _ e
    split
    · exact ht
    · split
      · exact ht
      · exact hrun _ _ _ ht

theorem canonical_copy (h : s.MemoryWf) (f : CopyF) (sl : Slots) (rec : Word) (recUn : Bool) (source : ShapeRec → Word ×
    Bool) : (s.copy f sl rec recUn source).Canonical := by
  refine canonical_withRecord h _ _ _ fun s r word hs => ?_
  refine canonical_checked (memoryWf_holdTypes hs _) _ _ fun s hs => ?_
  dsimp only
  split
  · exact canonical_readSpots hs _ ‹_›
  · rename_i bits t e
    have ht := memoryWf_readSpots hs _ e
    have kept (p : Prop) [Decidable p] (n : Nat) : (if p then { t with fresh := n } else t).MemoryWf := by
      split <;> exact ht
    split
    · rename_i e'
      exact canonical_writeRest (kept _ _) _ e'
    · rename_i e'
      exact canonical_finishCopy (memoryWf_writeRest (kept _ _) _ e') _ _ _ _ _

theorem canonical_fillRegion (h : s.MemoryWf) (f : CopyF) (sl : Slots) (rec : Word) (recUn : Bool) (value : ShapeRec → Word)
    : (s.fillRegion f sl rec recUn value).Canonical := by
  refine canonical_withRecord h _ _ _ fun s r word hs => ?_
  refine canonical_checked (memoryWf_holdTypes hs _) _ _ fun s hs => ?_
  grind -ring -linarith [Ran.Canonical, memoryWf_writeRest, canonical_writeRest, canonical_finishCopy]

theorem canonical_runCpy (h : s.MemoryWf) (f : CopyF) (sl : Slots) : (runCpy f sl s).Canonical := by
  unfold runCpy
  grind -ring -linarith [canonical_copy]

theorem canonical_runCpyRb (h : s.MemoryWf) (f : CopyF) (sl : Slots) : (runCpyRb f sl s).Canonical := by
  unfold runCpyRb
  grind -ring -linarith [canonical_copy]

theorem canonical_runCfill (h : s.MemoryWf) (f : CopyF) (sl : Slots) : (runCfill f sl s).Canonical := by
  unfold runCfill
  grind -ring -linarith [canonical_fillRegion]

theorem canonical_runCfillRb (h : s.MemoryWf) (f : CopyF) (sl : Slots) : (runCfillRb f sl s).Canonical := by
  unfold runCfillRb
  grind -ring -linarith [canonical_fillRegion]

theorem canonical_execCpy (h : s.MemoryWf) (tagged : Bool) (f : CopyF) (sl : Slots) : Canonical (execCpy tagged f sl s) :=
    by
  unfold execCpy
  grind -ring -linarith [memoryWf_runCommand, canonical_runCpy, canonical_next]

theorem canonical_execCpyRb (h : s.MemoryWf) (tagged : Bool) (f : CopyF) (sl : Slots) : Canonical (execCpyRb tagged f sl s)
    := by
  unfold execCpyRb
  grind -ring -linarith [memoryWf_runCommand, canonical_runCpyRb, canonical_next]

theorem canonical_execCfill (h : s.MemoryWf) (tagged : Bool) (f : CopyF) (sl : Slots) : Canonical (execCfill tagged f sl s)
    := by
  unfold execCfill
  grind -ring -linarith [memoryWf_runCommand, canonical_runCfill, canonical_next]

theorem canonical_execCfillRb (h : s.MemoryWf) (tagged : Bool) (f : CopyF) (sl : Slots) : Canonical (execCfillRb tagged f sl
    s) := by
  unfold execCfillRb
  grind -ring -linarith [memoryWf_runCommand, canonical_runCfillRb, canonical_next]

theorem memoryWf_faultLate (h : s.MemoryWf) (sfp q : Word) (cause : Nat) : (s.faultLate sfp q cause).MemoryWf := by
  unfold State.faultLate
  grind -ring -linarith [memoryWf_lateFault]

theorem memoryWf_wordFault (h : s.MemoryWf) (i : Issued) (l : Late) (cause : Nat) : (s.wordFault i l cause).MemoryWf := by
  unfold State.wordFault
  grind -ring -linarith [memoryWf_dropTag, memoryWf_faultLate]

theorem memoryWf_writeWord (h : s.MemoryWf) (q : Nat) (i : Issued) (l : Late) (value : Nat) (again : Instr) : (s.writeWord q
    i l value again).MemoryWf := by
  unfold State.writeWord
  grind -ring -linarith [memoryWf_after, memoryWf_modIssued, memoryWf_discardStore, memoryWf_wordFault, memoryWf_putWord,
    memoryWf_homeStore, memoryWf_post]

theorem canonical_execCopyCompletionWord (h : s.MemoryWf) (quad id : Nat) : Canonical (execCopyCompletionWord quad id s) :=
    by
  unfold execCopyCompletionWord
  grind -ring -linarith [memoryWf_writeWord, canonical_next]

theorem memoryWf_modSub (h : s.MemoryWf) (q : Nat) (id : Fin 8) (g : Sub → Sub) : (s.modSub q id g).MemoryWf := by
  unfold State.modSub
  grind -ring -linarith [memoryWf_modQuad]

theorem memoryWf_asSub (h : s.MemoryWf) (q : Nat) (u : Sub) : (s.asSub q u).MemoryWf := by
  unfold State.asSub
  grind -ring -linarith [State.MemoryWf]

theorem memoryWf_leaveGroups (h : s.MemoryWf) (q : Nat) (id : Fin 8) : (s.leaveGroups q id).MemoryWf := by
  unfold State.leaveGroups
  exact List.foldlRecOn (motive := State.MemoryWf) _ _ h fun s hs p _ => memoryWf_modQuad hs _ _

theorem canonical_runSub (h : s.MemoryWf) (comb : Bool) (f : CopyF) (sl : Slots) : (runSub comb f sl s).Canonical := by
  unfold runSub
  grind -ring -linarith [memoryWf_shapeWords, canonical_checked, memoryWf_modQuad, memoryWf_leaveGroups, memoryWf_after,
    memoryWf_post, Ran.Canonical]

theorem canonical_execSubCommand (h : s.MemoryWf) (tagged comb : Bool) (f : CopyF) (sl : Slots) : Canonical (execSubCommand
    tagged comb f sl s) := by
  unfold execSubCommand
  grind -ring -linarith [memoryWf_runCommand, canonical_runSub, canonical_next]

theorem canonical_execSubCombine (h : s.MemoryWf) (cluster : Nat) (members : List (Nat × Fin 8)) : Canonical (execSubCombine
    cluster members s) := by
  refine canonical_next ?_
  have merged (group : List (Nat × Fin 8)) :
      (group.foldl (fun s g => s.modSub g.1 g.2 fun u => { u with merged := group }) s).MemoryWf :=
    List.foldlRecOn (motive := State.MemoryWf) _ _ h fun s hs g _ => memoryWf_modSub hs _ _ _
  split
  · exact h
  · split
    · exact h
    · split
      · exact h
      · refine memoryWf_post (List.foldlRecOn (motive := State.MemoryWf) _ _ (merged _) fun s hs g _ => ?_) _
        split
        · exact memoryWf_post (memoryWf_modIssued hs _ _ _) _
        · exact hs

theorem canonical_execLoaderTileStart (h : s.MemoryWf) (quad : Nat) (id : Fin 8) : Canonical (execLoaderTileStart quad id s)
    := by
  refine canonical_next ?_
  split
  · exact h
  · dsimp only
    split
    · exact memoryWf_post (List.foldlRecOn (motive := State.MemoryWf) _ _ h fun s hs e _ => memoryWf_modSub hs _ _ _) _
    · exact h

theorem memoryWf_endGroup (h : s.MemoryWf) (g : List ((Nat × Fin 8) × Sub)) (cause : Nat) : (s.endGroup g cause).MemoryWf :=
    by
  unfold State.endGroup
  refine List.foldlRecOn (motive := State.MemoryWf) _ _ h fun s hs e _ => ?_
  exact memoryWf_modSub (memoryWf_faultLate hs _ _ _) _ _ _

theorem memoryWf_deliver (h : s.MemoryWf) (tr : Nat) (first : Bool) (e0 : (Nat × Fin 8) × Sub) {t : State} (e : s.deliver tr
    first e0 = .ok t) : t.MemoryWf := by
  simp only [State.deliver] at e
  have reads := memoryWf_asSub h e0.1.1 e0.2
  split at e
  · cases e
  · cases e
  · cases e
  · split at e
    · cases e
    · rename_i hr
      have read := memoryWf_readSpots reads _ hr
      split at e
      · cases e
      · rename_i hw
        have written := memoryWf_addFlags (memoryWf_writeSpots read _ _ hw) 
        rw [← Except.ok.inj e]
        exact written _ _

theorem memoryWf_deliverAll (h : s.MemoryWf) (tr : Nat) (first : Bool) (l : List ((Nat × Fin 8) × Sub)) {t : State}
    (e :
    s.deliverAll tr first l = .ok t) : t.MemoryWf := by
  induction l generalizing s first with
  | nil => cases e; exact h
  | cons g r ih => grind -ring -linarith [State.deliverAll, → memoryWf_deliver]

theorem memoryWf_announce (h : s.MemoryWf) (tr : Nat) (l : List ((Nat × Fin 8) × Sub)) : (s.announce tr l).1.MemoryWf := by
  induction l generalizing s with
  | nil => exact h
  | cons e r ih => grind -ring -linarith [State.announce, memoryWf_asSub, memoryWf_putWord, memoryWf_modSub]

theorem canonical_execLoaderTileComplete (h : s.MemoryWf) (quad : Nat) (id : Fin 8) : Canonical (execLoaderTileComplete quad
    id s) := by
  unfold execLoaderTileComplete
  grind -ring -linarith [memoryWf_after, memoryWf_deliverAll, memoryWf_endGroup, memoryWf_announce, memoryWf_post,
    canonical_next]

theorem memoryWf_endWindow (h : s.MemoryWf) (q : Nat) (id : Fin 8) : (s.endWindow q id).MemoryWf := by
  unfold State.endWindow
  grind -ring -linarith [memoryWf_post, memoryWf_modIssued]

theorem canonical_runUnsub (h : s.MemoryWf) (f : CopyF) (x0 : Slots) : (runUnsub f x0 s).Canonical := by
  have left (u : Sub) : (u.merged.foldl (fun s m => s.post (.loaderTileStart m.1 m.2))
      ((s.endWindow s.ctx.quad f.subid.toFin).modSub s.ctx.quad f.subid.toFin Sub.stop)).MemoryWf :=
    List.foldlRecOn (motive := State.MemoryWf) _ _ (memoryWf_modSub (memoryWf_endWindow h _ _) _ _ _) fun s hs m _ =>
      memoryWf_post hs _
  unfold runUnsub
  grind -ring -linarith [Ran.Canonical]

theorem canonical_execUnsub (h : s.MemoryWf) (tagged : Bool) (f : CopyF) (sl : Slots) : Canonical (execUnsub tagged f sl s)
    := by
  unfold execUnsub
  grind -ring -linarith [memoryWf_runCommand, canonical_runUnsub, canonical_next]

theorem canonical_runRetn (h : s.MemoryWf) (f : CopyF) (sl : Slots) : (runRetn f sl s).Canonical := by
  unfold runRetn
  grind -ring -linarith [memoryWf_post, memoryWf_modSub, canonical_checked, Ran.Canonical]

theorem canonical_execRetn (h : s.MemoryWf) (tagged : Bool) (f : CopyF) (sl : Slots) : Canonical (execRetn tagged f sl s) :=
    by
  unfold execRetn
  grind -ring -linarith [memoryWf_runCommand, canonical_runRetn, canonical_next]

theorem memoryWf_failRetn (h : s.MemoryWf) (q : Nat) (i : Issued) (l : Late) (cause : Nat) : (s.failRetn q i l
    cause).MemoryWf := by
  unfold State.failRetn
  grind -ring -linarith [memoryWf_post, memoryWf_modIssued, memoryWf_wordFault]

theorem canonical_execStorerSlotRead (h : s.MemoryWf) (quad : Nat) (id : Fin 8) (slot : Nat) : Canonical (execStorerSlotRead
    quad id slot s) := by
  unfold execStorerSlotRead
  refine canonical_next ?_
  split
  · rename_i i l u _ _
    have started := memoryWf_asSub h quad u
    split
    · dsimp only
      generalize State.asSub _ _ _ = t at started ⊢
      split
      · exact memoryWf_failRetn started _ _ _ _
      · rename_i bits t e
        have ht := memoryWf_post (memoryWf_modSub (memoryWf_readSpots started _ e) quad id fun u =>
          { u with slots := u.slots.set slot .free }) (.loaderTileStart quad id)
        generalize State.post _ _ = t at ht ⊢
        split
        · exact memoryWf_failRetn ht _ _ _ _
        · rename_i e'
          have hw := (memoryWf_writeSpots · _ _ e') (memoryWf_of_mem_eq ht rfl)
          exact memoryWf_post (memoryWf_modIssued hw _ _ _) _
    · exact memoryWf_failRetn h _ _ _ _
  · exact h

theorem canonical_execRetnStoreComplete (h : s.MemoryWf) (quad : Nat) (id : Fin 8) (slot : Nat) : Canonical
    (execRetnStoreComplete quad id slot s) := by
  unfold execRetnStoreComplete
  grind -ring -linarith [memoryWf_writeWord, canonical_next]

/-! ## What Faults defines -/

theorem canonical_execTranslationWalk (h : s.MemoryWf) (core : Nat) (va : Word) (acc : Access) (user : Bool) : Canonical
    (execTranslationWalk core va acc user s) := by
  unfold execTranslationWalk
  grind -ring -linarith [memoryWf_meetParts, memoryWf_fillTlb, canonical_next]

theorem canonical_execFaultPostRetry (h : s.MemoryWf) (p : Place) : Canonical (execFaultPostRetry p s) := by
  unfold execFaultPostRetry
  grind -ring -linarith [memoryWf_meetSlots, memoryWf_fillSlot, memoryWf_nameSlot, memoryWf_modCluster, canonical_next]

theorem memoryWf_strandOutcome (h : s.MemoryWf) (p : Place) (sfp : Word) (slot : Nat) (resolved : Bool) : (s.strandOutcome p
    sfp slot resolved).MemoryWf := by
  unfold State.strandOutcome
  grind -ring -linarith [memoryWf_setStatus, memoryWf_trapAt]

theorem memoryWf_engineOutcome (h : s.MemoryWf) (b : Batch) (resolved : Bool) : (s.engineOutcome b resolved).MemoryWf := by
  unfold State.engineOutcome
  grind -ring -linarith [memoryWf_push, memoryWf_discardPaused]

theorem canonical_execFaultSlotOutcome (h : s.MemoryWf) (cluster slot : Nat) : Canonical (execFaultSlotOutcome cluster slot
    s) := by
  unfold execFaultSlotOutcome
  grind -ring -linarith [memoryWf_meetAt, memoryWf_modCluster, memoryWf_pokeWord, memoryWf_strandOutcome,
    memoryWf_engineOutcome, canonical_next]

theorem canonical_execPageWaitWriteback (h : s.MemoryWf) (p : Place) : Canonical (execPageWaitWriteback p s) := by
  unfold execPageWaitWriteback
  grind -ring -linarith [memoryWf_post, memoryWf_setStatus, memoryWf_after, canonical_next]

theorem memoryWf_forceOut (h : s.MemoryWf) (p : Place) : (s.forceOut p).MemoryWf := by
  unfold State.forceOut
  grind -ring -linarith [memoryWf_switch, memoryWf_after, memoryWf_beginDrain, memoryWf_setStatus, memoryWf_park]

theorem canonical_execPreemptForcedSave (h : s.MemoryWf) (p : Place) : Canonical (execPreemptForcedSave p s) := by
  unfold execPreemptForcedSave
  grind -ring -linarith [memoryWf_after, memoryWf_beginDrain, memoryWf_park, memoryWf_modBank, memoryWf_forceOut,
    memoryWf_post, canonical_next]

/-! ## What Softmax defines -/

theorem canonical_runMsoft (h : s.MemoryWf) (f : PressF) (sl : Slots) : (runMsoft f sl s).Canonical := by
  unfold runMsoft
  grind -ring -linarith [canonical_pressChecked, canonical_checked, memoryWf_setSlot, memoryWf_setAcc, Ran.Canonical]

theorem canonical_runMmerge (h : s.MemoryWf) (f : PressF) (sl : Slots) : (runMmerge f sl s).Canonical := by
  unfold runMmerge
  grind -ring -linarith [canonical_pressChecked, canonical_checked, memoryWf_setAcc, Ran.Canonical]

theorem canonical_runMnorm (h : s.MemoryWf) (f : PressF) (sl : Slots) : (runMnorm f sl s).Canonical := by
  unfold runMnorm
  grind -ring -linarith [canonical_pressChecked, memoryWf_setAcc, Ran.Canonical]

theorem canonical_execMsoft (h : s.MemoryWf) (tagged : Bool) (f : PressF) (sl : Slots) : Canonical (execMsoft tagged f sl s)
    := by
  unfold execMsoft
  grind -ring -linarith [memoryWf_press, canonical_runMsoft, canonical_next]

theorem canonical_execMmerge (h : s.MemoryWf) (tagged : Bool) (f : PressF) (sl : Slots) : Canonical (execMmerge tagged f sl
    s) := by
  unfold execMmerge
  grind -ring -linarith [memoryWf_press, canonical_runMmerge, canonical_next]

theorem canonical_execMnorm (h : s.MemoryWf) (tagged : Bool) (f : PressF) (sl : Slots) : Canonical (execMnorm tagged f sl s)
    := by
  unfold execMnorm
  grind -ring -linarith [memoryWf_press, canonical_runMnorm, canonical_next]

/-! ## What Vector defines -/

theorem memoryWf_vector (h : s.MemoryWf) (op : Nat) (tagged : Bool) (f : VecF) (run : State → Ran) (hrun : ∀ s, s.MemoryWf →
    (run s).Canonical) : (s.vector op tagged f run).MemoryWf := by
  unfold State.vector
  grind -ring -linarith [memoryWf_runCommand]

theorem memoryWf_setVector (h : s.MemoryWf) (v : Vector Wide 32) : (s.setVector v).MemoryWf := by
  unfold State.setVector
  grind -ring -linarith [memoryWf_modSender]

theorem canonical_elementwise (h : s.MemoryWf) (f : VecF) (n w : Nat) (op : Vector Wide 32 → Nat → Nat × Fx) :
    (s.elementwise f n w op).Canonical := by
  unfold State.elementwise
  grind -ring -linarith [memoryWf_setVector, Ran.Canonical]

theorem canonical_loadStream (h : s.MemoryWf) (f : VecF) (sl : Slots) (sh : Shape) (strided : Bool) : (s.loadStream f sl sh
    strided).Canonical := by
  simp only [State.loadStream]
  refine canonical_checked (memoryWf_holdTypes h _) _ _ fun s hs => ?_
  split
  · exact canonical_readSpots hs _ ‹_›
  · rename_i e
    have ht := memoryWf_readSpots hs _ e
    split
    · exact canonical_readSpots ht _ ‹_›
    · rename_i e'
      have hu := memoryWf_readSpots ht _ e'
      exact memoryWf_setVector hu _

theorem canonical_storeStream (h : s.MemoryWf) (f : VecF) (sl : Slots) (sh : Shape) (strided : Bool) : (s.storeStream f sl
    sh strided).Canonical := by
  simp only [State.storeStream]
  refine canonical_checked (memoryWf_holdTypes h _) _ _ fun s hs => ?_
  grind -ring -linarith [Ran.Canonical, memoryWf_writeRest, canonical_writeRest]

theorem canonical_runVld (h : s.MemoryWf) (f : VecF) (sl : Slots) : (runVld f sl s).Canonical := by
  unfold runVld
  grind -ring -linarith [canonical_loadStream]

theorem canonical_runVlds (h : s.MemoryWf) (f : VecF) (sl : Slots) : (runVlds f sl s).Canonical := by
  unfold runVlds
  grind -ring -linarith [canonical_loadStream]

theorem canonical_runVgath (h : s.MemoryWf) (f : VecF) (sl : Slots) : (runVgath f sl s).Canonical := by
  unfold runVgath
  grind -ring -linarith [canonical_loadStream]

theorem canonical_runVst (h : s.MemoryWf) (f : VecF) (sl : Slots) : (runVst f sl s).Canonical := by
  unfold runVst
  grind -ring -linarith [canonical_storeStream]

theorem canonical_runVsts (h : s.MemoryWf) (f : VecF) (sl : Slots) : (runVsts f sl s).Canonical := by
  unfold runVsts
  grind -ring -linarith [canonical_storeStream]

theorem canonical_runVscat (h : s.MemoryWf) (f : VecF) (sl : Slots) : (runVscat f sl s).Canonical := by
  unfold runVscat
  grind -ring -linarith [canonical_storeStream]

theorem canonical_runVbcast (h : s.MemoryWf) (f : VecF) (sl : Slots) : (runVbcast f sl s).Canonical := by
  simp only [runVbcast]
  refine canonical_checked (memoryWf_holdTypes h _) _ _ fun s hs => ?_
  split
  · exact canonical_readSpots hs _ ‹_›
  · rename_i e
    have ht := memoryWf_readSpots hs _ e
    split
    · exact canonical_readSpots ht _ ‹_›
    · rename_i e'
      have hu := memoryWf_readSpots ht _ e'
      exact canonical_elementwise hu _ _ _ _

theorem canonical_runVmovxBc (h : s.MemoryWf) (f : VecF) (sl : Slots) : (runVmovxBc f sl s).Canonical := by
  unfold runVmovxBc
  grind -ring -linarith [canonical_checked, canonical_elementwise]

theorem canonical_runVmovxIns (h : s.MemoryWf) (f : VecF) (sl : Slots) : (runVmovxIns f sl s).Canonical := by
  unfold runVmovxIns
  grind -ring -linarith [canonical_checked, memoryWf_setVector, Ran.Canonical]

theorem canonical_runVop (h : s.MemoryWf) (f : VecF) (sl : Slots) : (runVop f sl s).Canonical := by
  unfold runVop
  grind -ring -linarith [canonical_checked, canonical_elementwise]

theorem canonical_runVfma (h : s.MemoryWf) (f : VecF) (x0 : Slots) : (runVfma f x0 s).Canonical := by
  unfold runVfma
  grind -ring -linarith [canonical_checked, canonical_elementwise]

theorem canonical_runVcmp (h : s.MemoryWf) (f : VecF) (sl : Slots) : (runVcmp f sl s).Canonical := by
  unfold runVcmp
  grind -ring -linarith [canonical_checked, memoryWf_setVector, Ran.Canonical]

theorem canonical_runVsel (h : s.MemoryWf) (f : VecF) (x0 : Slots) : (runVsel f x0 s).Canonical := by
  unfold runVsel
  grind -ring -linarith [canonical_checked, canonical_elementwise]

theorem canonical_runVcvt (h : s.MemoryWf) (f : VecF) (x0 : Slots) : (runVcvt f x0 s).Canonical := by
  unfold runVcvt
  grind -ring -linarith [canonical_checked, memoryWf_setVector, Ran.Canonical]

theorem canonical_runVred (h : s.MemoryWf) (f : VecF) (x0 : Slots) : (runVred f x0 s).Canonical := by
  unfold runVred
  grind -ring -linarith [canonical_checked, memoryWf_setVector, Ran.Canonical]

theorem canonical_unaryF32 (h : s.MemoryWf) (f : VecF) (g : Val → Val × Fx) : (s.unaryF32 f g).Canonical := by
  unfold State.unaryF32
  grind -ring -linarith [canonical_checked, canonical_elementwise]

theorem canonical_runVexp (h : s.MemoryWf) (f : VecF) (x0 : Slots) : (runVexp f x0 s).Canonical := by
  unfold runVexp
  grind -ring -linarith [canonical_unaryF32]

theorem canonical_runVrcp (h : s.MemoryWf) (f : VecF) (x0 : Slots) : (runVrcp f x0 s).Canonical := by
  unfold runVrcp
  grind -ring -linarith [canonical_unaryF32]

theorem canonical_runVrsq (h : s.MemoryWf) (f : VecF) (x0 : Slots) : (runVrsq f x0 s).Canonical := by
  unfold runVrsq
  grind -ring -linarith [canonical_unaryF32]

theorem canonical_runVperm (h : s.MemoryWf) (f : VecF) (x0 : Slots) : (runVperm f x0 s).Canonical := by
  unfold runVperm
  grind -ring -linarith [canonical_checked, canonical_elementwise]

theorem canonical_runVdot (h : s.MemoryWf) (f : VecF) (x0 : Slots) : (runVdot f x0 s).Canonical := by
  unfold runVdot
  grind -ring -linarith [canonical_checked, canonical_elementwise]

theorem canonical_execVld (h : s.MemoryWf) (tagged : Bool) (f : VecF) (sl : Slots) : Canonical (execVld tagged f sl s) := by
  unfold execVld
  grind -ring -linarith [memoryWf_vector, canonical_runVld, canonical_next]

theorem canonical_execVlds (h : s.MemoryWf) (tagged : Bool) (f : VecF) (sl : Slots) : Canonical (execVlds tagged f sl s) :=
    by
  unfold execVlds
  grind -ring -linarith [memoryWf_vector, canonical_runVlds, canonical_next]

theorem canonical_execVgath (h : s.MemoryWf) (tagged : Bool) (f : VecF) (sl : Slots) : Canonical (execVgath tagged f sl s)
    := by
  unfold execVgath
  grind -ring -linarith [memoryWf_vector, canonical_runVgath, canonical_next]

theorem canonical_execVst (h : s.MemoryWf) (tagged : Bool) (f : VecF) (sl : Slots) : Canonical (execVst tagged f sl s) := by
  unfold execVst
  grind -ring -linarith [memoryWf_vector, canonical_runVst, canonical_next]

theorem canonical_execVsts (h : s.MemoryWf) (tagged : Bool) (f : VecF) (sl : Slots) : Canonical (execVsts tagged f sl s) :=
    by
  unfold execVsts
  grind -ring -linarith [memoryWf_vector, canonical_runVsts, canonical_next]

theorem canonical_execVscat (h : s.MemoryWf) (tagged : Bool) (f : VecF) (sl : Slots) : Canonical (execVscat tagged f sl s)
    := by
  unfold execVscat
  grind -ring -linarith [memoryWf_vector, canonical_runVscat, canonical_next]

theorem canonical_execVbcast (h : s.MemoryWf) (tagged : Bool) (f : VecF) (sl : Slots) : Canonical (execVbcast tagged f sl s)
    := by
  unfold execVbcast
  grind -ring -linarith [memoryWf_vector, canonical_runVbcast, canonical_next]

theorem canonical_execVmovxBc (h : s.MemoryWf) (tagged : Bool) (f : VecF) (sl : Slots) : Canonical (execVmovxBc tagged f sl
    s) := by
  unfold execVmovxBc
  grind -ring -linarith [memoryWf_vector, canonical_runVmovxBc, canonical_next]

theorem canonical_execVmovxIns (h : s.MemoryWf) (tagged : Bool) (f : VecF) (sl : Slots) : Canonical (execVmovxIns tagged f
    sl s) := by
  unfold execVmovxIns
  grind -ring -linarith [memoryWf_vector, canonical_runVmovxIns, canonical_next]

theorem canonical_execVop (h : s.MemoryWf) (tagged : Bool) (f : VecF) (sl : Slots) : Canonical (execVop tagged f sl s) := by
  unfold execVop
  grind -ring -linarith [memoryWf_vector, canonical_runVop, canonical_next]

theorem canonical_execVfma (h : s.MemoryWf) (tagged : Bool) (f : VecF) (sl : Slots) : Canonical (execVfma tagged f sl s) :=
    by
  unfold execVfma
  grind -ring -linarith [memoryWf_vector, canonical_runVfma, canonical_next]

theorem canonical_execVcmp (h : s.MemoryWf) (tagged : Bool) (f : VecF) (sl : Slots) : Canonical (execVcmp tagged f sl s) :=
    by
  unfold execVcmp
  grind -ring -linarith [memoryWf_vector, canonical_runVcmp, canonical_next]

theorem canonical_execVsel (h : s.MemoryWf) (tagged : Bool) (f : VecF) (sl : Slots) : Canonical (execVsel tagged f sl s) :=
    by
  unfold execVsel
  grind -ring -linarith [memoryWf_vector, canonical_runVsel, canonical_next]

theorem canonical_execVcvt (h : s.MemoryWf) (tagged : Bool) (f : VecF) (sl : Slots) : Canonical (execVcvt tagged f sl s) :=
    by
  unfold execVcvt
  grind -ring -linarith [memoryWf_vector, canonical_runVcvt, canonical_next]

theorem canonical_execVred (h : s.MemoryWf) (tagged : Bool) (f : VecF) (sl : Slots) : Canonical (execVred tagged f sl s) :=
    by
  unfold execVred
  grind -ring -linarith [memoryWf_vector, canonical_runVred, canonical_next]

theorem canonical_execVexp (h : s.MemoryWf) (tagged : Bool) (f : VecF) (sl : Slots) : Canonical (execVexp tagged f sl s) :=
    by
  unfold execVexp
  grind -ring -linarith [memoryWf_vector, canonical_runVexp, canonical_next]

theorem canonical_execVrcp (h : s.MemoryWf) (tagged : Bool) (f : VecF) (sl : Slots) : Canonical (execVrcp tagged f sl s) :=
    by
  unfold execVrcp
  grind -ring -linarith [memoryWf_vector, canonical_runVrcp, canonical_next]

theorem canonical_execVrsq (h : s.MemoryWf) (tagged : Bool) (f : VecF) (sl : Slots) : Canonical (execVrsq tagged f sl s) :=
    by
  unfold execVrsq
  grind -ring -linarith [memoryWf_vector, canonical_runVrsq, canonical_next]

theorem canonical_execVperm (h : s.MemoryWf) (tagged : Bool) (f : VecF) (sl : Slots) : Canonical (execVperm tagged f sl s)
    := by
  unfold execVperm
  grind -ring -linarith [memoryWf_vector, canonical_runVperm, canonical_next]

theorem canonical_execVdot (h : s.MemoryWf) (tagged : Bool) (f : VecF) (sl : Slots) : Canonical (execVdot tagged f sl s) :=
    by
  unfold execVdot
  grind -ring -linarith [memoryWf_vector, canonical_runVdot, canonical_next]

/-! ## What Heads defines -/

theorem memoryWf_screened (h : s.MemoryWf) (q eng : Nat) : (s.screened q eng).2.MemoryWf := by
  simp only [State.screened]
  exact List.foldlRecOn (motive := State.MemoryWf) _ _ h fun s hs x _ => memoryWf_push hs _

theorem memoryWf_offer (h : s.MemoryWf) (core : Nat) : (s.offer core).MemoryWf := by
  unfold State.offer
  grind -ring -linarith [memoryWf_pushOffer, memoryWf_modCore, memoryWf_engineFault, memoryWf_post, memoryWf_push,
    State.MemoryWf]

theorem canonical_execVectorArbiterCycle (h : s.MemoryWf) (quad : Nat) : Canonical (execVectorArbiterCycle quad s) := by
  unfold execVectorArbiterCycle
  refine canonical_next ?_
  have idled : ((quadCores quad).foldl State.idleDeficit s).MemoryWf :=
    List.foldlRecOn (motive := State.MemoryWf) _ _ h fun s hs c _ => memoryWf_idleDeficit hs c
  have pushed (l : List Nat) (s : State) (hs : s.MemoryWf) :
      (l.foldl (fun s i => s.push (.issue (coreOfQuad quad i))) s).MemoryWf :=
    List.foldlRecOn (motive := State.MemoryWf) _ _ hs fun s hs i _ => memoryWf_push hs _
  have heads := memoryWf_screened idled quad 2
  split
  · exact h
  · split
    · exact memoryWf_post h _
    · dsimp only
      generalize State.screened _ quad 2 = r at heads ⊢
      split
      · exact memoryWf_modQuad heads _ _
      · split <;> split
        · exact memoryWf_post (pushed _ _ (memoryWf_modQuad heads _ _)) _
        · exact pushed _ _ (memoryWf_modQuad heads _ _)
        · exact memoryWf_post (pushed _ _ (memoryWf_modQuad heads _ _)) _
        · exact pushed _ _ (memoryWf_modQuad heads _ _)

theorem memoryWf_acceptOne (h : s.MemoryWf) (q eng : Nat) (again : Instr) : (s.acceptOne q eng again).MemoryWf := by
  unfold State.acceptOne
  grind -ring -linarith [memoryWf_post, memoryWf_screened, memoryWf_push]

theorem canonical_execPressAccept (h : s.MemoryWf) (quad : Nat) : Canonical (execPressAccept quad s) := by
  unfold execPressAccept
  grind -ring -linarith [memoryWf_acceptOne, canonical_next]

theorem canonical_execCopyEngineAccept (h : s.MemoryWf) (quad : Nat) : Canonical (execCopyEngineAccept quad s) := by
  unfold execCopyEngineAccept
  grind -ring -linarith [memoryWf_acceptOne, canonical_next]

theorem memoryWf_arriveRemote (h : s.MemoryWf) (q : Nat) (r : Remote) (k : Nat) (first : Bool) : (s.arriveRemote q r k
    first).MemoryWf := by
  unfold State.arriveRemote
  grind -ring -linarith [memoryWf_refuseRemote, memoryWf_after, memoryWf_offerRemote, memoryWf_modQuad, memoryWf_wakeQuad,
    State.MemoryWf]

theorem canonical_execRemoteCommand (h : s.MemoryWf) (quad : Nat) (r : Remote) : Canonical (execRemoteCommand quad r s) :=
    by
  unfold execRemoteCommand
  grind -ring -linarith [memoryWf_arriveRemote, canonical_next]

theorem canonical_execRemoteBusyRetry (h : s.MemoryWf) (quad : Nat) (r : Remote) (k : Nat) : Canonical (execRemoteBusyRetry
    quad r k s) := by
  unfold execRemoteBusyRetry
  grind -ring -linarith [memoryWf_arriveRemote, canonical_next]

end Sys2Proof.Machine
end

section
/-! O60 holds: the forms of the system, and a step, which runs one of the forms or acts on the agenda. -/

namespace Sys2Proof.Machine

set_option Elab.async false

variable {s : State}

/-! ## What System defines -/

theorem canonical_execEcall (h : s.MemoryWf) : Canonical (execEcall s) := by
  unfold execEcall
  grind -ring -linarith [memoryWf_trap, canonical_next]

theorem canonical_execEbreak (h : s.MemoryWf) : Canonical (execEbreak s) := by
  unfold execEbreak
  grind -ring -linarith [memoryWf_trap, canonical_next]

theorem canonical_execSleep (h : s.MemoryWf) (rs1 : Reg) : Canonical (execSleep rs1 s) := by
  unfold execSleep
  grind -ring -linarith [memoryWf_advance, memoryWf_resume, memoryWf_stall, memoryWf_after, canonical_next]

theorem canonical_execSleepTimeout (h : s.MemoryWf) (p : Place) (tag : Nat) : Canonical (execSleepTimeout p tag s) := by
  unfold execSleepTimeout
  grind -ring -linarith [memoryWf_modStrand, memoryWf_setStatus, canonical_next]

theorem memoryWf_writeQerr (h : s.MemoryWf) (v : Word) : (s.writeQerr v).MemoryWf := by
  unfold State.writeQerr
  grind -ring -linarith [memoryWf_modStrand, memoryWf_pushOffer, memoryWf_post]

theorem memoryWf_writeCsr (h : s.MemoryWf) (n : Nat) (v : Word) : (s.writeCsr n v).MemoryWf := by
  unfold State.writeCsr
  grind -ring -linarith [memoryWf_modStrand, memoryWf_post, memoryWf_writeBmask, memoryWf_writeQerr, memoryWf_modCore,
    memoryWf_modBank]

theorem memoryWf_csrDone (h : s.MemoryWf) (rd : Reg) (n : Nat) (new : Option (Word → Word)) : (s.csrDone rd n new).MemoryWf
    := by
  unfold State.csrDone
  grind -ring -linarith [memoryWf_stall, memoryWf_resume, memoryWf_complete, memoryWf_writeCsr]

theorem memoryWf_csr (h : s.MemoryWf) (rd : Reg) (csr : BitVec 12) (new : Option (Word → Word)) : (s.csr rd csr
    new).MemoryWf := by
  unfold State.csr
  grind -ring -linarith [memoryWf_trap, memoryWf_csrDone]

theorem canonical_execCsrrw (h : s.MemoryWf) (rd rs1 : Reg) (csr : BitVec 12) : Canonical (execCsrrw rd rs1 csr s) := by
  unfold execCsrrw
  grind -ring -linarith [memoryWf_csr, canonical_next]

theorem canonical_execCsrrs (h : s.MemoryWf) (rd rs1 : Reg) (csr : BitVec 12) : Canonical (execCsrrs rd rs1 csr s) := by
  unfold execCsrrs
  grind -ring -linarith [memoryWf_csr, canonical_next]

theorem canonical_execCsrrc (h : s.MemoryWf) (rd rs1 : Reg) (csr : BitVec 12) : Canonical (execCsrrc rd rs1 csr s) := by
  unfold execCsrrc
  grind -ring -linarith [memoryWf_csr, canonical_next]

theorem canonical_execCsrrwi (h : s.MemoryWf) (rd : Reg) (u : BitVec 5) (csr : BitVec 12) : Canonical (execCsrrwi rd u csr
    s) := by
  unfold execCsrrwi
  grind -ring -linarith [memoryWf_csr, canonical_next]

theorem canonical_execCsrrsi (h : s.MemoryWf) (rd : Reg) (u : BitVec 5) (csr : BitVec 12) : Canonical (execCsrrsi rd u csr
    s) := by
  unfold execCsrrsi
  grind -ring -linarith [memoryWf_csr, canonical_next]

theorem canonical_execCsrrci (h : s.MemoryWf) (rd : Reg) (u : BitVec 5) (csr : BitVec 12) : Canonical (execCsrrci rd u csr
    s) := by
  unfold execCsrrci
  grind -ring -linarith [memoryWf_csr, canonical_next]

theorem memoryWf_privileged (h : s.MemoryWf) (f : State → State) (hf : ∀ s, s.MemoryWf → (f s).MemoryWf) : (s.privileged
    f).MemoryWf := by
  unfold State.privileged
  grind -ring -linarith [memoryWf_trap]

theorem canonical_execTret (h : s.MemoryWf) : Canonical (execTret s) := by
  unfold execTret
  grind -ring -linarith [memoryWf_privileged, memoryWf_trapReturn, memoryWf_trap, canonical_next]

theorem canonical_execL2pset (h : s.MemoryWf) (rd rs1 : Reg) : Canonical (execL2pset rd rs1 s) := by
  unfold execL2pset
  grind -ring -linarith [memoryWf_privileged, memoryWf_trap, memoryWf_stall, memoryWf_complete, memoryWf_resume,
    memoryWf_nextMove, memoryWf_modCluster, memoryWf_beginMove, canonical_next]

theorem canonical_execTlbinvPage (h : s.MemoryWf) (rs1 : Reg) : Canonical (execTlbinvPage rs1 s) := by
  unfold execTlbinvPage
  grind -ring -linarith [memoryWf_privileged, memoryWf_trap, memoryWf_advance, canonical_next, State.MemoryWf]

theorem canonical_execTlbinvAll (h : s.MemoryWf) : Canonical (execTlbinvAll s) := by
  unfold execTlbinvAll
  grind -ring -linarith [memoryWf_privileged, memoryWf_advance, canonical_next, State.MemoryWf]

theorem canonical_execCapmint (h : s.MemoryWf) (rd rs1 : Reg) : Canonical (execCapmint rd rs1 s) := by
  unfold execCapmint
  grind -ring -linarith [memoryWf_privileged, memoryWf_trap, memoryWf_complete, canonical_next]

theorem memoryWf_mark (h : s.MemoryWf) (p : Place) : (s.mark p).MemoryWf := by
  unfold State.mark
  grind -ring -linarith [memoryWf_modBank, memoryWf_post, memoryWf_after]

theorem canonical_execPreempt (h : s.MemoryWf) (rd rs1 : Reg) : Canonical (execPreempt rd rs1 s) := by
  refine canonical_next (memoryWf_privileged h _ fun s hs => ?_)
  have marked (c : Nat) (bs : List (Fin 4)) : (bs.foldl (fun s b =>
      if (s.bank ⟨c, b⟩).live && (⟨c, b⟩ : Place) != s.here then s.mark ⟨c, b⟩ else s) s).MemoryWf :=
    List.foldlRecOn (motive := State.MemoryWf) _ _ hs fun s hs b _ => by grind -ring -linarith [memoryWf_mark]
  split
  · exact memoryWf_trap hs _ _
  · dsimp only
    split <;> split
    · exact memoryWf_stall hs _ _ _
    · exact memoryWf_complete (memoryWf_resume hs) _ _
    · exact memoryWf_stall (marked _ _) _ _ _
    · exact memoryWf_complete (memoryWf_resume (marked _ _)) _ _

theorem canonical_execQdrain (h : s.MemoryWf) (rs1 : Reg) : Canonical (execQdrain rs1 s) := by
  refine canonical_next (memoryWf_privileged h _ fun s hs => ?_)
  split
  · exact memoryWf_trap hs _ _
  · dsimp only
    split
    · exact memoryWf_advance (memoryWf_resume (List.foldlRecOn (motive := State.MemoryWf) _ _ hs
        fun s hs b _ => memoryWf_closeDrain hs _ _))
    · refine memoryWf_stall ?_ _ _ _
      split
      · exact hs
      · exact List.foldlRecOn (motive := State.MemoryWf) _ _ hs fun s hs b _ => memoryWf_beginDrain hs _ _ _

/-! ## What RunAhead defines -/

theorem memoryWf_runAhead (h : s.MemoryWf) (p : Place) : (s.runAhead p).MemoryWf := by
  unfold State.runAhead
  dsimp only
  split
  · split
    · exact memoryWf_postBatch h _
    · exact h
  · exact h

/-! ## What Turn defines -/

theorem canonical_exec (h : s.MemoryWf) (i : Instr) : Canonical (exec i s) :=
  match i with
  | .addi rd rs1 imm => canonical_execAddi h rd rs1 imm
  | .slti rd rs1 imm => canonical_execSlti h rd rs1 imm
  | .sltiu rd rs1 imm => canonical_execSltiu h rd rs1 imm
  | .xori rd rs1 imm => canonical_execXori h rd rs1 imm
  | .ori rd rs1 imm => canonical_execOri h rd rs1 imm
  | .andi rd rs1 imm => canonical_execAndi h rd rs1 imm
  | .slli rd rs1 sh => canonical_execSlli h rd rs1 sh
  | .srli rd rs1 sh => canonical_execSrli h rd rs1 sh
  | .srai rd rs1 sh => canonical_execSrai h rd rs1 sh
  | .add rd rs1 rs2 => canonical_execAdd h rd rs1 rs2
  | .sub rd rs1 rs2 => canonical_execSub h rd rs1 rs2
  | .mul rd rs1 rs2 => canonical_execMul h rd rs1 rs2
  | .sll rd rs1 rs2 => canonical_execSll h rd rs1 rs2
  | .mulh rd rs1 rs2 => canonical_execMulh h rd rs1 rs2
  | .slt rd rs1 rs2 => canonical_execSlt h rd rs1 rs2
  | .mulhsu rd rs1 rs2 => canonical_execMulhsu h rd rs1 rs2
  | .sltu rd rs1 rs2 => canonical_execSltu h rd rs1 rs2
  | .mulhu rd rs1 rs2 => canonical_execMulhu h rd rs1 rs2
  | .xor rd rs1 rs2 => canonical_execXor h rd rs1 rs2
  | .div rd rs1 rs2 => canonical_execDiv h rd rs1 rs2
  | .srl rd rs1 rs2 => canonical_execSrl h rd rs1 rs2
  | .sra rd rs1 rs2 => canonical_execSra h rd rs1 rs2
  | .divu rd rs1 rs2 => canonical_execDivu h rd rs1 rs2
  | .or rd rs1 rs2 => canonical_execOr h rd rs1 rs2
  | .rem rd rs1 rs2 => canonical_execRem h rd rs1 rs2
  | .and rd rs1 rs2 => canonical_execAnd h rd rs1 rs2
  | .remu rd rs1 rs2 => canonical_execRemu h rd rs1 rs2
  | .addw rd rs1 rs2 => canonical_execAddw h rd rs1 rs2
  | .subw rd rs1 rs2 => canonical_execSubw h rd rs1 rs2
  | .mulw rd rs1 rs2 => canonical_execMulw h rd rs1 rs2
  | .sllw rd rs1 rs2 => canonical_execSllw h rd rs1 rs2
  | .divw rd rs1 rs2 => canonical_execDivw h rd rs1 rs2
  | .srlw rd rs1 rs2 => canonical_execSrlw h rd rs1 rs2
  | .sraw rd rs1 rs2 => canonical_execSraw h rd rs1 rs2
  | .divuw rd rs1 rs2 => canonical_execDivuw h rd rs1 rs2
  | .remw rd rs1 rs2 => canonical_execRemw h rd rs1 rs2
  | .remuw rd rs1 rs2 => canonical_execRemuw h rd rs1 rs2
  | .addiw rd rs1 imm => canonical_execAddiw h rd rs1 imm
  | .slliw rd rs1 sh => canonical_execSlliw h rd rs1 sh
  | .srliw rd rs1 sh => canonical_execSrliw h rd rs1 sh
  | .sraiw rd rs1 sh => canonical_execSraiw h rd rs1 sh
  | .lui rd imm => canonical_execLui h rd imm
  | .auipc rd imm => canonical_execAuipc h rd imm
  | .beq rs1 rs2 imm => canonical_execBeq h rs1 rs2 imm
  | .bne rs1 rs2 imm => canonical_execBne h rs1 rs2 imm
  | .blt rs1 rs2 imm => canonical_execBlt h rs1 rs2 imm
  | .bge rs1 rs2 imm => canonical_execBge h rs1 rs2 imm
  | .bltu rs1 rs2 imm => canonical_execBltu h rs1 rs2 imm
  | .bgeu rs1 rs2 imm => canonical_execBgeu h rs1 rs2 imm
  | .jal rd imm => canonical_execJal h rd imm
  | .jalr rd rs1 imm => canonical_execJalr h rd rs1 imm
  | .ld w rd rs1 imm => canonical_execLd h w rd rs1 imm
  | .lds w rd rs1 imm => canonical_execLds h w rd rs1 imm
  | .st w rs2 rs1 imm => canonical_execSt h w rs2 rs1 imm
  | .ldx w rd rs1 rs2 => canonical_execLdx h w rd rs1 rs2
  | .ldxs w rd rs1 rs2 => canonical_execLdxs h w rd rs1 rs2
  | .stx w rd rs1 rs2 => canonical_execStx h w rd rs1 rs2
  | .padd w rd rs1 rs2 => canonical_execPadd h w rd rs1 rs2
  | .pdiff w rd rs1 rs2 => canonical_execPdiff h w rd rs1 rs2
  | .paln w rd rs1 c => canonical_execPaln h w rd rs1 c
  | .pxy rd rs1 => canonical_execPxy h rd rs1
  | .psetxy rd rs1 rs2 => canonical_execPsetxy h rd rs1 rs2
  | .play rd rs1 => canonical_execPlay h rd rs1
  | .playS rd rs1 rs2 => canonical_execPlayS h rd rs1 rs2
  | .prelA rd rs1 => canonical_execPrelA h rd rs1
  | .prelR rd rs1 => canonical_execPrelR h rd rs1
  | .amoAdd o w rd rs2 rs1 => canonical_execAmoAdd h o w rd rs2 rs1
  | .amoAnd o w rd rs2 rs1 => canonical_execAmoAnd h o w rd rs2 rs1
  | .amoOr o w rd rs2 rs1 => canonical_execAmoOr h o w rd rs2 rs1
  | .amoXor o w rd rs2 rs1 => canonical_execAmoXor h o w rd rs2 rs1
  | .amoMin o w rd rs2 rs1 => canonical_execAmoMin h o w rd rs2 rs1
  | .amoMax o w rd rs2 rs1 => canonical_execAmoMax h o w rd rs2 rs1
  | .amoMinn o w rd rs2 rs1 => canonical_execAmoMinn h o w rd rs2 rs1
  | .amoMaxn o w rd rs2 rs1 => canonical_execAmoMaxn h o w rd rs2 rs1
  | .amoSwap o w rd rs2 rs1 => canonical_execAmoSwap h o w rd rs2 rs1
  | .amoFadd o w rd rs2 rs1 => canonical_execAmoFadd h o w rd rs2 rs1
  | .cas o w rd rs2 rs1 => canonical_execCas h o w rd rs2 rs1
  | .take o w rd rs1 => canonical_execTake h o w rd rs1
  | .put o w rs2 rs1 => canonical_execPut h o w rs2 rs1
  | .festat rd rs1 => canonical_execFestat h rd rs1
  | .await cmp aq w rd rs2 rs1 => canonical_execAwait h cmp aq w rd rs2 rs1
  | .takeNb o w rd rt rs1 => canonical_execTakeNb h o w rd rt rs1
  | .deferredRetry m k => canonical_execDeferredRetry h m k
  | .atomicResend m => canonical_execAtomicResend h m
  | .fenceAcq sc => canonical_execFenceAcq h sc
  | .fenceRel sc => canonical_execFenceRel h sc
  | .fenceAr sc => canonical_execFenceAr h sc
  | .fenceSc sc => canonical_execFenceSc h sc
  | .cmd p rs1 rs2 => canonical_execCmd h p rs1 rs2
  | .cmdr p rs1 rs2 => canonical_execCmdr h p rs1 rs2
  | .qwait rs1 => canonical_execQwait h rs1
  | .spawn rs1 => canonical_execSpawn h rs1
  | .spawnW rd rs1 => canonical_execSpawnW h rd rs1
  | .spawnAt rs1 rs2 => canonical_execSpawnAt h rs1 rs2
  | .spawnAtW rd rs1 rs2 => canonical_execSpawnAtW h rd rs1 rs2
  | .popt rd => canonical_execPopt h rd
  | .rnext rd re => canonical_execRnext h rd re
  | .suspend => canonical_execSuspend h
  | .yield => canonical_execYield h
  | .exit => canonical_execExit h
  | .barrNone ch => canonical_execBarrNone h ch
  | .barrNamed ch => canonical_execBarrNamed h ch
  | .barrAll ch => canonical_execBarrAll h ch
  | .bwait ch => canonical_execBwait h ch
  | .barrierRelease ch => canonical_execBarrierRelease h ch
  | .sxmit route rs1 rs2 => canonical_execSxmit h route rs1 rs2
  | .sxwait route rs1 => canonical_execSxwait h route rs1
  | .routeSlotInject route => canonical_execRouteSlotInject h route
  | .routeLand route => canonical_execRouteLand h route
  | .tbind t rs1 => canonical_execTbind h t rs1
  | .tfree t => canonical_execTfree h t
  | .thead rd t => canonical_execThead h rd t
  | .pgalloc rd => canonical_execPgalloc h rd
  | .poolBorrowReply p lender => canonical_execPoolBorrowReply h p lender
  | .pgfree rs1 => canonical_execPgfree h rs1
  | .kvmap rd rs1 rs2 => canonical_execKvmap h rd rs1 rs2
  | .kvmapW rd rs1 rs2 => canonical_execKvmapW h rd rs1 rs2
  | .ecall => canonical_execEcall h
  | .ebreak => canonical_execEbreak h
  | .sleep rs1 => canonical_execSleep h rs1
  | .sleepTimeout p tag => canonical_execSleepTimeout h p tag
  | .csrrw rd rs1 csr => canonical_execCsrrw h rd rs1 csr
  | .csrrs rd rs1 csr => canonical_execCsrrs h rd rs1 csr
  | .csrrc rd rs1 csr => canonical_execCsrrc h rd rs1 csr
  | .csrrwi rd u csr => canonical_execCsrrwi h rd u csr
  | .csrrsi rd u csr => canonical_execCsrrsi h rd u csr
  | .csrrci rd u csr => canonical_execCsrrci h rd u csr
  | .tret => canonical_execTret h
  | .l2pset rd rs1 => canonical_execL2pset h rd rs1
  | .tlbinvPage rs1 => canonical_execTlbinvPage h rs1
  | .tlbinvAll => canonical_execTlbinvAll h
  | .capmint rd rs1 => canonical_execCapmint h rd rs1
  | .preempt rd rs1 => canonical_execPreempt h rd rs1
  | .preemptForcedSave p => canonical_execPreemptForcedSave h p
  | .qdrain rs1 => canonical_execQdrain h rs1
  | .qnop tagged f sl => canonical_execQnop h tagged f sl
  | .qtag tagged f sl => canonical_execQtag h tagged f sl
  | .qtagAdvance core => canonical_execQtagAdvance h core
  | .qord tagged f sl => canonical_execQord h tagged f sl
  | .rep tagged f sl => canonical_execRep h tagged f sl
  | .repInstance core => canonical_execRepInstance h core
  | .tseek tagged f sl => canonical_execTseek h tagged f sl
  | .trew tagged f sl => canonical_execTrew h tagged f sl
  | .trackShiftDone core t => canonical_execTrackShiftDone h core t
  | .trd tagged f sl => canonical_execTrd h tagged f sl
  | .twr tagged f sl => canonical_execTwr h tagged f sl
  | .tblk tagged f sl => canonical_execTblk h tagged f sl
  | .tblkw tagged f sl => canonical_execTblkw h tagged f sl
  | .trackAccess m => canonical_execTrackAccess h m
  | .vld tagged f sl => canonical_execVld h tagged f sl
  | .vlds tagged f sl => canonical_execVlds h tagged f sl
  | .vgath tagged f sl => canonical_execVgath h tagged f sl
  | .vst tagged f sl => canonical_execVst h tagged f sl
  | .vsts tagged f sl => canonical_execVsts h tagged f sl
  | .vscat tagged f sl => canonical_execVscat h tagged f sl
  | .vbcast tagged f sl => canonical_execVbcast h tagged f sl
  | .vmovxBc tagged f sl => canonical_execVmovxBc h tagged f sl
  | .vmovxIns tagged f sl => canonical_execVmovxIns h tagged f sl
  | .vop tagged f sl => canonical_execVop h tagged f sl
  | .vfma tagged f sl => canonical_execVfma h tagged f sl
  | .vcmp tagged f sl => canonical_execVcmp h tagged f sl
  | .vsel tagged f sl => canonical_execVsel h tagged f sl
  | .vcvt tagged f sl => canonical_execVcvt h tagged f sl
  | .vred tagged f sl => canonical_execVred h tagged f sl
  | .vexp tagged f sl => canonical_execVexp h tagged f sl
  | .vrcp tagged f sl => canonical_execVrcp h tagged f sl
  | .vrsq tagged f sl => canonical_execVrsq h tagged f sl
  | .vperm tagged f sl => canonical_execVperm h tagged f sl
  | .vdot tagged f sl => canonical_execVdot h tagged f sl
  | .vectorArbiterCycle quad => canonical_execVectorArbiterCycle h quad
  | .mclaim tagged f sl => canonical_execMclaim h tagged f sl
  | .mfree tagged f sl => canonical_execMfree h tagged f sl
  | .mload tagged f sl => canonical_execMload h tagged f sl
  | .mloadAcc tagged f sl => canonical_execMloadAcc h tagged f sl
  | .mzero tagged f sl => canonical_execMzero h tagged f sl
  | .mma tagged f sl => canonical_execMma h tagged f sl
  | .mmaSp tagged f sl => canonical_execMmaSp h tagged f sl
  | .msoft tagged f sl => canonical_execMsoft h tagged f sl
  | .mmerge tagged f sl => canonical_execMmerge h tagged f sl
  | .mnorm tagged f sl => canonical_execMnorm h tagged f sl
  | .mdrain tagged f sl => canonical_execMdrain h tagged f sl
  | .mstat tagged f sl => canonical_execMstat h tagged f sl
  | .pressAccept quad => canonical_execPressAccept h quad
  | .copyEngineAccept quad => canonical_execCopyEngineAccept h quad
  | .cpy tagged f sl => canonical_execCpy h tagged f sl
  | .cpyRb tagged f sl => canonical_execCpyRb h tagged f sl
  | .cfill tagged f sl => canonical_execCfill h tagged f sl
  | .cfillRb tagged f sl => canonical_execCfillRb h tagged f sl
  | .copyCompletionWord quad id => canonical_execCopyCompletionWord h quad id
  | .subCommand tagged comb f sl => canonical_execSubCommand h tagged comb f sl
  | .subCombine cluster members => canonical_execSubCombine h cluster members
  | .unsub tagged f sl => canonical_execUnsub h tagged f sl
  | .retn tagged f sl => canonical_execRetn h tagged f sl
  | .loaderTileStart quad id => canonical_execLoaderTileStart h quad id
  | .loaderTileComplete quad id => canonical_execLoaderTileComplete h quad id
  | .storerSlotRead quad id slot => canonical_execStorerSlotRead h quad id slot
  | .retnStoreComplete quad id slot => canonical_execRetnStoreComplete h quad id slot
  | .remoteCommand quad r => canonical_execRemoteCommand h quad r
  | .remoteBusyRetry quad r k => canonical_execRemoteBusyRetry h quad r k
  | .memRequest m => canonical_execMemRequest h m
  | .memReply m ans => canonical_execMemReply h m ans
  | .issueGuardExpiry core => canonical_execIssueGuardExpiry h core
  | .bankFill core => canonical_execBankFill h core
  | .recordLoadDone p => canonical_execRecordLoadDone h p
  | .recordWriteback p => canonical_execRecordWriteback h p
  | .waitWritebackTimeout p => canonical_execWaitWritebackTimeout h p
  | .stealRequest thief => canonical_execStealRequest h thief
  | .stealAnswer thief victim => canonical_execStealAnswer h thief victim
  | .splitJoinReply thief victim record => canonical_execSplitJoinReply h thief victim record
  | .stealReply thief work => canonical_execStealReply h thief work
  | .stealRoundTimer core => canonical_execStealRoundTimer h core
  | .hangTrap => canonical_execHangTrap h
  | .translationWalk core va acc user => canonical_execTranslationWalk h core va acc user
  | .faultPostRetry p => canonical_execFaultPostRetry h p
  | .faultSlotOutcome cluster slot => canonical_execFaultSlotOutcome h cluster slot
  | .pageWaitWriteback p => canonical_execPageWaitWriteback h p
  | .fpheadWrite core addr v => canonical_execFpheadWrite h core addr v
  | .pgasnWrite core hi addr v => canonical_execPgasnWrite h core hi addr v
  | .toccWrite core hi v => canonical_execToccWrite h core hi v
  | .fqbaseWrite cluster v => canonical_execFqbaseWrite h cluster v
  | .lwcfgWrite v => canonical_execLwcfgWrite h v
  | .msixtrigWrite v => canonical_execMsixtrigWrite h v
  | .opreqWrite core v => canonical_execOpreqWrite h core v
  | .atomodeWrite v => canonical_execAtomodeWrite h v
  | .atomodeSwitch => canonical_execAtomodeSwitch h
  | .registerWrite core block off v => canonical_execRegisterWrite h core block off v
  | .peerFaultReturn p sfp => canonical_execPeerFaultReturn h p sfp
  | .l2pSwapComplete quad pq => canonical_execL2pSwapComplete h quad pq
  | .failsafeBudget region => canonical_execFailsafeBudget h region
  | .startAdmission region => canonical_execStartAdmission h region
  | .oppVoltageSettled quad => canonical_execOppVoltageSettled h quad
  | .droopCheck region below => canonical_execDroopCheck h region below
  | .migrationBoundary quad => canonical_execMigrationBoundary h quad
  | .migrationForce quad => canonical_execMigrationForce h quad
  | .migrationTransferDone quad => canonical_execMigrationTransferDone h quad
  | .migrationResume quad => canonical_execMigrationResume h quad
  | .gateCommit quad => canonical_execGateCommit h quad
  | .quadWake quad => canonical_execQuadWake h quad
  | .fatalError cause ofModule => canonical_execFatalError h cause ofModule
  | .illegalInstruction word => canonical_execIllegalInstruction h word
  | .fetchFault addr why => canonical_execFetchFault h addr why
  | .commandCompletion core id => canonical_execCommandCompletion h core id
  | .replayFilterAck quad src tag => canonical_execReplayFilterAck h quad src tag
  | .coldBoot b => canonical_execColdBoot h b
  | .gateRequest quad => canonical_execGateRequest h quad
  | .hostPutAliasWrite n v => canonical_execHostPutAliasWrite h n v
  | .hostBar2Access write byte len v => canonical_execHostBar2Access h write byte len v
  | .hostAtomic op byte width v => canonical_execHostAtomic h op byte width v
  | .peerRequest op addr width v => canonical_execPeerRequest h op addr width v
  | .peerBindingRemove num => canonical_execPeerBindingRemove h num
  | .linkBeatRetry link fails => canonical_execLinkBeatRetry h link fails
  | .packageGrant watts => canonical_execPackageGrant h watts
  | .sensorSample quad diode ring => canonical_execSensorSample h quad diode ring
  | .analogueTrip region => canonical_execAnalogueTrip h region
  | .droopAlarm region => canonical_execDroopAlarm h region
  | .patrolScrub group => canonical_execPatrolScrub h group
  | .ageingReplan quad present => canonical_execAgeingReplan h quad present
  | .imageLoad img => canonical_execImageLoad h img
  | .partitionCreate p => canonical_execPartitionCreate h p
  | .partitionStart => canonical_execPartitionStart h
  | .partitionTeardown => canonical_execPartitionTeardown h
  | .attestationReport nonce => canonical_execAttestationReport h nonce
  | .peerBindingSetup p own => canonical_execPeerBindingSetup h p own
  | .zholosWatchdog => canonical_execZholosWatchdog h
  | .colophonRead slot => canonical_execColophonRead h slot
  | .hostCxlMemAccess write byte len v => canonical_execHostCxlMemAccess h write byte len v
  | .hostCxlSnoop line => canonical_execHostCxlSnoop h line
  | .cxlCacheEnable on => canonical_execCxlCacheEnable h on
  | .msixVectorUnmask vec => canonical_execMsixVectorUnmask h vec
  | .ownerKeyDelivery owner shared => canonical_execOwnerKeyDelivery h owner shared
  | .l2pSwapBegin quad => canonical_execL2pSwapBegin h quad

theorem canonical_act (h : s.MemoryWf) (a : Activity) : Canonical (s.act a) := by
  cases a with
  | event i => exact canonical_exec h i
  | offer c => exact canonical_next (memoryWf_offer h c)
  | issue c =>
    simp only [State.act]
    split
    · exact canonical_exec (memoryWf_issueOf h c ‹_›) _
    · exact canonical_next (memoryWf_pushOffer h c)
  | issueRemote q =>
    simp only [State.act]
    split
    · exact canonical_exec (memoryWf_remoteIssueOf h q ‹_›) _
    · exact canonical_next (memoryWf_dropUndefinedRemote h q)
  | resume q id =>
    simp only [State.act]
    split
    · rename_i e
      split at e
      · cases e
      · exact canonical_exec (memoryWf_resumeOf h q id e) _
    · exact canonical_next h
  | partitionTrap kind p => exact canonical_next (memoryWf_partitionTrap h kind p)
  | runAhead p => exact canonical_next (memoryWf_runAhead h p)
  | upset u => exact canonical_next (memoryWf_upset h u)
  | bar0 write => exact canonical_next (memoryWf_bar0 h write)
  | shareReport =>
    refine canonical_next ?_
    split
    · exact memoryWf_toZholos h _
    · exact h

theorem memoryWf_rearm (h : s.MemoryWf) (c : Nat) : (s.rearm c).MemoryWf := by
  unfold State.rearm
  grind -ring -linarith [memoryWf_modPart]

theorem memoryWf_takeTurn (h : s.MemoryWf) (c : Nat) : (s.takeTurn c).MemoryWf := by
  unfold State.takeTurn
  grind -ring -linarith [memoryWf_modCore, memoryWf_rearm, State.MemoryWf]

theorem canonical_issueHere (h : s.MemoryWf) : Canonical (s.issueHere) := by
  unfold State.issueHere
  have met : State.MemoryWf (if s.bad.isEmpty then s else s.meetFetch s.pc) := by
    split
    · exact h
    · exact memoryWf_meetFetch h _
  dsimp only
  split
  · exact canonical_exec met _
  · split
    · exact canonical_exec (memoryWf_noteAccess met _ _ _ _) _
    · exact canonical_exec (memoryWf_noteAccess met _ _ _ _) _

theorem canonical_issueOn (h : s.MemoryWf) (c : Nat) : Canonical (s.issueOn c) := by
  unfold State.issueOn
  split
  · exact canonical_exec h _
  · exact canonical_issueHere (memoryWf_takeTurn h c)

theorem memoryWf_idle (h : s.MemoryWf) : s.idle.MemoryWf := by
  unfold State.idle
  grind -ring -linarith [State.MemoryWf]

theorem canonical_proceed (h : s.MemoryWf) : Canonical (s.proceed) := by
  unfold State.proceed
  grind -ring -linarith [memoryWf_post, canonical_issueOn, memoryWf_idle, canonical_next]

theorem canonical_turn (h : s.MemoryWf) : Canonical (s.turn) := by
  unfold State.turn
  have later (l : List Activity) : State.MemoryWf { s with agenda := l } := h
  have fewer (l : List (Nat × Instr)) : State.MemoryWf { s with timers := l } := h
  split
  · exact canonical_exec h _
  · split
    · exact canonical_act (later _) _
    · split
      · exact canonical_next (memoryWf_idle h)
      · split
        · split
          · exact canonical_exec (fewer _) _
          · exact canonical_proceed h
        · exact canonical_proceed h

/-- Settles O60: each step keeps memory in canonical form, as each function that a step calls does. -/
theorem memoryStaysCanonical : Obligations.MemoryStaysCanonical := by
  unfold Obligations.MemoryStaysCanonical
  intro s t h e
  exact canonical_turn h t e

end Sys2Proof.Machine
end

section
/-! O56 holds. The tables of the reset state list nothing, so each core, quad, cluster, die and region is at its own reset value. -/

namespace Sys2Proof.Machine

@[simp] theorem State.reset_core (c : Nat) : State.reset.core c = Core.reset := rfl

@[simp] theorem State.reset_quad (q : Nat) : State.reset.quad q = Quad.reset := rfl

@[simp] theorem State.reset_cluster (c : Nat) : State.reset.cluster c = Cluster.reset := rfl

@[simp] theorem State.reset_die (d : Nat) : State.reset.die d = Die.reset := rfl

@[simp] theorem State.reset_region (r : Nat) : State.reset.region r = Region.reset := rfl

@[simp] theorem State.reset_bank (p : Place) : State.reset.bank p = Bank.reset := by
  simp [State.bank, Core.reset]

@[simp] theorem State.reset_strand (p : Place) : State.reset.strand p = Strand.reset := by
  simp [State.strand, Bank.reset]

/-- Settles O56: each table's default record holds the values of the reset columns, and so does the partition's record. -/
theorem resetValues : Obligations.ResetValues := by
  unfold Obligations.ResetValues
  refine ⟨fun c => ?cores, fun p => ?strands, fun q => ?quads, fun c => ?clusters, fun d => ?dies, fun r => ?regions, ?partition⟩
  case cores => simp [Core.reset, Core.dqstat, bit1]
  case strands => simp [Bank.reset, Strand.reset]
  case quads => simp [Quad.reset]
  case clusters => simp [State.scalehome, Cluster.reset]
  case dies => simp [Die.reset]
  case regions => simp [Region.reset]
  case partition => exact ⟨rfl, rfl, rfl, rfl, rfl, rfl, rfl, rfl, rfl, rfl, rfl, rfl, rfl, rfl, rfl, rfl, memoryWf_reset⟩

end Sys2Proof.Machine
end

section
/-! Memory a bit at a time: what a bit of memory reads as after a write, below the sectors, the keys and the seals (R64, R328, R406). -/

namespace Sys2Proof.Machine

/-! ## Bits of a memory -/

/-- A bit of a memory. -/
def Memory.bit (m : Memory) (k : Nat) : Bool := (m.read (k / 8)).toNat.testBit (k % 8)

theorem Memory.testBit_readNat (m : Memory) (a n i : Nat) :
    (m.readNat a n).testBit i = (decide (i < 8 * n) && (m.read (a + i / 8)).toNat.testBit (i % 8)) := by
  induction n generalizing a i with
  | zero => simp [Memory.readNat]
  | succ n ih =>
    have low : (m.read a).toNat < 2 ^ 8 := (m.read a).isLt
    have sum : m.readNat a (n + 1) = 2 ^ 8 * m.readNat (a + 1) n + (m.read a).toNat := by
      rw [Memory.readNat, Nat.add_comm]
      rfl
    rw [sum, Nat.testBit_two_pow_mul_add _ low]
    split
    · rename_i here
      rw [Nat.div_eq_of_lt here, Nat.mod_eq_of_lt here, decide_eq_true (by omega : i < 8 * (n + 1)), Bool.true_and, Nat.add_zero]
    · rw [ih, show a + 1 + (i - 8) / 8 = a + i / 8 by omega, show (i - 8) % 8 = i % 8 by omega]
      congr 1
      exact decide_eq_decide.2 (by omega)

theorem Memory.testBit_readBits (m : Memory) (key w i : Nat) :
    (m.readBits key w).testBit i = (decide (i < w) && m.bit (key + i)) := by
  rw [Memory.readBits, Nat.testBit_mod_two_pow, Nat.testBit_div_two_pow, Memory.testBit_readNat, Memory.bit, bytesOf]
  by_cases h : i < w
  · rw [show key / 8 + (i + key % 8) / 8 = (key + i) / 8 by omega, show (i + key % 8) % 8 = (key + i) % 8 by omega,
      decide_eq_true (by omega : i + key % 8 < 8 * ((key % 8 + w + 7) / 8)), Bool.true_and]
  · rw [decide_eq_false h, Bool.false_and, Bool.false_and]

theorem Memory.bit_writeNat {m : Memory} (wf : Memory.wf m = true) (a n v k : Nat) :
    (m.writeNat a n v).bit k = if 8 * a ≤ k ∧ k < 8 * (a + n) then v.testBit (k - 8 * a) else m.bit k := by
  split
  · rename_i inside
    have whole := congrArg (·.testBit (k - 8 * a)) (Memory.readNat_writeNat n m a v wf)
    simp only [Memory.testBit_readNat] at whole
    rw [show a + (k - 8 * a) / 8 = k / 8 by omega, show (k - 8 * a) % 8 = k % 8 by omega,
      decide_eq_true (by omega : k - 8 * a < 8 * n), Bool.true_and, show 256 ^ n = 2 ^ (8 * n) by rw [Nat.pow_mul],
      Nat.testBit_mod_two_pow, decide_eq_true (by omega : k - 8 * a < 8 * n), Bool.true_and] at whole
    exact whole
  · rw [Memory.bit, Memory.read_writeNat_out n m a v (k / 8) wf (by omega), Memory.bit]

/-- The number that a write of bits puts in the bytes it touches: the bits below and above stay. -/
theorem testBit_kept (old v sh w j : Nat) :
    (old % 2 ^ sh + old / 2 ^ (sh + w) * 2 ^ (sh + w) + v % 2 ^ w * 2 ^ sh).testBit j =
      if sh ≤ j ∧ j < sh + w then v.testBit (j - sh) else old.testBit j := by
  have shape : old % 2 ^ sh + old / 2 ^ (sh + w) * 2 ^ (sh + w) + v % 2 ^ w * 2 ^ sh =
      2 ^ sh * (2 ^ w * (old / 2 ^ (sh + w)) + v % 2 ^ w) + old % 2 ^ sh := by rw [Nat.pow_add]; ring
  rw [shape, Nat.testBit_two_pow_mul_add _ (Nat.mod_lt _ (Nat.two_pow_pos sh)),
    Nat.testBit_two_pow_mul_add _ (Nat.mod_lt _ (Nat.two_pow_pos w))]
  by_cases low : j < sh
  · rw [if_pos low, if_neg (by omega), Nat.testBit_mod_two_pow, decide_eq_true low, Bool.true_and]
  · rw [if_neg low]
    by_cases inside : j - sh < w
    · rw [if_pos inside, if_pos (by omega), Nat.testBit_mod_two_pow, decide_eq_true inside, Bool.true_and]
    · rw [if_neg inside, if_neg (by omega), Nat.testBit_div_two_pow, show j - sh - w + (sh + w) = j by omega]

theorem Memory.bit_writeBits {m : Memory} (wf : Memory.wf m = true) (key w v k : Nat) :
    (m.writeBits key w v).bit k = if key ≤ k ∧ k < key + w then v.testBit (k - key) else m.bit k := by
  have bytes : key % 8 + w ≤ 8 * bytesOf key w := by unfold bytesOf; omega
  rw [Memory.writeBits, Memory.bit_writeNat wf, testBit_kept]
  by_cases touched : 8 * (key / 8) ≤ k ∧ k < 8 * (key / 8 + bytesOf key w)
  · rw [if_pos touched]
    by_cases inside : key ≤ k ∧ k < key + w
    · rw [if_pos inside, if_pos (by omega), show k - 8 * (key / 8) - key % 8 = k - key by omega]
    · rw [if_neg inside, if_neg (by omega), Memory.testBit_readNat, decide_eq_true (by omega), Bool.true_and, Memory.bit,
        show key / 8 + (k - 8 * (key / 8)) / 8 = k / 8 by omega, show (k - 8 * (key / 8)) % 8 = k % 8 by omega]
  · rw [if_neg touched, if_neg (by omega)]

/-- Memories whose bits agree hold the same bits. -/
theorem Memory.readBits_congr {m m' : Memory} {key w : Nat} (same : ∀ i < w, m.bit (key + i) = m'.bit (key + i)) :
    m.readBits key w = m'.readBits key w := by
  refine Nat.eq_of_testBit_eq fun i => ?_
  rw [Memory.testBit_readBits, Memory.testBit_readBits]
  by_cases h : i < w
  · rw [same i h]
  · simp [h]

/-! ## Pieces -/

/-- Pieces that follow each other from a physical bit to another. -/
def Consecutive : Nat → Nat → List Part → Prop
  | key, stop, [] => key = stop
  | key, stop, p :: r => p.key = key ∧ Consecutive (key + p.width) stop r

/-- A piece lies in one sector. -/
def InSector (p : Part) : Prop := ∀ i < p.width, (p.key + i) / 256 = p.key / 256

/-- The piece of `w` bits from `key` up in the `i`th of their sectors. -/
def pieceIn (key w i : Nat) : Part :=
  ⟨max key (256 * (key / 256 + i)), min (key + w) (256 * (key / 256 + i + 1)) - max key (256 * (key / 256 + i))⟩

theorem sectorPieces_eq (key w : Nat) :
    sectorPieces key w = (List.range ((key + w - 1) / 256 - key / 256 + 1)).map (pieceIn key w) := rfl

theorem consecutive_pieces {key w : Nat} (n i : Nat) (last : (key + w - 1) / 256 - key / 256 = i + n) :
    Consecutive (max key (256 * (key / 256 + i))) (key + w) ((List.range (n + 1)).map fun j => pieceIn key w (i + j)) := by
  induction n generalizing i with
  | zero =>
    simp only [Nat.zero_add, List.range_one, List.map_cons, List.map_nil, Consecutive, pieceIn, Nat.add_zero, true_and]
    omega
  | succ n ih =>
    rw [List.range_succ_eq_map, List.map_cons, List.map_map]
    refine ⟨rfl, ?_⟩
    have next := ih (i + 1) (by omega)
    have start : max key (256 * (key / 256 + i)) + (pieceIn key w (i + 0)).width = max key (256 * (key / 256 + (i + 1))) := by
      simp only [pieceIn, Nat.add_zero]
      omega
    rw [start]
    simpa only [Function.comp_def, Nat.succ_eq_add_one, Nat.add_assoc, Nat.add_comm 1] using next

theorem consecutive_sectorPieces (key w : Nat) : Consecutive key (key + w) (sectorPieces key w) := by
  have all := consecutive_pieces (key := key) (w := w) ((key + w - 1) / 256 - key / 256) 0 (by omega)
  rw [show max key (256 * (key / 256 + 0)) = key by omega] at all
  rw [sectorPieces_eq]
  simpa only [Nat.zero_add] using all

theorem inSector_of_mem_sectorPieces {key w : Nat} {p : Part} (h : p ∈ sectorPieces key w) : InSector p := by
  rw [sectorPieces_eq, List.mem_map] at h
  obtain ⟨i, -, rfl⟩ := h
  intro j hj
  simp only [pieceIn] at hj ⊢
  omega

/-- Each piece lies where the pieces do. -/
theorem Consecutive.bounds {key stop : Nat} {l : List Part} (h : Consecutive key stop l) :
    key ≤ stop ∧ ∀ p ∈ l, key ≤ p.key ∧ p.key + p.width ≤ stop := by
  induction l generalizing key with
  | nil => exact ⟨Nat.le_of_eq h, by simp⟩
  | cons p r ih =>
    obtain ⟨rfl, rest⟩ := h
    obtain ⟨le, inside⟩ := ih rest
    refine ⟨by omega, fun q hq => ?_⟩
    obtain rfl | hq := List.mem_cons.1 hq
    · exact ⟨Nat.le_refl _, le⟩
    · obtain ⟨h1, h2⟩ := inside q hq
      exact ⟨by omega, h2⟩

/-- Pieces joined, a bit at a time, where each holds the bits of `bits` at its place. -/
theorem testBit_joinPieces {f : Part → Nat} {bits : Nat → Bool} {l : List Part} {key stop : Nat} (h : Consecutive key stop l)
    (holds : ∀ p ∈ l, ∀ i, (f p).testBit i = (decide (i < p.width) && bits (p.key + i))) (i : Nat) :
    (joinPieces f l).testBit i = (decide (key + i < stop) && bits (key + i)) := by
  induction l generalizing key i with
  | nil =>
    obtain rfl : key = stop := h
    simp [joinPieces]
  | cons p r ih =>
    obtain ⟨rfl, rest⟩ := h
    have own := holds p List.mem_cons_self
    have small : f p < 2 ^ p.width :=
      Nat.lt_pow_two_of_testBit _ fun j hj => by rw [own, decide_eq_false (by omega), Bool.false_and]
    have sum : joinPieces f (p :: r) = 2 ^ p.width * joinPieces f r + f p := by
      rw [joinPieces, Nat.add_comm, Nat.mul_comm]
    have stop_le := rest.bounds.1
    rw [sum, Nat.testBit_two_pow_mul_add _ small]
    split
    · rename_i here
      rw [own, decide_eq_true here, decide_eq_true (by omega : p.key + i < stop)]
    · rw [ih rest (fun q hq => holds q (List.mem_cons_of_mem _ hq)),
        show p.key + p.width + (i - p.width) = p.key + i by omega]

end Sys2Proof.Machine
end

section
/-! Bits of the state: what an access reads at a physical bit, under its key, and what is read there after a write. -/

namespace Sys2Proof.Machine

/-! ## Sectors and keys -/

theorem lt_hostBase_add {k i : Nat} (h : (k + i) / 256 = k / 256) : k + i < hostBase ↔ k < hostBase := by
  unfold hostBase
  omega

theorem realKey_add {k i : Nat} (h : (k + i) / 256 = k / 256) : realKey (k + i) = realKey k + i := by
  rw [realKey, realKey, if_congr (lt_hostBase_add h) rfl rfl]
  by_cases low : k < hostBase
  · rw [if_pos low, if_pos low]
    omega
  · rw [if_neg low, if_neg low]

theorem realKey_sector {k i : Nat} (h : (k + i) / 256 = k / 256) : realKey (k + i) / 256 = realKey k / 256 := by
  rw [realKey, realKey, if_congr (lt_hostBase_add h) rfl rfl]
  by_cases low : k < hostBase
  · rw [if_pos low, if_pos low]
    omega
  · rw [if_neg low, if_neg low, h]

theorem keySel_add {k i : Nat} (h : (k + i) / 256 = k / 256) : keySel (k + i) = keySel k := by
  rw [keySel, keySel, if_congr (lt_hostBase_add h) rfl rfl]
  by_cases low : k < hostBase
  · rw [if_pos low, if_pos low]
    omega
  · rw [if_neg low, if_neg low]

theorem keyed_iff (k : Nat) : keyed k = true ↔ k < hostBase ∨ scratchBase 0 ≤ k ∧ k < peerBase 0 := by
  simp [keyed]

theorem keyed_add {k i : Nat} (h : (k + i) / 256 = k / 256) : keyed (k + i) = keyed k := by
  rw [Bool.eq_iff_iff, keyed_iff, keyed_iff, lt_hostBase_add h]
  unfold scratchBase peerBase
  omega

theorem realKey_of_real {k : Nat} (real : hostBase ≤ k) : realKey k = k := if_neg (Nat.not_lt.2 real)

/-- A bit of another key selection stands below all that have none. -/
theorem real_of_sector {k key : Nat} (real : hostBase ≤ key) (h : realKey k / 256 = key / 256) : hostBase ≤ k := by
  refine Nat.not_lt.1 fun low => ?_
  rw [realKey, if_pos low] at h
  unfold hostBase at *
  omega

variable (s : State)

theorem State.unseal_add {k i : Nat} (h : (k + i) / 256 = k / 256) : s.unseal (k + i) = s.unseal k := by
  simp only [State.unseal, realKey_sector h, keySel_add h, keyed_add h]

/-- A bit as an access under its key reads it. -/
def State.bit (s : State) (k : Nat) : Bool := (s.unseal k).mem.bit (realKey k)

theorem State.testBit_bitsAt (key w i : Nat) : (s.bitsAt key w).testBit i = (decide (i < w) && s.bit (key + i)) := by
  rw [State.bitsAt, testBit_joinPieces (bits := s.bit) (consecutive_sectorPieces key w)]
  · congr 1
    exact decide_eq_decide.2 (by omega)
  · intro p hp j
    rw [Memory.testBit_readBits, State.bit]
    by_cases h : j < p.width
    · have sector := inSector_of_mem_sectorPieces hp j h
      rw [s.unseal_add sector, realKey_add sector]
    · rw [decide_eq_false h, Bool.false_and, Bool.false_and]

theorem State.bitsAt_lt (key w : Nat) : s.bitsAt key w < 2 ^ w :=
  Nat.lt_pow_two_of_testBit _ fun i hi => by rw [s.testBit_bitsAt, decide_eq_false (by omega), Bool.false_and]

theorem State.bitsAt_one (k : Nat) : s.bitsAt k 1 = (s.bit k).toNat := by
  refine Nat.eq_of_testBit_eq fun i => ?_
  rw [State.testBit_bitsAt]
  rcases i with _ | i
  · cases s.bit k <;> rfl
  · cases s.bit k <;> simp [Nat.testBit_succ]

/-- Bits that follow each other read together. -/
theorem State.bitsAt_add (key a b : Nat) : s.bitsAt key a + s.bitsAt (key + a) b * 2 ^ a = s.bitsAt key (a + b) := by
  refine Nat.eq_of_testBit_eq fun i => ?_
  rw [Nat.add_comm (s.bitsAt key a), Nat.mul_comm, Nat.testBit_two_pow_mul_add _ (s.bitsAt_lt key a)]
  simp only [State.testBit_bitsAt]
  split
  · rename_i low
    rw [decide_eq_true low, decide_eq_true (by omega : i < a + b)]
  · rw [show key + a + (i - a) = key + i by omega]
    congr 1
    exact decide_eq_decide.2 (by omega)

/-- States whose bits agree at a place read the same there. -/
theorem bitsAt_congr {s t : State} {key w : Nat} (same : ∀ k, key ≤ k → k < key + w → t.bit k = s.bit k) :
    t.bitsAt key w = s.bitsAt key w := by
  refine Nat.eq_of_testBit_eq fun i => ?_
  rw [State.testBit_bitsAt, State.testBit_bitsAt]
  by_cases h : i < w
  · rw [same (key + i) (by omega) (by omega)]
  · rw [decide_eq_false h, Bool.false_and, Bool.false_and]

/-! ## Seals -/

theorem Tbl.get_erase_self {α : Type} (t : Tbl α) (d : α) (k : Nat) : (t.erase k).get d k = d := by
  induction t with
  | nil => rfl
  | cons e r ih =>
    by_cases h : e.1 = k
    · simpa [Tbl.erase, h] using ih
    · simpa [Tbl.erase, h, Tbl.get] using ih

theorem Tbl.get_erase_ne {α : Type} (t : Tbl α) (d : α) {k j : Nat} (h : j ≠ k) : (t.erase k).get d j = t.get d j := by
  induction t with
  | nil => rfl
  | cons e r ih =>
    by_cases he : e.1 = k
    · have : e.1 ≠ j := by omega
      simpa [Tbl.erase, he, Tbl.get, this, Ne.symm h] using ih
    · simp only [Tbl.erase, List.filter_cons, he, bne_iff_ne, ne_eq, not_false_eq_true, if_true, Tbl.get] at ih ⊢
      rw [ih]

theorem State.unseal_epoch (k : Nat) : (s.unseal k).epoch = s.epoch ∧ (s.unseal k).sharedEpoch = s.sharedEpoch := by
  simp only [State.unseal]
  split <;> exact ⟨rfl, rfl⟩

/-- Unsealing a sector writes memory and its seal, and nothing else. -/
theorem State.unseal_frame (k : Nat) : s.unseal k = { s with mem := (s.unseal k).mem, seals := (s.unseal k).seals } := by
  simp only [State.unseal]
  split <;> rfl

/-- A protected sector, unsealed, stands under the key of its access. -/
theorem State.seal_unseal {k : Nat} (h : keyed k = true) :
    (s.unseal k).seals.get 1 (realKey k / 256) = s.keyOf (keySel k) := by
  simp only [State.unseal, h, Bool.not_true, Bool.false_or]
  split
  · exact beq_iff_eq.1 ‹_›
  · dsimp only
    split
    · rw [Tbl.get_erase_self, ‹s.keyOf _ = 1›]
    · rw [Tbl.get_set_self]

theorem State.seal_unseal_ne {k sec : Nat} (h : sec ≠ realKey k / 256) : (s.unseal k).seals.get 1 sec = s.seals.get 1 sec := by
  simp only [State.unseal]
  split
  · rfl
  · dsimp only
    split
    · exact Tbl.get_erase_ne _ _ h
    · exact Tbl.get_set_ne _ _ _ h

theorem State.bit_unseal_ne {k b : Nat} (wf : s.MemoryWf) (h : b / 256 ≠ realKey k / 256) :
    (s.unseal k).mem.bit b = s.mem.bit b := by
  simp only [State.unseal]
  split
  · rfl
  · exact (Memory.bit_writeBits wf _ _ _ _).trans (if_neg (by omega))

/-- What a bit reads as depends on its sector, the seal of that and the keys alone. -/
theorem bit_congr {s t : State} {k : Nat} (hs : s.MemoryWf) (ht : t.MemoryWf) (own : t.epoch = s.epoch)
    (shared : t.sharedEpoch = s.sharedEpoch) (sealed : t.seals.get 1 (realKey k / 256) = s.seals.get 1 (realKey k / 256))
    (mem : ∀ b, b / 256 = realKey k / 256 → t.mem.bit b = s.mem.bit b) : t.bit k = s.bit k := by
  have keys : t.keyOf (keySel k) = s.keyOf (keySel k) := by simp only [State.keyOf, own, shared]
  have sector : t.mem.readBits (256 * (realKey k / 256)) 256 = s.mem.readBits (256 * (realKey k / 256)) 256 :=
    Memory.readBits_congr fun i hi => mem _ (by omega)
  simp only [State.bit, State.unseal, keys, sealed, sector]
  split
  · exact mem _ rfl
  · exact (Memory.bit_writeBits ht ..).trans ((if_congr Iff.rfl rfl (mem _ rfl)).trans (Memory.bit_writeBits hs ..).symm)

/-! ## Writes -/

/-- Bits of one sector written. -/
def State.putPiece (s : State) (p : Part) (v : Nat) : State :=
  { s.unseal p.key with mem := (s.unseal p.key).mem.writeBits (realKey p.key) p.width v }

theorem State.memoryWf_putPiece {s : State} (wf : s.MemoryWf) (p : Part) (v : Nat) : (s.putPiece p v).MemoryWf :=
  Memory.wf_writeBits _ _ _ _ (memoryWf_unseal wf p.key)

/-- A bit of the sector of bits that were written. -/
theorem State.bit_putPiece_sector {s : State} (wf : s.MemoryWf) (p : Part) (v : Nat) {k : Nat} (same : k / 256 = p.key / 256) :
    (s.putPiece p v).bit k = if p.key ≤ k ∧ k < p.key + p.width then v.testBit (k - p.key) else s.bit k := by
  have written := Memory.bit_writeBits (memoryWf_unseal wf p.key) (realKey p.key) p.width v
  have open' : (s.putPiece p v).unseal p.key = s.putPiece p v := by
    have keys : (s.putPiece p v).keyOf (keySel p.key) = s.keyOf (keySel p.key) := by
      simp only [State.keyOf, State.putPiece, (s.unseal_epoch p.key).1, (s.unseal_epoch p.key).2]
    rw [State.unseal, keys]
    refine if_pos ?_
    cases hp : keyed p.key
    · rfl
    · simpa [State.putPiece] using s.seal_unseal hp
  have mem : (s.putPiece p v).mem = (s.unseal p.key).mem.writeBits (realKey p.key) p.width v := rfl
  rcases Nat.le_total p.key k with h | h
  · obtain ⟨i, rfl⟩ := Nat.exists_eq_add_of_le h
    rw [State.bit, State.unseal_add _ same, open', mem, written, State.bit, State.unseal_add _ same, realKey_add same]
    by_cases low : i < p.width
    · rw [if_pos (by omega), if_pos (by omega)]
      congr 1
      omega
    · rw [if_neg (by omega), if_neg (by omega)]
  · obtain ⟨i, hi⟩ := Nat.exists_eq_add_of_le h
    have same' : (k + i) / 256 = k / 256 := by rw [← hi, same]
    rw [State.bit, State.bit, ← State.unseal_add _ same', ← State.unseal_add _ same', ← hi, open', mem, written]
    have keys : realKey p.key = realKey k + i := by rw [hi, realKey_add same']
    rw [keys]
    by_cases low : i = 0
    · subst low
      by_cases some : 0 < p.width
      · rw [if_pos (by omega), if_pos (by omega)]
        congr 1
        omega
      · rw [if_neg (by omega), if_neg (by omega)]
    · rw [if_neg (by omega), if_neg (by omega)]

theorem State.bit_putPiece {s : State} (wf : s.MemoryWf) {p : Part} (sector : InSector p) (real : hostBase ≤ p.key) (v k : Nat) :
    (s.putPiece p v).bit k = if p.key ≤ k ∧ k < p.key + p.width then v.testBit (k - p.key) else s.bit k := by
  have inside (b : Nat) (h : p.key ≤ b ∧ b < p.key + p.width) : b / 256 = p.key / 256 := by
    have := sector (b - p.key) (by omega)
    rwa [show p.key + (b - p.key) = b by omega] at this
  by_cases same : realKey k / 256 = p.key / 256
  · rw [realKey_of_real (real_of_sector real same)] at same
    exact State.bit_putPiece_sector wf p v same
  · have apart : ¬ (p.key ≤ k ∧ k < p.key + p.width) := fun h => by
      have real_k : hostBase ≤ k := Nat.le_trans real h.1
      rw [realKey_of_real real_k] at same
      exact same (inside k h)
    rw [if_neg apart]
    refine bit_congr wf (State.memoryWf_putPiece wf p v) (s.unseal_epoch _).1 (s.unseal_epoch _).2 ?_ fun b hb => ?_
    · exact s.seal_unseal_ne (by rwa [realKey_of_real real])
    · have other : b / 256 ≠ p.key / 256 := by omega
      have mem : (s.putPiece p v).mem = (s.unseal p.key).mem.writeBits p.key p.width v := by rw [State.putPiece, realKey_of_real real]
      rw [mem, Memory.bit_writeBits (memoryWf_unseal wf p.key), if_neg fun h => other (inside b h)]
      exact s.bit_unseal_ne wf (by rwa [realKey_of_real real])

/-- A number written over pieces, the lowest bits first. -/
def State.putPieces (s : State) (l : List Part) (v : Nat) : State :=
  (l.foldl (fun (r : State × Nat) p => (r.1.putPiece p r.2, r.2 / 2 ^ p.width)) (s, v)).1

theorem State.putPieces_cons (p : Part) (l : List Part) (v : Nat) :
    s.putPieces (p :: l) v = (s.putPiece p v).putPieces l (v / 2 ^ p.width) := rfl

theorem State.setBitsAt_eq (key w v : Nat) : s.setBitsAt key w v = s.putPieces (sectorPieces key w) v := rfl

theorem State.bit_putPieces {s : State} (wf : s.MemoryWf) {l : List Part} {key stop : Nat} (h : Consecutive key stop l)
    (sectors : ∀ p ∈ l, InSector p) (real : hostBase ≤ key) (v k : Nat) :
    (s.putPieces l v).bit k = if key ≤ k ∧ k < stop then v.testBit (k - key) else s.bit k := by
  induction l generalizing s key v with
  | nil =>
    obtain rfl : key = stop := h
    exact (if_neg (by omega)).symm
  | cons p l ih =>
    obtain ⟨rfl, rest⟩ := h
    have le := rest.bounds.1
    rw [State.putPieces_cons, ih (State.memoryWf_putPiece wf p v) rest (fun q hq => sectors q (List.mem_cons_of_mem _ hq))
      (Nat.le_trans real (Nat.le_add_right _ _)), State.bit_putPiece wf (sectors p List.mem_cons_self) real, Nat.testBit_div_two_pow]
    by_cases low : p.key ≤ k ∧ k < p.key + p.width
    · rw [if_neg (by omega), if_pos low, if_pos (by omega)]
    · by_cases high : p.key + p.width ≤ k ∧ k < stop
      · rw [if_pos high, if_pos (by omega), show k - (p.key + p.width) + p.width = k - p.key by omega]
      · rw [if_neg high, if_neg low, if_neg (by omega)]

/-- A bit after bits were written that no key selection moves. -/
theorem State.bit_setBitsAt {s : State} (wf : s.MemoryWf) {key : Nat} (real : hostBase ≤ key) (w v k : Nat) :
    (s.setBitsAt key w v).bit k = if key ≤ k ∧ k < key + w then v.testBit (k - key) else s.bit k :=
  State.bit_putPieces wf (consecutive_sectorPieces key w) (fun _ => inSector_of_mem_sectorPieces) real v k

theorem State.putPieces_frame (l : List Part) (v : Nat) :
    s.putPieces l v = { s with mem := (s.putPieces l v).mem, seals := (s.putPieces l v).seals } := by
  induction l generalizing s v with
  | nil => rfl
  | cons p l ih =>
    rw [State.putPieces_cons, ih, State.putPiece, s.unseal_frame p.key]

/-- A write of bits changes memory and the seals of its sectors, and nothing else. -/
theorem State.setBitsAt_frame (key w v : Nat) :
    s.setBitsAt key w v = { s with mem := (s.setBitsAt key w v).mem, seals := (s.setBitsAt key w v).seals } :=
  s.putPieces_frame _ _

end Sys2Proof.Machine
end

section
/-! Accesses of a scratchpad at its home: cabinets 0 to 6 stand on no track and in no hardware area, so that a read changes nothing and
a write changes its bits, and serves the requests that wait on its words (R50, R53, R64, R168). -/

namespace Sys2Proof.Machine

/-! ## Places -/

/-- `w` bits from a physical bit up lie in cabinets 0 to 6 of a quad. -/
def InCabinets (q key w : Nat) : Prop := q < 2 ^ 18 ∧ scratchBase q ≤ key ∧ key + w ≤ scratchBase q + 7 * 2 ^ 17

theorem InCabinets.mono {q key w k n : Nat} (h : InCabinets q key w) (low : key ≤ k) (high : k + n ≤ key + w) : InCabinets q k n :=
  ⟨h.1, Nat.le_trans h.2.1 low, Nat.le_trans high h.2.2⟩

section
variable {q key w : Nat} (h : InCabinets q key w)
include h

theorem InCabinets.real : hostBase ≤ key := by
  obtain ⟨-, low, -⟩ := h
  unfold scratchBase at low
  unfold hostBase
  omega

theorem InCabinets.trackOf : trackOf key = none := by
  obtain ⟨hq, low, high⟩ := h
  unfold scratchBase at low high
  rw [Machine.trackOf, if_neg]
  unfold trackBase
  omega

theorem InCabinets.scratchQuad : scratchQuad key = some q := by
  obtain ⟨hq, low, high⟩ := h
  unfold scratchBase at low high
  rw [Machine.scratchQuad, if_pos (by unfold scratchBase trackBase; omega)]
  congr 1
  unfold scratchBase
  omega

theorem InCabinets.not_guarded (s : State) (pos : 0 < w) : s.guarded key = false := by
  rw [State.guarded, h.scratchQuad]
  obtain ⟨-, low, high⟩ := h
  have out : ¬ 7 * 2 ^ 17 ≤ key - scratchBase q := by omega
  simp only [out, decide_false, Bool.false_and]

/-- The words of an access of a scratchpad are words of it. -/
theorem InCabinets.word {g : Nat} (hg : g ∈ groupsOf key w) : Machine.scratchQuad (64 * g) = some q := by
  obtain ⟨hq, low, high⟩ := h
  obtain ⟨i, hi, rfl⟩ := List.mem_map.1 hg
  have inRange := List.mem_range.1 hi
  unfold scratchBase at low high
  rw [Machine.scratchQuad, if_pos (by unfold scratchBase trackBase; omega)]
  congr 1
  unfold scratchBase
  omega

end

theorem InCabinets.below_peers {q key w : Nat} (h : InCabinets q key w) : key < peerBase 0 := by
  obtain ⟨hq, -, high⟩ := h
  unfold scratchBase at high
  unfold peerBase
  omega

/-! ## What memory accesses leave -/

/-- An access changes memory and its seals, full/empty bits, the filters, the requests that wait and the agenda, and nothing else. -/
def State.MemoryOnly (s t : State) : Prop :=
  t = { s with mem := t.mem, seals := t.seals, full := t.full, filters := t.filters, quads := t.quads, agenda := t.agenda } ∧
  ∀ q, t.quad q = { s.quad q with deferred := (t.quad q).deferred }

/-- What waking the requests that wait on words does: memory stays, and full/empty bits too where nothing waits. -/
structure State.Served (s t : State) : Prop where
  only : s.MemoryOnly t
  mem : t.mem = s.mem
  seals : t.seals = s.seals

theorem State.MemoryOnly.refl (s : State) : s.MemoryOnly s := ⟨rfl, fun _ => rfl⟩

theorem State.MemoryOnly.trans {s t u : State} (h : s.MemoryOnly t) (k : t.MemoryOnly u) : s.MemoryOnly u := by
  obtain ⟨h1, h2⟩ := h
  obtain ⟨k1, k2⟩ := k
  refine ⟨k1.trans (by rw [h1]), fun q => (k2 q).trans (by rw [h2 q])⟩

theorem State.Served.refl (s : State) : s.Served s := ⟨.refl s, rfl, rfl⟩

theorem State.Served.trans {s t u : State} (h : s.Served t) (k : t.Served u) : s.Served u :=
  ⟨h.only.trans k.only, k.mem.trans h.mem, k.seals.trans h.seals⟩

theorem State.Served.foldl {α : Type} {f : State → α → State} (each : ∀ (s : State) a, s.Served (f s a)) (s : State) (l : List α) :
    s.Served (l.foldl f s) := by
  induction l generalizing s with
  | nil => exact .refl s
  | cons a l ih => exact (each s a).trans (ih _)

variable (s : State)

theorem State.served_post (i : Instr) : s.Served (s.post i) := ⟨⟨rfl, fun _ => rfl⟩, rfl, rfl⟩

theorem State.served_answer (m : Msg) : s.Served (s.answer m) := by
  simp only [State.answer]
  refine State.Served.trans ?_ (State.served_post _ _)
  rw [State.keepAnswer]
  split
  · exact ⟨⟨rfl, fun _ => rfl⟩, rfl, rfl⟩
  · exact .refl s

theorem State.served_empty (key : Nat) : s.Served (s.empty key) := ⟨⟨rfl, fun _ => rfl⟩, rfl, rfl⟩

theorem State.served_deferred (q : Nat) (l : List Msg) : s.Served (s.modQuad q fun k => { k with deferred := l }) := by
  refine ⟨⟨rfl, fun r => ?_⟩, rfl, rfl⟩
  by_cases hr : r = q
  · rw [hr, State.quad_modQuad_self]
  · rw [State.quad_modQuad_ne _ _ hr]

theorem State.served_wake (q word : Nat) : s.Served (s.wake q word) := by
  simp only [State.wake]
  split
  · exact .refl s
  · have answered := State.Served.foldl State.served_answer s ((s.quad q).deferred.filter fun m => onWord m word && s.awaitHolds m)
    split
    · split
      · exact answered.trans (((State.served_answer _ _).trans (State.served_empty _ _)).trans (State.served_deferred _ _ _))
      · exact answered.trans (State.served_deferred _ _ _)
    · exact answered.trans (State.served_deferred _ _ _)

/-- Showing a write to the fault queue's watchers puts events on the agenda, and does nothing else. -/
theorem State.watchQueues_frame (q word : Nat) : s.watchQueues q word = { s with agenda := (s.watchQueues q word).agenda } := by
  have posts {α : Type} (f : α → Instr) (s : State) (l : List α) :
      l.foldl (fun s a => s.post (f a)) s = { s with agenda := (l.foldl (fun s a => s.post (f a)) s).agenda } := by
    induction l generalizing s with
    | nil => rfl
    | cons a l ih => rw [List.foldl_cons, ih]; rfl
  simp only [State.watchQueues]
  split
  · rfl
  · rw [posts, posts]

theorem State.served_watchQueues (q word : Nat) : s.Served (s.watchQueues q word) := by
  rw [State.watchQueues_frame]
  exact ⟨⟨rfl, fun _ => rfl⟩, rfl, rfl⟩

theorem State.served_wakeWords (words : List Nat) : s.Served (s.wakeWords words) := by
  refine State.Served.foldl (fun s w => ?_) s words
  split
  · exact (State.served_wake _ _ _).trans (State.served_watchQueues _ _ _)
  · split
    · exact State.Served.foldl (fun s q => State.served_wake s q w) s _
    · exact .refl s

theorem State.served_wakeWritten (ws : List (Part × Nat)) : s.Served (s.wakeWritten ws) := s.served_wakeWords _

/-- Where nothing waits in the quad of the words, no full/empty bit changes, and nothing waits there still. -/
theorem State.wakeWords_quiet {q : Nat} {words : List Nat} (own : ∀ w ∈ words, scratchQuad (64 * w) = some q)
    (quiet : (s.quad q).deferred = []) :
    (s.wakeWords words).full = s.full ∧ ((s.wakeWords words).quad q).deferred = [] := by
  induction words generalizing s with
  | nil => exact ⟨rfl, quiet⟩
  | cons w words ih =>
    have same : s.wake q w = s := by simp [State.wake, quiet]
    have next : s.wakeWords (w :: words) = (s.watchQueues q w).wakeWords words := by
      rw [State.wakeWords, List.foldl_cons, own w List.mem_cons_self]
      simp only [same]
      rfl
    have frame := s.watchQueues_frame q w
    have full : (s.watchQueues q w).full = s.full := by rw [frame]
    have quads : (s.watchQueues q w).quad q = s.quad q := by rw [frame]; rfl
    rw [next, ← full]
    exact ih _ (fun v hv => own v (List.mem_cons_of_mem _ hv)) (by rw [quads, quiet])

/-! ## Bits after waking -/

theorem State.bit_of_mem {s t : State} (mem : t.mem = s.mem) (seals : t.seals = s.seals) (own : t.epoch = s.epoch)
    (shared : t.sharedEpoch = s.sharedEpoch) (k : Nat) : t.bit k = s.bit k := by
  have keys : t.keyOf (keySel k) = s.keyOf (keySel k) := by simp only [State.keyOf, own, shared]
  simp only [State.bit, State.unseal, keys, mem, seals]
  split
  · rw [mem]
  · rfl

theorem State.MemoryOnly.epoch {s t : State} (h : s.MemoryOnly t) : t.epoch = s.epoch ∧ t.sharedEpoch = s.sharedEpoch ∧ t.bad = s.bad := by
  obtain ⟨h, -⟩ := h
  exact ⟨by rw [h], by rw [h], by rw [h]⟩

theorem State.Served.bit {s t : State} (h : s.Served t) (k : Nat) : t.bit k = s.bit k :=
  State.bit_of_mem h.mem h.seals h.only.epoch.1 h.only.epoch.2.1 k

end Sys2Proof.Machine
end

section
/-! What a scratchpad's home does with a load and with a store of its cabinets 0 to 6, where no group of memory is uncorrectable. -/

namespace Sys2Proof.Machine

variable {s : State} {q : Nat} (who : Who)

/-! ## Loads -/

theorem State.touchTrack_scratch {p : Part} (inside : InCabinets q p.key p.width) (store : Bool) :
    s.touchTrack who p.key store = s := by
  rw [State.touchTrack, inside.trackOf]

theorem State.onDeadTrack_scratch {p : Part} (inside : InCabinets q p.key p.width) : s.onDeadTrack p.key = false := by
  rw [State.onDeadTrack, inside.trackOf]

theorem State.meetSpine_scratch {ps : List Part} (inside : ∀ p ∈ ps, InCabinets q p.key p.width) : s.meetSpine who ps = s := by
  have none_lost : s.spineLost ps = [] := by
    rw [State.spineLost, List.flatMap_eq_nil_iff.2 fun p hp => by rw [(inside p hp).trackOf], List.eraseDups_nil]
  rw [State.meetSpine, none_lost, List.foldl_nil]

theorem State.meetBad_clean (clean : s.bad = []) (whole : Nat → Bool) (key w : Nat) : s.meetBad who whole key w = s := by
  rw [State.meetBad, clean, List.isEmpty_nil, if_pos rfl]

theorem State.meetParts_clean (clean : s.bad = []) (ps : List Part) : s.meetParts who ps = s := by
  unfold State.meetParts
  induction ps with
  | nil => rfl
  | cons p ps ih => rw [List.foldl_cons, State.meetBad_clean who clean, ih]

theorem State.readSector_scratch (clean : s.bad = []) {ps : List Part} (inside : ∀ p ∈ ps, InCabinets q p.key p.width) :
    s.readSector who ps = (ps.map fun p => s.bitsAt p.key p.width, s) := by
  cases ps with
  | nil => rfl
  | cons p ps =>
    simp only [State.readSector, State.onDeadTrack_scratch (inside p List.mem_cons_self), State.meetParts_clean who clean,
      State.meetSpine_scratch who inside]
    rfl

theorem State.loadPieces_scratch (clean : s.bad = []) {ps : List Part} (inside : ∀ p ∈ ps, InCabinets q p.key p.width) :
    s.loadPieces who ps = (joinPieces (fun p => s.bitsAt p.key p.width) ps, s) := by
  induction ps with
  | nil => rfl
  | cons p ps ih =>
    have here := inside p List.mem_cons_self
    simp only [State.loadPieces, State.touchTrack_scratch who here, State.readHome,
      State.readSector_scratch (ps := [p]) who clean fun r hr => List.mem_singleton.1 hr ▸ here,
      ih fun r hr => inside r (List.mem_cons_of_mem _ hr)]
    rfl

/-- Bits read a sector at a time are the bits there. -/
theorem State.join_sectorPieces (s : State) (key w : Nat) :
    joinPieces (fun p => s.bitsAt p.key p.width) (sectorPieces key w) = s.bitsAt key w := by
  refine Nat.eq_of_testBit_eq fun i => ?_
  rw [testBit_joinPieces (consecutive_sectorPieces key w) fun p _ j => s.testBit_bitsAt p.key p.width j, s.testBit_bitsAt]
  congr 1
  exact decide_eq_decide.2 (by omega)

theorem InCabinets.pieces {key w : Nat} (h : InCabinets q key w) : ∀ p ∈ sectorPieces key w, InCabinets q p.key p.width :=
  fun p hp => h.mono ((consecutive_sectorPieces key w).bounds.2 p hp).1 ((consecutive_sectorPieces key w).bounds.2 p hp).2

/-- A load at a scratchpad's home reads the bits there and changes nothing. -/
theorem State.homeLoad_scratch (clean : s.bad = []) {key w : Nat} (inside : InCabinets q key w) :
    s.homeLoad who key w = (s.bitsAt key w, s) := by
  rw [State.homeLoad, State.loadPieces_scratch who clean inside.pieces, s.join_sectorPieces]

theorem State.loadParts_scratch (clean : s.bad = []) {ps : List Part} (inside : ∀ p ∈ ps, InCabinets q p.key p.width) :
    s.loadParts who ps = (s.partsAt ps, s) := by
  induction ps with
  | nil => rfl
  | cons p ps ih =>
    simp only [State.loadParts, State.homeLoad_scratch who clean (inside p List.mem_cons_self),
      ih fun r hr => inside r (List.mem_cons_of_mem _ hr)]
    rfl

/-! ## Stores -/

/-- Bits of a scratchpad have been written: nothing but memory, and what the waking of requests changes, differs. -/
structure State.Writes (s t : State) (q key stop v : Nat) : Prop where
  only : s.MemoryOnly t
  wf : t.MemoryWf
  bit : ∀ k, t.bit k = if key ≤ k ∧ k < stop then v.testBit (k - key) else s.bit k
  quiet : (s.quad q).deferred = [] → t.full = s.full ∧ (t.quad q).deferred = []

theorem State.Writes.nothing (wf : s.MemoryWf) (key v : Nat) : s.Writes s q key key v :=
  ⟨.refl s, wf, fun k => (if_neg (by omega)).symm, fun quiet => ⟨rfl, quiet⟩⟩

theorem State.Writes.trans {t u : State} {key w stop v : Nat} (h : s.Writes t q key (key + w) v)
    (g : t.Writes u q (key + w) stop (v / 2 ^ w)) (le : key + w ≤ stop) : s.Writes u q key stop v := by
  refine ⟨h.only.trans g.only, g.wf, fun k => ?_, fun quiet => ?_⟩
  · rw [g.bit, h.bit, Nat.testBit_div_two_pow]
    by_cases low : key ≤ k ∧ k < key + w
    · rw [if_neg (by omega), if_pos low, if_pos (by omega)]
    · by_cases high : key + w ≤ k ∧ k < stop
      · rw [if_pos high, if_pos (by omega), show k - (key + w) + w = k - key by omega]
      · rw [if_neg high, if_neg low, if_neg (by omega)]
  · obtain ⟨full, waits⟩ := h.quiet quiet
    obtain ⟨full', waits'⟩ := g.quiet waits
    exact ⟨full'.trans full, waits'⟩

theorem State.Writes.clean {t : State} {key stop v : Nat} (h : s.Writes t q key stop v) (clean : s.bad = []) : t.bad = [] :=
  h.only.epoch.2.2.trans clean

/-- Only the bits within the place written matter of the number written there. -/
theorem State.Writes.mod {t : State} {key w v : Nat} (h : s.Writes t q key (key + w) (v % 2 ^ w)) :
    s.Writes t q key (key + w) v := by
  refine ⟨h.only, h.wf, fun k => (h.bit k).trans ?_, h.quiet⟩
  by_cases low : key ≤ k ∧ k < key + w
  · rw [if_pos low, if_pos low, Nat.testBit_mod_two_pow, decide_eq_true (by omega : k - key < w), Bool.true_and]
  · rw [if_neg low, if_neg low]

theorem State.storeSector_scratch (clean : s.bad = []) {p : Part} (inside : InCabinets q p.key p.width) (v : Nat) :
    s.storeSector who [(p, v)] = (s.setBitsAt p.key p.width v).wakeWritten [(p, v)] := by
  simp only [State.storeSector, State.touchTrack_scratch who inside, State.writeHome, State.onDeadTrack_scratch inside,
    State.putBits, List.foldl_cons, List.foldl_nil, List.map_cons, List.map_nil, State.meetBad_clean who clean,
    State.meetSpine_scratch (ps := [p]) who fun r hr => List.mem_singleton.1 hr ▸ inside]
  rfl

theorem State.writes_storeSector (wf : s.MemoryWf) (clean : s.bad = []) {p : Part} (inside : InCabinets q p.key p.width) (v : Nat) :
    s.Writes (s.storeSector who [(p, v)]) q p.key (p.key + p.width) v := by
  rw [State.storeSector_scratch who clean inside]
  have frame := s.setBitsAt_frame p.key p.width v
  have wf' := memoryWf_setBitsAt wf p.key p.width v
  have bits := State.bit_setBitsAt wf inside.real p.width v
  generalize s.setBitsAt p.key p.width v = t at frame wf' bits ⊢
  have quads : t.quad = s.quad := by rw [frame]; rfl
  have served := t.served_wakeWritten [(p, v)]
  have words : ∀ g ∈ ([(p, v)].flatMap fun e => groupsOf e.1.key e.1.width).eraseDups, scratchQuad (64 * g) = some q := by
    intro g hg
    have listed := List.mem_eraseDups.1 hg
    simp only [List.flatMap_cons, List.flatMap_nil, List.append_nil] at listed
    exact inside.word listed
  refine ⟨State.MemoryOnly.trans ⟨by rw [frame], fun r => by rw [quads]⟩ served.only, ?_, fun k => ?_, fun quiet => ?_⟩
  · exact memoryWf_of_mem_eq wf' served.mem
  · rw [served.bit, bits]
  · obtain ⟨full, waits⟩ := t.wakeWords_quiet words (by rw [quads, quiet])
    exact ⟨full.trans (by rw [frame]), waits⟩

theorem State.writes_pieces (wf : s.MemoryWf) (clean : s.bad = []) {l : List Part} {key stop : Nat} (run : Consecutive key stop l)
    (inside : ∀ p ∈ l, InCabinets q p.key p.width) (v : Nat) :
    s.Writes ((spread v l).foldl (fun s e => s.storeSector who [e]) s) q key stop v := by
  induction l generalizing s key v with
  | nil =>
    obtain rfl : key = stop := run
    exact .nothing wf _ _
  | cons p l ih =>
    obtain ⟨rfl, rest⟩ := run
    have first := (State.writes_storeSector who wf clean (inside p List.mem_cons_self) (v % 2 ^ p.width)).mod
    exact first.trans (ih first.wf (first.clean clean) rest (fun r hr => inside r (List.mem_cons_of_mem _ hr)) _) rest.bounds.1

/-- A store at a scratchpad's home writes its bits there. -/
theorem State.writes_homeStore (wf : s.MemoryWf) (clean : s.bad = []) {key w : Nat} (inside : InCabinets q key w) (v : Nat) :
    s.Writes (s.homeStore who key w v) q key (key + w) v :=
  State.writes_pieces who wf clean (consecutive_sectorPieces key w) inside.pieces v

theorem State.writes_storeParts (wf : s.MemoryWf) (clean : s.bad = []) {l : List Part} {key stop : Nat} (run : Consecutive key stop l)
    (inside : ∀ p ∈ l, InCabinets q p.key p.width) (v : Nat) : s.Writes (s.storeParts who v l) q key stop v := by
  induction l generalizing s key v with
  | nil =>
    obtain rfl : key = stop := run
    exact .nothing wf _ _
  | cons p l ih =>
    obtain ⟨rfl, rest⟩ := run
    have first := State.writes_homeStore who wf clean (inside p List.mem_cons_self) v
    exact first.trans (ih first.wf (first.clean clean) rest (fun r hr => inside r (List.mem_cons_of_mem _ hr)) _) rest.bounds.1

/-- The bits written read back, and every other bit of memory reads as it did. -/
theorem State.Writes.stored {t : State} {key w v : Nat} (h : s.Writes t q key (key + w) v) : s.Stored t key w v := by
  refine ⟨Nat.eq_of_testBit_eq fun i => ?_, fun k hk => ?_⟩
  · rw [t.testBit_bitsAt, Nat.testBit_mod_two_pow]
    by_cases low : i < w
    · rw [h.bit, if_pos (by omega), Nat.add_sub_cancel_left]
    · rw [decide_eq_false low, Bool.false_and, Bool.false_and]
  · rw [t.bitsAt_one, s.bitsAt_one, h.bit, if_neg (by omega)]

end Sys2Proof.Machine
end

section
/-! O8 and O9 hold. An access of the own quad's scratchpad finds its bits at its home and is performed at once. -/

namespace Sys2Proof.Machine

variable {s : State}

/-! ## Where the access lies -/

/-- The parts of an access of the own quad's scratchpad whose first physical bit is `key`. -/
def scratchParts (a : Word) (n key : Nat) : List Part := (splitParts (meshOff a) n).map fun o => ⟨key + o.1, o.2⟩

theorem consecutive_scratchParts (a : Word) (n key : Nat) : Consecutive key (key + n) (scratchParts a n key) := by
  unfold scratchParts splitParts
  split
  · rename_i straddles
    simp only [Bool.and_eq_true, packedWidth, Bool.or_eq_true, beq_iff_eq, bne_iff_ne] at straddles
    simp only [List.map_cons, List.map_nil, Consecutive, Nat.add_zero, true_and]
    omega
  · simp [Consecutive]

theorem State.partsAt_scratchParts (s : State) (a : Word) (n key : Nat) : s.partsAt (scratchParts a n key) = s.bitsAt key n := by
  refine Nat.eq_of_testBit_eq fun i => ?_
  rw [State.partsAt, testBit_joinPieces (consecutive_scratchParts a n key) fun p _ j => s.testBit_bitsAt p.key p.width j,
    s.testBit_bitsAt]
  congr 1
  exact decide_eq_decide.2 (by omega)

theorem partsWidth_scratchParts (a : Word) (n key : Nat) : partsWidth (scratchParts a n key) = n := by
  unfold scratchParts splitParts
  split
  · rename_i straddles
    simp only [Bool.and_eq_true, packedWidth, Bool.or_eq_true, beq_iff_eq, bne_iff_ne] at straddles
    simp only [partsWidth, List.map_cons, List.map_nil, List.sum_cons, List.sum_nil]
    omega
  · simp [partsWidth]

theorem head_scratchParts (a : Word) (n key : Nat) : ∃ w r, scratchParts a n key = ⟨key, w⟩ :: r := by
  unfold scratchParts splitParts
  split <;> exact ⟨_, _, rfl⟩

/-- What an address of the own quad's scratchpad says: its fields, and where its bits lie. -/
structure OwnScratch (s : State) (a : Word) (n key : Nat) : Prop where
  space : space a = 0
  located : ∀ user scalar acc, s.locate s.cur user scalar acc a n n = .ok (scratchParts a n key) (.scratch (quadOf s.cur))
  within : InCabinets (quadOf s.cur) key n

theorem ownScratch_of_namesOwn {a : Word} {n key : Nat} (h : s.NamesOwn a n key) : OwnScratch s a n key := by
  obtain ⟨x, y, off, hx, hy, inside, own, hoff, fits, multiple, ha, rfl⟩ := h
  have sp : space a = 0 := by rw [space_eq]; omega
  have fx : meshX a = x := by rw [meshX_eq]; omega
  have fy : meshY a = y := by rw [meshY_eq]; omega
  have fl : meshLayer a = 0 := by rw [meshLayer_eq]; omega
  have fm : meshMbz a = 0 := by rw [meshMbz_eq]; omega
  have fo : meshOff a = off := by rw [meshOff_eq]; omega
  have small : quadOf s.cur < 2 ^ 18 := by
    have cx : coreX (coreId x y) = x := by unfold coreX coreId; omega
    have cy : coreY (coreId x y) = y := by unfold coreY coreId; omega
    rw [← own, quadOf, cx, cy]
    omega
  refine ⟨sp, fun user scalar acc => ?_, small, by omega, by omega⟩
  have shared : inCabinet7 0 off = false := by simp [inCabinet7]; omega
  have fine : aligned off n n = true := by
    by_cases packed : n = 3 ∨ n = 6
    · simp [aligned, packedWidth, packed]
    · rw [if_neg packed] at multiple
      simp [aligned, multiple]
  have good : checkOffset 0 0 off n n = none := by
    simp only [checkOffset, fine, if_true]
    rw [if_neg (by omega), if_neg (by omega)]
    rfl
  simp only [State.locate, sp, locateMesh, fx, fy, fl, fm, fo, shared, inside, good, meshPlace, own, scratchParts, Bool.and_false,
    Bool.not_true, Bool.false_eq_true, if_false, if_true]

variable {a : Word} {n key : Nat}

theorem OwnScratch.partsWithin (h : OwnScratch s a n key) : ∀ p ∈ scratchParts a n key, InCabinets (quadOf s.cur) p.key p.width :=
  fun p hp => h.within.mono ((consecutive_scratchParts a n key).bounds.2 p hp).1 ((consecutive_scratchParts a n key).bounds.2 p hp).2

/-! ## The request -/

/-- The request of an access of the own quad's scratchpad. -/
def State.scratchMsg (s : State) (op : MemOp) (a d : Word) (rd : Reg) (n key : Nat) : Msg :=
  ⟨s.here, (s.strand s.here).sfp, s.seq + 1, op, scratchParts a n key, a, d, 0, rd, 0, false⟩

theorem State.access_scratch {op : MemOp} {w : Width} (h : OwnScratch s a (bitsOf w) key) (layer : needsLayer0 op = false)
    (d : Word) (rd : Reg) :
    s.access op w a d 0 rd 0 .other =
      s.bumpSeq.send (s.scratchMsg op a d rd (bitsOf w) key) (.scratch (quadOf s.cur)) .other := by
  have near : s.noteAccess s.cur (accessOf op) s.user a = s := by simp [State.noteAccess, State.misses, h.space]
  simp only [State.access, h.located, State.hostDenied, layer, near]
  rfl

/-- The state is about to perform a load or a store that its home has not seen before. -/
theorem State.perform_scratch (issues : s.Issues) {op : MemOp} (untagged : hasTag op = false) (h : OwnScratch s a n key) (d : Word)
    (rd : Reg) {t : State} {ans : Answer} (performed : s.bumpSeq.operate (s.scratchMsg op a d rd n key) = (t, some ans)) :
    s.bumpSeq.perform (s.scratchMsg op a d rd n key) 0 = (t, some ans) := by
  obtain ⟨-, -, -, -, new⟩ := issues
  obtain ⟨w, r, parts⟩ := head_scratchParts a n key
  have quad : waitQuad (s.scratchMsg op a d rd n key) = quadOf s.cur := by
    simp only [waitQuad, State.scratchMsg, parts, h.within.scratchQuad]
  have waits : ((s.bumpSeq.quad (quadOf s.cur)).deferred.any fun e => e.src == s.here && e.tag == s.seq + 1) = false := by
    rw [List.any_eq_false]
    intro e he
    simpa using new e he
  have peers : s.bumpSeq.peerRefuses a (scratchParts a n key) = false := by
    rw [State.peerRefuses, List.any_eq_false]
    intro p hp
    have below := (h.partsWithin p hp).below_peers
    simp [State.peerRefusesPart, h.space, Nat.not_le.2 below]
  have none_saved : ((s.bumpSeq.filter (filterPlace (s.scratchMsg op a d rd n key))).find? fun e =>
      hasTag op && e.1 == s.here && e.2.1 == s.seq + 1) = none := by
    rw [List.find?_eq_none]
    simp [untagged]
  simp only [State.perform, quad]
  rw [show (s.scratchMsg op a d rd n key).op = op from rfl, show (s.scratchMsg op a d rd n key).src = s.here from rfl,
    show (s.scratchMsg op a d rd n key).tag = s.seq + 1 from rfl, show (s.scratchMsg op a d rd n key).addr = a from rfl,
    show (s.scratchMsg op a d rd n key).parts = scratchParts a n key from rfl, none_saved, waits, peers, performed, untagged]
  simp [State.keepAnswer, State.scratchMsg, untagged]

/-- The strand has its answer at once. -/
theorem State.send_scratch {op : MemOp} {d : Word} {rd : Reg} {t : State} {v : Word} (untagged : hasTag op = false)
    (plain : blocks op = false) (free : suspends op = false)
    (performed : s.bumpSeq.perform (s.scratchMsg op a d rd n key) 0 = (t, some (.value v true))) :
    s.bumpSeq.send (s.scratchMsg op a d rd n key) (.scratch (quadOf s.cur)) .other =
      t.modBank s.here fun b => { b with
        status := .running, strand := b.strand.takeAnswer (s.scratchMsg op a d rd n key) (.value v true) } := by
  have own : (Home.scratch (quadOf s.cur)).own s.bumpSeq.cur = true := beq_self_eq_true (quadOf s.cur)
  have op_eq : (s.scratchMsg op a d rd n key).op = op := rfl
  simp only [State.send, own, performed, State.acknowledge, State.finish, op_eq, untagged, plain, free]
  rfl

/-! ## The executing strand -/

theorem Strand.takeAnswer_load (st : Strand) (signed : Bool) (d v : Word) (rd : Reg) :
    st.takeAnswer (s.scratchMsg (.load signed) a d rd n key) (.value v true) = { st with pc := st.pc + 32 }.setReg rd v := rfl

/-- A step that leaves the cores but for a running strand's registers and its PC, which is PC + 32. -/
theorem State.continued_modBank (running : (s.bank s.here).status = .running) {t : State} (cores : t.cores = s.cores)
    (cur : t.cur = s.cur) {f : Strand → Strand} (shape : f (s.strand s.here) =
      { s.strand s.here with x := (f (s.strand s.here)).x, pc := s.pc + 32 }) :
    s.Continued (t.modBank s.here fun b => { b with status := .running, strand := f b.strand })
      (f (s.strand s.here)).reg := by
  have core : t.core = s.core := by
    funext c
    simp only [State.core, cores]
  have bank : t.bank = s.bank := by
    funext p
    simp only [State.bank, core]
  have here : t.here = s.here := by simp only [State.here, cur, core]
  obtain ⟨-, elsewhere⟩ := t.onlyBank_modBank s.here fun b => { b with status := .running, strand := f b.strand }
  have pc : (f (s.strand s.here)).pc = s.pc + 32 := congrArg Strand.pc shape
  have now : (t.modBank s.here fun b => { b with status := .running, strand := f b.strand }).strand s.here =
      f (s.strand s.here) := by
    simp [State.strand, bank]
  refine ⟨?_, fun r => ?_, ?_, ?_⟩
  · simpa only [State.SameElsewhere, core, bank] using elsewhere
  · rw [State.reg, State.here_modBank, here, now]
  · rw [State.pc, State.here_modBank, here, now, pc]
  · rw [State.bank_modBank_self, bank, now, pc, ← running]
    exact congrArg (fun st => { s.bank s.here with strand := st }) shape

theorem State.bit_bumpSeq (k : Nat) : s.bumpSeq.bit k = s.bit k := State.bit_of_mem (s := s) (t := s.bumpSeq) rfl rfl rfl rfl k

theorem State.bitsAt_bumpSeq (k w : Nat) : s.bumpSeq.bitsAt k w = s.bitsAt k w := bitsAt_congr fun k _ _ => State.bit_bumpSeq k

/-- A load of the own quad's scratchpad. -/
theorem State.wrote_load (issues : s.Issues) {w : Width} {key : Nat} (names : s.NamesOwn a (bitsOf w) key) (signed : Bool) (rd : Reg) :
    Done (.next (s.load signed w rd a)) fun t => { s with seq := t.seq }.Wrote t rd
      (if signed then sext64 (bitsOf w) (s.bitsAt key (bitsOf w)) else BitVec.ofNat 64 (s.bitsAt key (bitsOf w))) := by
  have own := ownScratch_of_namesOwn names
  have ⟨running, clean, _⟩ := issues
  generalize value : (if signed then _ else _) = v
  have read : s.bumpSeq.operate (s.scratchMsg (.load signed) a 0 rd (bitsOf w) key) = (s.bumpSeq, some (.value v true)) := by
    simp only [State.operate, State.scratchMsg, State.loadParts_scratch (s := s.bumpSeq) _ clean own.partsWithin,
      State.partsAt_scratchParts, partsWidth_scratchParts, State.bitsAt_bumpSeq, ← value]
  have sent := State.send_scratch (v := v) rfl rfl rfl (State.perform_scratch issues rfl own 0 rd read)
  refine ⟨_, rfl, ?_⟩
  rw [State.load, if_neg (by rw [own.space]; decide), State.access_scratch own rfl, sent]
  have done := State.continued_modBank (s := s) running (t := s.bumpSeq) rfl rfl
    (f := fun st => st.takeAnswer (s.scratchMsg (.load signed) a 0 rd (bitsOf w) key) (.value v true)) (by
      rw [Strand.takeAnswer_load, Strand.setReg_eq]
      rfl)
  obtain ⟨elsewhere, regs, pc, bank⟩ := done
  refine ⟨s.bumpSeq.onlyBank_modBank _ _, fun r => ?_, pc, bank⟩
  rw [regs, Strand.takeAnswer_load, Strand.reg_setReg]
  rfl

theorem State.modBank_frame (s : State) (p : Place) (f : Bank → Bank) : s.modBank p f = { s with cores := (s.modBank p f).cores } := rfl

theorem State.bit_modBank (s : State) (p : Place) (f : Bank → Bank) (k : Nat) : (s.modBank p f).bit k = s.bit k :=
  State.bit_of_mem (s := s) (t := s.modBank p f) rfl rfl rfl rfl k

theorem State.Stored.congr {s' t t' : State} {key w v : Nat} (h : s'.Stored t key w v) (before : ∀ k, s'.bit k = s.bit k)
    (after : ∀ k, t'.bit k = t.bit k) : s.Stored t' key w v := by
  obtain ⟨written, outside⟩ := h
  refine ⟨(bitsAt_congr fun k _ _ => after k).trans written, fun k hk => ?_⟩
  calc t'.bitsAt k 1 = t.bitsAt k 1 := bitsAt_congr fun k _ _ => after k
    _ = s'.bitsAt k 1 := outside k hk
    _ = s.bitsAt k 1 := bitsAt_congr fun k _ _ => before k

/-- A store to the own quad's scratchpad. -/
theorem State.stores_store (issues : s.Issues) (wf : s.MemoryWf) {w : Width} {key : Nat} (names : s.NamesOwn a (bitsOf w) key)
    (v : Word) :
    Done (.next (s.store w a v)) fun t => s.Continued t s.reg ∧ s.OnlyMemory t ∧ s.Stored t key (bitsOf w) v.toNat ∧
      ((s.quad (quadOf s.cur)).deferred = [] → t.full = s.full) := by
  have own := ownScratch_of_namesOwn names
  have ⟨running, clean, _⟩ := issues
  obtain ⟨u, hu⟩ : ∃ u, u = s.bumpSeq.storeParts (whoOf (s.scratchMsg .store a v 0 (bitsOf w) key))
    (v.toNat % 2 ^ bitsOf w) (scratchParts a (bitsOf w) key) := ⟨_, rfl⟩
  have written : s.bumpSeq.Writes u (quadOf s.cur) key (key + bitsOf w) v.toNat :=
    by
    rw [hu]
    exact (State.writes_storeParts (s := s.bumpSeq) _ wf clean (consecutive_scratchParts ..) own.partsWithin _).mod
  have stored : s.bumpSeq.operate (s.scratchMsg .store a v 0 (bitsOf w) key) = (u, some (.value 0 true)) := by
    obtain ⟨n, r, parts⟩ := head_scratchParts a (bitsOf w) key
    have open' : s.bumpSeq.guarded key = false := own.within.not_guarded _ (by cases w <;> decide)
    have first : ((scratchParts a (bitsOf w) key).head?.map (·.key)).getD 0 = key := by rw [parts]; rfl
    rw [hu]
    simp only [State.operate, State.scratchMsg, first, open', partsWidth_scratchParts]
    rfl
  have sent := State.send_scratch (v := 0) rfl rfl rfl (State.perform_scratch issues rfl own v 0 stored)
  refine ⟨_, rfl, ?_⟩
  rw [State.store, if_neg (by rw [own.space]; decide), State.access_scratch own rfl, sent]
  obtain ⟨frame, quads⟩ := written.only
  have cores : u.cores = s.cores := by rw [frame]; rfl
  have cur : u.cur = s.cur := by rw [frame]; rfl
  refine ⟨State.continued_modBank (s := s) running cores cur
    (f := fun st => st.takeAnswer (s.scratchMsg .store a v 0 (bitsOf w) key) (.value 0 true)) rfl, ⟨?_, quads⟩, ?_, fun quiet => ?_⟩
  · exact (u.modBank_frame _ _).trans (by rw [frame]; rfl)
  · exact written.stored.congr State.bit_bumpSeq (u.bit_modBank _ _)
  · exact (written.quiet quiet).1

/-- Settles O8: the home of the own quad's scratchpad answers a load at once with the bits there. -/
theorem ownQuadLoads : Obligations.OwnQuadLoads := by
  unfold Obligations.OwnQuadLoads
  intro s w rd rs1 rs2 imm key issues
  refine ⟨fun names => ?_, fun names => ?_⟩
  · rw [← State.dispAddr_eq] at names
    exact ⟨State.wrote_load issues names false rd, State.wrote_load issues names true rd⟩
  · rw [← State.indexAddr_eq] at names
    exact ⟨State.wrote_load issues names false rd, State.wrote_load issues names true rd⟩

/-- Settles O9: the home of the own quad's scratchpad writes a store's bits at once, and serves what waits on their words. -/
theorem ownQuadStores : Obligations.OwnQuadStores := by
  unfold Obligations.OwnQuadStores
  intro s w rd rs1 rs2 imm key issues wf
  refine ⟨fun names => ?_, fun names => ?_⟩
  · rw [← State.dispAddr_eq] at names
    exact State.stores_store issues wf names _
  · rw [← State.indexAddr_eq] at names
    exact State.stores_store issues wf names _

end Sys2Proof.Machine
end

section
/-! O51 fails. An atomic of a peer on 3 bits that straddle a 64-bit word has two parts at its home, of which `State.updateAt` reads
and writes the first alone; R66 has no atomic of that width, but the statement takes every width, and the 3 bits together. -/

namespace Sys2Proof.Machine

/-- A partition of one bound peer, and the bit 64 of the first quad's scratchpad set. -/
def straddledWord : State := { State.reset with
  part := { State.reset.part with width := 2, height := 2, peers := [⟨5, 0, 1, 1, []⟩] }
  mem := [((scratchBase 0 + 64) / 8, 1)] }

/-- The peer asks for 0 in place of the 3 bits 62 to 64. -/
def straddlingSwap : PeerOp := ⟨.amoSwap, 0, 0, 5, ⟨0, 0⟩, 1⟩

/-- Bit 62 of the first quad's scratchpad, as the peer names it. -/
def straddlingAddress : Word := BitVec.ofNat 64 (4 * 2 ^ 61 + 62)

/-- What the 3 bits hold in the state that an outcome goes on to. -/
def nextStraddled (o : Outcome) : Nat :=
  match o with
  | .next t => t.bitsAt (scratchBase 0 + 62) 3
  | _ => 0

/-- The bit in the second word stays. -/
theorem nextStraddled_swap : nextStraddled (exec (.peerRequest straddlingSwap straddlingAddress .b3 0) straddledWord) = 4 := by
  decide +kernel

theorem straddledWord_new :
    let m := peerMsg straddlingSwap [⟨scratchBase 0 + 62, 3⟩] straddlingAddress 0
    straddledWord.filter (filterPlace m) = [] ∧ straddledWord.filterLoad m < 256 ∧ straddledWord.quads = [] ∧
      straddledWord.bad = [] ∧ Memory.wf straddledWord.mem = true := by
  decide +kernel

/-- Refutes O51: a swap of 3 bits for 0 leaves the bit of the second word. -/
theorem not_peersAndLinks : ¬ Obligations.PeersAndLinks := by
  unfold Obligations.PeersAndLinks
  intro h
  obtain ⟨requests, -⟩ := h straddledWord straddlingAddress 0 .b3 straddlingSwap (scratchBase 0 + 62) ⟨0, 0, 0, 0, []⟩ 0 0 0
  obtain ⟨-, -, -, performed⟩ := requests (by decide)
  obtain ⟨saved, load, quads, clean, wf⟩ := straddledWord_new
  have waiting (q : Nat) : (straddledWord.quad q).deferred = [] := by
    rw [State.quad, quads]
    rfl
  have inMesh : ∃ x y off, x < 1024 ∧ y < 1024 ∧ straddledWord.part.inside x y = true ∧ off < 7 * 2 ^ 17 ∧
      off % 2 ^ 17 + 3 ≤ 2 ^ 17 ∧ (3 = 3 ∨ 3 = 6 ∨ off % 3 = 0) ∧ straddlingAddress.toNat % 2 ^ 49 = x * 2 ^ 39 + y * 2 ^ 29 + off ∧
      scratchBase 0 + 62 = scratchBase (quadOf (coreId x y)) + off :=
    ⟨0, 0, 62, by decide⟩
  obtain ⟨-, -, atomics⟩ := performed (by decide) (.inl ⟨by decide, inMesh⟩)
    ⟨fun e he => absurd (saved ▸ he) List.not_mem_nil, load, waiting, clean, wf⟩
  obtain ⟨t, step, ⟨written, -⟩, -⟩ := atomics (by decide)
  have kept := nextStraddled_swap
  rw [step] at kept
  exact absurd (written.symm.trans kept) (by decide)

end Sys2Proof.Machine
end

section
/-! Device registers: what a write of each block's registers leaves (R308, R309, R340, R377, R404, R405). -/

namespace Sys2Proof.Machine

/-! ## Fields -/

/-- A word with its low bits cleared. -/
theorem floor_eq (v : Word) (n : Nat) : v >>> n <<< n = BitVec.ofNat 64 (v.toNat / 2 ^ n * 2 ^ n) := by
  refine BitVec.eq_of_toNat_eq ?_
  rw [BitVec.toNat_shiftLeft, BitVec.toNat_ushiftRight, BitVec.toNat_ofNat, Nat.shiftRight_eq_div_pow, Nat.shiftLeft_eq]

/-- A field put below the bits of a word that are kept. -/
theorem floor_or (v : Word) {n f : Nat} (small : f < 2 ^ n) (fits : n ≤ 64) :
    v >>> n <<< n ||| BitVec.ofNat 64 f = BitVec.ofNat 64 (v.toNat / 2 ^ n * 2 ^ n + f) := by
  have low : f < 2 ^ 64 := Nat.lt_of_lt_of_le small (Nat.pow_le_pow_right (by omega) fits)
  have high : v.toNat / 2 ^ n * 2 ^ n < 2 ^ 64 := Nat.lt_of_le_of_lt (Nat.div_mul_le_self _ _) v.isLt
  have sum : v.toNat / 2 ^ n * 2 ^ n ||| f = v.toNat / 2 ^ n * 2 ^ n + f := by
    rw [Nat.mul_comm, Nat.two_pow_add_eq_or_of_lt small]
  have together : v.toNat / 2 ^ n * 2 ^ n + f < 2 ^ 64 := sum ▸ Nat.or_lt_two_pow high low
  refine BitVec.eq_of_toNat_eq ?_
  rw [floor_eq, BitVec.toNat_or, BitVec.toNat_ofNat, BitVec.toNat_ofNat, BitVec.toNat_ofNat, Nat.mod_eq_of_lt high,
    Nat.mod_eq_of_lt low, Nat.mod_eq_of_lt together, sum]

/-- One bit at a place. -/
theorem getLsbD_one_shiftLeft {n : Nat} (k : Nat) {i : Nat} (hi : i < n) : (1#n <<< k).getLsbD i = decide (i = k) := by
  refine (BitVec.getLsbD_twoPow k i).trans ?_
  by_cases h : i = k
  · simp [h, h ▸ hi]
  · simp [h, Ne.symm h]

theorem nibble_testBit (w v : Word) (ch : Nat) (same : ∀ i < 4, w.getLsbD (4 * ch + i) = v.getLsbD (4 * ch + i)) :
    nibble w ch = nibble v ch := by
  unfold nibble
  congr 1
  refine BitVec.eq_of_getLsbD_eq fun i hi => ?_
  simpa [hi] using same i hi

theorem getLsbD_takeNibble (w v : Word) (ch i : Nat) (hi : i < 64) :
    (takeNibble w v ch).getLsbD i = if 4 * ch ≤ i ∧ i < 4 * ch + 4 then v.getLsbD i else w.getLsbD i := by
  have mask : (0xF#64 <<< (4 * ch)).getLsbD i = decide (4 * ch ≤ i ∧ i < 4 * ch + 4) := by
    rw [BitVec.getLsbD_shiftLeft, decide_eq_true hi, Bool.true_and]
    by_cases low : i < 4 * ch
    · simp [low, Nat.not_le.2 low]
    · have ones : (0xF#64).getLsbD (i - 4 * ch) = decide (i - 4 * ch < 4) := Nat.testBit_two_pow_sub_one 4 (i - 4 * ch)
      rw [ones]
      simp only [low, decide_false, Bool.not_false, Bool.true_and]
      exact decide_eq_decide.2 (by omega)
  rw [takeNibble, BitVec.getLsbD_or, BitVec.getLsbD_and, BitVec.getLsbD_and, BitVec.getLsbD_not, mask, decide_eq_true hi]
  by_cases inside : 4 * ch ≤ i ∧ i < 4 * ch + 4 <;> simp [inside]

/-! ## Tables -/

theorem Tbl.get_eq_find {α : Type} (t : Tbl α) (d : α) (k : Nat) : t.get d k = (t.find k).getD d := by
  induction t with
  | nil => rfl
  | cons e r ih =>
    by_cases here : e.1 = k
    · simp [Tbl.get, Tbl.find, here]
    · simpa [Tbl.get, Tbl.find, here] using ih

theorem Tbl.find_map {α : Type} (t : Tbl α) (f : α → α) (k : Nat) :
    Tbl.find (t.map fun e => (e.1, f e.2)) k = (t.find k).map f := by
  induction t with
  | nil => rfl
  | cons e r ih =>
    by_cases here : e.1 = k
    · simp [Tbl.find, here]
    · simpa [Tbl.find, here] using ih

/-- What holds of the value at a key holds of a listed one, where it does not hold of the default. -/
theorem Tbl.any_of_get {α : Type} {t : Tbl α} {d : α} {k : Nat} {P : α → Bool} (default : P d = false) (holds : P (t.get d k) = true) :
    (t.any fun e => P e.2) = true := by
  induction t with
  | nil => exact absurd (default.symm.trans holds) (by decide)
  | cons e r ih =>
    by_cases here : e.1 = k
    · simp only [Tbl.get, here, if_true] at holds
      simp [holds]
    · simp only [Tbl.get, here, if_false] at holds
      simp [ih holds]

/-- Whether some value of a table has a property does not change where a value is replaced that has it just as well. -/
theorem Tbl.any_set {α : Type} {t : Tbl α} {d v : α} {k : Nat} {P : α → Bool} (default : P d = false) (same : P v = P (t.get d k)) :
    ((t.set k v).any fun e => P e.2) = t.any fun e => P e.2 := by
  induction t with
  | nil => simpa [Tbl.set, Tbl.get, default] using same
  | cons e r ih =>
    by_cases before : k < e.1
    · simp only [Tbl.set, before, if_true, List.any_cons]
      cases here : P v
      · rfl
      · exact (Tbl.any_of_get default (same.symm.trans here)).symm
    · by_cases here : e.1 = k
      · simp only [Tbl.get, here, if_true] at same
        simp [Tbl.set, here, same]
      · simp only [Tbl.get, here, if_false] at same
        simp [Tbl.set, before, here, ih same]

/-! ## Barrier registers -/

theorem State.arrived_eq_false {s : State} {ch : Nat} : s.arrived ch = false ↔ ∀ e ∈ s.cores, e.2.arrivals.get 0 ch = 0 := by
  simp [State.arrived]

/-- A change of a core that leaves its arrivals leaves those of the partition. -/
theorem State.arrived_modCore (s : State) (c ch : Nat) {f : Core → Core} (keeps : (f (s.core c)).arrivals = (s.core c).arrivals) :
    (s.modCore c f).arrived ch = s.arrived ch :=
  Tbl.any_set (d := Core.reset) (P := fun k : Core => decide (0 < k.arrivals.get 0 ch)) rfl (by rw [keeps]; rfl)

theorem State.arrived_adopt (s : State) (ch c : Nat) : (s.adopt c).arrived ch = s.arrived ch := by
  simp only [State.arrived, State.adopt, State.modPart, List.any_map]
  rfl

/-- A core that has taken its new mask for a channel, as `State.adopt` has every core take it. -/
def Core.takeChannel (k : Core) (ch : Nat) : Core := { k with bmask := takeNibble k.bmask k.bmaskNew ch }

/-- The channels of a list that have no arrival have taken their new values. -/
structure State.Adopted (s : State) (l : List Nat) (t : State) : Prop where
  frame : t = { s with cores := t.cores, part := { s.part with orKind := t.part.orKind } }
  arrivals : ∀ ch, t.arrived ch = s.arrived ch
  core : ∀ c k, s.cores.find c = some k → ∃ k', t.cores.find c = some k' ∧ k' = { k with bmask := k'.bmask } ∧ ∀ i < 64,
    k'.bmask.getLsbD i = if i / 4 ∈ l ∧ s.arrived (i / 4) = false then k.bmaskNew.getLsbD i else k.bmask.getLsbD i
  kinds : ∀ ch < 16, t.part.orKind.getLsbD ch =
    if ch ∈ l ∧ s.arrived ch = false then s.part.orNew.getLsbD ch else s.part.orKind.getLsbD ch

theorem State.Adopted.none (s : State) : s.Adopted [] s :=
  ⟨rfl, fun _ => rfl, fun _ k hk => ⟨k, hk, rfl, fun _ _ => by simp⟩, fun _ _ => by simp⟩

theorem State.Adopted.next {s t : State} {l : List Nat} (h : s.Adopted l t) (ch : Nat) :
    s.Adopted (l ++ [ch]) (if t.arrived ch then t else t.adopt ch) := by
  obtain ⟨frame, arrivals, core, kinds⟩ := h
  have only {x : Nat} {b b' : Bool} (arr : s.arrived ch = true) :
      (if x ∈ l ++ [ch] ∧ s.arrived x = false then b else b') = if x ∈ l ∧ s.arrived x = false then b else b' := by
    refine if_congr ?_ rfl rfl
    rw [List.mem_append, List.mem_singleton]
    exact ⟨fun ⟨hx, no⟩ => ⟨hx.resolve_right fun e => by simp [e, arr] at no, no⟩, fun ⟨hx, no⟩ => ⟨.inl hx, no⟩⟩
  split
  · rename_i arr
    rw [arrivals] at arr
    refine ⟨frame, arrivals, fun c k hk => ?_, fun x hx => (kinds x hx).trans (only arr).symm⟩
    obtain ⟨k', listed, same, bits⟩ := core c k hk
    exact ⟨k', listed, same, fun i hi => (bits i hi).trans (only arr).symm⟩
  · rename_i no
    rw [arrivals, Bool.not_eq_true] at no
    refine ⟨?_, fun x => (t.arrived_adopt x ch).trans (arrivals x), fun c k hk => ?_, fun x hx => ?_⟩
    · rw [State.adopt, frame]
      rfl
    · obtain ⟨k', listed, same, bits⟩ := core c k hk
      refine ⟨k'.takeChannel ch, ?_, by rw [same]; rfl, fun i hi => ?_⟩
      · exact (Tbl.find_map t.cores (·.takeChannel ch) c).trans (congrArg _ listed)
      · have new : k'.bmaskNew = k.bmaskNew := by rw [same]
        rw [Core.takeChannel, getLsbD_takeNibble _ _ _ _ hi, new, bits i hi]
        by_cases here : i / 4 = ch
        · rw [if_pos (by omega), if_pos ⟨by simp [here], here ▸ no⟩]
        · rw [if_neg (by omega)]
          exact if_congr (by simp [here]) rfl rfl
    · have old := kinds x hx
      have new : t.part.orNew = s.part.orNew := by rw [frame]
      simp only [State.adopt, State.modPart, BitVec.getLsbD_or, BitVec.getLsbD_and, BitVec.getLsbD_not, getLsbD_one_shiftLeft _ hx,
        new, old, hx, decide_true, Bool.true_and]
      by_cases here : x = ch
      · subst here
        simp [no]
      · simp [here]

theorem State.adopted_channels (s : State) (l : List Nat) :
    s.Adopted l (l.foldl (fun s ch => if s.arrived ch then s else s.adopt ch) s) := by
  have each (l done : List Nat) (t : State) (h : s.Adopted done t) :
      s.Adopted (done ++ l) (l.foldl (fun s ch => if s.arrived ch then s else s.adopt ch) t) := by
    induction l generalizing done t with
    | nil => simpa using h
    | cons ch l ih => simpa using ih (done ++ [ch]) _ (h.next ch)
  simpa using each l [] s (.none s)

end Sys2Proof.Machine
end

section
/-! O46 holds: each register's write, taken from the equation of its block. -/

namespace Sys2Proof.Machine

variable (s : State) (c w : Nat) (v a : Word)

/-! ## Writes of one core, quad, cluster, die or region, or of the partition -/

theorem done_modCore (f : Core → Core) : Done (.next (s.modCore c f)) fun t => t = { s with cores := t.cores } ∧
    t.core c = f (s.core c) ∧ ∀ j, j ≠ c → t.core j = s.core j :=
  ⟨_, rfl, rfl, s.core_modCore_self c f, fun _ other => s.core_modCore_ne f other⟩

theorem done_modQuad (q : Nat) (f : Quad → Quad) : Done (.next (s.modQuad q f)) fun t =>
    t = { s with quads := t.quads, agenda := t.agenda } ∧ t.quad q = f (s.quad q) ∧ ∀ j, j ≠ q → t.quad j = s.quad j :=
  ⟨_, rfl, rfl, s.quad_modQuad_self q f, fun _ other => s.quad_modQuad_ne f other⟩

theorem done_modPart (f : Partition → Partition) : Done (.next (s.modPart f)) (· = { s with part := f s.part }) := ⟨_, rfl, rfl⟩

/-- Asking banks to be filled puts events on the agenda, and does nothing else. -/
theorem State.refill_frame (l : List Nat) : s.refill l = { s with agenda := (s.refill l).agenda } := by
  unfold State.refill
  induction l generalizing s with
  | nil => rfl
  | cons j l ih => rw [List.foldl_cons, ih]; rfl

theorem State.posted_refill {l : List Nat} {j : Nat} (asked : j ∈ l) : (s.refill l).Posted (.bankFill j) := by
  have keeps (u : State) (l : List Nat) (i : Instr) (h : u.Posted i) : (u.refill l).Posted i := by
    unfold State.refill
    induction l generalizing u with
    | nil => exact h
    | cons k l ih => exact ih _ (List.mem_append_left _ h)
  unfold State.refill
  induction l generalizing s with
  | nil => cases asked
  | cons k l ih =>
    obtain rfl | later := List.mem_cons.1 asked
    · exact keeps _ l _ (List.mem_append_right _ (List.mem_singleton.2 rfl))
    · exact ih _ later

/-! ## Barrier registers -/

/-- What the channels without arrivals take when a barrier register is written. -/
structure State.AdoptedIdle (s t : State) : Prop where
  frame : t = { s with cores := t.cores, part := { s.part with orKind := t.part.orKind, cbw := t.part.cbw } }
  core : ∀ c k, s.cores.find c = some k → t.core c = { k with bmask := (t.core c).bmask } ∧ ∀ ch < 16,
    nibble (t.core c).bmask ch = nibble (if s.arrived ch = false then k.bmaskNew else k.bmask) ch
  kinds : ∀ ch < 16, t.part.orKind.getLsbD ch =
    if s.arrived ch = false then s.part.orNew.getLsbD ch else s.part.orKind.getLsbD ch
  windows : (∀ ch < 16, s.arrived ch = false) → t.part.cbw = s.part.cbwNew
  windowsKept : ¬ (∀ ch < 16, s.arrived ch = false) → t.part.cbw = s.part.cbw

theorem State.adoptedIdle_adoptIdle : s.AdoptedIdle s.adoptIdle := by
  have adopted := s.adopted_channels (List.range 16)
  rw [State.adoptIdle]
  generalize (List.range 16).foldl (fun s ch => if s.arrived ch then s else s.adopt ch) s = t at adopted ⊢
  obtain ⟨frame, arrivals, core, kinds⟩ := adopted
  have all : (List.range 16).any t.arrived = true ↔ ¬ ∀ ch < 16, s.arrived ch = false := by
    simp [arrivals]
  have cores (c : Nat) (k : Core) (hk : s.cores.find c = some k) : t.core c = { k with bmask := (t.core c).bmask } ∧ ∀ ch < 16,
      nibble (t.core c).bmask ch = nibble (if s.arrived ch = false then k.bmaskNew else k.bmask) ch := by
    obtain ⟨k', listed, same, bits⟩ := core c k hk
    have here : t.core c = k' := by rw [State.core, Tbl.get_eq_find, listed, Option.getD_some]
    rw [here]
    refine ⟨same, fun ch hch => nibble_testBit _ _ _ fun i hi => ?_⟩
    have channel : (4 * ch + i) / 4 = ch := by omega
    rw [bits _ (by omega), channel]
    by_cases no : s.arrived ch = false
    · rw [if_pos ⟨List.mem_range.2 hch, no⟩, if_pos no]
    · rw [if_neg fun h => no h.2, if_neg no]
  have kind (ch : Nat) (hch : ch < 16) : t.part.orKind.getLsbD ch =
      if s.arrived ch = false then s.part.orNew.getLsbD ch else s.part.orKind.getLsbD ch :=
    (kinds ch hch).trans (if_congr (by simp [hch]) rfl rfl)
  split
  · rename_i busy
    refine ⟨?_, cores, kind, fun idle => absurd idle (all.1 busy), fun _ => by rw [frame]⟩
    exact frame.trans (by rw [frame])
  · rename_i idle
    refine ⟨?_, cores, kind, fun _ => by rw [State.modPart, frame], fun some => absurd (all.2 some) idle⟩
    rw [State.modPart, frame]

end Sys2Proof.Machine
end

section
/-! Device registers with rows or conditions of their own: DQSTAT, the event ring, page assignment, occupied tracks, points, the fault
queue's base and the launch words (R91, R184, R334, R339, R340, R342, R377, R405). -/

namespace Sys2Proof.Machine

variable (s : State) (c w : Nat) (v a : Word)

/-! ## The event ring (R405) -/

theorem State.logEvent_lost (kind : Nat) (core : Option Nat) (none_set : s.part.evbase.toNat / 512 = 0) :
    s.logEvent kind core a v = { s with part := { s.part with evlost := s.part.evlost + 1 } } := by
  have off : s.part.evbase.extractLsb' 9 55 = 0 := by
    refine BitVec.eq_of_toNat_eq ?_
    rw [BitVec.extractLsb'_toNat, Nat.shiftRight_eq_div_pow, none_set]
    rfl
  rw [State.logEvent, if_pos off]
  rfl

/-- The four words of an entry of the event ring, as one number. -/
def eventEntry (now : Nat) (event addr detail : Word) : Nat :=
  now % 2 ^ 64 + event.toNat * 2 ^ 64 + addr.toNat * 2 ^ 128 + detail.toNat * 2 ^ 192

theorem eventEntry_words (now : Nat) (event addr detail : Word) :
    let x := eventEntry now event addr detail
    x % 2 ^ 64 = now % 2 ^ 64 ∧ x / 2 ^ 64 % 2 ^ 64 = event.toNat ∧ x / 2 ^ 128 % 2 ^ 64 = addr.toNat ∧
      x / 2 ^ 192 % 2 ^ 64 = detail.toNat := by
  have he := event.isLt
  have ha := addr.isLt
  have hd := detail.isLt
  simp only [eventEntry]
  omega

theorem eventWord_some (kind c : Nat) (small : kind < 256) :
    (eventWord kind (some c)).toNat = ((pairForm c).toNat * 256 + kind) % 2 ^ 64 := by
  have shifted : (pairForm c <<< 8).toNat = 2 ^ 8 * ((pairForm c).toNat % 2 ^ 56) := by
    rw [BitVec.toNat_shiftLeft, Nat.shiftLeft_eq]
    omega
  rw [eventWord, BitVec.toNat_or, shifted, BitVec.toNat_ofNat, Nat.mod_eq_of_lt (by omega : kind < 2 ^ 64),
    ← Nat.two_pow_add_eq_or_of_lt small]
  omega

/-- Where the next entry of the event ring stands. -/
def State.eventPlace (s : State) : Word :=
  BitVec.ofNat 64 (s.part.evbase.toNat / 512 * 512 + s.part.evhead.toNat % 2 ^ (s.part.evbase.toNat % 16 + 6) * 256)

theorem State.logEvent_ring (kind : Nat) {key : Nat} {h : Home} (ring : s.part.evbase.toNat / 512 ≠ 0) (clean : s.bad = [])
    (located : s.locate w false false .store s.eventPlace 256 256 = .ok [⟨key, 256⟩] h) :
    s.logEvent kind (some w) a v = (s.setBitsAt key 256 (eventEntry s.now (eventWord kind (some w)) a v)).modPart fun p =>
      { p with evhead := p.evhead + 1 } := by
  have on : s.part.evbase.extractLsb' 9 55 ≠ 0 := fun off => ring <| by
    have field := congrArg BitVec.toNat off
    have small := s.part.evbase.isLt
    rw [BitVec.extractLsb'_toNat, Nat.shiftRight_eq_div_pow] at field
    change _ = 0 at field
    omega
  have place : s.part.evbase >>> 9 <<< 9 +
      BitVec.ofNat 64 (s.part.evhead.toNat % 2 ^ ((s.part.evbase.extractLsb' 0 4).toNat + 6) * 256) = s.eventPlace := by
    rw [floor_eq, ← BitVec.ofNat_add, BitVec.extractLsb'_toNat]
    rfl
  have same : ({ s with bad := [] } : State) = s := by rw [← clean]
  rw [State.logEvent, if_neg on]
  simp only [place, Option.getD_some, located, clean, List.filter_nil, same]
  rfl

/-- Bits of a sector that was written whole. -/
theorem State.bitsAt_setBitsAt_sector {s : State} (wf : s.MemoryWf) {key : Nat} (sector : key % 256 = 0) (x i n : Nat)
    (inside : i + n ≤ 256) : (s.setBitsAt key 256 x).bitsAt (key + i) n = x / 2 ^ i % 2 ^ n := by
  have one : s.setBitsAt key 256 x = s.putPiece ⟨key, 256⟩ x := by
    have range : (key + 256 - 1) / 256 - key / 256 + 1 = 1 := by omega
    have piece : pieceIn key 256 0 = ⟨key, 256⟩ := by
      simp only [pieceIn, Part.mk.injEq]
      omega
    rw [State.setBitsAt_eq, sectorPieces_eq, range, List.range_one, List.map_singleton, piece]
    rfl
  refine Nat.eq_of_testBit_eq fun j => ?_
  rw [State.testBit_bitsAt, Nat.testBit_mod_two_pow, Nat.testBit_div_two_pow, one]
  by_cases low : j < n
  · have written := State.bit_putPiece_sector wf ⟨key, 256⟩ x (k := key + i + j) (by simp only; omega)
    simp only [written, show key ≤ key + i + j ∧ key + i + j < key + 256 by omega, and_self, if_true,
      show key + i + j - key = j + i by omega]
  · rw [decide_eq_false low, Bool.false_and, Bool.false_and]

theorem State.bit_modPart (f : Partition → Partition) (k : Nat) : (s.modPart f).bit k = s.bit k :=
  State.bit_of_mem (s := s) (t := s.modPart f) rfl rfl rfl rfl k

/-- An event of a core that stands in the ring: its four words, and nothing else. -/
theorem done_logEvent_ring {key : Nat} {h : Home} (ring : s.part.evbase.toNat / 512 ≠ 0) (clean : s.bad = []) (wf : s.MemoryWf)
    (sector : key % 256 = 0) (located : s.locate w false false .store s.eventPlace 256 256 = .ok [⟨key, 256⟩] h) :
    Done (.next (s.logEvent 0x08 (some w) a v)) fun t =>
      t = { s with mem := t.mem, seals := t.seals, part := { s.part with evhead := s.part.evhead + 1 } } ∧
      t.bitsAt key 64 = s.now % 2 ^ 64 ∧ t.bitsAt (key + 64) 64 = ((pairForm w).toNat * 256 + 0x08) % 2 ^ 64 ∧
      t.bitsAt (key + 128) 64 = a.toNat ∧ t.bitsAt (key + 192) 64 = v.toNat := by
  rw [s.logEvent_ring w v a 0x08 ring clean located]
  obtain ⟨now, event, addr, detail⟩ := eventEntry_words s.now (eventWord 0x08 (some w)) a v
  generalize eventEntry s.now (eventWord 0x08 (some w)) a v = x at now event addr detail ⊢
  have frame := s.setBitsAt_frame key 256 x
  have bits (i : Nat) (inside : i + 64 ≤ 256) :
      ((s.setBitsAt key 256 x).modPart fun p => { p with evhead := p.evhead + 1 }).bitsAt (key + i) 64 = x / 2 ^ i % 2 ^ 64 :=
    (bitsAt_congr fun k _ _ => State.bit_modPart _ _ k).trans
      (State.bitsAt_setBitsAt_sector wf sector x i 64 inside)
  refine ⟨_, rfl, ?_, ?_, ?_, ?_, ?_⟩
  · rw [State.modPart, frame]
  · exact (bits 0 (by omega)).trans (by rw [Nat.pow_zero, Nat.div_one, now])
  · exact (bits 64 (by omega)).trans (event.trans (eventWord_some _ _ (by decide)))
  · exact (bits 128 (by omega)).trans addr
  · exact (bits 192 (by omega)).trans detail

/-! ## DQSTAT (R340) -/

/-- Bits set one after another. -/
theorem getLsbD_foldl_set {n : Nat} (l : List Nat) (m : BitVec n) {i : Nat} (hi : i < n) :
    (l.foldl (fun (m : BitVec n) k => m ||| (1#n <<< k)) m).getLsbD i = (m.getLsbD i || decide (i ∈ l)) := by
  induction l generalizing m with
  | nil => simp
  | cons k l ih => simp [ih, getLsbD_one_shiftLeft k hi, Bool.or_assoc]

/-- What a write of DQSTAT leaves: its fields, a run list of the length that it names, and the pool with the slots of that taken. -/
theorem done_writeDqstat :
    Done (.next (s.writeDqstat c v)) fun t => t = { s with cores := t.cores, quads := t.quads } ∧
      t.core c = { s.core c with
        depthFirst := v.getLsbD 63, spn := v.extractLsb' 22 32, rln := BitVec.ofNat 6 (min 32 (v.extractLsb' 16 6).toNat)
        old := v.extractLsb' 6 5, dqn := v.extractLsb' 0 6, parked := (t.core c).parked, spillRing := (t.core c).spillRing } ∧
      t.quad (quadOf c) = { s.quad (quadOf c) with pool := (t.quad (quadOf c)).pool } ∧
      ∀ r ∈ (t.core c).parked, r.place < 64 → (t.quad (quadOf c)).pool.getLsbD r.place = true := by
  refine ⟨_, rfl, rfl, ?_, ?_, fun r hr low => ?_⟩
  · simp [State.writeDqstat, State.writeRunList]
  · simp [State.writeDqstat, State.writeRunList]
  · simp only [State.writeDqstat, State.writeRunList, State.core_modCore_self, State.core_modQuad, State.quad_modCore,
      State.quad_modQuad_self, List.mem_append, List.mem_map, List.mem_filter] at hr ⊢
    rw [getLsbD_foldl_set _ _ low]
    obtain ⟨slot, taken, rfl⟩ | ⟨-, spilled⟩ := hr
    · have here : (s.adoptSlot c slot).place = slot := by
        simp only [State.adoptSlot]
        split <;> rfl
      rw [here, decide_eq_true taken, Bool.or_true]
    · exact absurd (of_decide_eq_true spilled) (by omega)

theorem done_writeDqstat_other {j : Nat} (other : j ≠ c) :
    Done (.next (s.writeDqstat c v)) fun t => t.core j = s.core j := by
  refine ⟨_, rfl, ?_⟩
  simp only [State.writeDqstat, State.writeRunList]
  rw [State.core_modCore_ne _ _ other, State.core_modCore_ne _ _ other]
  rfl

/-! ## Occupied tracks (R91) -/

theorem getLsbD_boundBits (k : Core) {j : Nat} (hj : j < 128) : k.boundBits.getLsbD j = (k.bound.find j).isSome := by
  have fold (l : Tbl Word) (m : BitVec 128) :
      (l.foldl (fun (w : BitVec 128) e => w ||| (1#128 <<< e.1)) m).getLsbD j = (m.getLsbD j || (l.find j).isSome) := by
    induction l generalizing m with
    | nil => simp [Tbl.find]
    | cons e l ih =>
      rw [List.foldl_cons, ih, BitVec.getLsbD_or, getLsbD_one_shiftLeft e.1 hj, Tbl.find]
      by_cases here : e.1 = j
      · simp [here]
      · simp [here, Ne.symm here]
  exact (fold k.bound 0).trans (by simp)

theorem done_tocc (hi : Bool) :
    Done (execToccWrite c hi v s) fun t => t = { s with cores := t.cores } ∧ t.core c = { s.core c with tocc := (t.core c).tocc } ∧
      ∀ j < 128, (t.core c).tocc.getLsbD j = ((s.core c).tocc.getLsbD j && (((s.core c).bound.find j).isSome ||
        !(if hi then decide (64 ≤ j) && v.getLsbD (j - 64) else v.getLsbD j))) := by
  refine ⟨_, rfl, rfl, ?_, fun j hj => ?_⟩
  · rw [State.core_modCore_self]
  · simp only [State.core_modCore_self, BitVec.getLsbD_and, BitVec.getLsbD_not, BitVec.getLsbD_shiftLeft, BitVec.getLsbD_setWidth,
      getLsbD_boundBits _ hj, hj, decide_true, Bool.true_and]
    cases hi
    · simp [hj, Bool.or_comm]
    · by_cases high : 64 ≤ j
      · simp [high, Nat.not_lt.2 high, show j - 64 < 128 by omega, Bool.or_comm]
      · simp [high, Nat.lt_of_not_le high]

/-! ## The fault queue's base and the launch words (R334, R342) -/

/-- A base and a small field as they are stored: the base where it fits, and 0 where it does not. -/
theorem storedBase_toNat {n : Nat} (small : n < 2 ^ 9) (fits : Bool) :
    let x : Word := (if fits then v >>> 9 <<< 9 else 0) ||| BitVec.ofNat 64 n
    x.toNat % 512 = n ∧ (fits = true → x.toNat / 512 * 512 = v.toNat / 512 * 512) ∧ (fits = false → x.toNat / 512 = 0) := by
  have bound := v.isLt
  cases fits
  · have value : ((0 : Word) ||| BitVec.ofNat 64 n).toNat = n := by
      simp
      omega
    simp only [Bool.false_eq_true, if_false, value]
    exact ⟨by omega, False.elim, fun _ => by omega⟩
  · have value : (v >>> 9 <<< 9 ||| BitVec.ofNat 64 n).toNat = v.toNat / 512 * 512 + n := by
      rw [floor_or v small (by decide), BitVec.toNat_ofNat]
      omega
    simp only [if_true, value]
    exact ⟨by omega, fun _ => by omega, fun no => absurd no (by decide)⟩

end Sys2Proof.Machine
end

section
/-! Device registers, continued: the bases of areas in memory, points and the assignment of pages. -/

namespace Sys2Proof.Machine

variable (s : State) (c w : Nat) (v a : Word)

/-- The coordinates, the must-be-zero fields and the offset of a word that names a place in a system area, as numbers. -/
theorem floor_fields :
    let x := v.toNat / 512 * 512
    let b : Word := v >>> 9 <<< 9
    b.toNat = x ∧ (space b = 0 ↔ x / 2 ^ 61 = 0) ∧ (x / 2 ^ 61 = 0 → meshX b = x / 2 ^ 51) ∧ meshY b = x / 2 ^ 41 % 1024 ∧
      (meshLayer b = 0 ∧ meshMbz b = 0 ↔ x / 2 ^ 24 % 2 ^ 17 = 0) ∧ meshOff b = x % 2 ^ 24 := by
  have bound := v.isLt
  have value : (v >>> 9 <<< 9).toNat = v.toNat / 512 * 512 := by
    rw [floor_eq, BitVec.toNat_ofNat]
    omega
  simp only [space_eq, meshX_eq, meshY_eq, meshLayer_eq, meshMbz_eq, meshOff_eq, value]
  exact ⟨trivial, trivial, by omega, by omega, by omega, trivial⟩

/-- A base as FQBASE and LWCFG store it. -/
theorem storedBase {n : Nat} (small : n < 2 ^ 9) {fits : Bool} {P : Prop} (stored : fits = true ↔ P) :
    let x : Word := (if fits then v >>> 9 <<< 9 else 0) ||| BitVec.ofNat 64 n
    x.toNat % 512 = n ∧ (P → x.toNat / 512 * 512 = v.toNat / 512 * 512) ∧ (¬ P → x.toNat / 512 = 0) := by
  obtain ⟨field, base, cleared⟩ := storedBase_toNat v small fits
  exact ⟨field, fun h => base (stored.2 h), fun h => cleared (Bool.eq_false_iff.2 fun f => h (stored.1 f))⟩

theorem low_field (n : Nat) : (v.extractLsb' 0 n).toNat = v.toNat % 2 ^ n := by
  rw [toNat_extractLsb', Nat.pow_zero, Nat.div_one]

theorem done_fqbase :
    Done (execFqbaseWrite c v s) fun t => t = { s with clusters := t.clusters } ∧
      (t.cluster c).fqbase.toNat % 512 = min 3 (v.toNat % 8) ∧
      (let x := v.toNat / 512 * 512
       let o := x % 2 ^ 24
       let fits : Prop := x / 2 ^ 61 = 0 ∧ clusterOf (coreId (x / 2 ^ 51) (x / 2 ^ 41 % 1024)) = c ∧
         x / 2 ^ 24 % 2 ^ 17 = 0 ∧ 7 * 2 ^ 17 + 98304 ≤ o ∧ o + 512 + 2048 * 2 ^ (min 3 (v.toNat % 8)) ≤ 2 ^ 20
       (fits → (t.cluster c).fqbase.toNat / 512 * 512 = x) ∧ (¬ fits → (t.cluster c).fqbase.toNat / 512 = 0)) := by
  have field : (v.extractLsb' 0 3).toNat = v.toNat % 8 := low_field v _
  obtain ⟨-, space, x, y, zero, off⟩ := floor_fields v
  refine ⟨_, rfl, rfl, ?_⟩
  simp only [State.cluster_modCluster_self, field]
  refine storedBase v (by omega) ?_
  simp only [Bool.and_eq_true, beq_iff_eq, decide_eq_true_eq, off, y, and_assoc]
  constructor
  · rintro ⟨sp, cl, layer, mbz, low, high⟩
    rw [x (space.1 sp)] at cl
    exact ⟨space.1 sp, cl, zero.1 ⟨layer, mbz⟩, low, high⟩
  · rintro ⟨sp, cl, z, low, high⟩
    obtain ⟨layer, mbz⟩ := zero.2 z
    exact ⟨space.2 sp, (x sp).symm ▸ cl, layer, mbz, low, high⟩

theorem done_lwcfg :
    Done (execLwcfgWrite v s) fun t => t = { s with part := { s.part with lwcfg := t.part.lwcfg } } ∧
      t.part.lwcfg.toNat % 512 = min 16 (v.toNat % 32) ∧
      (let x := v.toNat / 512 * 512
       let o := x % 2 ^ 24
       let fits : Prop := x / 2 ^ 61 = 0 ∧ s.part.inside (x / 2 ^ 51) (x / 2 ^ 41 % 1024) = true ∧
         x / 2 ^ 24 % 2 ^ 17 = 0 ∧ 7 * 2 ^ 17 + 98304 ≤ o ∧ o < 2 ^ 20 ∧ o + 64 * min 16 (v.toNat % 32) ≤ 2 ^ 20
       (fits → t.part.lwcfg.toNat / 512 * 512 = x) ∧ (¬ fits → t.part.lwcfg.toNat / 512 = 0)) := by
  have field : (v.extractLsb' 0 5).toNat = v.toNat % 32 := low_field v _
  obtain ⟨-, space, x, y, zero, off⟩ := floor_fields v
  refine ⟨_, rfl, rfl, ?_⟩
  simp only [State.modPart, field]
  refine storedBase v (by omega) ?_
  simp only [Bool.and_eq_true, beq_iff_eq, decide_eq_true_eq, off, y, and_assoc]
  constructor
  · rintro ⟨sp, inside, layer, mbz, low, below, high⟩
    rw [x (space.1 sp)] at inside
    exact ⟨space.1 sp, inside, zero.1 ⟨layer, mbz⟩, low, below, high⟩
  · rintro ⟨sp, inside, z, low, below, high⟩
    obtain ⟨layer, mbz⟩ := zero.2 z
    exact ⟨space.2 sp, (x sp).symm ▸ inside, layer, mbz, low, below, high⟩

/-! ## MSI-X -/

theorem done_msixtrig_masked (masked : s.part.masked.getLsbD (v.toNat % 32) = true) :
    Done (execMsixtrigWrite v s) fun t => t = { s with part := { s.part with pending := t.part.pending } } ∧
      ∀ j < 32, t.part.pending.getLsbD j = (s.part.pending.getLsbD j || decide (j = v.toNat % 32)) := by
  have field : (v.extractLsb' 0 5).toNat = v.toNat % 32 := low_field v _
  refine ⟨_, rfl, ?_⟩
  rw [field, if_pos masked]
  refine ⟨rfl, fun j hj => ?_⟩
  rw [State.modPart, BitVec.getLsbD_or, getLsbD_one_shiftLeft _ hj]

theorem done_msixtrig_open (masked : s.part.masked.getLsbD (v.toNat % 32) = false) :
    Done (execMsixtrigWrite v s)
      (· = { s with hostOut := s.hostOut ++ [(.function s.part.link s.part.function, .msix (v.toNat % 32))] }) := by
  have field : (v.extractLsb' 0 5).toNat = v.toNat % 32 := low_field v _
  refine ⟨_, rfl, ?_⟩
  rw [field, if_neg (by rw [masked]; decide)]
  rfl

/-! ## Points (R376, R377) -/

/-- What the point and the voltage of a quad are chosen by. -/
structure State.SamePoints (s t : State) (q : Nat) : Prop where
  part : t.part = s.part
  cores : t.cores = s.cores
  plan : (t.quad q).plan = (s.quad q).plan
  temp : (t.quad q).temp = (s.quad q).temp
  present : (t.quad q).present = (s.quad q).present
  pin : (t.quad q).pin = (s.quad q).pin
  hard : (t.quad q).hard = (s.quad q).hard
  opcap : (t.quad q).opcap = (s.quad q).opcap

variable {s}

theorem State.SamePoints.tableVoltage {t : State} {q : Nat} (h : s.SamePoints t q) (k : Nat) :
    t.tableVoltage q k = s.tableVoltage q k := by
  have phys : t.physId q = s.physId q := by simp only [State.physId, State.l2pOf, h.part]
  simp only [State.tableVoltage, phys, h.plan, h.temp]

theorem State.SamePoints.pointVoltage {t : State} {q : Nat} (h : s.SamePoints t q) (k : Nat) :
    t.pointVoltage q k = s.pointVoltage q k := by
  simp only [State.pointVoltage, h.tableVoltage, h.temp]

theorem State.SamePoints.targetPoint {t : State} {q : Nat} (h : s.SamePoints t q) : t.targetPoint q = s.targetPoint q := by
  have present : t.pointPresent q = s.pointPresent q := by
    funext k
    simp only [State.pointPresent, h.present, h.temp, h.tableVoltage]
  have asked : t.requested q = s.requested q := by simp only [State.requested, State.core, h.cores]
  simp only [State.targetPoint, State.presentPoint, present, asked, h.pin, h.hard, h.opcap]

theorem State.presentPoint_lt (s : State) (q p : Nat) : s.presentPoint q p < 8 := by
  have low : ∀ x ∈ (List.range 8).filter (s.pointPresent q), x < 8 := fun x hx => List.mem_range.1 (List.mem_of_mem_filter hx)
  simp only [State.presentPoint]
  generalize (List.range 8).filter (s.pointPresent q) = l at low
  cases found : ((l.filter (· ≤ p)).getLast?.or l.head?) with
  | none => decide
  | some x =>
    obtain last | ⟨-, first⟩ := Option.or_eq_some_iff.1 found
    · exact low x (List.mem_of_mem_filter (List.mem_of_getLast? last))
    · exact low x (List.mem_of_head? first)

theorem State.targetPoint_lt (s : State) (q : Nat) : s.targetPoint q < 8 := s.presentPoint_lt _ _

theorem mem_insertTimer (l : Tbl Instr) (due : Nat) (i : Instr) : (due, i) ∈ insertTimer l due i := by
  induction l with
  | nil => exact List.mem_singleton.2 rfl
  | cons e r ih =>
    rw [insertTimer]
    split
    · exact List.mem_cons_self
    · exact List.mem_cons_of_mem _ ih

/-- A quad brought to its point: the voltage follows at once, the clock at once where it falls and 240 cycles later where it rises. -/
theorem State.movePoint_spec (s : State) (q : Nat) :
    let t := s.movePoint q
    t = { s with quads := t.quads, timers := t.timers } ∧ (t.quad q).vmv = t.pointVoltage q (t.targetPoint q) ∧
      (t.targetPoint q ≤ (s.quad q).opp.toNat → (t.quad q).opp.toNat = t.targetPoint q) ∧
      ((s.quad q).opp.toNat < t.targetPoint q → (t.quad q).opp = (s.quad q).opp ∧ s.Timed t 240 (.oppVoltageSettled q)) := by
  have small := s.targetPoint_lt q
  simp only [State.movePoint]
  split
  · rename_i falls
    have same : s.SamePoints (s.modQuad q fun f => { f with
        opp := BitVec.ofNat 3 (s.targetPoint q), vmv := s.pointVoltage q (s.targetPoint q) }) q := by
      constructor <;> simp
    rw [same.targetPoint, same.pointVoltage]
    rw [State.quad_modQuad_self, BitVec.toNat_ofNat]
    exact ⟨rfl, rfl, fun _ => Nat.mod_eq_of_lt small, fun rises => absurd rises (by omega)⟩
  · split
    · rename_i rises
      have same : s.SamePoints ((s.modQuad q fun f => { f with vmv := s.pointVoltage q (s.targetPoint q) }).after 240
          (.oppVoltageSettled q)) q := by
        constructor <;> simp
      rw [same.targetPoint, same.pointVoltage]
      rw [State.quad_after, State.quad_modQuad_self]
      exact ⟨rfl, rfl, fun falls => absurd falls (by omega), fun _ => ⟨rfl, mem_insertTimer _ _ _⟩⟩
    · rename_i keeps rests
      have same : s.SamePoints (s.modQuad q fun f => { f with vmv := s.pointVoltage q (s.targetPoint q) }) q := by
        constructor <;> simp
      rw [same.targetPoint, same.pointVoltage]
      rw [State.quad_modQuad_self]
      exact ⟨rfl, rfl, fun falls => Nat.le_antisymm (Nat.not_lt.1 keeps) falls, fun rises => absurd rises rests⟩

theorem done_opreq (s : State) (c : Nat) (v : Word) :
    let q := quadOf c
    Done (execOpreqWrite c v s) fun t => t = { s with cores := t.cores, quads := t.quads, timers := t.timers } ∧
      t.core c = { s.core c with opreq := v.extractLsb' 0 3 } ∧ (t.quad q).vmv = t.pointVoltage q (t.targetPoint q) ∧
      (t.targetPoint q ≤ (s.quad q).opp.toNat → (t.quad q).opp.toNat = t.targetPoint q) ∧
      ((s.quad q).opp.toNat < t.targetPoint q → (t.quad q).opp = (s.quad q).opp ∧ s.Timed t 240 (.oppVoltageSettled q)) := by
  obtain ⟨frame, point⟩ := (s.modCore c fun k => { k with opreq := v.extractLsb' 0 3 }).movePoint_spec (quadOf c)
  refine ⟨_, rfl, ?_, ?_, point⟩
  · rw [frame]
    rfl
  · rw [frame]
    exact s.core_modCore_self c fun k => { k with opreq := v.extractLsb' 0 3 }

end Sys2Proof.Machine
end

section
/-! The assignment of a column's tracks to the page pool (R184). -/

namespace Sys2Proof.Machine

variable (s : State) (c w : Nat) (v a : Word)

theorem mem_pageKeys {c t x : Nat} : x ∈ pageKeys c t ↔ ∃ k < 4, 512 * c + 4 * t + k = x := by
  simp [pageKeys]

theorem pageKeys_disjoint {c t u x : Nat} (ht : x ∈ pageKeys c t) (hu : x ∈ pageKeys c u) : t = u := by
  obtain ⟨k, hk, rfl⟩ := mem_pageKeys.1 ht
  obtain ⟨j, hj, e⟩ := mem_pageKeys.1 hu
  omega

theorem Tbl.find_foldl_set {α : Type} (l : List Nat) (t : Tbl α) (v : α) (x : Nat) :
    (l.foldl (fun p k => p.set k v) t).find x = if x ∈ l then some v else t.find x := by
  induction l generalizing t with
  | nil => simp
  | cons k l ih =>
    rw [List.foldl_cons, ih]
    by_cases later : x ∈ l
    · simp [later]
    · by_cases here : x = k
      · subst here
        simp [later]
      · simp [later, here, Tbl.find_set_ne t v here]

theorem Tbl.find_erase_ne {α : Type} (t : Tbl α) {k x : Nat} (h : x ≠ k) : (t.erase k).find x = t.find x := by
  induction t with
  | nil => rfl
  | cons e r ih =>
    by_cases he : e.1 = k
    · have other : e.1 ≠ x := by omega
      simpa [Tbl.erase, he, Tbl.find, Ne.symm h] using ih
    · simp only [Tbl.erase, List.filter_cons, he, bne_iff_ne, ne_eq, not_false_eq_true, if_true, Tbl.find] at ih ⊢
      rw [ih]

theorem Tbl.find_foldl_erase {α : Type} (l : List Nat) (t : Tbl α) {x : Nat} (h : x ∉ l) :
    (l.foldl (fun p k => p.erase k) t).find x = t.find x := by
  induction l generalizing t with
  | nil => rfl
  | cons k l ih =>
    rw [List.foldl_cons, ih _ fun later => h (List.mem_cons_of_mem _ later), Tbl.find_erase_ne t fun here => h (List.mem_cons.2 (.inl here))]

/-- All four pages of a track are free in a pool. -/
def TrackFree (pool : Tbl PageState) (c t : Nat) : Prop := ∀ x ∈ pageKeys c t, pool.find x = some .free

/-- What becomes of a track: assigned or not before and after, with the pool before and after. -/
structure TrackAssigned (pool pool' : Tbl PageState) (c t : Nat) (asked old new : Bool) : Prop where
  set : asked = true → new = true ∧ (old = false → TrackFree pool' c t)
  cleared : asked = false → old = true → (new = false ↔ TrackFree pool c t)
  none : asked = false → old = false → new = false

theorem assignTrack_spec (pool : Tbl PageState) (c t : Nat) (old asked : Bool) :
    let y := assignTrack pool c t old asked
    TrackAssigned pool y.1 c t asked old y.2 ∧ ∀ x, x ∉ pageKeys c t → y.1.find x = pool.find x := by
  have all : ((pageKeys c t).all fun k => pool.find k == some .free) = true ↔ TrackFree pool c t := by
    simp [TrackFree]
  simp only [assignTrack]
  cases asked
  · cases old
    · exact ⟨⟨fun no => absurd no (by decide), fun _ no => absurd no (by decide), fun _ _ => rfl⟩, fun _ _ => rfl⟩
    · simp only [Bool.false_and, Bool.false_eq_true, if_false, Bool.not_false, Bool.and_self, if_true]
      split
      · rename_i free
        exact ⟨⟨fun no => absurd no (by decide), fun _ _ => ⟨fun _ => all.1 free, fun _ => rfl⟩, fun _ no => absurd no (by decide)⟩,
          fun x other => Tbl.find_foldl_erase _ _ other⟩
      · rename_i used
        exact ⟨⟨fun no => absurd no (by decide), fun _ _ => ⟨fun no => Bool.noConfusion no, fun free => absurd (all.2 free) used⟩,
          fun _ no => absurd no (by decide)⟩, fun _ _ => rfl⟩
  · cases old
    · refine ⟨⟨fun _ => ⟨rfl, fun _ x hx => ?_⟩, fun no => absurd no (by decide), fun no => absurd no (by decide)⟩, fun x other => ?_⟩
      · exact (Tbl.find_foldl_set _ _ _ x).trans (if_pos hx)
      · exact (Tbl.find_foldl_set _ _ _ x).trans (if_neg other)
    · exact ⟨⟨fun _ => ⟨rfl, fun no => absurd no (by decide)⟩, fun no => absurd no (by decide), fun no => absurd no (by decide)⟩,
        fun _ _ => rfl⟩

/-- A step of the assignment of 64 tracks from one up. -/
def assignStep (c base : Nat) (v : Word) (x : Tbl PageState × BitVec 128) (i : Nat) : Tbl PageState × BitVec 128 :=
  let y := assignTrack x.1 c (base + i) (x.2.getLsbD (base + i)) (v.getLsbD i)
  (y.1, if y.2 then x.2 ||| (1#128 <<< (base + i)) else x.2 &&& ~~~(1#128 <<< (base + i)))

theorem getLsbD_put {n : Nat} (m : BitVec n) (k : Nat) (b : Bool) {j : Nat} (hj : j < n) :
    (if b then m ||| (1#n <<< k) else m &&& ~~~(1#n <<< k)).getLsbD j = if j = k then b else m.getLsbD j := by
  cases b
  · rw [if_neg Bool.false_ne_true, BitVec.getLsbD_and, BitVec.getLsbD_not, getLsbD_one_shiftLeft k hj]
    by_cases here : j = k <;> simp [here, hj]
  · rw [if_pos rfl, BitVec.getLsbD_or, getLsbD_one_shiftLeft k hj]
    by_cases here : j = k <;> simp [here]

theorem assignSteps (pool : Tbl PageState) (bits : BitVec 128) (base n : Nat) (fits : base + n ≤ 128) :
    let r := (List.range n).foldl (assignStep c base v) (pool, bits)
    (∀ i < n, TrackAssigned pool r.1 c (base + i) (v.getLsbD i) (bits.getLsbD (base + i)) (r.2.getLsbD (base + i))) ∧
    ∀ t < 128, (∀ i < n, t ≠ base + i) → r.2.getLsbD t = bits.getLsbD t ∧ ∀ x ∈ pageKeys c t, r.1.find x = pool.find x := by
  induction n with
  | zero => exact ⟨fun i hi => absurd hi (Nat.not_lt_zero i), fun _ _ _ => ⟨rfl, fun _ _ => rfl⟩⟩
  | succ n ih =>
    obtain ⟨done, others⟩ := ih (by omega)
    rw [List.range_succ, List.foldl_append, List.foldl_cons, List.foldl_nil]
    generalize (List.range n).foldl (assignStep c base v) (pool, bits) = r at done others
    obtain ⟨here, elsewhere⟩ := assignTrack_spec r.1 c (base + n) (r.2.getLsbD (base + n)) (v.getLsbD n)
    obtain ⟨bit, pages⟩ := others (base + n) (by omega) fun i hi => by omega
    have away {t x : Nat} (ne : t ≠ base + n) (hx : x ∈ pageKeys c t) : x ∉ pageKeys c (base + n) :=
      fun hx' => ne (pageKeys_disjoint hx hx')
    refine ⟨fun i hi => ?_, fun t ht ne => ?_⟩
    · by_cases last : i = n
      · subst last
        have free : TrackFree r.1 c (base + i) ↔ TrackFree pool c (base + i) :=
          forall₂_congr fun x hx => by rw [pages x hx]
        simp only [assignStep]
        rw [getLsbD_put _ _ _ (by omega), if_pos rfl]
        rw [bit] at here ⊢
        exact ⟨here.set, fun no old => (here.cleared no old).trans free, here.none⟩
      · obtain ⟨set, cleared, none⟩ := done i (by omega)
        simp only [assignStep]
        rw [getLsbD_put _ _ _ (by omega), if_neg (by omega)]
        refine ⟨fun asked => ⟨(set asked).1, fun old x hx => ?_⟩, cleared, none⟩
        rw [elsewhere x (away (by omega) hx)]
        exact (set asked).2 old x hx
    · obtain ⟨kept, find⟩ := others t ht fun i hi => ne i (by omega)
      simp only [assignStep]
      rw [getLsbD_put _ _ _ ht, if_neg (ne n (by omega))]
      exact ⟨kept, fun x hx => (elsewhere x (away (ne n (by omega)) hx)).trans (find x hx)⟩

theorem State.die_modCore (d : Nat) (f : Core → Core) : (s.modCore c f).die d = s.die d := rfl

theorem done_pgasn (hi : Bool) (holds : s.onHold (quadOf c) = true) :
    Done (execPgasnWrite ⟨w, c⟩ hi a v s) fun t => t = { s with cores := t.cores, dies := t.dies } ∧
      ∀ j < 64, TrackAssigned (s.die (s.part.dieOf c)).pool (t.die (s.part.dieOf c)).pool c (if hi then 64 + j else j) (v.getLsbD j)
        ((s.core c).pgasn.getLsbD (if hi then 64 + j else j)) ((t.core c).pgasn.getLsbD (if hi then 64 + j else j)) := by
  obtain ⟨assigned, -⟩ := assignSteps c v (s.die (s.part.dieOf c)).pool (s.core c).pgasn (if hi then 64 else 0) 64
    (by cases hi <;> decide)
  refine ⟨_, rfl, ?_⟩
  simp only [holds, if_true]
  refine ⟨rfl, fun j hj => ?_⟩
  have track : (if hi then 64 + j else j) = (if hi then 64 else 0) + j := by
    cases hi
    · exact (Nat.zero_add j).symm
    · rfl
  rw [track, State.core_modCore_self, State.die_modCore, State.die_modDie_self]
  exact assigned j hj

end Sys2Proof.Machine
end

section
/-! O46 holds: every register's write, taken together. -/

namespace Sys2Proof.Machine

variable (s : State) (c w : Nat) (v a : Word)

theorem onHold_iff (q : Nat) : s.onHold q = true ↔ (s.quad q).qctl.getLsbD 0 = true ∨ s.part.hold = true := by
  rw [State.onHold, Bool.or_eq_true]
  rfl

/-! ## The core block -/

/-- BMASK. -/
theorem done_writeBmask :
    Done (.next (s.writeBmask c v)) fun t =>
      t = { s with cores := t.cores, part := { s.part with orKind := t.part.orKind, cbw := t.part.cbw } } ∧
      t.core c = { s.core c with bmask := (t.core c).bmask, bmaskNew := v } ∧
      ∀ ch < 16, ((∀ e ∈ s.cores, e.2.arrivals.get 0 ch = 0) → nibble (t.core c).bmask ch = nibble v ch) ∧
        (¬ (∀ e ∈ s.cores, e.2.arrivals.get 0 ch = 0) → nibble (t.core c).bmask ch = nibble (s.core c).bmask ch) := by
  have arrived (ch : Nat) : (s.modCore c fun k => { k with bmaskNew := v }).arrived ch = s.arrived ch := s.arrived_modCore c ch rfl
  have adopted := (s.modCore c fun k => { k with bmaskNew := v }).adoptedIdle_adoptIdle
  rw [State.writeBmask]
  generalize (s.modCore c fun k => { k with bmaskNew := v }).adoptIdle = t at adopted ⊢
  obtain ⟨frame, core, -, -, -⟩ := adopted
  obtain ⟨same, nibbles⟩ := core c { s.core c with bmaskNew := v } (Tbl.find_set_self _ _ _)
  refine ⟨_, rfl, frame, same, fun ch hch => ⟨fun idle => ?_, fun busy => ?_⟩⟩
  · exact (nibbles ch hch).trans (by rw [arrived, if_pos (State.arrived_eq_false.2 idle)])
  · exact (nibbles ch hch).trans (by rw [arrived, if_neg fun no => busy (State.arrived_eq_false.1 no)])

/-- An offset of a block that is no register's. -/
theorem registerWrite_unassigned (b : BitVec 4) (off : BitVec 37) (block : b.toNat ≤ 4)
    (none : off.toNat ∉ (match b.toNat with
      | 0 => [0x000, 0x040, 0x080, 0x0C0, 0x100, 0x140, 0x180, 0x1C0, 0x200, 0x280, 0x300, 0x340]
      | 1 => (List.range 10).map (64 * ·)
      | 2 => [0x000, 0x040, 0x080]
      | 3 => [0x000, 0x040, 0x080, 0x0C0]
      | _ => (List.range 21).map (64 * ·))) :
    execRegisterWrite ⟨w, c⟩ b off v s = .next s := by
  rw [execRegisterWrite]
  congr 1
  obtain h | h | h | h | h : b.toNat = 0 ∨ b.toNat = 1 ∨ b.toNat = 2 ∨ b.toNat = 3 ∨ b.toNat = 4 := by omega
  all_goals simp only [h] at none ⊢
  · simp only [List.mem_cons, not_or] at none
    rw [State.writeCore] <;> (intro; omega)
  · have free (k : Nat) (hk : k < 10) : off.toNat ≠ 64 * k := fun e => none (List.mem_map.2 ⟨k, List.mem_range.2 hk, e.symm⟩)
    rw [State.writeQuad, if_neg fun reg => free (off.toNat / 64) (by omega) (by omega)]
    · exact free 7 (by decide)
    · exact free 9 (by decide)
  · simp only [List.mem_cons, not_or] at none
    rw [State.writeCluster] <;> (intro; omega)
  · simp only [List.mem_cons, not_or] at none
    rw [State.writeDie] <;> (intro; omega)
  · have free (k : Nat) (hk : k < 21) : off.toNat ≠ 64 * k := fun e => none (List.mem_map.2 ⟨k, List.mem_range.2 hk, e.symm⟩)
    rw [State.writePart, if_neg fun reg => free (off.toNat / 64) (by omega) (by omega)]
    · exact free 2 (by decide)
    · exact free 3 (by decide)
    · exact free 5 (by decide)
    · exact free 6 (by decide)
    · exact free 7 (by decide)
    · exact free 8 (by decide)
    · exact free 9 (by decide)
    · exact free 15 (by decide)
    · exact free 17 (by decide)

/-! ## The partition block -/

theorem validAbove_spec (b : Bool) (y : BitVec 22) :
    let z : BitVec (1 + 41 + 22) := bit1 b ++ (0 : BitVec 41) ++ y
    z.extractLsb' 0 22 = y ∧ z.getLsbD 63 = b := by
  constructor
  · refine BitVec.eq_of_getLsbD_eq fun i hi => ?_
    rw [BitVec.getLsbD_extractLsb', Nat.zero_add, BitVec.getLsbD_append, if_pos hi, decide_eq_true hi, Bool.true_and]
  · rw [BitVec.getLsbD_append, if_neg (by decide), BitVec.getLsbD_append, if_neg (by decide)]
    cases b <;> rfl

theorem storedCbw_spec (x : Word) :
    (storedCbw x).extractLsb' 0 22 = x.extractLsb' 0 22 ∧ ((storedCbw x).getLsbD 63 = true ↔ x.getLsbD 63 = true ∧
      x.toNat % 2 ^ 10 ≠ 0 ∧ x.toNat / 2 ^ 10 % 2 ^ 9 + x.toNat % 2 ^ 10 ≤ 512) := by
  obtain ⟨low, valid⟩ := validAbove_spec
    (x.getLsbD 63 && (x.extractLsb' 0 10).toNat != 0 && (x.extractLsb' 10 9).toNat + (x.extractLsb' 0 10).toNat ≤ 512)
    (x.extractLsb' 0 22)
  refine ⟨low, (Eq.congr_left valid).trans ?_⟩
  rw [low_field, toNat_extractLsb', Bool.and_eq_true, Bool.and_eq_true, bne_iff_ne, decide_eq_true_eq, and_assoc]

theorem setIfInBounds_of_lt {α : Type} {m k : Nat} (xs : Vector α m) (h : k < m) (x : α) : xs.setIfInBounds k x = xs.set k x h := by
  refine Vector.ext fun j hj => ?_
  rw [Vector.getElem_setIfInBounds, Vector.getElem_set]

/-- A window register. -/
theorem done_writeCbw (n : Fin 4) :
    Done (.next (s.writePart (0x280 + 64 * n.val) v)) fun t =>
      t.part.cbwNew = s.part.cbwNew.set n t.part.cbwNew[n] ∧ (t.part.cbwNew[n]).extractLsb' 0 22 = v.extractLsb' 0 22 ∧
      ((t.part.cbwNew[n]).getLsbD 63 = true ↔ v.getLsbD 63 = true ∧ v.toNat % 2 ^ 10 ≠ 0 ∧
        v.toNat / 2 ^ 10 % 2 ^ 9 + v.toNat % 2 ^ 10 ≤ 512) ∧
      ((∀ ch < 16, ∀ e ∈ s.cores, e.2.arrivals.get 0 ch = 0) → t.part.cbw = t.part.cbwNew) ∧
      (¬ (∀ ch < 16, ∀ e ∈ s.cores, e.2.arrivals.get 0 ch = 0) → t.part.cbw = s.part.cbw) := by
  have write : s.writePart (0x280 + 64 * n.val) v =
      (s.modPart fun p => { p with cbwNew := p.cbwNew.set n (storedCbw v) }).adoptIdle := by
    rw [State.writePart, if_pos (by omega)]
    · rw [show (640 + 64 * n.val - 640) / 64 = n.val by omega]
      simp only [setIfInBounds_of_lt _ n.isLt]
    all_goals (intro; omega)
  have idle (ch : Nat) : (s.modPart fun p => { p with cbwNew := p.cbwNew.set n (storedCbw v) }).arrived ch = false ↔
      ∀ e ∈ s.cores, e.2.arrivals.get 0 ch = 0 := State.arrived_eq_false
  have adopted := (s.modPart fun p => { p with cbwNew := p.cbwNew.set n (storedCbw v) }).adoptedIdle_adoptIdle
  rw [write]
  generalize (s.modPart fun p => { p with cbwNew := p.cbwNew.set n (storedCbw v) }).adoptIdle = t at adopted ⊢
  obtain ⟨frame, -, -, windows, kept⟩ := adopted
  have new : t.part.cbwNew = s.part.cbwNew.set n (storedCbw v) := by rw [frame]; rfl
  have here : t.part.cbwNew[n] = storedCbw v := by simp [new]
  obtain ⟨low, valid⟩ := storedCbw_spec v
  refine ⟨t, rfl, ?_, ?_, ?_, fun all => ?_, fun busy => ?_⟩
  · rw [here, new]
  · rw [here, low]
  · rw [here, valid]
  · exact (windows fun ch hch => (idle ch).2 (all ch hch)).trans (by rw [new]; rfl)
  · exact kept fun no => busy fun ch hch => (idle ch).1 (no ch hch)

/-- ORKIND. -/
theorem done_writeOrKind :
    Done (.next ((s.modPart fun p => { p with orNew := v.extractLsb' 0 16 }).adoptIdle)) fun t =>
      t.part.orNew = v.extractLsb' 0 16 ∧ ∀ ch < 16, t.part.orKind.getLsbD ch =
        if (∀ e ∈ s.cores, e.2.arrivals.get 0 ch = 0) then v.getLsbD ch else s.part.orKind.getLsbD ch := by
  have adopted := (s.modPart fun p => { p with orNew := v.extractLsb' 0 16 }).adoptedIdle_adoptIdle
  generalize (s.modPart fun p => { p with orNew := v.extractLsb' 0 16 }).adoptIdle = t at adopted ⊢
  obtain ⟨frame, -, kinds, -, -⟩ := adopted
  refine ⟨t, rfl, by rw [frame]; rfl, fun ch hch => (kinds ch hch).trans ?_⟩
  refine if_congr State.arrived_eq_false ?_ rfl
  rw [State.modPart, BitVec.getLsbD_extractLsb', Nat.zero_add, decide_eq_true hch, Bool.true_and]

end Sys2Proof.Machine
end

section
/-! O46 holds: the writes of all the blocks. -/

namespace Sys2Proof.Machine

theorem done_core_of (s : State) (c : Nat) (f : Core → Core) {x : Core} (value : f (s.core c) = x) :
    Done (.next (s.modCore c f)) fun t => t = { s with cores := t.cores } ∧ t.core c = x ∧ ∀ j, j ≠ c → t.core j = s.core j :=
  value ▸ done_modCore s c f

theorem done_part_of (s : State) (f : Partition → Partition) {x : Partition} (value : f s.part = x) :
    Done (.next (s.modPart f)) (· = { s with part := x }) := value ▸ done_modPart s f

theorem low_and (v : Word) (n : Nat) (fits : 2 ^ n - 1 < 2 ^ 64) :
    v &&& BitVec.ofNat 64 (2 ^ n - 1) = BitVec.ofNat 64 (v.toNat % 2 ^ n) := by
  refine BitVec.eq_of_toNat_eq ?_
  rw [BitVec.toNat_and, BitVec.toNat_ofNat, BitVec.toNat_ofNat, Nat.mod_eq_of_lt fits, Nat.and_two_pow_sub_one_eq_mod,
    Nat.mod_eq_of_lt (Nat.lt_of_le_of_lt (Nat.mod_le _ _) v.isLt)]

theorem ofNat_low (v : Word) (n : Nat) : v.extractLsb' 0 n = BitVec.ofNat n v.toNat :=
  BitVec.eq_of_toNat_eq (by rw [low_field, BitVec.toNat_ofNat])

theorem done_if_pos {p : Prop} [Decidable p] (h : p) {u v : State} {P : State → Prop} (done : Done (.next u) P) :
    Done (.next (if p then u else v)) P := by
  rwa [if_pos h]

theorem done_if_neg {p : Prop} [Decidable p] (h : ¬ p) {u v : State} {P : State → Prop} (done : Done (.next v) P) :
    Done (.next (if p then u else v)) P := by
  rwa [if_neg h]

/-- Settles O46: each store to a device register is the equation of its block, and what a register's row asks is its own lemma. -/
theorem registerWrites : Obligations.RegisterWrites := by
  unfold Obligations.RegisterWrites
  intro s c w v a hi off b k q cl d holds noSteal idle write assigned core quad part bit
  have held : s.onHold q = true ↔ holds := onHold_iff s q
  refine ⟨?tvec, ?shiftct, ?shiftac, ?spill, ?bmask, ?dqstat, ?dqstatOther, ?qctl, ?errq, ?cfmt, ?unassigned, ?errc, ?scalehome,
    ?errd, ?cstep, ?ptbase, ?prewin, ?hangw, ?hangbuf, ?tlim, ?larea, ?evbase, ?hold, ?orkind, ?cbw, ?fphead, ?lost, ?logged,
    ?pgasn, ?tocc, ?opreq, ?fqbase, ?lwcfg, ?msix, ?atomode, ?quiet, ?busy⟩
  case tvec =>
    exact done_core_of s c (fun k => { k with tvec := v >>> 5 <<< 5 }) (congrArg (fun x => { k with tvec := x }) (floor_eq v 5))
  case shiftct => exact done_modCore s c fun k => { k with shiftct := v }
  case shiftac => exact done_modCore s c fun k => { k with shiftac := v }
  case spill =>
    have value : v >>> 9 <<< 9 ||| BitVec.ofNat 64 (min 10 (v.extractLsb' 0 4).toNat) =
        BitVec.ofNat 64 (v.toNat / 512 * 512 + min 10 (v.toNat % 16)) := by
      rw [low_field v 4]
      exact floor_or v (by omega) (by decide)
    exact done_core_of s c (fun k => { k with spill := v >>> 9 <<< 9 ||| BitVec.ofNat 64 (min 10 (v.extractLsb' 0 4).toNat) })
      (congrArg (fun x => { k with spill := x }) value)
  case bmask => exact done_writeBmask s c v
  case dqstat =>
    intro hold steal
    have both : (s.onHold (quadOf c) && (s.quad (quadOf c)).noSteal) = true := Bool.and_eq_true_iff.2 ⟨held.2 hold, steal⟩
    exact done_if_pos both (done_writeDqstat s c v)
  case dqstatOther =>
    intro j other hold steal
    have both : (s.onHold (quadOf c) && (s.quad (quadOf c)).noSteal) = true := Bool.and_eq_true_iff.2 ⟨held.2 hold, steal⟩
    exact done_if_pos both (done_writeDqstat_other s c v other)
  case qctl =>
    by_cases hold : v.getLsbD 0 = true
    · exact done_if_pos hold (done_modQuad s q fun k => { k with qctl := v.extractLsb' 0 3 })
    · refine done_if_neg hold ⟨_, rfl, ?_⟩
      rw [State.refill_frame]
      exact ⟨rfl, s.quad_modQuad_self q fun k => { k with qctl := v.extractLsb' 0 3 }, fun _ other =>
        s.quad_modQuad_ne (fun k => { k with qctl := v.extractLsb' 0 3 }) other⟩
  case errq => exact done_modQuad s q fun k => { k with errq := v }
  case cfmt =>
    intro n
    have offset : (BitVec.ofNat 37 (64 * n.val)).toNat = 64 * n.val := by
      rw [BitVec.toNat_ofNat]
      omega
    have value : s.writeQuad q (64 * n.val) v = s.modQuad q fun k => { k with cfmt := k.cfmt.set n (v.extractLsb' 0 5) } := by
      rw [State.writeQuad, if_pos (by omega)]
      · rw [show 64 * n.val / 64 = n.val by omega]
        simp only [setIfInBounds_of_lt _ n.isLt]
      all_goals (intro; omega)
    have written : write 1 (64 * n.val) = .next (s.writeQuad q (64 * n.val) v) :=
      congrArg (fun o => (.next (s.writeQuad q o v) : Outcome)) offset
    rw [written, value]
    exact done_modQuad s q _
  case unassigned =>
    intro block none
    exact ⟨s, registerWrite_unassigned s c w v b off block none, rfl⟩
  case errc => exact ⟨_, rfl, rfl, s.cluster_modCluster_self cl fun k => { k with errc := v }⟩
  case scalehome =>
    have low : (v.extractLsb' 0 32).toNat = v.toNat % 2 ^ 32 := low_field v 32
    have high : (v.extractLsb' 32 32).toNat = v.toNat / 2 ^ 32 := by
      rw [toNat_extractLsb']
      omega
    have written : write 2 0x000 = .next (if v.toNat % 2 ^ 32 / 8 = cl % 128 ∧ v.toNat / 2 ^ 32 / 8 = cl / 128 then
        s.modCluster cl fun k => { k with scalehome := some v } else s) := by
      rw [← low, ← high]
      rfl
    rw [written]
    exact ⟨fun own => done_if_pos own ⟨_, rfl, rfl, s.cluster_modCluster_self cl fun k => { k with scalehome := some v }⟩,
      fun other => done_if_neg other ⟨s, rfl, rfl⟩⟩
  case errd => exact ⟨_, rfl, rfl, s.die_modDie_self d fun k => { k with errd := v }⟩
  case cstep =>
    have low : v.extractLsb' 0 16 = BitVec.ofNat 16 v.toNat := ofNat_low v 16
    have zero : BitVec.ofNat 16 v.toNat = 0 ↔ v.toNat % 2 ^ 16 = 0 := by
      rw [← BitVec.toNat_inj, BitVec.toNat_ofNat]
      rfl
    refine ⟨_, rfl, rfl, (s.region_modRegion_self (d / 2) _).trans ?_⟩
    rw [low]
    exact congrArg (fun x => { s.region (d / 2) with cstep := x }) (if_congr zero rfl rfl)
  case ptbase => exact done_modPart s fun p => { p with ptbase := v }
  case prewin => exact done_modPart s fun p => { p with prewin := v.extractLsb' 0 32 }
  case hangw => exact done_modPart s fun p => { p with hangw := v }
  case hangbuf => exact done_modPart s fun p => { p with hangbuf := v }
  case tlim =>
    exact done_part_of s (fun p => { p with tlim := BitVec.ofNat 8 (max 80 (min 104 (v.extractLsb' 0 8).toNat)) })
      (congrArg (fun x => { s.part with tlim := BitVec.ofNat 8 (max 80 (min 104 x)) }) (low_field v 8))
  case larea =>
    exact done_part_of s (fun p => { p with larea := v >>> 9 <<< 9 }) (congrArg (fun x => { s.part with larea := x }) (floor_eq v 9))
  case evbase =>
    have value : v >>> 9 <<< 9 ||| (v &&& 15) = BitVec.ofNat 64 (v.toNat / 512 * 512 + v.toNat % 16) := by
      have low : v &&& 15 = BitVec.ofNat 64 (v.toNat % 16) := low_and v 4 (by decide)
      rw [low]
      exact floor_or v (by omega) (by decide)
    exact done_part_of s (fun p => { p with evbase := v >>> 9 <<< 9 ||| (v &&& 15) }) (congrArg (fun x => { s.part with evbase := x }) value)
  case hold =>
    by_cases on : v.getLsbD 0 = true
    · refine done_if_pos on ⟨_, rfl, rfl, fun off => absurd on (Bool.eq_false_iff.1 off)⟩
    · refine done_if_neg on ⟨_, rfl, ?_, fun _ j hj => State.posted_refill _ hj⟩
      exact State.refill_frame _ _
  case orkind => exact done_writeOrKind s v
  case cbw =>
    intro n
    have offset : (BitVec.ofNat 37 (0x280 + 64 * n.val)).toNat = 0x280 + 64 * n.val := by
      rw [BitVec.toNat_ofNat]
      omega
    have written : write 4 (0x280 + 64 * n.val) = .next (s.writePart (0x280 + 64 * n.val) v) :=
      congrArg (fun o => (.next (s.writePart o v) : Outcome)) offset
    exact written ▸ done_writeCbw s v n
  case fphead =>
    intro hold
    refine done_if_pos (held.2 hold) ⟨_, rfl, rfl, ?_⟩
    exact (s.core_modCore_self c fun k => { k with fphead := v >>> 9 <<< 9 }).trans
      (congrArg (fun x => { k with fphead := x }) (floor_eq v 9))
  case lost =>
    intro none counted
    have lost (x : Word) : Done (.next (s.logEvent 0x08 (some w) x v))
        (· = { s with part := { s.part with evlost := s.part.evlost + 1 } }) :=
      ⟨_, rfl, s.logEvent_lost v x 0x08 (some w) none⟩
    refine ⟨fun free => ⟨done_if_neg (fun on => free (held.1 on)) (lost a), done_if_neg (fun on => free (held.1 on)) (lost a)⟩,
      fun free => done_if_neg (fun both => ?_) (lost _)⟩
    obtain ⟨on, steal⟩ := Bool.and_eq_true_iff.1 both
    exact free ⟨held.1 on, steal⟩
  case logged =>
    intro key h ring free wf sector clean located logged
    have off : ¬ s.onHold q = true := fun on => free (held.1 on)
    have entry := done_logEvent_ring s w v a ring clean wf sector located
    exact ⟨done_if_neg off entry, done_if_neg off entry⟩
  case pgasn =>
    intro hold
    obtain ⟨t, step, frame, assigned⟩ := done_pgasn s c w v a hi (held.2 hold)
    refine ⟨t, step, frame, fun j hj => ?_⟩
    obtain ⟨set, cleared, none⟩ := assigned j hj
    exact ⟨set, cleared, none⟩
  case tocc => exact done_tocc s c v hi
  case opreq => exact done_opreq s c v
  case fqbase => exact done_fqbase s c v
  case lwcfg => exact done_lwcfg s v
  case msix => exact ⟨done_msixtrig_masked s v, done_msixtrig_open s v⟩
  case atomode => exact done_modPart s fun p => { p with modeNew := v.getLsbD 0 }
  case quiet =>
    intro quiet
    exact done_if_pos quiet (done_modPart s fun p => { p with mode := p.modeNew })
  case busy =>
    intro busy
    exact done_if_neg (Bool.eq_false_iff.1 busy) ⟨s, rfl, rfl⟩

end Sys2Proof.Machine
end

section
/-! Commands as they are pushed: the slots of a command word, a fault word, and what the executing strand's bank and core are left as
(R171, R192, R199). -/

namespace Sys2Proof.Machine

/-! ## Words -/

theorem toNat_append_add {m n : Nat} (x : BitVec m) (y : BitVec n) : (x ++ y).toNat = x.toNat * 2 ^ n + y.toNat := by
  rw [BitVec.toNat_append, ← Nat.shiftLeft_add_eq_or_of_lt y.isLt, Nat.shiftLeft_eq]

/-- Cause and REM of a fault word (R199). -/
theorem qerrWord_fields (cause eng op iter cidx : Nat) (inRep rem : Bool) :
    (qerrWord cause eng op iter cidx inRep rem).toNat / 2 ^ 56 = cause % 256 ∧
      (qerrWord cause eng op iter cidx inRep rem).toNat % 2 = rem.toNat := by
  have bit (b : Bool) : (bit1 b).toNat = b.toNat := by cases b <;> rfl
  have hr := Bool.toNat_le rem
  have hi := Bool.toNat_le inRep
  simp only [qerrWord, toNat_append_add, BitVec.toNat_ofNat, bit]
  omega

/-- A word slot of a command. -/
def slotOf (w : BitVec 256) (k : Nat) : Word := w.extractLsb' (64 * k) 64

theorem extractLsb'_append_high {m n : Nat} (x : BitVec m) (y : BitVec n) {lo len : Nat} (above : n ≤ lo) :
    (x ++ y).extractLsb' lo len = x.extractLsb' (lo - n) len := by
  refine BitVec.eq_of_getLsbD_eq fun i hi => ?_
  rw [BitVec.getLsbD_extractLsb', BitVec.getLsbD_extractLsb', BitVec.getLsbD_append, if_neg (by omega),
    show lo + i - n = lo - n + i by omega]

theorem extractLsb'_extractLsb' {m : Nat} (x : BitVec m) {lo len lo' len' : Nat} (within : lo' + len' ≤ len) :
    (x.extractLsb' lo len).extractLsb' lo' len' = x.extractLsb' (lo + lo') len' := by
  refine BitVec.eq_of_getLsbD_eq fun i hi => ?_
  rw [BitVec.getLsbD_extractLsb', BitVec.getLsbD_extractLsb', BitVec.getLsbD_extractLsb', decide_eq_true hi,
    decide_eq_true (by omega : lo' + i < len), Bool.true_and, Bool.true_and, Bool.true_and, Nat.add_assoc]

/-- A word of two halves, the lower of them two slots. -/
theorem slotOf_append (x : BitVec 128) (b a : Word) :
    slotOf (x ++ b ++ a) 0 = a ∧ slotOf (x ++ b ++ a) 1 = b ∧ slotOf (x ++ b ++ a) 2 = x.extractLsb' 0 64 ∧
      slotOf (x ++ b ++ a) 3 = x.extractLsb' 64 64 := by
  refine ⟨?_, ?_, ?_, ?_⟩
  · exact (BitVec.extractLsb'_append_eq_of_add_le (by decide)).trans BitVec.extractLsb'_eq_self
  · exact (extractLsb'_append_high _ _ (by decide)).trans
      ((BitVec.extractLsb'_append_eq_of_add_le (by decide)).trans BitVec.extractLsb'_eq_self)
  · exact (extractLsb'_append_high _ _ (by decide)).trans (extractLsb'_append_high _ _ (by decide))
  · exact (extractLsb'_append_high _ _ (by decide)).trans (extractLsb'_append_high _ _ (by decide))

theorem slotOf_patchSlot (w : BitVec 256) (p : BitVec 2) (v : Word) {k : Nat} (hk : k < 4) :
    slotOf (patchSlot w p v) k = if p.toNat = k + 1 then v else slotOf w k := by
  have small := p.isLt
  have slots : k = 0 ∨ k = 1 ∨ k = 2 ∨ k = 3 := by omega
  have places : p.toNat = 0 ∨ p.toNat = 1 ∨ p.toNat = 2 ∨ p.toNat = 3 := by omega
  rcases places with h | h | h | h <;> simp only [patchSlot, h]
  · rw [if_neg (by omega)]
  · rcases slots with rfl | rfl | rfl | rfl
    · exact (BitVec.extractLsb'_append_eq_of_add_le (by decide)).trans BitVec.extractLsb'_eq_self
    all_goals exact (extractLsb'_append_high _ _ (by decide)).trans (extractLsb'_extractLsb' _ (by decide))
  · rcases slots with rfl | rfl | rfl | rfl
    · exact (BitVec.extractLsb'_append_eq_of_add_le (by decide)).trans (extractLsb'_extractLsb' _ (by decide))
    · exact (extractLsb'_append_high _ _ (by decide)).trans
        ((BitVec.extractLsb'_append_eq_of_add_le (by decide)).trans BitVec.extractLsb'_eq_self)
    · exact (extractLsb'_append_high _ _ (by decide)).trans
        ((extractLsb'_append_high _ _ (by decide)).trans (extractLsb'_extractLsb' _ (by decide)))
    · exact (extractLsb'_append_high _ _ (by decide)).trans
        ((extractLsb'_append_high _ _ (by decide)).trans (extractLsb'_extractLsb' _ (by decide)))
  · rcases slots with rfl | rfl | rfl | rfl
    · exact (BitVec.extractLsb'_append_eq_of_add_le (by decide)).trans (extractLsb'_extractLsb' _ (by decide))
    · exact (BitVec.extractLsb'_append_eq_of_add_le (by decide)).trans (extractLsb'_extractLsb' _ (by decide))
    · exact (extractLsb'_append_high _ _ (by decide)).trans
        ((BitVec.extractLsb'_append_eq_of_add_le (by decide)).trans BitVec.extractLsb'_eq_self)
    · exact (extractLsb'_append_high _ _ (by decide)).trans
        ((extractLsb'_append_high _ _ (by decide)).trans (extractLsb'_extractLsb' _ (by decide)))

end Sys2Proof.Machine
end

section
/-! The command instructions CMD, CMDR and QWAIT (R171 to R173). -/

namespace Sys2Proof.Machine

variable {s : State}

/-! ## The executing bank and core -/

/-- The executing bank is `b`, its core `c` but for its banks, and no other bank or core differs. -/
def State.Now (s t : State) (b : Bank) (c : Core) : Prop := t.bank s.here = b ∧ (∀ p, p ≠ s.here → t.bank p = s.bank p) ∧
  t.core s.cur = { c with banks := (t.core s.cur).banks } ∧ ∀ j, j ≠ s.cur → t.core j = s.core j

theorem State.now_of_core {t : State} {b : Bank} {c : Core}
    (own : t.core s.cur = { c with banks := (s.core s.cur).banks.set (s.core s.cur).cur b })
    (others : ∀ j, j ≠ s.cur → t.core j = s.core j) : s.Now t b c := by
  have banks : (t.core s.cur).banks = (s.core s.cur).banks.set (s.core s.cur).cur b := congrArg Core.banks own
  refine ⟨?_, fun p other => ?_, by rw [banks]; exact own, others⟩
  · simp [State.bank, State.here, banks]
  · obtain ⟨j, i⟩ := p
    by_cases here : j = s.cur
    · subst here
      have bank : (s.core s.cur).cur ≠ i := fun e => other (by rw [State.here, e])
      simp only [State.bank, banks]
      exact Vector.getElem_set_ne _ _ fun e => bank (Fin.ext e)
    · simp only [State.bank, others j here]

theorem State.core_modBank_here (s : State) (f : Bank → Bank) :
    (s.modBank s.here f).core s.cur = { s.core s.cur with
      banks := (s.core s.cur).banks.set (s.core s.cur).cur (f (s.bank s.here)) } :=
  s.core_modCore_self s.cur _

theorem State.core_modBank_other (s : State) (f : Bank → Bank) {j : Nat} (other : j ≠ s.cur) :
    (s.modBank s.here f).core j = s.core j := s.core_modCore_ne _ other

/-- The executing strand goes on at an address. -/
theorem State.now_setPc (s : State) (a : Word) :
    s.Now (s.setPc a) { s.bank s.here with strand := { s.strand s.here with pc := a } } (s.core s.cur) :=
  State.now_of_core (s.core_modBank_here _) fun _ => s.core_modBank_other _

/-- A state with the same executing place, bank and cores but for its own core's queue. -/
theorem State.Now.of_core {u t : State} {b : Bank} {c : Core} (h : u.Now t b c) (cur : u.cur = s.cur)
    (place : (u.core s.cur).cur = (s.core s.cur).cur) (banks : (u.core s.cur).banks = (s.core s.cur).banks)
    (others : ∀ j, j ≠ s.cur → u.core j = s.core j) : s.Now t b c := by
  obtain ⟨own, rest, core, away⟩ := h
  have here : u.here = s.here := by rw [State.here, State.here, cur, place]
  rw [here] at own rest
  rw [cur] at core away
  refine ⟨own, fun p other => (rest p other).trans ?_, core, fun j other => (away j other).trans (others j other)⟩
  by_cases same : p.core = s.cur
  · rw [State.bank, State.bank, same, banks]
  · rw [State.bank, State.bank, others _ same]

/-- A switch changes neither banks nor another core. -/
theorem State.Now.switch {t : State} {b : Bank} {c : Core} (h : s.Now t b c) :
    s.Now (t.switch s.cur) b { c with cur := ({ c with banks := (t.core s.cur).banks } : Core).nextBank c.cur, guard := 0 } := by
  obtain ⟨own, rest, core, away⟩ := h
  refine ⟨by rw [State.bank_switch, own], fun p other => by rw [State.bank_switch, rest p other], ?_, fun j other => ?_⟩
  · rw [State.switch, State.core_modCore_self, core]
  · rw [State.switch, State.core_modCore_ne _ _ other, away j other]

/-- The next ready bank does not depend on the present one. -/
theorem Core.nextBank_set (c : Core) (b : Bank) : ({ c with banks := c.banks.set c.cur b } : Core).nextBank c.cur = c.nextBank c.cur := by
  have other (i : Fin 4) (h : i ≠ 0) : (c.banks.set c.cur b)[c.cur + i] = c.banks[c.cur + i] :=
    Vector.getElem_set_ne _ _ fun e => h (by
      have same : c.cur = c.cur + i := Fin.ext e
      exact left_eq_add.1 same)
  simp only [Core.nextBank, other 1 (by decide), other 2 (by decide), other 3 (by decide)]

end Sys2Proof.Machine
end

section
/-! The command instructions: what they build, and what each of them does (R171 to R173, R198, R220, R350). -/

namespace Sys2Proof.Machine

variable {s : State}

/-! ## The command that is built -/

/-- What a slot of a command is to hold: the register of the patch that names it, the second before the first, or the inline word. -/
def State.wantedSlot (s : State) (pa : Patch) (rs1 rs2 : Reg) (w : BitVec 256) (k : Nat) : Word :=
  if pa.p2.toNat = k + 1 then s.reg rs2 else if pa.p1.toNat = k + 1 then s.reg rs1 else slotOf w k

theorem resolveSlot_spec (p : Partition) (core : Nat) (a : Word) :
    (space a ≠ 2 → (resolveSlot p core a).1 = a ∧ (resolveSlot p core a).2 = false) ∧
    (space a = 2 → (∀ b, resolveRel p core a = some b → (resolveSlot p core a).1 = b ∧ (resolveSlot p core a).2 = false) ∧
      (resolveRel p core a = none → (resolveSlot p core a).1 = a ∧ (resolveSlot p core a).2 = true)) := by
  unfold resolveSlot
  refine ⟨fun other => ?_, fun relative => ⟨fun b resolved => ?_, fun outside => ?_⟩⟩
  · rw [if_neg other]
    exact ⟨rfl, rfl⟩
  · rw [if_pos relative, resolved]
    exact ⟨rfl, rfl⟩
  · rw [if_pos relative, outside]
    exact ⟨rfl, rfl⟩

/-- The patched words of a command. -/
def State.patchedWords (s : State) (pa : Patch) (rs1 rs2 : Reg) (n : Nat) : BitVec 256 :=
  patchSlot (patchSlot (BitVec.ofNat 256 n) pa.p1 (s.reg rs1)) pa.p2 (s.reg rs2)

theorem State.slotOf_patchedWords (s : State) (pa : Patch) (rs1 rs2 : Reg) (n : Nat) {k : Nat} (hk : k < 4) :
    slotOf (s.patchedWords pa rs1 rs2 n) k = s.wantedSlot pa rs1 rs2 (BitVec.ofNat 256 n) k := by
  rw [State.patchedWords, slotOf_patchSlot _ _ _ hk, slotOf_patchSlot _ _ _ hk, State.wantedSlot]

/-- A command whose addresses are resolved. -/
def resolvedWord (p : Partition) (core : Nat) (w : BitVec 256) : BitVec 256 :=
  w.extractLsb' 128 128 ++ (resolveSlot p core (slotOf w 1)).1 ++ (resolveSlot p core (slotOf w 0)).1

theorem slotOf_resolvedWord (p : Partition) (core : Nat) (w : BitVec 256) :
    slotOf (resolvedWord p core w) 0 = (resolveSlot p core (slotOf w 0)).1 ∧
      slotOf (resolvedWord p core w) 1 = (resolveSlot p core (slotOf w 1)).1 ∧
      slotOf (resolvedWord p core w) 2 = slotOf w 2 ∧ slotOf (resolvedWord p core w) 3 = slotOf w 3 := by
  obtain ⟨a, b, c, d⟩ := slotOf_append (w.extractLsb' 128 128) (resolveSlot p core (slotOf w 1)).1 (resolveSlot p core (slotOf w 0)).1
  exact ⟨a, b, c.trans (extractLsb'_extractLsb' w (by decide)), d.trans (extractLsb'_extractLsb' w (by decide))⟩

theorem State.buildCommand_eq (s : State) (pa : Patch) (rs1 rs2 : Reg) (n : Nat) :
    s.buildCommand pa rs1 rs2 n = ⟨resolvedWord s.part s.cur (s.patchedWords pa rs1 rs2 n),
      (resolveSlot s.part s.cur (slotOf (s.patchedWords pa rs1 rs2 n) 0)).2,
      (resolveSlot s.part s.cur (slotOf (s.patchedWords pa rs1 rs2 n) 1)).2, (s.strand s.here).sfp, (s.strand s.here).priv, false⟩ := rfl

/-! ## The inline words -/

theorem State.meetWords_clean (clean : s.bad = []) (pc : Word) (n : Nat) : s.meetWords pc n = s := by
  induction n generalizing pc with
  | zero => rfl
  | succ n ih =>
    have met : s.meetFetch pc = s := by
      simp only [State.meetFetch, State.meetParts_clean _ clean]
      split <;> rfl
    rw [State.meetWords]
    split
    · rw [met, ih]
    · rfl

/-- What a command instruction does, by what the fetch of its inline words gives. -/
def State.afterWords (s : State) (pa : Patch) (rs1 rs2 : Reg) (f : State → QEntry → State) : Except (Word × FetchFailure) Nat → State
  | .error e => s.fetchFailed e.1 e.2
  | .ok w => if (s.strand s.here).qerr ≠ 0 then s.trap .engine (s.strand s.here).qerr else f s (s.buildCommand pa rs1 rs2 w)

theorem State.withCommand_eq (clean : s.bad = []) (pa : Patch) (rs1 rs2 : Reg) (f : State → QEntry → State) :
    s.withCommand pa rs1 rs2 f = s.afterWords pa rs1 rs2 f (s.fetchWords (s.pc + 32) 8) := by
  have met := s.meetWords_clean clean (s.pc + 32) 8
  unfold State.withCommand
  rw [met]
  conv_lhs => zeta
  generalize s.fetchWords (s.pc + 32) 8 = r
  cases r <;> rfl

/-! ## Running, stalling -/

theorem State.stall_spec (s : State) :
    let t := s.stall .other 0 0
    t = { s with cores := t.cores } ∧ t.bank s.here = { s.bank s.here with status := .stalled .other 0 0 } ∧
      (t.core s.cur).queue = (s.core s.cur).queue := by
  refine ⟨rfl, ?_, ?_⟩
  · rw [State.stall, State.bank_switch, State.setStatus, State.bank_modBank_self]
  · rw [State.stall, State.switch, State.core_modCore_self, State.setStatus, State.core_modBank_here]

end Sys2Proof.Machine
end

section
/-! Faults that reach a strand's queue (R198, R220), and the effects of CMD, CMDR and QWAIT. -/

namespace Sys2Proof.Machine

variable {s : State}

/-! ## Faults of a resident strand -/

theorem State.Resident.of_banks {t : State} {sfp : Word} {p : Place} (h : s.Resident sfp p)
    (same : ∀ q, (t.bank q).live = (s.bank q).live ∧ (t.strand q).sfp = (s.strand q).sfp) : t.Resident sfp p := by
  obtain ⟨⟨live, own⟩, only⟩ := h
  refine ⟨⟨(same p).1.trans live, (same p).2.trans own⟩, fun q hl hs => only q ?_ ?_⟩
  · rw [← (same q).1, hl]
  · rw [← (same q).2, hs]

theorem State.bank_modBank (s : State) (p q : Place) (f : Bank → Bank) :
    (s.modBank p f).bank q = if q = p then f (s.bank p) else s.bank q := by
  by_cases h : q = p
  · rw [if_pos h, h, State.bank_modBank_self]
  · rw [if_neg h]
    exact State.bank_setBank_ne _ _ h

theorem State.Resident.modStrand {sfp : Word} {p q : Place} (h : s.Resident sfp p) {f : Strand → Strand}
    (keeps : (f (s.strand q)).sfp = (s.strand q).sfp) : (s.modStrand q f).Resident sfp p := by
  refine h.of_banks fun r => ?_
  simp only [State.modStrand, State.strand, State.bank_modBank]
  by_cases here : r = q
  · rw [if_pos here, here]
    exact ⟨rfl, keeps⟩
  · rw [if_neg here]
    exact ⟨rfl, rfl⟩

theorem Strand.fault_first (st : Strand) (x : Word) (none : st.qerr = 0) : st.fault x = { st with qerr := x } := if_pos none

/-- A state with a fault in a strand's QERR, and its queue without what the strand has there. -/
def State.withFault (s : State) (p : Place) (sfp x : Word) : State :=
  ((s.modStrand p (·.fault x)).modCore p.core (·.discard sfp)).pushOffer p.core

theorem State.lateFault_resident {sfp : Word} {p : Place} (h : s.Resident sfp p) (x : Word) :
    s.lateFault sfp x = s.withFault p sfp x := by
  have keeps : ((s.strand p).fault x).sfp = (s.strand p).sfp := by
    unfold Strand.fault
    split <;> rfl
  have recorded : s.recordFault sfp x = s.modStrand p (·.fault x) := by
    rw [State.recordFault, s.residentOf_eq h]
  rw [State.lateFault, recorded, State.discardQueued, State.residentOf_eq _ (h.modStrand (f := (·.fault x)) keeps),
    State.withFault]

theorem State.bank_modCore_banks (s : State) (c : Nat) {f : Core → Core} (keeps : (f (s.core c)).banks = (s.core c).banks) (p : Place) :
    (s.modCore c f).bank p = s.bank p := by
  by_cases here : p.core = c
  · rw [State.bank, State.bank, here, State.core_modCore_self, keeps]
  · rw [State.bank, State.bank, State.core_modCore_ne _ _ here]

theorem State.bank_pushOffer (s : State) (c : Nat) (p : Place) : (s.pushOffer c).bank p = s.bank p := by
  rw [State.pushOffer_eq]
  rfl

theorem State.core_pushOffer (s : State) (c j : Nat) : (s.pushOffer c).core j = s.core j := by
  rw [State.pushOffer_eq]
  rfl

/-- A fault recorded first: QERR holds it, what the strand has in its core's queue is gone, and nothing else differs. -/
theorem State.withFault_spec {p : Place} (sfp x : Word) (none : (s.strand p).qerr = 0) :
    let t := s.withFault p sfp x
    t = { s with cores := t.cores, agenda := t.agenda } ∧
    t.bank p = { s.bank p with strand := { s.strand p with qerr := x } } ∧ (∀ b, b ≠ p → t.bank b = s.bank b) ∧
    t.core p.core = { (s.core p.core).discard sfp with banks := (t.core p.core).banks } ∧ ∀ c, c ≠ p.core → t.core c = s.core c := by
  have first := Strand.fault_first _ x none
  refine ⟨?_, ?_, fun b other => ?_, ?_, fun c other => ?_⟩
  · rw [State.withFault, State.pushOffer_eq]
    rfl
  · rw [State.withFault, State.bank_pushOffer, State.bank_modCore_banks _ _ rfl, State.modStrand, State.bank_modBank_self,
      ← first]
    rfl
  · rw [State.withFault, State.bank_pushOffer, State.bank_modCore_banks _ _ rfl, State.modStrand, State.bank_modBank, if_neg other]
  · rw [State.withFault, State.core_pushOffer, State.core_modCore_self, State.modStrand, State.modBank, State.setBank,
      State.core_modCore_self]
    rfl
  · rw [State.withFault, State.core_pushOffer, State.core_modCore_ne _ _ other, State.modStrand, State.modBank, State.setBank,
      State.core_modCore_ne _ _ other]

end Sys2Proof.Machine
end

section
/-! What CMD, CMDR and QWAIT do (R171 to R173, R220, R350). -/

namespace Sys2Proof.Machine

variable {s : State}

/-- The executing bank, with its strand at an address. -/
def State.bankAt (s : State) (a : Word) : Bank := { s.bank s.here with strand := { s.strand s.here with pc := a } }

theorem State.now_modBank (s : State) (f : Bank → Bank) : s.Now (s.modBank s.here f) (f (s.bank s.here)) (s.core s.cur) :=
  State.now_of_core (s.core_modBank_here f) fun _ => s.core_modBank_other f

/-- One change of the executing bank after another. -/
theorem State.Now.then {t u : State} {b b' : Bank} {c : Core} (h : s.Now t b c) (cur : t.cur = s.cur) (here : t.here = s.here)
    (g : t.Now u b' (t.core t.cur)) : s.Now u b' c := by
  obtain ⟨-, rest, core, away⟩ := h
  obtain ⟨own', rest', core', away'⟩ := g
  rw [here] at own' rest'
  rw [cur] at core' away'
  refine ⟨own', fun p other => (rest' p other).trans (rest p other), ?_, fun j other => (away' j other).trans (away j other)⟩
  rw [core] at core'
  exact core'

theorem State.now_resume_setPc (s : State) (a : Word) (running : (s.bank s.here).status = .running) :
    s.Now (s.resume.setPc a) (s.bankAt a) (s.core s.cur) := by
  have here : s.resume.here = s.here := s.here_resume
  have bank : s.resume.bank s.here = s.bank s.here := by
    rw [State.resume, State.setStatus, State.bank_modBank_self, ← running]
  have at' : s.resume.bankAt a = s.bankAt a := by rw [State.bankAt, State.strand, here, bank, State.bankAt, State.strand]
  exact (s.now_modBank fun b => { b with status := .running }).then rfl here (at' ▸ s.resume.now_setPc a)

/-- The deficit of the executing core, 0 where its queue holds no vector command. -/
theorem State.idleDeficit_spec (s : State) :
    let u := s.idleDeficit s.cur
    u = { s with quads := u.quads } ∧ ∀ r, u.quad r =
      if r = quadOf s.cur ∧ (s.core s.cur).queuesVector = false then
        { s.quad r with deficit := (s.quad r).deficit.setIfInBounds (indexInQuad s.cur) 0 }
      else s.quad r := by
  simp only [State.idleDeficit]
  by_cases vector : (s.core s.cur).queuesVector = true
  · rw [if_pos vector]
    exact ⟨rfl, fun r => (if_neg fun h => absurd (vector.symm.trans h.2) (by decide)).symm⟩
  · rw [if_neg vector]
    refine ⟨rfl, fun r => ?_⟩
    by_cases here : r = quadOf s.cur
    · rw [if_pos ⟨here, Bool.eq_false_iff.2 vector⟩, here, State.quad_modQuad_self]
    · rw [if_neg fun h => here h.1, State.quad_modQuad_ne _ _ here]

/-- The state in which CMD has put a command in the queue. -/
def State.queued (s : State) (e : QEntry) : State :=
  ((s.idleDeficit s.cur).modCore s.cur fun k => { k with queue := k.queue ++ [e] }).pushOffer s.cur

theorem State.queued_spec (s : State) (e : QEntry) :
    let u := s.queued e
    u = { s with cores := u.cores, quads := u.quads, agenda := u.agenda } ∧
      u.core s.cur = { s.core s.cur with queue := (s.core s.cur).queue ++ [e] } ∧ (∀ j, j ≠ s.cur → u.core j = s.core j) ∧
      ∀ r, u.quad r = if r = quadOf s.cur ∧ (s.core s.cur).queuesVector = false then
        { s.quad r with deficit := (s.quad r).deficit.setIfInBounds (indexInQuad s.cur) 0 } else s.quad r := by
  obtain ⟨frame, quads⟩ := s.idleDeficit_spec
  have cores (j : Nat) : (s.idleDeficit s.cur).core j = s.core j := by rw [frame]; rfl
  simp only [State.queued]
  refine ⟨?_, ?_, fun j other => ?_, fun r => ?_⟩
  · rw [State.pushOffer_eq, frame]
    rfl
  · rw [State.core_pushOffer, State.core_modCore_self, cores]
  · rw [State.core_pushOffer, State.core_modCore_ne _ _ other, cores]
  · rw [State.pushOffer_eq, ← quads r]
    rfl

theorem State.cmd_room (running : (s.bank s.here).status = .running) (e : QEntry) :
    let t := (s.queued e).resume.setPc (s.pc + 288)
    t = { s with cores := t.cores, quads := t.quads, agenda := t.agenda } ∧
      s.Now t (s.bankAt (s.pc + 288)) { s.core s.cur with queue := (s.core s.cur).queue ++ [e] } ∧
      ∀ r, t.quad r = if r = quadOf s.cur ∧ (s.core s.cur).queuesVector = false then
        { s.quad r with deficit := (s.quad r).deficit.setIfInBounds (indexInQuad s.cur) 0 } else s.quad r := by
  obtain ⟨frame, own, others, quads⟩ := s.queued_spec e
  generalize s.queued e = u at frame own others quads
  have cur : u.cur = s.cur := by rw [frame]
  have here : u.here = s.here := by rw [State.here, State.here, cur, own]
  have bank : u.bank u.here = s.bank s.here := by rw [here, State.bank, State.bank, State.here, own]
  have at' : u.bankAt (s.pc + 288) = s.bankAt (s.pc + 288) := by rw [State.bankAt, State.strand, bank, State.bankAt, State.strand]
  have now := u.now_resume_setPc (s.pc + 288) (by rw [bank, running])
  rw [at', cur, own] at now
  refine ⟨?_, now.of_core cur (by rw [own]) (by rw [own]) others, quads⟩
  exact Eq.trans (b := { u with cores := (u.resume.setPc (s.pc + 288)).cores }) rfl (by rw [frame]; rfl)

end Sys2Proof.Machine
end

section
/-! What CMDR and QWAIT do, and a remote command at its target (R172, R173, R198, R220, R221). -/

namespace Sys2Proof.Machine

variable {s : State}

/-! ## CMDR -/

/-- A remote command that a core sends, and the state that has sent it. -/
def State.sent (s : State) (r : Remote) (q : Nat) : State :=
  let t := (s.setPc (s.pc + 288)).post (.remoteCommand q r)
  if q = quadOf s.cur then t else t.traffic.switch s.cur

theorem State.sent_spec (s : State) (r : Remote) (q : Nat) :
    let t := s.sent r q
    let k := s.core s.cur
    t = { s with cores := t.cores, agenda := t.agenda, part := { s.part with lastTraffic := t.part.lastTraffic } } ∧
      t.agenda = s.agenda ++ [.event (.remoteCommand q r)] ∧
      (q = quadOf s.cur → s.Now t (s.bankAt (s.pc + 288)) k) ∧
      (q ≠ quadOf s.cur → s.Now t (s.bankAt (s.pc + 288)) { k with cur := k.nextBank k.cur, guard := 0 }) := by
  have now : s.Now ((s.setPc (s.pc + 288)).post (.remoteCommand q r)) (s.bankAt (s.pc + 288)) (s.core s.cur) := s.now_setPc _
  simp only [State.sent]
  split
  · rename_i own
    exact ⟨rfl, rfl, fun _ => now, fun other => absurd own other⟩
  · rename_i other
    refine ⟨rfl, rfl, fun own => absurd own other, fun _ => ?_⟩
    have banks : (((s.setPc (s.pc + 288)).post (.remoteCommand q r)).core s.cur).banks =
        (s.core s.cur).banks.set (s.core s.cur).cur (s.bankAt (s.pc + 288)) :=
      congrArg Core.banks (s.core_modBank_here fun b => { b with strand := { b.strand with pc := s.pc + 288 } })
    have switched := State.Now.switch (t := ((s.setPc (s.pc + 288)).post (.remoteCommand q r)).traffic) now
    have next : ({ s.core s.cur with banks := (((s.setPc (s.pc + 288)).post (.remoteCommand q r)).traffic.core s.cur).banks } :
        Core).nextBank (s.core s.cur).cur = (s.core s.cur).nextBank (s.core s.cur).cur :=
      (congrArg (fun b => ({ s.core s.cur with banks := b } : Core).nextBank (s.core s.cur).cur) banks).trans
        (Core.nextBank_set _ _)
    rw [next] at switched
    exact switched

theorem State.refused_spec {sfp : Word} (resident : s.Resident sfp s.here) (none : (s.strand s.here).qerr = 0) (x : Word) :
    let t := (s.setPc (s.pc + 288)).lateFault sfp x
    t = { s with cores := t.cores, agenda := t.agenda } ∧
      s.Now t { s.bank s.here with strand := { s.strand s.here with pc := s.pc + 288, qerr := x } } ((s.core s.cur).discard sfp) := by
  have kept : (s.setPc (s.pc + 288)).Resident sfp s.here := resident.modStrand (f := fun st => { st with pc := s.pc + 288 }) rfl
  have strand : (s.setPc (s.pc + 288)).strand s.here = { s.strand s.here with pc := s.pc + 288 } := s.strand_setPc _
  obtain ⟨own, rest, core, away⟩ := s.now_setPc (s.pc + 288)
  obtain ⟨frame, own', rest', core', away'⟩ := (s.setPc (s.pc + 288)).withFault_spec sfp x (p := s.here) (by rw [strand]; exact none)
  rw [State.lateFault_resident kept]
  refine ⟨frame, ?_, fun p other => (rest' p other).trans (rest p other), ?_, fun j other => (away' j other).trans (away j other)⟩
  · rw [own', strand, own]
  · refine core'.trans ?_
    have same : (s.setPc (s.pc + 288)).core s.here.core = { s.core s.cur with banks := ((s.setPc (s.pc + 288)).core s.cur).banks } := core
    rw [same]
    rfl

/-! ## QWAIT -/

theorem State.qwait_reached (running : (s.bank s.here).status = .running) : s.WentTo s.resume.advance (s.pc + 32) := by
  have pc : s.resume.pc = s.pc := by
    rw [State.pc, State.here_resume, State.resume, State.setStatus, State.strand, State.bank_modBank_self]
    rfl
  have first : s.OnlyBank s.resume s.here := s.onlyBank_modBank s.here fun b => { b with status := .running }
  have second : s.resume.OnlyBank s.resume.advance s.resume.here :=
    s.resume.onlyBank_modStrand s.resume.here fun st => { st with pc := s.resume.pc + 32 }
  rw [State.here_resume] at second
  obtain ⟨own, -⟩ := s.now_resume_setPc (s.pc + 32) running
  refine ⟨first.trans second, ?_⟩
  rw [State.advance, pc]
  exact own

theorem State.qwait_short {x : Word} (handles : s.Handles) (resident : s.Resident (s.strand s.here).sfp s.here)
    (none : (s.strand s.here).qerr = 0) :
    let t := (s.lateFault (s.strand s.here).sfp x).trap .engine x
    State.Trapped { (s.modStrand s.here fun b => { b with qerr := x }).modCore s.cur (·.discard (s.strand s.here).sfp) with
      agenda := t.agenda } t Cause.engine.code x := by
  obtain ⟨-, bank, -, core, -⟩ := s.withFault_spec (p := s.here) (s.strand s.here).sfp x none
  have fault := Strand.fault_first _ x none
  have same : s.withFault s.here (s.strand s.here).sfp x = { (s.modStrand s.here fun b => { b with qerr := x }).modCore s.cur
      (·.discard (s.strand s.here).sfp) with agenda := (s.withFault s.here (s.strand s.here).sfp x).agenda } := by
    have written : s.modStrand s.here (·.fault x) = s.modStrand s.here fun b => { b with qerr := x } :=
      congrArg (fun st => s.setBank s.here { s.bank s.here with strand := st }) fault
    rw [State.withFault, written]
    exact State.pushOffer_eq _ _
  rw [State.lateFault_resident resident]
  generalize s.withFault s.here (s.strand s.here).sfp x = u at bank core same
  have here : u.here = s.here := by
    have cur : u.cur = s.cur := by rw [same]; rfl
    have core' : u.core s.cur = { (s.core s.cur).discard (s.strand s.here).sfp with banks := (u.core s.cur).banks } := core
    have place : (u.core s.cur).cur = (s.core s.cur).cur := by rw [core']; rfl
    rw [State.here, State.here, cur, place]
  have ready : u.Handles := by
    rw [State.Handles, here, State.strand, bank]
    exact handles
  obtain ⟨⟨frame, -⟩, -⟩ := u.trapped_trap ready .engine x
  have agenda : (u.trap .engine x).agenda = u.agenda := by rw [frame]
  have before : { (s.modStrand s.here fun b => { b with qerr := x }).modCore s.cur (·.discard (s.strand s.here).sfp) with
      agenda := (u.trap .engine x).agenda } = u := by
    rw [agenda]
    exact same.symm
  show State.Trapped { (s.modStrand s.here fun b => { b with qerr := x }).modCore s.cur (·.discard (s.strand s.here).sfp) with
      agenda := (u.trap .engine x).agenda } (u.trap .engine x) Cause.engine.code x
  rw [before]
  exact u.trapped_trap ready .engine x

end Sys2Proof.Machine
end

section
/-! O36 holds: the command instructions, and remote commands at their targets. -/

namespace Sys2Proof.Machine

variable {s : State}

/-! ## Remote commands -/

theorem State.senderWaits_none {q : Nat} {r : Remote} {all : Bool}
    (first : ∀ e ∈ s.timers, ∀ x j, e.2 = .remoteBusyRetry q x j → x.sfp ≠ r.sfp) : s.senderWaits q r all = none := by
  unfold State.senderWaits
  generalize s.timers = l at first
  induction l with
  | nil => rfl
  | cons e l ih =>
    rw [List.foldl_cons]
    have rest := ih fun f hf => first f (List.mem_cons_of_mem _ hf)
    have here := first e List.mem_cons_self
    split
    · rename_i p x j found
      by_cases same : p = q
      · subst same
        have other : (x.sfp == r.sfp) = false := beq_eq_false_iff_ne.2 (here x j found)
        rw [other, Bool.and_false, Bool.false_and, if_neg Bool.false_ne_true, rest]
      · rw [beq_eq_false_iff_ne.2 same, Bool.false_and, Bool.false_and, if_neg Bool.false_ne_true, rest]
    · exact rest

theorem State.offerRemote_eq (s : State) (q : Nat) : s.offerRemote q = { s with agenda := (s.offerRemote q).agenda } := by
  unfold State.offerRemote
  split <;> rfl

theorem State.quad_offerRemote (s : State) (q j : Nat) : (s.offerRemote q).quad j = s.quad j := by
  rw [State.offerRemote_eq]
  rfl

variable {q k : Nat} {r : Remote} {first : Bool}

theorem State.arriveRemote_taken (none : s.senderWaits q r first = none) (fine : s.arrivalCause q r = .none) (on : (s.quad q).gate = .on)
    (room : (s.quad q).remote.length < 16 ∧ (s.quad q).noRemote = false) :
    let t := s.arriveRemote q r k first
    t = { s with quads := t.quads, agenda := t.agenda } ∧ t.quad q = { s.quad q with remote := (s.quad q).remote ++ [r] } ∧
      ∀ j, j ≠ q → t.quad j = s.quad j := by
  obtain ⟨short, open'⟩ := room
  have wake : s.wakeQuad q = s := by rw [State.wakeQuad, on]
  have taken : s.arriveRemote q r k first = (s.modQuad q fun x => { x with remote := x.remote ++ [r] }).offerRemote q := by
    simp only [State.arriveRemote, none, fine, open', wake, Bool.or_false, decide_eq_true_eq]
    exact if_neg (Nat.not_le.2 short)
  rw [taken]
  refine ⟨?_, (State.quad_offerRemote _ q q).trans (s.quad_modQuad_self q _), fun j other =>
    (State.quad_offerRemote _ q j).trans (s.quad_modQuad_ne _ other)⟩
  rw [State.offerRemote_eq]
  rfl

theorem State.arriveRemote_busy (none : s.senderWaits q r first = none) (fine : s.arrivalCause q r = .none)
    (full : ¬ ((s.quad q).remote.length < 16 ∧ (s.quad q).noRemote = false)) :
    s.arriveRemote q r k first = s.after (backoff k) (.remoteBusyRetry q r (k + 1)) := by
  have busy : (16 ≤ (s.quad q).remote.length || (s.quad q).noRemote) = true := by
    rw [Bool.or_eq_true, decide_eq_true_eq]
    by_contra h
    obtain ⟨short, open'⟩ := not_or.1 h
    exact full ⟨Nat.not_le.1 short, Bool.eq_false_iff.2 open'⟩
  simp only [State.arriveRemote, none, fine]
  exact if_pos busy

theorem State.arriveRemote_refused {c : Nat} (none : s.senderWaits q r first = none) (cause : s.arrivalCause q r = some c) :
    s.arriveRemote q r k first = s.refuseRemote r c := by
  simp only [State.arriveRemote, none, cause]

end Sys2Proof.Machine
end

section
/-! O36 holds: the command instructions, and remote commands at their targets. -/

namespace Sys2Proof.Machine

variable {s : State}

/-! ## The command that is built -/

/-- A slot that is to hold an address holds it resolved; the mark says that it lies outside the partition. -/
def State.Resolved (s : State) (wanted slot : Word) (mark : Bool) : Prop :=
  (space wanted ≠ 2 → slot = wanted ∧ mark = false) ∧
  (space wanted = 2 → (∀ b, resolveRel s.part s.cur wanted = some b → slot = b ∧ mark = false) ∧
    (resolveRel s.part s.cur wanted = none → slot = wanted ∧ mark = true))

/-- The command that the executing strand builds of inline words. -/
def State.Built (s : State) (pa : Patch) (rs1 rs2 : Reg) (w : BitVec 256) (e : QEntry) : Prop :=
  e.sfp = (s.strand s.here).sfp ∧ e.priv = (s.strand s.here).priv ∧ e.short = false ∧ slotOf e.word 3 = slotOf w 3 ∧
    slotOf e.word 2 = s.wantedSlot pa rs1 rs2 w 2 ∧ s.Resolved (s.wantedSlot pa rs1 rs2 w 0) (slotOf e.word 0) e.ua ∧
    s.Resolved (s.wantedSlot pa rs1 rs2 w 1) (slotOf e.word 1) e.ub

theorem State.built_buildCommand (s : State) (pa : Patch) (rs1 rs2 : Reg) (n : Nat) :
    s.Built pa rs1 rs2 (BitVec.ofNat 256 n) (s.buildCommand pa rs1 rs2 n) := by
  obtain ⟨a, b, c, d⟩ := slotOf_resolvedWord s.part s.cur (s.patchedWords pa rs1 rs2 n)
  have wanted {k : Nat} (hk : k < 4) := s.slotOf_patchedWords pa rs1 rs2 n hk
  have last : s.wantedSlot pa rs1 rs2 (BitVec.ofNat 256 n) 3 = slotOf (BitVec.ofNat 256 n) 3 := by
    have := pa.p1.isLt
    have := pa.p2.isLt
    rw [State.wantedSlot, if_neg (by omega), if_neg (by omega)]
  rw [State.buildCommand_eq]
  refine ⟨rfl, rfl, rfl, d.trans ((wanted (by decide)).trans last), c.trans (wanted (by decide)), ?_, ?_⟩
  · rw [State.Resolved, a, wanted (by decide)]
    exact resolveSlot_spec s.part s.cur _
  · rw [State.Resolved, b, wanted (by decide)]
    exact resolveSlot_spec s.part s.cur _

/-! ## CMD and CMDR -/

variable {pa : Patch} {rs1 rs2 : Reg} {n : Nat}

theorem State.withCommand_ok (clean : s.bad = []) (none : (s.strand s.here).qerr = 0) (words : s.fetchWords (s.pc + 32) 8 = .ok n)
    (f : State → QEntry → State) : s.withCommand pa rs1 rs2 f = f s (s.buildCommand pa rs1 rs2 n) := by
  rw [State.withCommand_eq clean, words]
  exact if_neg (not_not.2 none)

/-- The coordinates of a capability's quad (R220). -/
theorem capability_fields (c : Word) : (c.extractLsb' 40 8).toNat = c.toNat / 2 ^ 40 % 256 ∧
    (c.extractLsb' 32 8).toNat = c.toNat / 2 ^ 32 % 256 :=
  ⟨toNat_extractLsb' c 40 8, toNat_extractLsb' c 32 8⟩

theorem capQuad_eq (c : Word) : capQuad c = 512 * (c.toNat / 2 ^ 40 % 256) + c.toNat / 2 ^ 32 % 256 := by
  obtain ⟨y, x⟩ := capability_fields c
  rw [capQuad, y, x]

theorem capInside_eq (p : Partition) (c : Word) :
    p.capInside c = p.inside (2 * (c.toNat / 2 ^ 32 % 256)) (2 * (c.toNat / 2 ^ 40 % 256)) := by
  obtain ⟨y, x⟩ := capability_fields c
  rw [Partition.capInside, y, x]

theorem exec_cmd_room (running : (s.bank s.here).status = .running) (clean : s.bad = []) (none : (s.strand s.here).qerr = 0)
    (words : s.fetchWords (s.pc + 32) 8 = .ok n) (room : (s.core s.cur).queue.length < 64) :
    Done (exec (.cmd pa rs1 rs2) s) fun t => ∃ e, s.Built pa rs1 rs2 (BitVec.ofNat 256 n) e ∧
      t = { s with cores := t.cores, quads := t.quads, agenda := t.agenda } ∧
      s.Now t (s.bankAt (s.pc + 288)) { s.core s.cur with queue := (s.core s.cur).queue ++ [e] } ∧
      ∀ r, t.quad r = if r = quadOf s.cur ∧ (s.core s.cur).queuesVector = false then
        { s.quad r with deficit := (s.quad r).deficit.setIfInBounds (indexInQuad s.cur) 0 } else s.quad r := by
  have runs : exec (.cmd pa rs1 rs2) s = .next (((s.queued (s.buildCommand pa rs1 rs2 n)).resume).setPc (s.pc + 288)) := by
    refine (congrArg Host.Outcome.next (State.withCommand_ok clean none words _)).trans (congrArg Host.Outcome.next ?_)
    exact if_neg (Nat.not_le.2 room)
  exact ⟨_, runs, _, s.built_buildCommand pa rs1 rs2 n, s.cmd_room running _⟩

theorem exec_cmd_full (clean : s.bad = []) (none : (s.strand s.here).qerr = 0)
    (words : s.fetchWords (s.pc + 32) 8 = .ok n) (full : 64 ≤ (s.core s.cur).queue.length) :
    exec (.cmd pa rs1 rs2) s = .next (s.stall .other 0 0) :=
  (congrArg Host.Outcome.next (State.withCommand_ok clean none words _)).trans (congrArg Host.Outcome.next (if_pos full))

theorem exec_cmdr_inside (clean : s.bad = []) (none : (s.strand s.here).qerr = 0)
    (words : s.fetchWords (s.pc + 32) 8 = .ok n) {e : QEntry} (built : s.buildCommand pa rs1 rs2 n = e)
    (inside : s.part.capInside (slotOf e.word 2) = true) :
    exec (.cmdr pa rs1 rs2) s = .next (s.sent ⟨s.here, e.sfp, e.priv, e.word, e.ua, e.ub⟩ (capQuad (slotOf e.word 2))) := by
  refine (congrArg Host.Outcome.next (State.withCommand_ok clean none words _)).trans (congrArg Host.Outcome.next ?_)
  rw [built]
  exact if_pos inside

theorem exec_cmdr_outside (clean : s.bad = []) (none : (s.strand s.here).qerr = 0)
    (words : s.fetchWords (s.pc + 32) 8 = .ok n) {e : QEntry} (built : s.buildCommand pa rs1 rs2 n = e)
    (outside : ¬ s.part.capInside (slotOf e.word 2) = true) : exec (.cmdr pa rs1 rs2) s =
      .next ((s.setPc (s.pc + 288)).lateFault e.sfp (qerrWord 0x09 (engOf e.word) (opOf e.word) 0 0 false true)) := by
  refine (congrArg Host.Outcome.next (State.withCommand_ok clean none words _)).trans (congrArg Host.Outcome.next ?_)
  rw [built]
  exact if_neg outside

/-! ## The command instructions where QERR holds a fault, or an inline word cannot be fetched -/

theorem exec_command_engine (clean : s.bad = []) (handles : s.Handles) (fault : (s.strand s.here).qerr ≠ 0)
    (words : s.fetchWords (s.pc + 32) 8 = .ok n) {i : Instr} (command : i ∈ [Instr.cmd pa rs1 rs2, .cmdr pa rs1 rs2]) :
    Done (exec i s) (s.Trapped · 0x10 (s.strand s.here).qerr) := by
  have traps (f : State → QEntry → State) : s.withCommand pa rs1 rs2 f = s.trap .engine (s.strand s.here).qerr := by
    rw [State.withCommand_eq clean, words]
    exact if_pos fault
  refine ⟨s.trap .engine (s.strand s.here).qerr, ?_, s.trapped_trap handles .engine _⟩
  obtain rfl | rfl : i = .cmd pa rs1 rs2 ∨ i = .cmdr pa rs1 rs2 := by simpa using command
  · exact congrArg Host.Outcome.next (traps _)
  · exact congrArg Host.Outcome.next (traps _)

theorem exec_command_unfetched (clean : s.bad = []) (handles : s.Handles) {b : Word} {why : FetchFailure}
    (words : s.fetchWords (s.pc + 32) 8 = .error (b, why)) (present : why ≠ .absent) {i : Instr}
    (command : i ∈ [Instr.cmd pa rs1 rs2, .cmdr pa rs1 rs2]) : Done (exec i s) (s.Trapped · 0x01 b) := by
  have failed : s.fetchFailed b why = s.trap .fetch b := by
    cases why with
    | absent => exact absurd rfl present
    | badPc | denied => rfl
  have traps (f : State → QEntry → State) : s.withCommand pa rs1 rs2 f = s.trap .fetch b := by
    rw [State.withCommand_eq clean, words]
    exact failed
  refine ⟨s.trap .fetch b, ?_, s.trapped_trap handles .fetch b⟩
  obtain rfl | rfl : i = .cmd pa rs1 rs2 ∨ i = .cmdr pa rs1 rs2 := by simpa using command
  · exact congrArg Host.Outcome.next (traps _)
  · exact congrArg Host.Outcome.next (traps _)

end Sys2Proof.Machine
end

section
/-! O36 holds: QWAIT, remote commands at their targets, and the statement assembled. -/

namespace Sys2Proof.Machine

variable {s : State}

/-! ## QWAIT -/

theorem exec_qwait_engine (rs1 : Reg) (handles : s.Handles) (fault : (s.strand s.here).qerr ≠ 0) :
    Done (exec (.qwait rs1) s) (s.Trapped · 0x10 (s.strand s.here).qerr) :=
  ⟨_, congrArg Host.Outcome.next (if_pos fault), s.trapped_trap handles .engine _⟩

theorem toNat_lt_iff_toInt_nonneg (x : Word) : x.toNat < 2 ^ 63 ↔ 0 ≤ x.toInt := by
  rw [BitVec.toInt_eq_toNat_cond]
  have := x.isLt
  split <;> omega

theorem exec_qwait_reached {rs1 : Reg} (running : (s.bank s.here).status = .running) (none : (s.strand s.here).qerr = 0)
    (reached : 0 ≤ ((s.strand s.here).qprog - s.reg rs1).toInt) : Done (exec (.qwait rs1) s) (s.WentTo · (s.pc + 32)) :=
  ⟨_, congrArg Host.Outcome.next ((if_neg (not_not.2 none)).trans (if_pos ((toNat_lt_iff_toInt_nonneg _).2 reached))),
    State.qwait_reached running⟩

theorem exec_qwait_short {rs1 : Reg} (none : (s.strand s.here).qerr = 0)
    (behind : ((s.strand s.here).qprog - s.reg rs1).toInt < 0)
    (few : (s.core s.cur).pendingTags (s.strand s.here).sfp < (s.reg rs1 - (s.strand s.here).qprog).toNat) :
    exec (.qwait rs1) s = .next ((s.lateFault (s.strand s.here).sfp (qerrWord 0x0E 0 0 0 0 false false)).trap .engine
      (qerrWord 0x0E 0 0 0 0 false false)) :=
  congrArg Host.Outcome.next ((if_neg (not_not.2 none)).trans ((if_neg fun reached =>
    absurd ((toNat_lt_iff_toInt_nonneg _).1 reached) (Int.not_le.2 behind)).trans (if_pos few)))

theorem exec_qwait_waits {rs1 : Reg} (none : (s.strand s.here).qerr = 0)
    (behind : ((s.strand s.here).qprog - s.reg rs1).toInt < 0)
    (enough : (s.reg rs1 - (s.strand s.here).qprog).toNat ≤ (s.core s.cur).pendingTags (s.strand s.here).sfp) :
    exec (.qwait rs1) s = .next (s.stall .other 0 0) :=
  congrArg Host.Outcome.next ((if_neg (not_not.2 none)).trans ((if_neg fun reached =>
    absurd ((toNat_lt_iff_toInt_nonneg _).1 reached) (Int.not_le.2 behind)).trans (if_neg (Nat.not_lt.2 enough))))

/-! ## Remote commands -/

/-- A fault with a cause, REM set but for a peer's, in the strand's QERR, and nothing of it left in its core's queue. -/
def State.Faulted (s t : State) (p : Place) (sfp : Word) (cause : Nat) : Prop :=
  ∃ x : Word, x.toNat / 2 ^ 56 = cause % 256 ∧ x.toNat % 2 = (if cause = 0x0F then 0 else 1) ∧
    t = { s with cores := t.cores, agenda := t.agenda } ∧ t.bank p = { s.bank p with strand := { s.strand p with qerr := x } } ∧
    (∀ b, b ≠ p → t.bank b = s.bank b) ∧ t.core p.core = { (s.core p.core).discard sfp with banks := (t.core p.core).banks } ∧
    ∀ c, c ≠ p.core → t.core c = s.core c

variable {q k : Nat} {r : Remote} {p : Place}

theorem State.faulted_refuseRemote (resident : s.Resident r.sfp p) (none : (s.strand p).qerr = 0) {cause : Nat} (own : cause ≠ 0x0F) :
    s.Faulted (s.refuseRemote r cause) p r.sfp cause := by
  obtain ⟨code, rem⟩ := qerrWord_fields cause (engOf r.word) (opOf r.word) 0 0 false true
  rw [State.refuseRemote, State.lateFault_resident resident]
  exact ⟨_, code, rem.trans (if_neg own).symm, s.withFault_spec r.sfp _ none⟩

theorem exec_peerFaultReturn_faulted (resident : s.Resident r.sfp p) (none : (s.strand p).qerr = 0) :
    Done (exec (.peerFaultReturn p r.sfp) s) (s.Faulted · p r.sfp 0x0F) := by
  obtain ⟨code, rem⟩ := qerrWord_fields 0x0F 0 0 0 0 false false
  obtain ⟨⟨live, own⟩, -⟩ := id resident
  have here : ((s.bank p).live && (s.strand p).sfp == r.sfp) = true := by rw [live, own, beq_self_eq_true, Bool.and_true]
  exact ⟨_, congrArg Host.Outcome.next (if_pos here), _, code, rem, s.withFault_spec r.sfp _ none⟩

/-- A remote command arrives, for the first time or sent again. -/
theorem exec_remote {i : Instr} (arrives : (i = .remoteCommand q r ∧ k = 0) ∨ i = .remoteBusyRetry q r k) :
    ∃ first, exec i s = .next (s.arriveRemote q r k first) := by
  obtain ⟨rfl, rfl⟩ | rfl := arrives
  · exact ⟨true, rfl⟩
  · exact ⟨false, rfl⟩

/-- What a remote command of the target's own form meets there (R198, R220). -/
theorem State.arrivalCause_eq (right : r.word.extractLsb' 128 64 = s.part.capability (q / 512) (q % 512))
    (form : remoteForm r.word = true ∧ (remoteEntry r).decode.isSome = true) : s.arrivalCause q r =
      if engOf r.word = 3 then s.checkCause (remoteContext r q false) (remoteEntry r) else none := by
  obtain ⟨shape, decodes⟩ := form
  have fine : (!remoteForm r.word || (remoteEntry r).decode.isNone) = false := by
    rw [shape, ← Option.not_isSome, decodes]
    rfl
  unfold State.arrivalCause
  rw [if_neg (not_not.2 right)]
  exact if_neg (Bool.eq_false_iff.1 fine)

theorem State.arrivalCause_capability (wrong : ¬ r.word.extractLsb' 128 64 = s.part.capability (q / 512) (q % 512)) :
    s.arrivalCause q r = some 0x09 := if_pos wrong

theorem State.arrivalCause_form (right : r.word.extractLsb' 128 64 = s.part.capability (q / 512) (q % 512))
    (form : ¬ (remoteForm r.word = true ∧ (remoteEntry r).decode.isSome = true)) : s.arrivalCause q r = some 0x01 := by
  have bad : (!remoteForm r.word || (remoteEntry r).decode.isNone) = true := by
    rw [← Option.not_isSome, ← Bool.not_and, Bool.not_eq_true', Bool.eq_false_iff]
    exact fun both => form (Bool.and_eq_true_iff.1 both)
  unfold State.arrivalCause
  rw [if_neg (not_not.2 right)]
  exact if_pos bad

/-- Settles O36: each instruction's effect is stated once for the model's own states, and a fault reaches its strand's bank because
that strand is resident. -/
theorem pushingCommands : Obligations.PushingCommands := by
  unfold Obligations.PushingCommands
  refine ⟨fun s pa rs1 rs2 n running clean => ⟨fun none words => ⟨fun room => exec_cmd_room running clean none words room,
      fun full => ⟨_, exec_cmd_full clean none words full, s.stall_spec⟩, fun inside => ?_, fun outside resident => ?_⟩,
    fun none => ⟨fun reached => exec_qwait_reached running none reached, fun behind few handles resident => ?_,
      fun behind enough => ⟨_, exec_qwait_waits none behind enough, s.stall_spec⟩⟩,
    fun handles => ⟨fun fault => ⟨fun words i command => exec_command_engine clean handles fault words command,
      exec_qwait_engine rs1 handles fault⟩,
      fun b why words present i command => exec_command_unfetched clean handles words present command⟩⟩, ?_⟩
  · obtain ⟨e, made⟩ : ∃ e, s.buildCommand pa rs1 rs2 n = e := ⟨_, rfl⟩
    have built := s.built_buildCommand pa rs1 rs2 n
    rw [made] at built
    obtain ⟨-, -, -, -, cap, -⟩ := id built
    have runs := exec_cmdr_inside clean none words made (by rw [cap, capInside_eq]; exact inside)
    rw [cap, capQuad_eq] at runs
    exact ⟨_, runs, e, built, s.sent_spec _ _⟩
  · obtain ⟨e, made⟩ : ∃ e, s.buildCommand pa rs1 rs2 n = e := ⟨_, rfl⟩
    have built := s.built_buildCommand pa rs1 rs2 n
    rw [made] at built
    obtain ⟨own, -, -, -, cap, -⟩ := built
    have runs := exec_cmdr_outside clean none words made (by rw [cap, capInside_eq]; exact outside)
    rw [own] at runs
    obtain ⟨code, rem⟩ := qerrWord_fields 0x09 (engOf e.word) (opOf e.word) 0 0 false true
    exact ⟨_, runs, _, code, rem, State.refused_spec resident none _⟩
  · obtain ⟨code, -⟩ := qerrWord_fields 0x0E 0 0 0 0 false false
    exact ⟨_, exec_qwait_short none behind few, _, code, State.qwait_short handles resident none⟩
  · intro s q k r p cap right form check room faults resident none
    refine ⟨fun on first i arrives => ?_, exec_peerFaultReturn_faulted resident none⟩
    obtain ⟨again, runs⟩ := exec_remote (s := s) arrives
    have waits : s.senderWaits q r again = .none := State.senderWaits_none first
    refine ⟨fun same shape fine => ?_, fun wrong => ?_, fun same shape => ?_, fun c same shape found own => ?_⟩
    · have cause : s.arrivalCause q r = .none := (State.arrivalCause_eq same shape).trans fine
      refine ⟨fun free => ⟨_, runs, State.arriveRemote_taken waits cause on free⟩, fun full => ⟨_, runs, ?_⟩⟩
      rw [State.arriveRemote_busy waits cause full]
      exact ⟨rfl, mem_insertTimer _ _ _⟩
    · refine ⟨_, runs, ?_⟩
      rw [State.arriveRemote_refused waits (State.arrivalCause_capability wrong)]
      exact State.faulted_refuseRemote resident none (by decide)
    · refine ⟨_, runs, ?_⟩
      rw [State.arriveRemote_refused waits (State.arrivalCause_form same shape)]
      exact State.faulted_refuseRemote resident none (by decide)
    · refine ⟨_, runs, ?_⟩
      rw [State.arriveRemote_refused waits ((State.arrivalCause_eq same shape).trans found)]
      exact State.faulted_refuseRemote resident none own

end Sys2Proof.Machine
end

section
/-! O35 fails. A command carries beside slot A the mark that its address, relative, lay outside the partition (R52, R171); a command so
marked is a fault whatever the slot holds, and the statement leaves the mark open. -/

namespace Sys2Proof.Machine

/-- A vector command in progress at the head of core 0's queue, its strand resident in the first bank. -/
def markedBroadcast : State := { State.reset with
  part := { State.reset.part with width := 2, height := 2 }
  cores := [(0, { Core.reset with
    banks := Core.reset.banks.set 0 { Bank.reset with live := true, strand := { Strand.reset with sfp := 7 } } })]
  ctx := .plain 0 0 7 true }

/-- VBCAST of nat32 to eight elements without a mask. -/
def broadcastFields : VecF := ⟨1, 0, 0, 0, 0, false, 0, false, 24, 0, false, 24, 0⟩

/-- Slot A is the first bit of the first scratchpad, and marked. -/
def markedSlots : Slots := ⟨0, 0, 0, true, false⟩

/-- How many accesses and commands are numbered in the state that an outcome goes on to. -/
def nextSeq (o : Outcome) : Nat :=
  match o with
  | .next t => t.seq
  | _ => 0

/-- The command is refused and takes no number. -/
theorem nextSeq_markedBroadcast : nextSeq (exec (.vbcast false broadcastFields markedSlots) markedBroadcast) = 0 := by
  decide +kernel

/-- Only the first bank of core 0 holds a strand. -/
theorem markedBroadcast_resident : markedBroadcast.Resident 7 ⟨0, 0⟩ := by
  refine ⟨by decide +kernel, fun ⟨c, b⟩ live _ => ?_⟩
  by_cases here : c = 0
  · subst here
    have bank : ∀ b : Fin 4, (markedBroadcast.bank ⟨0, b⟩).live = true → b = 0 := by decide +kernel
    rw [bank b live]
  · have empty : markedBroadcast.core c = .reset := if_neg (Ne.symm here)
    have dead : ∀ b : Fin 4, (Core.reset.banks[b]).live = false := by decide +kernel
    rw [State.bank, empty, dead b] at live
    exact absurd live Bool.false_ne_true

theorem markedBroadcast_atHead (reads writes : List Nat) : markedBroadcast.AtHead ⟨0, 0⟩ reads writes := by
  have out : (markedBroadcast.quad markedBroadcast.ctx.quad).out = [] := rfl
  refine ⟨⟨rfl, rfl, rfl, rfl⟩, by decide, markedBroadcast_resident, rfl, ?_, fun i issued => absurd (out ▸ issued) List.not_mem_nil⟩
  rw [Quad.hazard, out]
  rfl

theorem markedBroadcast_names : markedBroadcast.Names 0 0 32 (elemAlign 32) (scratchBase 0) := ⟨0, 0, 0, by decide +kernel⟩

/-- Refutes O35: VBCAST from an address of the own quad's scratchpad under a marked slot A does not issue. -/
theorem not_vectorLoadsAndStores : ¬ Obligations.VectorLoadsAndStores := by
  unfold Obligations.VectorLoadsAndStores
  intro h
  obtain ⟨loads, -⟩ := h
  obtain ⟨-, -, -, broadcast⟩ := loads markedBroadcast ⟨0, 0⟩ false broadcastFields markedSlots 24 (scratchBase 0)
    (fun _ => scratchBase 0) (fun _ => 0) (by decide) (by decide) (fun masked => absurd masked Bool.false_ne_true)
    markedBroadcast_names (by decide +kernel)
  obtain ⟨t, step, v', ⟨⟨frame, -⟩, -⟩, -⟩ := broadcast (markedBroadcast_atHead _ _) (fun _ _ => markedBroadcast_names)
    (fun block => absurd block (by decide))
  have numbered : t.seq = 1 := by rw [frame]; rfl
  have refused := nextSeq_markedBroadcast
  rw [step] at refused
  exact absurd (numbered.symm.trans refused) (by decide)

end Sys2Proof.Machine
end

section
/-! O14 fails. The statement puts no bound below the width of an access, and an access of no bits can stand where the scratchpads end
and the tracks begin: it ends with the scratchpads, and its first bit is a track's. -/

namespace Sys2Proof.Machine

/-- A load of no bits at the first bit of the tracks. -/
def emptyLoad : Msg := ⟨⟨0, 0⟩, 0, 0, .load false, [⟨trackBase 0, 0⟩], 0, 0, 0, 0, 0, false⟩

/-- The request goes to the column's memory agent, and no reply is sent. -/
theorem exec_memRequest_emptyLoad :
    exec (.memRequest emptyLoad) .reset = .next { State.reset with agenda := [.event (.trackAccess emptyLoad)] } := rfl

/-- Refutes O14: a load of no bits at the first bit of the tracks, which ends where the scratchpads do, is not answered at once. -/
theorem not_messagesAndReplies : ¬ Obligations.MessagesAndReplies := by
  unfold Obligations.MessagesAndReplies
  intro h
  obtain ⟨loads, -⟩ := h .reset emptyLoad false true (trackBase 0) 0 0 0 0 ⟨0, 0⟩ 0 rfl
  obtain ⟨scratch, -⟩ := loads rfl ⟨fun q m waits => absurd waits List.not_mem_nil, fun e saved => absurd saved List.not_mem_nil⟩
    ⟨rfl, fun c => ⟨rfl, rfl, rfl⟩⟩ (.inl rfl) (by decide)
  have answered := scratch (by decide) (by decide)
  rw [exec_memRequest_emptyLoad] at answered
  injection answered with answered
  have agenda := congrArg State.agenda answered
  exact absurd agenda (by simp [State.reset])

end Sys2Proof.Machine
end

section
/-! O28 holds. TBIND, TFREE and THEAD change the executing strand's binding, and their core's table of who is bound (R79, R80, R182). -/

namespace Sys2Proof.Machine

variable {s : State}

/-! ## A stall that ends -/

theorem State.core_resume (running : (s.bank s.here).status = .running) (c : Nat) : s.resume.core c = s.core c := by
  by_cases here : c = s.cur
  · have same : { s.bank s.here with status := .running } = s.bank s.here := by rw [← running]
    subst here
    rw [State.resume, State.setStatus, s.core_modBank_here, same, State.bank, State.here, Fin.getElem_fin,
      Vector.set_getElem_self]
  · exact s.core_modBank_other _ here

/-- A running strand that resumes is as it was. -/
theorem State.bank_resume (running : (s.bank s.here).status = .running) (p : Place) : s.resume.bank p = s.bank p := by
  rw [State.bank, State.core_resume running, State.bank]

theorem State.Wrote.of_resume (running : (s.bank s.here).status = .running) {t : State} {rd : Reg} {v : Word}
    (h : s.resume.Wrote t rd v) : s.Wrote t rd v := by
  simp only [State.Wrote, State.OnlyBank, State.SameElsewhere, State.here_resume, State.core_resume running,
    State.bank_resume running, State.strand, State.reg, State.pc] at h ⊢
  exact h

/-! ## Heads -/

theorem Strand.headOf_eq (st : Strand) (t : BitVec 7) :
    st.headOf t = (st.binds.find? fun e => e.1 == t).map (·.2.toNat) := rfl

/-- A head is a position of a track. -/
theorem Strand.headOf_lt {st : Strand} {t : BitVec 7} {h : Nat} (bound : st.headOf t = some h) : h ≤ 1023 := by
  obtain ⟨e, -, rfl⟩ := Option.map_eq_some_iff.1 bound
  exact Nat.le_of_lt_succ e.2.isLt

/-- A track that is bound last has the head that it is bound at. -/
theorem Strand.headOf_bind {st : Strand} {t : BitVec 7} (free : st.headOf t = none) {h : Nat} (small : h ≤ 1023) (pc : Word) :
    Strand.headOf { st with binds := st.binds ++ [(t, BitVec.ofNat 10 h)], pc := pc } t = some h := by
  have none : st.binds.find? (fun e => e.1 == t) = none := Option.map_eq_none_iff.1 free
  rw [Strand.headOf_eq]
  simp only [List.find?_append, none, Option.none_or, List.find?_cons, beq_self_eq_true, Option.map_some, BitVec.toNat_ofNat]
  rw [Nat.mod_eq_of_lt (by omega)]

theorem Strand.headOf_free (st : Strand) (t : BitVec 7) (pc : Word) :
    Strand.headOf { st with binds := st.binds.filter (·.1 != t), pc := pc } t = none := by
  have none : (st.binds.filter (·.1 != t)).find? (fun e => e.1 == t) = none := by
    rw [List.find?_eq_none]
    intro e he
    simpa using (List.mem_filter.1 he).2
  rw [Strand.headOf_eq, none, Option.map_none]

theorem Tbl.find_erase_self {α : Type} (t : Tbl α) (k : Nat) : (t.erase k).find k = none := by
  induction t with
  | nil => rfl
  | cons e r ih =>
    by_cases here : e.1 = k
    · simpa [Tbl.erase, here] using ih
    · simpa [Tbl.erase, here, Tbl.find] using ih

/-! ## Bindings -/

/-- Another table of who is bound to the executing core's tracks, and the executing strand changed. -/
def State.rebind (s : State) (l : Tbl Word) (f : Strand → Strand) : State :=
  (s.modCore s.cur fun k => { k with bound := l }).modStrand s.here f

section
variable (s) (l : Tbl Word) (f : Strand → Strand)

theorem State.here_modBound : (s.modCore s.cur fun k => { k with bound := l }).here = s.here := by
  rw [State.here, State.here, State.modCore_cur, State.core_modCore_self]

theorem State.here_rebind : (s.rebind l f).here = s.here := by
  rw [State.rebind, State.here_modStrand, State.here_modBound]

theorem State.now_rebind :
    s.Now (s.rebind l f) { s.bank s.here with strand := f (s.strand s.here) } { s.core s.cur with bound := l } := by
  have first : s.Now (s.modCore s.cur fun k => { k with bound := l }) (s.bank s.here) { s.core s.cur with bound := l } :=
    ⟨s.bank_modCore_banks _ rfl _, fun p _ => s.bank_modCore_banks _ rfl p, by rw [State.core_modCore_self],
      fun j other => s.core_modCore_ne _ other⟩
  have next := first.then rfl (s.here_modBound l) ((s.modCore s.cur fun k => { k with bound := l }).now_modBank
    fun b => { b with strand := f b.strand })
  rw [s.here_modBound l, s.bank_modCore_banks _ rfl] at next
  exact next

/-- The executing strand, changed, goes on. -/
theorem State.now_rebind_setPc {u : State} {a : Word} (goesOn : (s.rebind l f).Now u ((s.rebind l f).bankAt a) ((s.rebind l f).core s.cur)) :
    s.Now u { s.bank s.here with strand := { f (s.strand s.here) with pc := a } } { s.core s.cur with bound := l } := by
  have now := s.now_rebind l f
  have next := now.then rfl (s.here_rebind l f) goesOn
  rw [State.bankAt, State.strand, s.here_rebind, now.1] at next
  exact next

variable (keeps : (f (s.strand s.here)).pc = s.pc)
include keeps

theorem State.pc_rebind : (s.rebind l f).pc = s.pc := by
  rw [State.pc, s.here_rebind, State.strand, (s.now_rebind l f).1, keeps]

theorem State.now_rebind_advance : s.Now (s.rebind l f).advance
    { s.bank s.here with strand := { f (s.strand s.here) with pc := s.pc + 32 } } { s.core s.cur with bound := l } := by
  rw [State.advance, s.pc_rebind l f keeps]
  exact s.now_rebind_setPc l f ((s.rebind l f).now_setPc _)

theorem State.now_rebind_resume (running : (s.bank s.here).status = .running) : s.Now (s.rebind l f).resume.advance
    { s.bank s.here with strand := { f (s.strand s.here) with pc := s.pc + 32 } } { s.core s.cur with bound := l } := by
  have same : ((s.rebind l f).bank (s.rebind l f).here).status = .running := by
    rw [s.here_rebind, (s.now_rebind l f).1, running]
  have pc : (s.rebind l f).resume.pc = s.pc := by
    rw [State.pc, State.here_resume, State.strand, State.bank_resume same]
    exact s.pc_rebind l f keeps
  rw [State.advance, pc]
  exact s.now_rebind_setPc l f ((s.rebind l f).now_resume_setPc _ same)

end

/-! ## The instructions -/

theorem exec_tbind (t : BitVec 7) (rs1 : Reg) (small : (s.reg rs1).toNat ≤ 1023) (free : (s.core s.cur).bound.find t.toNat = none)
    (room : (s.strand s.here).binds.length < 8) : exec (.tbind t rs1) s =
      .next (s.rebind ((s.core s.cur).bound.set t.toNat (s.strand s.here).sfp) fun x =>
        { x with binds := x.binds ++ [(t, BitVec.ofNat 10 (s.reg rs1).toNat)] }).advance := by
  have fine : ¬ (1023 < (s.reg rs1).toNat ∨ ((s.core s.cur).bound.find t.toNat).isSome ∨ 8 ≤ (s.strand s.here).binds.length) := by
    rw [free]
    rintro (far | bound | many)
    · omega
    · exact absurd bound Bool.false_ne_true
    · omega
  exact congrArg Host.Outcome.next (if_neg fine)

theorem exec_tbind_trap (t : BitVec 7) (rs1 : Reg) (bad : 1023 < (s.reg rs1).toNat ∨
      ((s.core s.cur).bound.find t.toNat).isSome = true ∨ 8 ≤ (s.strand s.here).binds.length) :
    exec (.tbind t rs1) s = .next (s.trap .track s.wordHere) := congrArg Host.Outcome.next (if_pos bad)

/-- What TFREE waits for: a command of the strand on the track that has not issued, or one that has not completed. -/
def State.usesTrack (s : State) (t : BitVec 7) : Prop :=
  (s.core s.cur).queuesTrack (s.strand s.here).sfp t = true ∨
    ∃ i ∈ (s.quad (quadOf s.cur)).out, i.sfp = (s.strand s.here).sfp ∧ i.eng = 1 ∧ i.track = t.toNat

theorem State.usesTrack_iff (s : State) (t : BitVec 7) : s.usesTrack t ↔ ((s.core s.cur).queuesTrack (s.strand s.here).sfp t ||
    (s.quad (quadOf s.cur)).out.any fun i => i.sfp == (s.strand s.here).sfp && i.eng == 1 && i.track == t.toNat) = true := by
  simp only [State.usesTrack, Bool.or_eq_true, List.any_eq_true, Bool.and_eq_true, beq_iff_eq, and_assoc]

section
variable {t : BitVec 7} (rd : Reg)

theorem exec_tfree_bound (own : ((s.strand s.here).headOf t).isSome = true) : exec (.tfree t) s =
    .next (if ((s.core s.cur).queuesTrack (s.strand s.here).sfp t ||
        (s.quad (quadOf s.cur)).out.any fun i => i.sfp == (s.strand s.here).sfp && i.eng == 1 && i.track == t.toNat) = true then
      s.stall .other 0 0
    else (s.rebind ((s.core s.cur).bound.erase t.toNat) fun x => { x with binds := x.binds.filter (·.1 != t) }).resume.advance) :=
  congrArg Host.Outcome.next (if_neg (by simpa [Option.isNone_iff_eq_none, Option.isSome_iff_ne_none] using own))

theorem exec_tfree_waits (own : ((s.strand s.here).headOf t).isSome = true) (used : s.usesTrack t) :
    exec (.tfree t) s = .next (s.stall .other 0 0) :=
  (exec_tfree_bound own).trans (congrArg Host.Outcome.next (if_pos ((s.usesTrack_iff t).1 used)))

theorem exec_tfree_done (own : ((s.strand s.here).headOf t).isSome = true) (unused : ¬ s.usesTrack t) : exec (.tfree t) s =
    .next (s.rebind ((s.core s.cur).bound.erase t.toNat) fun x => { x with binds := x.binds.filter (·.1 != t) }).resume.advance :=
  (exec_tfree_bound own).trans (congrArg Host.Outcome.next (if_neg fun used => unused ((s.usesTrack_iff t).2 used)))

theorem exec_tfree_trap (foreign : (s.strand s.here).headOf t = none) : exec (.tfree t) s = .next (s.trap .track s.wordHere) :=
  congrArg Host.Outcome.next (if_pos (by rw [foreign]; rfl))

theorem exec_thead_bound {n : Nat} (own : (s.strand s.here).headOf t = some n) : exec (.thead rd t) s =
    .next (if (s.core s.cur).queuesTrack (s.strand s.here).sfp t = true then s.stall .other 0 0
      else s.resume.complete rd (BitVec.ofNat 64 n)) := by
  change Host.Outcome.next (match (s.strand s.here).headOf t with | none => _ | some h => _) = _
  rw [own]

theorem exec_thead_trap (foreign : (s.strand s.here).headOf t = none) : exec (.thead rd t) s = .next (s.trap .track s.wordHere) := by
  change Host.Outcome.next (match (s.strand s.here).headOf t with | none => _ | some h => _) = _
  rw [foreign]

end

/-- Settles O28: each instruction's effect is stated once, and what it leaves of the table of bound tracks is a table's own law. -/
theorem trackBindings : Obligations.TrackBindings := by
  unfold Obligations.TrackBindings
  intro s t rd rs1 running
  refine ⟨fun small free room unbound => ?bind, fun own => ⟨fun idle complete => ?freed, fun used => ?freeWaits⟩,
    fun n own => ⟨fun issued => ?head, fun queued => ?headWaits⟩,
    fun handles => ⟨fun bad => ?bindTraps, fun foreign => ⟨?freeTraps, ?headTraps⟩⟩⟩
  case bind =>
    have now := s.now_rebind_advance ((s.core s.cur).bound.set t.toNat (s.strand s.here).sfp)
      (fun x => { x with binds := x.binds ++ [(t, BitVec.ofNat 10 (s.reg rs1).toNat)] }) rfl
    refine ⟨_, exec_tbind t rs1 small free room, ?_⟩
    generalize hu : (s.rebind _ _).advance = u at now
    obtain ⟨own, rest, core, away⟩ := now
    have frame : u = { s with cores := u.cores } := by rw [← hu]; rfl
    have table : (u.core s.cur).bound = (s.core s.cur).bound.set t.toNat (s.strand s.here).sfp := by rw [core]
    refine ⟨⟨frame, own, by rw [table]; exact core, away, rest⟩, ?_, ?_, fun j => ?_⟩
    · rw [State.strand, own]
      exact Strand.headOf_bind unbound small _
    · rw [Core.occupied, table, Tbl.find_set_self, Option.isSome_some, Bool.or_true]
    · rw [table]
      split
      · rw [‹j = t.toNat›, Tbl.find_set_self]
      · exact Tbl.find_set_ne _ _ ‹_›
  case freed =>
    have now := s.now_rebind_resume ((s.core s.cur).bound.erase t.toNat) (fun x => { x with binds := x.binds.filter (·.1 != t) })
      rfl running
    refine ⟨_, exec_tfree_done own (not_or.2 ⟨idle, complete⟩), ?_⟩
    generalize hu : (s.rebind _ _).resume.advance = u at now
    obtain ⟨own, rest, core, away⟩ := now
    have frame : u = { s with cores := u.cores } := by rw [← hu]; rfl
    have table : (u.core s.cur).bound = (s.core s.cur).bound.erase t.toNat := by rw [core]
    have written : (u.core s.cur).tocc = (s.core s.cur).tocc := by rw [core]
    refine ⟨⟨frame, own, by rw [table]; exact core, away, rest⟩, ?_, ?_, fun j => ?_⟩
    · rw [State.strand, own]
      exact Strand.headOf_free _ _ _
    · rw [Core.occupied, table, written, Tbl.find_erase_self, Option.isSome_none, Bool.or_false]
    · rw [table]
      split
      · rw [‹j = t.toNat›, Tbl.find_erase_self]
      · exact Tbl.find_erase_ne _ ‹_›
  case freeWaits =>
    obtain ⟨frame, own', -⟩ := s.stall_spec
    exact ⟨_, exec_tfree_waits own used, frame, own'⟩
  case head =>
    exact ⟨_, (exec_thead_bound rd own).trans (congrArg Host.Outcome.next (if_neg issued)),
      (s.resume.wrote_complete rd _).of_resume running⟩
  case headWaits =>
    obtain ⟨frame, own', -⟩ := s.stall_spec
    exact ⟨_, (exec_thead_bound rd own).trans (congrArg Host.Outcome.next (if_pos queued)), frame, own'⟩
  case bindTraps => exact ⟨_, exec_tbind_trap t rs1 bad, s.trapped_trap handles .track _⟩
  case freeTraps => exact ⟨_, exec_tfree_trap foreign, s.trapped_trap handles .track _⟩
  case headTraps => exact ⟨_, exec_thead_trap rd foreign, s.trapped_trap handles .track _⟩

end Sys2Proof.Machine
end

section
/-! Words of a track, where a shift left no error, no wire is broken and the track is not dead: a command reads and writes their bits
(R51, R78, R83, R88, R90, R207). -/

namespace Sys2Proof.Machine

/-! ## Places -/

theorem trackKey_eq (c t pos : Nat) : trackKey c t pos = trackBase 0 + c * 2 ^ 27 + t * 2 ^ 20 + 256 * pos := by
  unfold trackKey trackBase
  omega

section
variable {c t pos : Nat} (core : c < 2 ^ 20) (track : t < 128) (place : pos < 4096)
include core track place

theorem trackOf_trackKey : trackOf (trackKey c t pos) = some (c, t, pos) := by
  have inside : trackBase 0 ≤ trackKey c t pos ∧ trackKey c t pos < peerBase 0 := by
    rw [trackKey_eq]
    unfold trackBase peerBase
    omega
  rw [trackOf, if_pos inside, trackKey_eq]
  simp only [Option.some.injEq, Prod.mk.injEq]
  omega

theorem hostBase_le_trackKey : hostBase ≤ trackKey c t pos := by
  rw [trackKey_eq]
  unfold hostBase trackBase
  omega

/-- The words of a track lie in no scratchpad and in no peer. -/
theorem word_trackKey {g : Nat} (hg : g ∈ groupsOf (trackKey c t pos) 256) :
    scratchQuad (64 * g) = none ∧ ¬ peerMeshBase 0 ≤ 64 * g := by
  obtain ⟨i, hi, rfl⟩ := List.mem_map.1 hg
  have inRange := List.mem_range.1 hi
  rw [trackKey_eq] at inRange ⊢
  have apart : ¬ (scratchBase 0 ≤ 64 * ((trackBase 0 + c * 2 ^ 27 + t * 2 ^ 20 + 256 * pos) / 64 + i) ∧
      64 * ((trackBase 0 + c * 2 ^ 27 + t * 2 ^ 20 + 256 * pos) / 64 + i) < trackBase 0) := by
    unfold trackBase
    omega
  refine ⟨by rw [scratchQuad, if_neg apart], ?_⟩
  unfold trackBase at inRange ⊢
  unfold peerMeshBase
  omega

end

/-- Two words of a track are apart. -/
theorem trackKey_apart {c t x y : Nat} (h : x ≠ y) :
    trackKey c t x + 256 ≤ trackKey c t y ∨ trackKey c t y + 256 ≤ trackKey c t x := by
  unfold trackKey
  omega

/-! ## Sound tracks -/

/-- A track is not dead, no shift of it went wrong, and no wire of its column's spine is broken. -/
def Core.Sound (k : Core) (t : Nat) : Prop := k.dead.contains t = false ∧ k.slips.find t = none ∧ k.spineBroken = []

theorem Core.Sound.of_tocc {k : Core} {t : Nat} (sound : k.Sound t) (x : BitVec 128) : Core.Sound { k with tocc := x } t := by
  obtain ⟨alive, slips, spine⟩ := sound
  exact ⟨alive, slips, spine⟩

variable {s : State} {c t : Nat}

theorem State.checkMarks_sound (sound : (s.core c).Sound t) (who : Who) (p : Nat) : s.checkMarks who c t p = s := by
  obtain ⟨-, slips, -⟩ := sound
  rw [State.checkMarks, slips]

theorem Core.finishShift_still {k : Core} (still : k.shifting.find t = none) : k.finishShift t = k := by
  rw [Core.finishShift, still]

theorem State.align_sound (sound : (s.core c).Sound t) (still : (s.core c).shifting.find t = none) (h : Nat) :
    s.align c t h = s.modCore c (·.shiftTo t h) := by
  have shifted : (s.modCore c fun k => (k.finishShift t).shiftTo t h) = s.modCore c (·.shiftTo t h) := by
    simp only [State.modCore, Core.finishShift_still still]
  have same : ((s.modCore c (·.shiftTo t h)).core c).Sound t := by
    rw [State.core_modCore_self]
    exact sound
  simp only [State.align, shifted, State.checkMarks_sound same, ite_self]

section
variable {key pos : Nat} (here : trackOf key = some (c, t, pos)) (sound : (s.core c).Sound t)
include here sound

theorem State.onDeadTrack_sound : s.onDeadTrack key = false := by
  obtain ⟨alive, -⟩ := sound
  rw [State.onDeadTrack, here]
  exact alive

theorem State.meetSpine_sound (who : Who) : s.meetSpine who [⟨key, 256⟩] = s := by
  obtain ⟨-, -, spine⟩ := sound
  have none_lost : s.spineLost [⟨key, 256⟩] = [] := by
    simp only [State.spineLost, List.flatMap_cons, List.flatMap_nil, here, spine, List.isEmpty_nil, if_true, List.append_nil,
      List.eraseDups_nil]
  rw [State.meetSpine, none_lost, List.foldl_nil]

theorem State.readHome_sound (clean : s.bad = []) (who : Who) : s.readHome who ⟨key, 256⟩ = (s.bitsAt key 256, s) := by
  have sector : s.readSector who [⟨key, 256⟩] = ([s.bitsAt key 256], s) := by
    unfold State.readSector
    rw [State.meetParts_clean who clean, State.meetSpine_sound here sound]
    exact if_neg (by rw [State.onDeadTrack_sound here sound]; exact Bool.false_ne_true)
  rw [State.readHome, sector, List.headD_cons]

theorem State.writeHome_sound (clean : s.bad = []) (who : Who) (v : Nat)
    (woken : (s.setBitsAt key 256 v).wakeWritten [(⟨key, 256⟩, v)] = s.setBitsAt key 256 v) :
    s.writeHome who [(⟨key, 256⟩, v)] = s.setBitsAt key 256 v := by
  have put : s.putBits who [(⟨key, 256⟩, v)] = s.setBitsAt key 256 v := by
    simp only [State.putBits, List.foldl_cons, List.foldl_nil, State.meetBad_clean who clean]
  have same : ((s.setBitsAt key 256 v).core c).Sound t := by
    rw [State.setBitsAt_frame]
    exact sound
  unfold State.writeHome
  rw [put, List.map_cons, List.map_nil, State.meetSpine_sound here same, woken]
  exact if_neg (by rw [State.onDeadTrack_sound here sound]; exact Bool.false_ne_true)

end

/-- Nothing waits on the words of a track. -/
theorem State.wakeWords_track (s : State) {words : List Nat}
    (inTrack : ∀ g ∈ words, scratchQuad (64 * g) = none ∧ ¬ peerMeshBase 0 ≤ 64 * g) : s.wakeWords words = s := by
  induction words with
  | nil => rfl
  | cons g l ih =>
    obtain ⟨scratch, peer⟩ := inTrack g List.mem_cons_self
    have next := ih fun x hx => inTrack x (List.mem_cons_of_mem _ hx)
    simpa only [State.wakeWords, List.foldl_cons, scratch, if_neg peer] using next

section
variable {pos : Nat} (core : c < 2 ^ 20) (track : t < 128) (place : pos < 4096) (sound : (s.core c).Sound t) (clean : s.bad = [])
include core track place sound clean

/-- A command reads the bits of a track word. -/
theorem State.readTrack_sound : s.readTrack c t pos = (BitVec.ofNat 256 (s.bitsAt (trackKey c t pos) 256), s) := by
  have read := State.readHome_sound (trackOf_trackKey core track place) sound clean s.who
  unfold State.readTrack
  rw [read]

/-- A command writes the bits of a track word, and the track has been written. -/
theorem State.writeTrack_sound (v : Nat) : s.writeTrack c t pos v =
    (s.setBitsAt (trackKey c t pos) 256 v).modCore c fun k => { k with tocc := k.tocc ||| (1#128 <<< t) } := by
  have words : ∀ g ∈ ([(⟨trackKey c t pos, 256⟩, v)].flatMap fun (e : Part × Nat) => groupsOf e.1.key e.1.width).eraseDups,
      scratchQuad (64 * g) = none ∧ ¬ peerMeshBase 0 ≤ 64 * g := fun g hg => by
    refine word_trackKey core track place ?_
    simpa only [List.flatMap_cons, List.flatMap_nil, List.append_nil] using List.mem_eraseDups.1 hg
  have written := State.writeHome_sound (trackOf_trackKey core track place) sound clean s.who v (State.wakeWords_track _ words)
  unfold State.writeTrack
  rw [written]

end

end Sys2Proof.Machine
end

section
/-! What an engine has done of a command before it issues, and the words that it has written. -/

namespace Sys2Proof.Machine

/-! ## Strands and cores -/

theorem State.OnlyBank.core_eq {s t : State} {p : Place} (h : s.OnlyBank t p) (n : Nat) :
    t.core n = { s.core n with banks := (t.core n).banks } := by
  obtain ⟨-, others, own, -⟩ := h
  by_cases here : n = p.core
  · rw [here]
    exact own
  · rw [others n here]

/-- What has been done of the command in progress: its strand, at `p`, is `a`, its core `k` but for the banks, and no other bank or
register of a core differs, and nothing else but memory, timers and the agenda. -/
structure State.Did (s t : State) (p : Place) (a : Strand) (k : Core) : Prop where
  frame : t = { s with timers := t.timers, mem := t.mem, seals := t.seals, cores := t.cores, agenda := t.agenda }
  own : t.bank p = { s.bank p with strand := a }
  rest : ∀ b, b ≠ p → t.bank b = s.bank b
  core : t.core s.ctx.core = { k with banks := (t.core s.ctx.core).banks }
  away : ∀ n, n ≠ s.ctx.core → t.core n = { s.core n with banks := (t.core n).banks }

theorem State.Did.refl (s : State) (p : Place) : s.Did s p (s.strand p) (s.core s.ctx.core) :=
  ⟨rfl, rfl, fun _ _ => rfl, rfl, fun _ _ => rfl⟩

section
variable {s t : State} {p : Place} {a : Strand} {k : Core} (h : s.Did t p a k)
include h

theorem State.Did.ctx : t.ctx = s.ctx := by rw [h.frame]
theorem State.Did.seq : t.seq = s.seq := by rw [h.frame]
theorem State.Did.now : t.now = s.now := by rw [h.frame]
theorem State.Did.bad : t.bad = s.bad := by rw [h.frame]
theorem State.Did.quad (q : Nat) : t.quad q = s.quad q := by rw [h.frame]; rfl
theorem State.Did.epochs : t.epoch = s.epoch ∧ t.sharedEpoch = s.sharedEpoch := by rw [h.frame]; exact ⟨rfl, rfl⟩

theorem State.Did.resident (resident : s.Resident s.ctx.sfp p) (same : a.sfp = s.ctx.sfp) : t.Resident t.ctx.sfp p := by
  rw [h.ctx]
  refine resident.of_banks fun q => ?_
  by_cases here : q = p
  · rw [here, State.strand, h.own]
    exact ⟨rfl, same.trans resident.1.2.symm⟩
  · rw [State.strand, h.rest q here]
    exact ⟨rfl, rfl⟩

theorem State.Did.strand : t.strand p = a := by rw [State.strand, h.own]

theorem State.Did.modSender (resident : s.Resident s.ctx.sfp p) (same : a.sfp = s.ctx.sfp) (f : Strand → Strand) :
    s.Did (t.modSender f) p (f a) k := by
  rw [State.modSender_eq t (h.resident resident same)]
  have only := t.onlyBank_modStrand p f
  have cores := only.core_eq
  refine ⟨?_, ?_, fun b other => ?_, ?_, fun n other => ?_⟩
  · rw [only.1, h.frame]
  · rw [State.modStrand, State.bank_modBank_self, h.own]
  · rw [State.modStrand, State.bank_modBank, if_neg other, h.rest b other]
  · rw [cores, h.core]
  · rw [cores, h.away n other]

theorem State.Did.modCore {f : Core → Core} (keeps : ∀ k b, f { k with banks := b } = { f k with banks := b }) :
    s.Did (t.modCore s.ctx.core f) p a (f k) := by
  have core : f (t.core s.ctx.core) = { f k with banks := (t.core s.ctx.core).banks } := by rw [h.core, keeps]
  have banks (b : Place) := t.bank_modCore_banks s.ctx.core (f := f) (by rw [core]) b
  refine ⟨?_, ?_, fun b other => ?_, ?_, fun n other => ?_⟩
  · rw [h.frame]
    rfl
  · rw [banks, h.own]
  · rw [banks, h.rest b other]
  · rw [State.core_modCore_self, core]
  · rw [State.core_modCore_ne _ _ other, h.away n other]

/-- A step that changes memory, timers and the agenda alone. -/
theorem State.Did.then {u : State}
    (frame : u = { t with timers := u.timers, mem := u.mem, seals := u.seals, agenda := u.agenda }) : s.Did u p a k := by
  have core (n : Nat) : u.core n = t.core n := by rw [frame]; rfl
  have bank (b : Place) : u.bank b = t.bank b := by rw [State.bank, core, State.bank]
  refine ⟨?_, ?_, fun b other => ?_, ?_, fun n other => ?_⟩
  · rw [frame, h.frame]
  · rw [bank, h.own]
  · rw [bank, h.rest b other]
  · rw [core, h.core]
  · rw [core, h.away n other]

theorem State.Did.sound {tr : Nat} (sound : k.Sound tr) : (t.core s.ctx.core).Sound tr := by
  rw [h.core]
  exact sound

theorem State.Did.align {tr : Nat} (sound : k.Sound tr) (still : k.shifting.find tr = none) (x : Nat) :
    s.Did (t.align s.ctx.core tr x) p a (k.shiftTo tr x) := by
  rw [State.align_sound (h.sound sound) (by rw [h.core]; exact still)]
  exact h.modCore fun _ _ => rfl

end

section
variable {s t : State} {p : Place} {a : Strand} {k : Core}

theorem State.timers_writeWord (t : State) (key v c : Nat) (f : Core → Core) :
    ((t.setBitsAt key 256 v).modCore c f).timers = t.timers := by
  rw [State.setBitsAt_frame]
  rfl

/-- A word is written, and marks are set in TOCC. -/
theorem State.Did.writeWord {x : BitVec 128} (h : s.Did t p a { k with tocc := x }) (key v : Nat) (w : BitVec 128) :
    s.Did ((t.setBitsAt key 256 v).modCore s.ctx.core fun k => { k with tocc := k.tocc ||| w }) p a { k with tocc := x ||| w } :=
  (h.then (t.setBitsAt_frame key 256 v ▸ rfl)).modCore (f := fun k => { k with tocc := k.tocc ||| w }) fun _ _ => rfl

end

/-! ## Words written -/

/-- Words have been written, of 256 bits each: those that are done hold their values, and no other bit of memory differs. -/
structure State.Placed {ι : Type} (s t : State) (done : ι → Prop) (dst val : ι → Nat) : Prop where
  wf : t.MemoryWf
  held : ∀ e, done e → t.bitsAt (dst e) 256 = val e
  kept : ∀ b, (∀ e, done e → b < dst e ∨ dst e + 256 ≤ b) → t.bit b = s.bit b

section
variable {ι : Type} {s t u : State} {done done' : ι → Prop} {dst val : ι → Nat}

theorem State.Placed.nothing (wf : s.MemoryWf) (none : ∀ e, ¬ done e) : s.Placed s done dst val :=
  ⟨wf, fun e here => absurd here (none e), fun _ _ => rfl⟩

/-- Bits of no word that is done read as they did. -/
theorem State.Placed.reads (h : s.Placed t done dst val) {key : Nat}
    (apart : ∀ e, done e → key + 256 ≤ dst e ∨ dst e + 256 ≤ key) :
    t.bitsAt key 256 = s.bitsAt key 256 := by
  refine bitsAt_congr fun b low high => h.kept b fun e here => ?_
  have := apart e here
  omega

/-- One more word is written, apart from those that are done. -/
theorem State.Placed.put (h : s.Placed t done dst val) {e : ι} {v : Nat} (more : ∀ x, done' x ↔ done x ∨ x = e)
    (apart : ∀ x, done x → dst x + 256 ≤ dst e ∨ dst e + 256 ≤ dst x) (value : v % 2 ^ 256 = val e) (wf : u.MemoryWf)
    (bits : ∀ b, u.bit b = if dst e ≤ b ∧ b < dst e + 256 then v.testBit (b - dst e) else t.bit b) :
    s.Placed u done' dst val := by
  refine ⟨wf, fun x here => ?_, fun b out => ?_⟩
  · obtain old | rfl := (more x).1 here
    · rw [← h.held x old]
      refine bitsAt_congr fun b low high => (bits b).trans (if_neg ?_)
      have := apart x old
      omega
    · rw [← value]
      refine Nat.eq_of_testBit_eq fun i => ?_
      rw [State.testBit_bitsAt, Nat.testBit_mod_two_pow]
      by_cases low : i < 256
      · rw [bits, if_pos (by omega), Nat.add_sub_cancel_left]
      · rw [decide_eq_false low, Bool.false_and, Bool.false_and]
  · have new := out e ((more e).2 (.inr rfl))
    rw [bits, if_neg (by omega)]
    exact h.kept b fun x old => out x ((more x).2 (.inl old))

theorem State.Placed.of_mem (h : s.Placed t done dst val) (mem : u.mem = t.mem) (seals : u.seals = t.seals) (epoch : u.epoch = t.epoch)
    (shared : u.sharedEpoch = t.sharedEpoch) : s.Placed u done dst val := by
  have bits := State.bit_of_mem mem seals epoch shared
  refine ⟨?_, fun e here => ?_, fun b out => (bits b).trans (h.kept b out)⟩
  · rw [State.MemoryWf, mem]
    exact h.wf
  · rw [← h.held e here]
    exact bitsAt_congr fun b _ _ => bits b

/-- A word written by a command on a track, whose core's record changes with it. -/
theorem State.Placed.writeWord (h : s.Placed t done dst val) {key : Nat} (place : hostBase ≤ key) {v : Nat} (small : v < 2 ^ 256) {e : ι}
    (at_e : dst e = key) (value : val e = v) (more : ∀ x, done' x ↔ done x ∨ x = e)
    (apart : ∀ x, done x → dst x + 256 ≤ key ∨ key + 256 ≤ dst x) (c : Nat) (f : Core → Core) :
    s.Placed ((t.setBitsAt key 256 v).modCore c f) done' dst val := by
  subst at_e
  refine h.put more apart ((Nat.mod_eq_of_lt small).trans value.symm) (memoryWf_setBitsAt h.wf (dst e) 256 v) fun b => ?_
  rw [← State.bit_setBitsAt h.wf place]
  exact State.bit_of_mem (s := t.setBitsAt (dst e) 256 v) (t := (t.setBitsAt (dst e) 256 v).modCore c f) rfl rfl rfl rfl b

end

/-! ## Words written to a scratchpad -/

theorem State.wakeWords_frame {s : State} {q : Nat} {words : List Nat} (own : ∀ w ∈ words, scratchQuad (64 * w) = some q)
    (quiet : (s.quad q).deferred = []) : s.wakeWords words = { s with agenda := (s.wakeWords words).agenda } := by
  induction words generalizing s with
  | nil => rfl
  | cons w words ih =>
    have same : s.wake q w = s := by simp [State.wake, quiet]
    have next : s.wakeWords (w :: words) = (s.watchQueues q w).wakeWords words := by
      rw [State.wakeWords, List.foldl_cons, own w List.mem_cons_self]
      simp only [same]
      rfl
    have frame := s.watchQueues_frame q w
    have still : ((s.watchQueues q w).quad q).deferred = [] := by rw [frame]; exact quiet
    have rest := ih (fun v hv => own v (List.mem_cons_of_mem _ hv)) still
    rw [next, rest, frame]

/-- A store where nothing waits changes memory and the agenda alone. -/
theorem State.homeStore_frame {s : State} {q : Nat} (who : Who) (clean : s.bad = []) (quiet : (s.quad q).deferred = []) {key w : Nat}
    (inside : InCabinets q key w) (v : Nat) :
    let u := s.homeStore who key w v
    u = { s with mem := u.mem, seals := u.seals, agenda := u.agenda } := by
  have sectors (l : List Part) (within : ∀ p ∈ l, InCabinets q p.key p.width) :
      let u := (spread v l).foldl (fun s e => s.storeSector who [e]) s
      u = { s with mem := u.mem, seals := u.seals, agenda := u.agenda } := by
    induction l generalizing s v with
    | nil => rfl
    | cons p l ih =>
      obtain ⟨x, hx⟩ : ∃ x, x = s.storeSector who [(p, v % 2 ^ p.width)] := ⟨_, rfl⟩
      have here := within p List.mem_cons_self
      have first : x = { s with mem := x.mem, seals := x.seals, agenda := x.agenda } := by
        have frame := s.setBitsAt_frame p.key p.width (v % 2 ^ p.width)
        rw [State.storeSector_scratch who clean here] at hx
        generalize s.setBitsAt p.key p.width (v % 2 ^ p.width) = y at frame hx
        have own : ∀ g ∈ ([(p, v % 2 ^ p.width)].flatMap fun e => groupsOf e.1.key e.1.width).eraseDups,
            scratchQuad (64 * g) = some q := by
          intro g hg
          exact here.word (by simpa using List.mem_eraseDups.1 hg)
        have woken : x = { y with agenda := x.agenda } := by
          rw [hx]
          exact State.wakeWords_frame own (by rw [frame]; exact quiet)
        rw [woken, frame]
      have rest := ih (s := x) (v := v / 2 ^ p.width) (by rw [first]; exact clean) (by rw [first]; exact quiet)
        fun r hr => within r (List.mem_cons_of_mem _ hr)
      simp only [spread, List.foldl_cons, ← hx]
      rw [rest, first]
  exact sectors _ inside.pieces

end Sys2Proof.Machine
end

section
/-! A command of a track port at the head of its queue: how it issues, and how it faults (R195, R198, R202, R205). -/

namespace Sys2Proof.Machine

theorem Done.imp {o : Outcome} {P Q : State → Prop} (h : Done o P) (more : ∀ t, P t → Q t) : Done o Q := by
  obtain ⟨t, step, holds⟩ := h
  exact ⟨t, step, more t holds⟩

variable {s t : State} {p : Place} {a : Strand} {k : Core} {reads writes : List Nat} {run : State → Ran}

/-! ## The head of a queue -/

/-- A command that reads and writes no more than another meets no more hazards. -/
theorem Quad.hazard_subset {q : Quad} {sfp : Word} {reads' writes' : List Nat} (free : q.hazard sfp reads writes = false)
    (fewer : reads' ⊆ reads) (fewer' : writes' ⊆ writes) : q.hazard sfp reads' writes' = false := by
  rw [Bool.eq_false_iff] at free ⊢
  refine fun busy => free ?_
  simp only [Quad.hazard, List.any_eq_true, Bool.and_eq_true, Bool.or_eq_true, List.contains_iff_mem] at busy ⊢
  obtain ⟨i, issued, own, ⟨u, written, used⟩ | ⟨u, read, used⟩⟩ := busy
  · exact ⟨i, issued, own, .inl ⟨u, written, used.imp (fun m => fewer m) fun m => fewer' m⟩⟩
  · exact ⟨i, issued, own, .inr ⟨u, read, fewer' used⟩⟩

theorem State.AtHead.subset (head : s.AtHead p reads writes) {reads' writes' : List Nat} (fewer : reads' ⊆ reads)
    (fewer' : writes' ⊆ writes) : s.AtHead p reads' writes' := by
  obtain ⟨own, quad, resident, clean, free, goesOn⟩ := head
  exact ⟨own, quad, resident, clean, Quad.hazard_subset free fewer fewer', goesOn⟩

theorem State.AtHead.resident (head : s.AtHead p reads writes) : s.Resident s.ctx.sfp p := by
  obtain ⟨-, -, resident, -⟩ := head
  exact resident

theorem State.AtHead.clean (head : s.AtHead p reads writes) : s.bad = [] := by
  obtain ⟨-, -, -, clean, -⟩ := head
  exact clean

theorem State.Took.epochs {i : Issued} {tg : Bool} {q : Quad} (took : s.Took t p i tg a k q) :
    t.epoch = s.epoch ∧ t.sharedEpoch = s.sharedEpoch := by
  obtain ⟨⟨frame, -⟩, -⟩ := took
  rw [frame]
  exact ⟨rfl, rfl⟩

theorem State.Took.trackPos {i : Issued} {tg : Bool} {q : Quad} (took : s.Took t p i tg a k q) :
    (t.core s.ctx.core).trackPos = k.trackPos := by
  obtain ⟨⟨-, -, -, core, -⟩, -⟩ := took
  rw [core]

section
variable (head : s.AtHead p reads writes) {op track : Nat} {tg : Bool}
include head

theorem State.AtHead.not_waiting (eng : Nat) : (s.quad s.ctx.quad).waitsBehind s.ctx.sfp eng s.ctx.remote = false := by
  obtain ⟨-, -, -, -, -, goesOn⟩ := head
  rw [Quad.waitsBehind, List.any_eq_false]
  intro i issued waits
  simp only [Bool.and_eq_true, beq_iff_eq] at waits
  obtain ⟨⟨own, paused⟩, -⟩ := waits
  rw [goesOn i issued own] at paused
  exact Bool.false_ne_true paused

/-- A command at the head whose engine performs it issues. -/
theorem State.runCommand_performed {fx : Fx} (ran : run s = .done t fx) : s.runCommand 1 op 0 track tg reads writes run =
    t.issued 1 0 track tg reads writes fx none none fun id => some (.commandCompletion s.ctx.home id) := by
  have ready := head.not_waiting 1
  obtain ⟨⟨-, -, new, -⟩, -, -, -, free, -⟩ := head
  have other : ((1 : Nat) == 3) = false := rfl
  unfold State.runCommand
  simp only [new, free, ready, other, Bool.false_and, Bool.or_self, Bool.false_eq_true, if_false, ran]

/-- A command at the head whose checks fail is a fault. -/
theorem State.runCommand_faulted {cause : Nat} (ran : run s = .fault cause s) :
    s.runCommand 1 op 0 track tg reads writes run = s.engineFault cause 1 op := by
  have ready := head.not_waiting 1
  obtain ⟨⟨-, -, new, -⟩, -, -, -, free, -⟩ := head
  have other : ((1 : Nat) == 3) = false := rfl
  unfold State.runCommand
  simp only [new, free, ready, other, Bool.false_and, Bool.or_self, Bool.false_eq_true, if_false, ran]

/-- What a command leaves of which its engine has done its part. -/
theorem State.done_command {fx : Fx} (ran : run s = .done t fx) (did : s.Did t p a k) (queue : k.queue = (s.core s.ctx.core).queue)
    (tags : k.tags = (s.core s.ctx.core).tags) : Done (.next (s.runCommand 1 op 0 track tg reads writes run)) fun u =>
      { s with timers := u.timers, mem := u.mem, seals := u.seals }.Took u p (s.entry 1 0 track reads writes fx) tg a k
        (s.quad s.ctx.quad) ∧
      u.timers = t.timers ∧ u.mem = t.mem ∧ u.seals = t.seals := by
  refine ⟨_, rfl, ?_⟩
  rw [State.runCommand_performed head ran]
  obtain ⟨⟨own, single, -⟩, -⟩ := head
  have issued := t.issued_head 1 0 track tg reads writes fx (by rw [did.ctx]; exact own) (by rw [did.ctx]; exact single)
  rw [did.ctx] at issued
  generalize t.issued 1 0 track tg reads writes fx none none (fun id => some (.commandCompletion s.ctx.home id)) = u at issued ⊢
  obtain ⟨frame, banks, core, away, quad, quads, posted⟩ := issued
  have timers : u.timers = t.timers := by rw [frame]
  have mem : u.mem = t.mem := by rw [frame]
  have seals : u.seals = t.seals := by rw [frame]
  refine ⟨⟨⟨?_, ?_, fun b other => ?_, ?_, fun n other => ?_, ?_, fun r other => ?_⟩, ?_⟩, timers, mem, seals⟩
  · rw [timers, mem, seals, frame, did.frame]
  · rw [banks, did.own]
    rfl
  · rw [banks, did.rest b other]
    rfl
  · have same : (u.core s.ctx.core).banks = (t.core s.ctx.core).banks := by rw [core]
    refine core.trans ?_
    rw [same, did.core, queue, tags, did.seq]
    rfl
  · rw [away n other]
    exact did.away n other
  · refine quad.trans ?_
    rw [did.quad, State.entry, did.ctx, did.seq]
    rfl
  · rw [quads r other, did.quad]
    rfl
  · rw [did.seq] at posted
    exact posted

end

/-! ## Faults -/

/-- A command of a resident strand that faults: QERR holds the cause, and what the strand has in the queue is gone. -/
theorem State.engineFault_spec (head : s.AtHead p reads writes) (none : (s.strand p).qerr = 0) {cause : Nat} (small : cause < 256)
    (eng op : Nat) :
    let u := s.engineFault cause eng op
    ∃ x : Word, x.toNat / 2 ^ 56 = cause ∧ u.strand p = { s.strand p with qerr := x } ∧
      (u.core s.ctx.core).queue = (s.core s.ctx.core).queue.filter (fun e => e.sfp != s.ctx.sfp) ∧ u.mem = s.mem := by
  have resident := head.resident
  obtain ⟨⟨own, -⟩, -⟩ := head
  obtain ⟨x, hx⟩ : ∃ x, x = qerrWord cause eng op s.ctx.iter s.ctx.cidx s.ctx.inRep s.ctx.remote := ⟨_, rfl⟩
  have recorded : s.engineFault cause eng op =
      ((s.modStrand p (·.fault x)).modCore s.ctx.core (·.discard s.ctx.sfp)).pushOffer s.ctx.core := by
    simp only [State.engineFault, own, Bool.false_eq_true, if_false, State.recordFault, s.residentOf_eq resident]
    rw [hx, own]
  refine ⟨x, ?_, ?_, ?_, ?_⟩
  · rw [hx, (qerrWord_fields ..).1, Nat.mod_eq_of_lt small]
  · rw [recorded, State.strand, State.bank_pushOffer, State.bank_modCore_banks _ _ rfl, State.modStrand, State.bank_modBank_self]
    exact Strand.fault_first _ x none
  · rw [recorded, State.core_pushOffer, State.core_modCore_self, Core.discard, (s.onlyBank_modStrand p _).core_eq]
  · rw [recorded, State.pushOffer_eq]
    rfl

/-! ## Heads of tracks -/

variable {tr : BitVec 7} {h : Nat}

theorem State.trackHead_unbound (resident : s.Resident s.ctx.sfp p) (free : (s.strand p).headOf tr = none) (last final : Int → Int) :
    s.trackHead tr last final = .error 0x07 := by
  rw [State.trackHead, s.sender_eq resident, free]

/-- The head of a binding is set where the head that a command starts from, the last and the final one are positions. -/
theorem State.trackHead_bound (resident : s.Resident s.ctx.sfp p) (bound : (s.strand p).headOf tr = some h) {last final : Int → Int}
    (reaches : 0 ≤ last h ∧ last h ≤ 1023) (ends : 0 ≤ final h ∧ final h ≤ 1023) :
    s.trackHead tr last final = .ok (h, s.modSender (·.setHead tr (final h).toNat)) := by
  rw [State.trackHead, s.sender_eq resident, bound]
  exact if_pos (by simp [reaches, ends])

theorem State.did_setHead (resident : s.Resident s.ctx.sfp p) (x : Nat) :
    s.Did (s.modSender (·.setHead tr x)) p ((s.strand p).setHead tr x) (s.core s.ctx.core) :=
  (State.Did.refl s p).modSender resident resident.1.2 _

theorem State.modSender_memory (resident : s.Resident s.ctx.sfp p) (f : Strand → Strand) :
    (s.modSender f).mem = s.mem ∧ (s.modSender f).seals = s.seals ∧ (s.modSender f).timers = s.timers := by
  rw [s.modSender_eq resident]
  exact ⟨rfl, rfl, rfl⟩

end Sys2Proof.Machine
end

section
/-! TSEEK, TREW, TRD and TWR (R76, R86, R205 to R207). -/

namespace Sys2Proof.Machine

variable {s t : State} {p : Place} {a : Strand} {k : Core} {reads writes : List Nat} {tr : BitVec 7} {h : Nat}

/-! ## Shifts -/

/-- A seek of a bound track sets its head and starts the shift. -/
theorem State.seek_bound (resident : s.Resident s.ctx.sfp p) (bound : (s.strand p).headOf tr = some h)
    (still : (s.core s.ctx.core).shifting.find tr.toNat = none) {n : Nat} (small : n ≤ 1023) :
    ∃ t, s.seek tr n = .done t 0 ∧ s.Did t p ((s.strand p).setHead tr n)
        { s.core s.ctx.core with shifting := (s.core s.ctx.core).shifting.set tr.toNat n } ∧
      (t.mem = s.mem ∧ t.seals = s.seals) ∧
      s.Timed t (dist ((s.core s.ctx.core).trackPos.get 0 tr.toNat) n) (.trackShiftDone s.ctx.core tr) := by
  have start := Strand.headOf_lt bound
  have checked : s.trackHead tr id (fun _ => n) = .ok (h, s.modSender (·.setHead tr n)) :=
    State.trackHead_bound resident bound (by simp only [id]; omega) (by omega)
  have did := State.did_setHead (tr := tr) resident n
  obtain ⟨mem, seals, -⟩ := State.modSender_memory resident (·.setHead tr n)
  have core := did.core
  have now := did.now
  have finished := did.modCore (f := (·.finishShift tr.toNat)) fun k b => by
    simp only [Core.finishShift]
    cases k.shifting.find tr.toNat <;> rfl
  rw [Core.finishShift_still still] at finished
  have started := finished.modCore (f := fun k => { k with shifting := k.shifting.set tr.toNat n }) fun _ _ => rfl
  unfold State.seek
  rw [checked]
  simp only [did.ctx]
  generalize s.modSender (·.setHead tr n) = u at *
  have position : ((u.modCore s.ctx.core (·.finishShift tr.toNat)).core s.ctx.core).trackPos = (s.core s.ctx.core).trackPos := by
    rw [finished.core]
  rw [position]
  refine ⟨_, rfl, started.then rfl, ⟨mem, seals⟩, ?_⟩
  rw [State.Timed, ← now]
  exact mem_insertTimer _ _ _

/-- A seek's shift, without an error, brings the track to its head, and its cycles are counted. -/
theorem exec_trackShiftDone {c n : Nat} (shifting : (s.core c).shifting.find tr.toNat = some n)
    (slips : (s.core c).slips.find tr.toNat = none) : exec (.trackShiftDone c tr) s = .next (s.modCore c fun k =>
      { k.shiftTo tr.toNat n with shifting := k.shifting.erase tr.toNat }) := by
  have finished : s.modCore c (·.finishShift tr.toNat) =
      s.modCore c fun k => { k.shiftTo tr.toNat n with shifting := k.shifting.erase tr.toNat } := by
    simp only [State.modCore, Core.finishShift, shifting]
  refine (congrArg Host.Outcome.next ?_ : Host.Outcome.next _ = _)
  rw [← finished]
  have same : ((s.modCore c (·.finishShift tr.toNat)).core c).slips.find tr.toNat = none := by
    rw [finished, State.core_modCore_self]
    exact slips
  split
  · rename_i none
    rw [shifting] at none
    cases none
  · rename_i x some
    obtain rfl : n = x := Option.some.inj (shifting.symm.trans some)
    rw [State.checkMarks, same]

/-! ## The segments and registers of a command -/

variable (f : TrackF)

/-- The track positions, by segment, and the registers that TRD and TWR join (R204, R207). -/
theorem zip_trackRegs : (trackSegments f).zip (trackRegs f) =
    (List.range (trackSegments f).length).map fun j => ((trackSegments f).getD j 0, (f.vreg.toNat + j) % 32) := by
  unfold trackSegments trackRegs
  cases f.four <;> rfl

theorem zipIdx_trackSegments : (trackSegments f).zipIdx =
    (List.range (trackSegments f).length).map fun g => ((trackSegments f).getD g 0, g) := by
  unfold trackSegments
  cases f.four <;> rfl

theorem trackSegments_length : (trackSegments f).length = if f.four = true then 4 else 1 := by
  unfold trackSegments
  cases f.four <;> rfl

theorem length_trackSegments_ne : (trackSegments f).length ≠ 0 := by
  rw [trackSegments_length]
  split <;> decide

theorem length_trackSegments_le : (trackSegments f).length ≤ 4 := by
  rw [trackSegments_length]
  split <;> decide

theorem trackSegments_getD {j : Nat} (hj : j < (trackSegments f).length) :
    (trackSegments f).getD j 0 = if f.four = true then j else f.seg.toNat := by
  rw [trackSegments_length] at hj
  unfold trackSegments
  cases four : f.four with
  | true =>
    rw [four] at hj
    have all : ∀ j < 4, ([0, 1, 2, 3] : List Nat).getD j 0 = j := by decide
    exact all j hj
  | false =>
    rw [four] at hj
    obtain rfl : j = 0 := Nat.lt_one_iff.1 hj
    rfl

theorem trackSegments_lt {j : Nat} (hj : j < (trackSegments f).length) : (trackSegments f).getD j 0 < 4 := by
  rw [trackSegments_getD f hj]
  have := length_trackSegments_le f
  have := f.seg.isLt
  split <;> omega

/-- No segment comes twice. -/
theorem trackSegments_inj {i j : Nat} (hi : i < (trackSegments f).length) (hj : j < (trackSegments f).length)
    (same : (trackSegments f).getD i 0 = (trackSegments f).getD j 0) : i = j := by
  rw [trackSegments_getD f hi, trackSegments_getD f hj] at same
  rw [trackSegments_length] at hi hj
  cases four : f.four with
  | true =>
    rw [four] at same
    exact same
  | false =>
    rw [four] at hi hj
    exact (Nat.lt_one_iff.1 hi).trans (Nat.lt_one_iff.1 hj).symm

/-! ## TRD -/

/-- The first `n` registers of a command hold their words, and no other register differs. -/
def ReadUpTo (reg : Nat → Nat) (word : Nat → Wide) (n : Nat) (old new : Vector Wide 32) : Prop :=
  (∀ j < n, ∀ r : Fin 32, r.val = reg j → new[r] = word j) ∧ ∀ r : Fin 32, (∀ j < n, r.val ≠ reg j) → new[r] = old[r]

theorem ReadUpTo.next {reg : Nat → Nat} {word : Nat → Wide} {n : Nat} {old new : Vector Wide 32} (read : ReadUpTo reg word n old new)
    (other : ∀ j < n, reg j ≠ reg n) : ReadUpTo reg word (n + 1) old (new.setIfInBounds (reg n) (word n)) := by
  obtain ⟨held, kept⟩ := read
  have get (r : Fin 32) : (new.setIfInBounds (reg n) (word n))[r] = if reg n = r then word n else new[r] :=
    Vector.getElem_setIfInBounds r.isLt
  refine ⟨fun j hj r hr => ?_, fun r hr => ?_⟩
  · rw [get]
    by_cases last : j = n
    · rw [last] at hr ⊢
      exact if_pos hr.symm
    · have before : j < n := by omega
      rw [if_neg fun e => other j before (hr.symm.trans e.symm)]
      exact held j before r hr
  · rw [get, if_neg fun e => hr n (Nat.lt_succ_self n) e.symm]
    exact kept r fun j hj => hr j (by omega)

/-- Marks that are set once more. -/
theorem or_marks {P Q : Prop} [Decidable P] [Decidable Q] (x w : BitVec 128) (set : ¬ Q) :
    (x ||| if P then 0#128 else w) ||| w = x ||| if Q then 0#128 else w := by
  rw [if_neg set, BitVec.or_assoc]
  split
  · rw [BitVec.zero_or]
  · rw [BitVec.or_self]

/-- One word of TRD: a segment and the register that takes it. -/
def State.readInto (s : State) (c t h : Nat) (e : Nat × Nat) : State :=
  let y := s.readTrack c t (h + 1024 * e.1)
  y.2.modSender fun st => { st with v := st.v.setIfInBounds e.2 y.1 }

theorem State.readInto_of_word {c t h g r : Nat} {x : Wide} (word : s.readTrack c t (h + 1024 * g) = (x, s)) :
    s.readInto c t h (g, r) = s.modSender fun st => { st with v := st.v.setIfInBounds r x } := by
  rw [State.readInto]
  simp only [word]

/-- One word of TWR: a segment and the register that is written there. -/
def State.writeFrom (s : State) (c t h : Nat) (v : Vector Wide 32) (e : Nat × Nat) : State :=
  s.writeTrack c t (h + 1024 * e.1) (v.toList.getD e.2 0).toNat

/-- The track word of a segment, and its register. -/
def trackSegment (f : TrackF) (j : Nat) : Nat × Nat := ((trackSegments f).getD j 0, (f.vreg.toNat + j) % 32)

/-- The physical bit of the word of a segment at a head. -/
def segmentKey (f : TrackF) (c h j : Nat) : Nat := trackKey c f.track.toNat (h + 1024 * (trackSegments f).getD j 0)

/-- What TWR writes to a segment. -/
def segmentValue (f : TrackF) (v : Vector Wide 32) (j : Nat) : Nat := (v.toList.getD ((f.vreg.toNat + j) % 32) 0).toNat

theorem segmentValue_lt (v : Vector Wide 32) (j : Nat) : segmentValue f v j < 2 ^ 256 := BitVec.isLt _

theorem segmentValue_of_eq {f : TrackF} {v : Vector Wide 32} {j : Nat} {r : Fin 32} (same : r.val = (f.vreg.toNat + j) % 32) :
    segmentValue f v j = v[r].toNat := by
  rw [segmentValue, ← same, List.getD_eq_getElem _ _ (by rw [Vector.length_toList]; exact r.isLt)]
  rfl

/-- TRD has read the words of its first `n` segments. -/
def State.HasRead (s t : State) (p : Place) (a : Strand) (k : Core) (f : TrackF) (h n : Nat) : Prop :=
  ∃ v, s.Did t p { a with v := v } k ∧ (t.mem = s.mem ∧ t.seals = s.seals ∧ t.timers = s.timers) ∧
    ReadUpTo (fun j => (f.vreg.toNat + j) % 32) (fun j => BitVec.ofNat 256 (s.bitsAt (segmentKey f s.ctx.core h j) 256)) n a.v v

/-- TWR has written the words of its first `n` segments. -/
def State.HasWritten (s t : State) (p : Place) (a : Strand) (k : Core) (f : TrackF) (h : Nat) (v : Vector Wide 32) (n : Nat) : Prop :=
  s.Did t p a { k with tocc := k.tocc ||| if n = 0 then 0#128 else 1#128 <<< f.track.toNat } ∧ t.timers = s.timers ∧
    s.Placed t (· < n) (segmentKey f s.ctx.core h) (segmentValue f v)

section
variable {f} {n : Nat}

theorem segmentKey_apart {c i j : Nat} (hi : i < (trackSegments f).length) (hj : j < (trackSegments f).length) (other : i ≠ j) :
    segmentKey f c h i + 256 ≤ segmentKey f c h j ∨ segmentKey f c h j + 256 ≤ segmentKey f c h i :=
  trackKey_apart fun same => other (trackSegments_inj f hi hj (by omega))

section
variable {c : Nat} (small : h ≤ 1023) (core : c < 2 ^ 20) (hn : n < (trackSegments f).length)
include small hn

theorem segment_place : h + 1024 * (trackSegments f).getD n 0 < 4096 := by
  have := trackSegments_lt f hn
  omega

include core

theorem hostBase_le_segmentKey : hostBase ≤ segmentKey f c h n := hostBase_le_trackKey core f.track.isLt (segment_place small hn)

variable (sound : (t.core c).Sound f.track.toNat) (clean : t.bad = [])
include sound clean

theorem State.readTrack_segment : t.readTrack c f.track.toNat (h + 1024 * (trackSegments f).getD n 0) =
    (BitVec.ofNat 256 (t.bitsAt (segmentKey f c h n) 256), t) :=
  State.readTrack_sound core f.track.isLt (segment_place small hn) sound clean

theorem State.readInto_segment : t.readInto c f.track.toNat h (trackSegment f n) = t.modSender fun st => { st with
    v := st.v.setIfInBounds ((f.vreg.toNat + n) % 32) (BitVec.ofNat 256 (t.bitsAt (segmentKey f c h n) 256)) } :=
  State.readInto_of_word (State.readTrack_segment small core hn sound clean)

theorem State.writeFrom_segment (v : Vector Wide 32) : t.writeFrom c f.track.toNat h v (trackSegment f n) =
    (t.setBitsAt (segmentKey f c h n) 256 (segmentValue f v n)).modCore c fun k =>
      { k with tocc := k.tocc ||| (1#128 <<< f.track.toNat) } :=
  State.writeTrack_sound core f.track.isLt (segment_place small hn) sound clean _

end

variable (small : h ≤ 1023) (core : s.ctx.core < 2 ^ 20) (clean : s.bad = []) (sound : k.Sound f.track.toNat)
  (hn : n < (trackSegments f).length)
include small core clean sound hn

theorem State.HasRead.next (resident : s.Resident s.ctx.sfp p) (own : a.sfp = s.ctx.sfp) (read : s.HasRead t p a k f h n) :
    s.HasRead (t.readInto s.ctx.core f.track.toNat h (trackSegment f n)) p a k f h (n + 1) := by
  obtain ⟨v, did, ⟨mem, seals, timers⟩, words⟩ := read
  have bits : t.bitsAt (segmentKey f s.ctx.core h n) 256 = s.bitsAt (segmentKey f s.ctx.core h n) 256 :=
    bitsAt_congr fun b _ _ => State.bit_of_mem mem seals did.epochs.1 did.epochs.2 b
  rw [State.readInto_segment small core hn (did.sound sound) (did.bad.trans clean), bits]
  obtain ⟨mem', seals', timers'⟩ := State.modSender_memory (did.resident resident own) fun st => { st with
    v := st.v.setIfInBounds ((f.vreg.toNat + n) % 32) (BitVec.ofNat 256 (s.bitsAt (segmentKey f s.ctx.core h n) 256)) }
  refine ⟨_, did.modSender resident own _, ⟨mem'.trans mem, seals'.trans seals, timers'.trans timers⟩, words.next fun j hj => ?_⟩
  have := length_trackSegments_le f
  omega

theorem State.HasWritten.next {v : Vector Wide 32} (written : s.HasWritten t p a k f h v n) :
    s.HasWritten (t.writeFrom s.ctx.core f.track.toNat h v (trackSegment f n)) p a k f h v (n + 1) := by
  obtain ⟨did, timers, placed⟩ := written
  have more := did.writeWord (segmentKey f s.ctx.core h n) (segmentValue f v n) (1#128 <<< f.track.toNat)
  rw [or_marks _ _ (Nat.succ_ne_zero n)] at more
  have put := placed.writeWord (hostBase_le_segmentKey small core hn) (segmentValue_lt f v n) rfl rfl (done' := (· < n + 1))
    (fun _ => Nat.lt_succ_iff_lt_or_eq) (fun j hj => segmentKey_apart (Nat.lt_trans hj hn) hn (Nat.ne_of_lt hj)) s.ctx.core
    fun k => { k with tocc := k.tocc ||| 1#128 <<< f.track.toNat }
  rw [State.writeFrom_segment small core hn (did.sound (sound.of_tocc _)) (did.bad.trans clean)]
  exact ⟨more, (t.timers_writeWord ..).trans timers, put⟩

end

end Sys2Proof.Machine
end

section
/-! TSEEK, TREW, TRD and TWR as they issue, and commands of a track that is not bound (R198, R205 to R207). -/

namespace Sys2Proof.Machine

variable {s t : State} {p : Place} {h : Nat} {tg : Bool} {f : TrackF} {sl : Slots}

/-- What holds before the first of `n` steps and goes on to the next at each holds after them. -/
theorem foldl_range_induction {α : Type} {P : Nat → α → Prop} {g : α → Nat → α} {x : α} (n : Nat) (start : P 0 x)
    (next : ∀ i u, i < n → P i u → P (i + 1) (g u i)) : P n ((List.range n).foldl g x) := by
  induction n with
  | zero => exact start
  | succ n ih =>
    rw [List.range_succ, List.foldl_append]
    exact next n _ (Nat.lt_succ_self n) (ih fun i u hi => next i u (by omega))

section
variable (small : h ≤ 1023) (core : s.ctx.core < 2 ^ 20) (clean : s.bad = []) {a : Strand} {k : Core} (sound : k.Sound f.track.toNat)
include small core clean sound

theorem State.hasRead_fold (resident : s.Resident s.ctx.sfp p) (own : a.sfp = s.ctx.sfp) (start : s.HasRead t p a k f h 0) :
    s.HasRead (((trackSegments f).zip (trackRegs f)).foldl (·.readInto s.ctx.core f.track.toNat h) t) p a k f h
      (trackSegments f).length := by
  rw [zip_trackRegs, List.foldl_map]
  exact foldl_range_induction (P := fun n u => s.HasRead u p a k f h n) _ start fun j u hj read =>
    read.next small core clean sound hj resident own

theorem State.hasWritten_fold {v : Vector Wide 32} (start : s.HasWritten t p a k f h v 0) :
    s.HasWritten (((trackSegments f).zip (trackRegs f)).foldl (·.writeFrom s.ctx.core f.track.toNat h v) t) p a k f h v
      (trackSegments f).length := by
  rw [zip_trackRegs, List.foldl_map]
  exact foldl_range_induction (P := fun n u => s.HasWritten u p a k f h v n) _ start fun j u hj written =>
    written.next small core clean sound hj

end

section
variable (bound : (s.strand p).headOf f.track = some h) (still : (s.core s.ctx.core).shifting.find f.track.toNat = none)
include bound still

/-- A command's checks pass: the head is set, and the track, which is sound, stands where the command starts. -/
theorem State.aligned_of_bound (resident : s.Resident s.ctx.sfp p) (sound : (s.core s.ctx.core).Sound f.track.toNat)
    {last final : Int → Int} (reaches : 0 ≤ last h ∧ last h ≤ 1023) (ends : 0 ≤ final h ∧ final h ≤ 1023) :
    ∃ t, s.trackHead f.track last final = .ok (h, t) ∧ t.ctx = s.ctx ∧ t.sender.v = (s.strand p).v ∧
      s.Did t p ((s.strand p).setHead f.track (final h).toNat) (s.core s.ctx.core) ∧
      (t.mem = s.mem ∧ t.seals = s.seals ∧ t.timers = s.timers) ∧
      t.align s.ctx.core f.track.toNat h = t.modCore s.ctx.core (·.shiftTo f.track.toNat h) := by
  have did := State.did_setHead (tr := f.track) resident (final h).toNat
  have same := did.resident resident resident.1.2
  refine ⟨_, State.trackHead_bound resident bound reaches ends, did.ctx, ?_, did, State.modSender_memory resident _,
    State.align_sound (did.sound sound) (by rw [did.core]; exact still) h⟩
  rw [State.sender_eq _ same, did.strand]
  rfl

theorem done_seek (head : s.AtHead p [] []) {i : Instr} {n : Nat}
    (which : (i = .tseek tg f sl ∧ n = f.head.toNat) ∨ (i = .trew tg f sl ∧ n = 0)) : Done (exec i s) fun u =>
      { s with timers := u.timers }.Took u p (s.entry 1 0 f.track.toNat [] [] 0) tg ((s.strand p).setHead f.track n)
        { s.core s.ctx.core with shifting := (s.core s.ctx.core).shifting.set f.track.toNat n } (s.quad s.ctx.quad) ∧
      s.Timed u (dist ((s.core s.ctx.core).trackPos.get 0 f.track.toNat) n) (.trackShiftDone s.ctx.core f.track) := by
  have run (op n : Nat) (small : n ≤ 1023) :
      Done (.next (s.runCommand 1 op 0 f.track.toNat tg [] [] fun s => s.seek f.track n)) fun u =>
        { s with timers := u.timers }.Took u p (s.entry 1 0 f.track.toNat [] [] 0) tg ((s.strand p).setHead f.track n)
          { s.core s.ctx.core with shifting := (s.core s.ctx.core).shifting.set f.track.toNat n } (s.quad s.ctx.quad) ∧
        s.Timed u (dist ((s.core s.ctx.core).trackPos.get 0 f.track.toNat) n) (.trackShiftDone s.ctx.core f.track) := by
    obtain ⟨t, ran, did, ⟨mem, seals⟩, timed⟩ := State.seek_bound head.resident bound still small
    refine (State.done_command head ran did rfl rfl).imp fun u ⟨took, timers, mem', seals'⟩ => ?_
    rw [mem', seals', mem, seals] at took
    refine ⟨took, ?_⟩
    rw [State.Timed, timers]
    exact timed
  obtain ⟨rfl, rfl⟩ | ⟨rfl, rfl⟩ := which
  · exact run 0 _ (by have := f.head.isLt; omega)
  · exact run 3 0 (by omega)

variable (core : s.ctx.core < 2 ^ 20) (sound : (s.core s.ctx.core).Sound f.track.toNat)
  (ends : 0 ≤ (h : Int) + f.step.toInt ∧ (h : Int) + f.step.toInt ≤ 1023)
include core sound ends

theorem done_trd (head : s.AtHead p [] (trackRegs f)) : Done (exec (.trd tg f sl) s) fun u => ∃ v,
    s.Took u p (s.entry 1 0 f.track.toNat [] (trackRegs f) 0) tg
      { (s.strand p).setHead f.track ((h : Int) + f.step.toInt).toNat with v := v }
      ((s.core s.ctx.core).shiftTo f.track.toNat h) (s.quad s.ctx.quad) ∧
    ReadUpTo (fun j => (f.vreg.toNat + j) % 32) (fun j => BitVec.ofNat 256 (s.bitsAt (segmentKey f s.ctx.core h j) 256))
      (trackSegments f).length (s.strand p).v v := by
  have resident := head.resident
  have small := Strand.headOf_lt bound
  obtain ⟨t, checked, ctx, -, did, memory, aligned⟩ := State.aligned_of_bound bound still resident sound (last := id)
    (final := (· + f.step.toInt)) (by simp only [id]; omega) ends
  have start : s.HasRead (t.align s.ctx.core f.track.toNat h) p ((s.strand p).setHead f.track ((h : Int) + f.step.toInt).toNat)
      ((s.core s.ctx.core).shiftTo f.track.toNat h) f h 0 := by
    refine ⟨_, did.align sound still h, ?_, fun _ before => absurd before (Nat.not_lt_zero _), fun _ _ => rfl⟩
    rw [aligned]
    exact memory
  have standing : ((s.core s.ctx.core).shiftTo f.track.toNat h).Sound f.track.toNat := sound
  obtain ⟨v, done, ⟨mem, seals, timers⟩, words⟩ :=
    State.hasRead_fold small core head.clean standing resident (by exact resident.1.2) start
  refine (State.done_command head (op := 1) (fx := 0) (run := fun s => _) ?_ done rfl rfl).imp
    fun u ⟨took, timers', mem', seals'⟩ => ⟨v, ?_, words⟩
  · simp only [checked, ctx]
    rfl
  · rwa [timers', mem', seals', timers, mem, seals] at took

theorem done_twr (head : s.AtHead p (trackRegs f) []) (wf : s.MemoryWf) : Done (exec (.twr tg f sl) s) fun u =>
    { s with mem := u.mem, seals := u.seals }.Took u p (s.entry 1 0 f.track.toNat (trackRegs f) [] 0) tg
      ((s.strand p).setHead f.track ((h : Int) + f.step.toInt).toNat)
      { (s.core s.ctx.core).shiftTo f.track.toNat h with tocc := (s.core s.ctx.core).tocc ||| (1#128 <<< f.track.toNat) }
      (s.quad s.ctx.quad) ∧
    s.Placed u (· < (trackSegments f).length) (segmentKey f s.ctx.core h) (segmentValue f (s.strand p).v) := by
  have resident := head.resident
  have small := Strand.headOf_lt bound
  obtain ⟨t, checked, ctx, regs, did, ⟨mem, seals, timers⟩, aligned⟩ := State.aligned_of_bound bound still resident sound
    (last := id) (final := (· + f.step.toInt)) (by simp only [id]; omega) ends
  have start : s.HasWritten (t.align s.ctx.core f.track.toNat h) p ((s.strand p).setHead f.track ((h : Int) + f.step.toInt).toNat)
      ((s.core s.ctx.core).shiftTo f.track.toNat h) f h (s.strand p).v 0 := by
    have stands := did.align sound still h
    refine ⟨?_, by rw [aligned]; exact timers, ?_⟩
    · rw [if_pos rfl, BitVec.or_zero]
      exact stands
    · have nothing := State.Placed.nothing (done := (· < 0)) (dst := segmentKey f s.ctx.core h)
        (val := segmentValue f (s.strand p).v) wf fun _ => Nat.not_lt_zero _
      rw [aligned]
      exact nothing.of_mem mem seals did.epochs.1 did.epochs.2
  have standing : ((s.core s.ctx.core).shiftTo f.track.toNat h).Sound f.track.toNat := sound
  obtain ⟨done, moveless, placed⟩ := State.hasWritten_fold small core head.clean standing start
  rw [if_neg (length_trackSegments_ne f)] at done
  refine (State.done_command head (op := 2) (fx := 0) (run := fun s => _) ?_ done rfl rfl).imp
    fun u ⟨took, timers', mem', seals'⟩ => ⟨?_, ?_⟩
  · simp only [checked, ctx, regs]
    rfl
  · rwa [timers', moveless] at took
  · exact placed.of_mem mem' seals' (took.epochs.1.trans done.epochs.1.symm)
      (took.epochs.2.trans done.epochs.2.symm)

end

/-- Every command of a track that is not bound is a fault. -/
theorem done_unbound (free : (s.strand p).headOf f.track = none) (none : (s.strand p).qerr = 0)
    (head : s.AtHead p (trackRegs f) (trackRegs f)) {i : Instr}
    (which : i ∈ [Instr.tseek tg f sl, .trew tg f sl, .trd tg f sl, .twr tg f sl, .tblk tg f sl, .tblkw tg f sl]) :
    Done (exec i s) fun u => ∃ x : Word, x.toNat / 2 ^ 56 = 0x07 ∧ u.strand p = { s.strand p with qerr := x } ∧
      (u.core s.ctx.core).queue = (s.core s.ctx.core).queue.filter (fun e => e.sfp != (s.strand p).sfp) ∧ u.mem = s.mem := by
  have resident := head.resident
  have checked (last final : Int → Int) := State.trackHead_unbound (tr := f.track) resident free last final
  have sought (n : Nat) : s.seek f.track n = .fault 0x07 s := by rw [State.seek, checked]
  have burst : s.burst f sl = .error 0x07 := by rw [State.burst, checked]
  have faults (op : Nat) {reads writes : List Nat} {run : State → Ran} (fewer : reads ⊆ trackRegs f) (fewer' : writes ⊆ trackRegs f)
      (ran : run s = .fault 0x07 s) : Done (.next (s.runCommand 1 op 0 f.track.toNat tg reads writes run)) fun u =>
        ∃ x : Word, x.toNat / 2 ^ 56 = 0x07 ∧ u.strand p = { s.strand p with qerr := x } ∧
          (u.core s.ctx.core).queue = (s.core s.ctx.core).queue.filter (fun e => e.sfp != (s.strand p).sfp) ∧ u.mem = s.mem := by
    have fewerHead := head.subset fewer fewer'
    refine ⟨_, rfl, ?_⟩
    rw [State.runCommand_faulted fewerHead ran, resident.1.2]
    exact State.engineFault_spec fewerHead none (by decide) 1 op
  have nil := List.nil_subset (trackRegs f)
  have all := List.Subset.refl (trackRegs f)
  simp only [List.mem_cons, List.not_mem_nil, or_false] at which
  obtain rfl | rfl | rfl | rfl | rfl | rfl := which
  · exact faults 0 nil nil (sought _)
  · exact faults 3 nil nil (sought 0)
  · exact faults 1 (run := fun s => _) nil all (by simp only [checked])
  · exact faults 2 (run := fun s => _) all nil (by simp only [checked])
  · exact faults 4 (run := fun s => _) nil nil (by simp only [burst])
  · exact faults 5 (run := fun s => _) nil nil (by simp only [burst])

end Sys2Proof.Machine
end

section
/-! TBLK and TBLKW: the scratchpad words of a burst, and its positions in order (R86, R205, R208). -/

namespace Sys2Proof.Machine

variable {s t : State} {p : Place} {a : Strand} {k : Core} {f : TrackF} {sl : Slots} {h key : Nat} {tg : Bool}

/-! ## The place of a burst -/

theorem InCabinets.of_names {core w align : Nat} {x : Word} (named : s.Names core x w align key) : InCabinets (quadOf core) key w := by
  obtain ⟨x, y, off, hx, hy, -, own, hoff, fits, -, -, rfl⟩ := named
  have small : quadOf core < 2 ^ 18 := by
    have cx : coreX (coreId x y) = x := by unfold coreX coreId; omega
    have cy : coreY (coreId x y) = y := by unfold coreY coreId; omega
    rw [← own, quadOf, cx, cy]
    omega
  exact ⟨small, by omega, by omega⟩

/-- An address that names words of the own quad's scratchpad leads a command there. -/
theorem State.locate_named {core w align : Nat} {x : Word} (named : s.Names core x w align key) (plain : packedWidth w = false)
    (user scalar : Bool) (acc : Access) :
    space x = 0 ∧ s.locate core user scalar acc x w align = .ok [⟨key, w⟩] (.scratch (quadOf core)) := by
  obtain ⟨cx, cy, off, hx, hy, inside, own, hoff, fits, multiple, ha, rfl⟩ := named
  have sp : space x = 0 := by rw [space_eq]; omega
  have fx : meshX x = cx := by rw [meshX_eq]; omega
  have fy : meshY x = cy := by rw [meshY_eq]; omega
  have fl : meshLayer x = 0 := by rw [meshLayer_eq]; omega
  have fm : meshMbz x = 0 := by rw [meshMbz_eq]; omega
  have fo : meshOff x = off := by rw [meshOff_eq]; omega
  have shared : inCabinet7 0 off = false := by simp [inCabinet7]; omega
  have good : checkOffset 0 0 off w align = none := by
    simp only [checkOffset, aligned, multiple, beq_self_eq_true, Bool.or_true, if_true]
    rw [if_neg (by omega), if_neg (by omega)]
    rfl
  refine ⟨sp, ?_⟩
  simp only [State.locate, sp, locateMesh, fx, fy, fl, fm, fo, shared, inside, good, meshPlace, own, splitParts, plain, Bool.false_and,
    Bool.and_false, Bool.not_true, Bool.false_eq_true, if_false, if_true]
  rfl

theorem State.burstPlace_named {words : Nat} (slot : sl.ua = false) (named : s.Names s.ctx.core sl.a (256 * words) 256 key) :
    s.burstPlace sl words = .ok key := by
  have plain : packedWidth (256 * words) = false := by
    simp only [packedWidth, Bool.or_eq_false_iff, beq_eq_false_iff_ne]
    omega
  obtain ⟨sp, located⟩ := State.locate_named named plain (!s.ctx.priv) false .store
  have good : s.badSlot false sl.a = none := by
    simp only [State.badSlot, sp]
    rfl
  have real : ¬ space sl.a = 1 := by rw [sp]; decide
  simp only [State.burstPlace, slot, good, if_neg real, located, if_true]

/-! ## The track through a burst -/

/-- A core whose track has been brought to the first `i` positions from `h` on, one after the other. -/
def Core.stepped (k : Core) (tr h : Nat) : Nat → Core
  | 0 => k
  | i + 1 => (k.stepped tr h i).shiftTo tr (h + i)

section
variable (k : Core) (tr h : Nat)

theorem Core.stepped_eq (i : Nat) :
    k.stepped tr h i = { k with trackPos := (k.stepped tr h i).trackPos, shiftct := (k.stepped tr h i).shiftct } := by
  induction i with
  | zero => rfl
  | succ i ih => rw [Core.stepped, Core.shiftTo, ih]

theorem Core.stepped_trackPos (m j : Nat) :
    (k.stepped tr h (m + 1)).trackPos.get 0 j = if j = tr then h + m else k.trackPos.get 0 j := by
  induction m with
  | zero => exact Tbl.get_set ..
  | succ m ih =>
    rw [Core.stepped, Core.shiftTo, Tbl.get_set, ih]
    split
    · rfl
    · rfl

theorem Core.stepped_shiftct (m : Nat) : (k.stepped tr h (m + 1)).shiftct =
    k.shiftct + BitVec.ofNat 64 (dist (k.trackPos.get 0 tr) h) + BitVec.ofNat 64 m := by
  induction m with
  | zero => exact (BitVec.add_zero _).symm
  | succ m ih =>
    have one : dist (h + m) (h + (m + 1)) = 1 := by
      unfold dist
      omega
    rw [Core.stepped, Core.shiftTo, Core.stepped_trackPos, if_pos rfl, ih, one, BitVec.add_assoc _ (BitVec.ofNat 64 m),
      ← BitVec.ofNat_add]

end

theorem Core.Sound.stepped {tr : Nat} (sound : k.Sound tr) (i : Nat) : (k.stepped tr h i).Sound tr := by
  rw [Core.stepped_eq]
  exact sound

/-! ## The words of a burst -/

/-- The track word of a segment at a position of a burst. -/
def burstTrack (f : TrackF) (c h : Nat) (e : Nat × Nat) : Nat := trackKey c f.track.toNat (h + 1024 * (trackSegments f).getD e.1 0 + e.2)

/-- The scratchpad word of a segment at a position of a burst. -/
def burstPad (f : TrackF) (key : Nat) (e : Nat × Nat) : Nat := key + 256 * (e.1 * (f.npos.toNat + 1) + e.2)

/-- A segment and a position of a burst. -/
def InBurst (f : TrackF) (e : Nat × Nat) : Prop := e.1 < (trackSegments f).length ∧ e.2 < f.npos.toNat + 1

theorem InBurst.place_lt {e : Nat × Nat} (he : InBurst f e) :
    e.1 * (f.npos.toNat + 1) + e.2 + 1 ≤ (f.npos.toNat + 1) * (trackSegments f).length := by
  obtain ⟨seg, pos⟩ := he
  calc e.1 * (f.npos.toNat + 1) + e.2 + 1 ≤ (e.1 + 1) * (f.npos.toNat + 1) := by rw [Nat.succ_mul]; omega
    _ ≤ (trackSegments f).length * (f.npos.toNat + 1) := Nat.mul_le_mul_right _ seg
    _ = (f.npos.toNat + 1) * (trackSegments f).length := Nat.mul_comm ..

theorem burstPad_apart {x e : Nat × Nat} (hx : InBurst f x) (he : InBurst f e) (other : x ≠ e) :
    burstPad f key x + 256 ≤ burstPad f key e ∨ burstPad f key e + 256 ≤ burstPad f key x := by
  have distinct : x.1 * (f.npos.toNat + 1) + x.2 ≠ e.1 * (f.npos.toNat + 1) + e.2 := by
    intro same
    have pos : x.2 = e.2 := by
      have := congrArg (· % (f.npos.toNat + 1)) same
      simpa only [Nat.mul_add_mod_self_right, Nat.mod_eq_of_lt hx.2, Nat.mod_eq_of_lt he.2] using this
    rw [pos] at same
    exact other (Prod.ext (Nat.eq_of_mul_eq_mul_right (Nat.succ_pos _) (Nat.add_right_cancel same)) pos)
  unfold burstPad
  omega

theorem burstTrack_apart {c : Nat} {x e : Nat × Nat} (hx : InBurst f x) (he : InBurst f e)
    (other : x ≠ e) :
    burstTrack f c h x + 256 ≤ burstTrack f c h e ∨ burstTrack f c h e + 256 ≤ burstTrack f c h x := by
  obtain ⟨segx, posx⟩ := hx
  obtain ⟨sege, pose⟩ := he
  refine trackKey_apart fun same => other ?_
  have segs : (trackSegments f).getD x.1 0 = (trackSegments f).getD e.1 0 := by omega
  exact Prod.ext (trackSegments_inj f segx sege segs) (by omega)

/-! ## The positions in order -/

/-- A move of the words of a burst: a word that has not moved is brought from `src` to `dst`, and marks may be set in TOCC. -/
def State.Moves (s : State) (p : Place) (a : Strand) (f : TrackF) (h : Nat) (written : BitVec 128) (src dst : Nat × Nat → Nat)
    (move : State → (pos k : Nat) → State) : Prop :=
  ∀ (t : State) (k : Core) (x : BitVec 128) (done : Nat × Nat → Prop) (e : Nat × Nat), k.Sound f.track.toNat →
    s.Did t p a { k with tocc := x } → s.Placed t done dst (fun e => s.bitsAt (src e) 256) → InBurst f e →
    (∀ y, done y → InBurst f y ∧ y ≠ e) →
    let u := move t (h + e.2 + 1024 * (trackSegments f).getD e.1 0) (e.1 * (f.npos.toNat + 1) + e.2)
    s.Did u p a { k with tocc := x ||| written } ∧ u.timers = t.timers ∧
      s.Placed u (fun y => done y ∨ y = e) dst fun e => s.bitsAt (src e) 256

/-- What has moved after `i` positions, and `j` segments at the next. -/
def MovedTo (f : TrackF) (i j : Nat) (e : Nat × Nat) : Prop := e.1 < (trackSegments f).length ∧ (e.2 < i ∨ e.2 = i ∧ e.1 < j)

/-- A burst after `i` positions, and `j` segments at the next; the track has been brought to the first `n` positions. -/
def State.HasMoved (s t : State) (p : Place) (a : Strand) (k : Core) (f : TrackF) (h : Nat) (written : BitVec 128)
    (src dst : Nat × Nat → Nat) (n i j : Nat) : Prop :=
  s.Did t p a { k.stepped f.track.toNat h n with tocc := k.tocc ||| if i = 0 ∧ j = 0 then 0#128 else written } ∧
    t.timers = s.timers ∧ s.Placed t (MovedTo f i j) dst fun e => s.bitsAt (src e) 256

theorem State.Placed.imp {ι : Type} {done done' : ι → Prop} {dst val : ι → Nat} (placed : s.Placed t done dst val)
    (same : ∀ e, done' e ↔ done e) : s.Placed t done' dst val := by
  obtain rfl : done' = done := funext fun e => propext (same e)
  exact placed

section
variable {written : BitVec 128} {src dst : Nat × Nat → Nat} {move : State → (pos k : Nat) → State} (sound : k.Sound f.track.toNat)
  (still : k.shifting.find f.track.toNat = none)
include sound

include still in
/-- The track is brought to a position. -/
theorem State.HasMoved.align {i : Nat} (moved : s.HasMoved t p a k f h written src dst i i 0) :
    s.HasMoved (t.align s.ctx.core f.track.toNat (h + i)) p a k f h written src dst (i + 1) i 0 := by
  obtain ⟨did, timers, placed⟩ := moved
  have standing := sound.stepped (h := h) i
  have free : (k.stepped f.track.toNat h i).shifting.find f.track.toNat = none := by
    rw [Core.stepped_eq]
    exact still
  have aligned := State.align_sound (did.sound (standing.of_tocc _)) (by rw [did.core]; exact free) (h + i)
  refine ⟨did.align (standing.of_tocc _) free (h + i), ?_, ?_⟩
  · rw [aligned]
    exact timers
  · rw [aligned]
    exact placed.of_mem rfl rfl rfl rfl

variable (moves : s.Moves p a f h written src dst move)
include moves

theorem State.HasMoved.segment {n i j : Nat} (hi : i < f.npos.toNat + 1) (hj : j < (trackSegments f).length)
    (moved : s.HasMoved t p a k f h written src dst n i j) :
    s.HasMoved (move t (h + i + 1024 * (trackSegments f).getD j 0) (j * (f.npos.toNat + 1) + i)) p a k f h written src dst n i (j + 1) := by
  obtain ⟨did, timers, placed⟩ := moved
  obtain ⟨did', timers', placed'⟩ := moves t _ _ _ (j, i) (sound.stepped n) did placed ⟨hj, hi⟩ fun y ⟨seg, before⟩ =>
    ⟨⟨seg, by omega⟩, fun same => by subst same; omega⟩
  rw [or_marks (Q := i = 0 ∧ j + 1 = 0) _ _ (by omega)] at did'
  refine ⟨did', timers'.trans timers, placed'.imp fun e => ?_⟩
  have last : e = (j, i) ↔ e.1 = j ∧ e.2 = i := Prod.ext_iff
  rw [last, MovedTo, MovedTo]
  omega

include still

/-- All positions of a burst have been moved. -/
theorem State.hasMoved_eachPosition (start : s.HasMoved t p a k f h written src dst 0 0 0) :
    s.HasMoved (t.eachPosition f h move) p a k f h written src dst (f.npos.toNat + 1) (f.npos.toNat + 1) 0 := by
  refine foldl_range_induction (P := fun i u => s.HasMoved u p a k f h written src dst i i 0) _ start fun i u hi moved => ?_
  obtain ⟨here, -⟩ := id moved
  rw [here.ctx, zipIdx_trackSegments, List.foldl_map]
  obtain ⟨did, timers, placed⟩ := foldl_range_induction (P := fun j u => s.HasMoved u p a k f h written src dst (i + 1) i j) _
    (moved.align sound still) fun j u hj moved => moved.segment sound moves hi hj
  have some : ¬ (i = 0 ∧ (trackSegments f).length = 0) := fun none => length_trackSegments_ne f none.2
  refine ⟨?_, timers, placed.imp fun e => ?_⟩
  · rw [if_neg some] at did
    rw [if_neg (by omega)]
    exact did
  · rw [MovedTo, MovedTo]
    omega

end

/-! ## TBLK and TBLKW -/

/-- One word of TBLK: from a position of the track to a place of the burst. -/
def State.burstOut (s : State) (f : TrackF) (sl : Slots) (key pos k : Nat) : State :=
  let y := s.readTrack s.ctx.core f.track.toNat pos
  let place := key + 256 * k
  if y.2.guarded place then y.2.discardStore y.2.who (sl.a + BitVec.ofNat 64 (256 * k)) y.1.toNat
  else y.2.homeStore y.2.who place 256 y.1.toNat

/-- One word of TBLKW: from a place of the burst to a position of the track. -/
def State.burstIn (s : State) (f : TrackF) (key pos k : Nat) : State :=
  let y := s.homeLoad s.who (key + 256 * k) 256
  y.2.writeTrack y.2.ctx.core f.track.toNat pos y.1

section
variable (core : s.ctx.core < 2 ^ 20) (clean : s.bad = []) (fits : h + f.npos.toNat ≤ 1023)
  (inside : InCabinets (quadOf s.ctx.core) key (256 * ((f.npos.toNat + 1) * (trackSegments f).length)))

/-- The position on its track of a word of a burst. -/
theorem InBurst.pos_lt {e : Nat × Nat} (he : InBurst f e) (fits : h + f.npos.toNat ≤ 1023) :
    h + e.2 + 1024 * (trackSegments f).getD e.1 0 < 4096 := by
  obtain ⟨seg, pos⟩ := he
  have := trackSegments_lt f seg
  omega

theorem burstTrack_eq (f : TrackF) (c h : Nat) (e : Nat × Nat) :
    trackKey c f.track.toNat (h + e.2 + 1024 * (trackSegments f).getD e.1 0) = burstTrack f c h e := by
  rw [burstTrack, Nat.add_right_comm]

include inside in
theorem burstPad_inside {e : Nat × Nat} (he : InBurst f e) : InCabinets (quadOf s.ctx.core) (burstPad f key e) 256 := by
  have := he.place_lt
  unfold burstPad
  exact inside.mono (by omega) (by omega)

/-- Scratchpads and tracks are apart. -/
theorem InCabinets.apart_trackKey {q w c t pos : Nat} (h : InCabinets q key w) : key + w ≤ trackKey c t pos := by
  obtain ⟨hq, -, high⟩ := h
  unfold scratchBase at high
  rw [trackKey_eq]
  unfold trackBase
  omega

include core clean fits inside

theorem State.moves_burstOut (quiet : ∀ q, (s.quad q).deferred = []) :
    s.Moves p a f h 0 (burstTrack f s.ctx.core h) (burstPad f key) (·.burstOut f sl key) := by
  intro t k x done e sound did placed he others
  have room := burstPad_inside inside he
  have clean' := did.bad.trans clean
  have read := State.readTrack_sound core f.track.isLt (he.pos_lt fits) (did.sound (sound.of_tocc x)) clean'
  have bits : t.bitsAt (burstTrack f s.ctx.core h e) 256 = s.bitsAt (burstTrack f s.ctx.core h e) 256 :=
    placed.reads fun y hy => .inr (burstPad_inside inside (others y hy).1).apart_trackKey
  have small := s.bitsAt_lt (burstTrack f s.ctx.core h e) 256
  rw [burstTrack_eq, bits] at read
  generalize value : s.bitsAt (burstTrack f s.ctx.core h e) 256 = v at *
  have stored : t.burstOut f sl key (h + e.2 + 1024 * (trackSegments f).getD e.1 0) (e.1 * (f.npos.toNat + 1) + e.2) =
      t.homeStore t.who (burstPad f key e) 256 v := by
    have unguarded : t.guarded (key + 256 * (e.1 * (f.npos.toNat + 1) + e.2)) = false := room.not_guarded t (by decide)
    simp only [State.burstOut, did.ctx, read, unguarded, BitVec.toNat_ofNat, Nat.mod_eq_of_lt small, Bool.false_eq_true, if_false]
    rfl
  have frame := State.homeStore_frame t.who clean' (by rw [did.quad]; exact quiet _) room v
  have writes := State.writes_homeStore t.who placed.wf clean' room v
  simp only [stored]
  generalize t.homeStore t.who (burstPad f key e) 256 v = u at frame writes ⊢
  have timers : u.timers = t.timers := by rw [frame]
  refine ⟨?_, timers, placed.put (fun _ => Iff.rfl) (fun y hy => burstPad_apart (others y hy).1 he (others y hy).2)
    ((Nat.mod_eq_of_lt small).trans value.symm) writes.wf writes.bit⟩
  have unmarked : x ||| (0 : BitVec 128) = x := BitVec.or_zero
  rw [unmarked]
  refine did.then ?_
  rw [timers]
  exact frame

theorem State.moves_burstIn :
    s.Moves p a f h (1#128 <<< f.track.toNat) (burstPad f key) (burstTrack f s.ctx.core h) (·.burstIn f key) := by
  intro t k x done e sound did placed he others
  have room := burstPad_inside inside he
  have clean' := did.bad.trans clean
  have place := he.pos_lt fits
  have read := State.homeLoad_scratch t.who clean' room
  have bits : t.bitsAt (burstPad f key e) 256 = s.bitsAt (burstPad f key e) 256 :=
    placed.reads fun y hy => .inl room.apart_trackKey
  have small := s.bitsAt_lt (burstPad f key e) 256
  have real := hostBase_le_trackKey core f.track.isLt place
  have written := State.writeTrack_sound core f.track.isLt place (did.sound (sound.of_tocc x)) clean'
  rw [bits] at read
  rw [burstTrack_eq] at real
  simp only [burstTrack_eq] at written
  generalize value : s.bitsAt (burstPad f key e) 256 = v at *
  have stored : t.burstIn f key (h + e.2 + 1024 * (trackSegments f).getD e.1 0) (e.1 * (f.npos.toNat + 1) + e.2) =
      (t.setBitsAt (burstTrack f s.ctx.core h e) 256 v).modCore s.ctx.core fun k =>
        { k with tocc := k.tocc ||| (1#128 <<< f.track.toNat) } := by
    rw [← written v]
    have loaded : t.homeLoad t.who (key + 256 * (e.1 * (f.npos.toNat + 1) + e.2)) 256 = (v, t) := read
    simp only [State.burstIn, loaded, did.ctx]
  simp only [stored]
  exact ⟨did.writeWord _ v _, t.timers_writeWord .., placed.writeWord real small rfl value (fun _ => Iff.rfl)
    (fun y hy => burstTrack_apart (others y hy).1 he (others y hy).2) _ _⟩

end

section
variable (bound : (s.strand p).headOf f.track = some h) (fits : h + f.npos.toNat ≤ 1023)
  (ends : 0 ≤ (h : Int) + f.npos.toNat + f.step.toInt ∧ (h : Int) + f.npos.toNat + f.step.toInt ≤ 1023) (slot : sl.ua = false)
  (named : s.Names s.ctx.core sl.a (256 * ((f.npos.toNat + 1) * (trackSegments f).length)) 256 key)
include bound fits ends slot named

/-- The checks of a burst pass, and its head is set. -/
theorem State.burst_bound (resident : s.Resident s.ctx.sfp p) : s.burst f sl =
    .ok (s.modSender (·.setHead f.track ((h : Int) + f.npos.toNat + f.step.toInt).toNat), h, key) := by
  have last : (h : Int) + (((f.npos.toNat + 1 : Nat) : Int) - 1) = h + f.npos.toNat := by omega
  have checked := State.trackHead_bound (last := (· + (((f.npos.toNat + 1 : Nat) : Int) - 1)))
    (final := (· + (((f.npos.toNat + 1 : Nat) : Int) - 1) + f.step.toInt)) resident bound (by simp only [last]; omega)
    (by simp only [last]; exact ends)
  simp only [last] at checked
  simp only [State.burst, checked, State.burstPlace_named slot named]

end

section
variable (head : s.AtHead p [] []) (wf : s.MemoryWf) (still : (s.core s.ctx.core).shifting.find f.track.toNat = none)
  (sound : (s.core s.ctx.core).Sound f.track.toNat)
include head wf still sound

/-- A burst whose head becomes `x`, where its words move as they should. -/
theorem done_burst {op x : Nat} {written : BitVec 128} {src dst : Nat × Nat → Nat} {move : State → (pos k : Nat) → State}
    {run : State → Ran} (ran : run s = .done ((s.modSender (·.setHead f.track x)).eachPosition f h move) 0)
    (moves : s.Moves p ((s.strand p).setHead f.track x) f h written src dst move) :
    Done (.next (s.runCommand 1 op 0 f.track.toNat tg [] [] run)) fun u =>
      { s with mem := u.mem, seals := u.seals }.Took u p (s.entry 1 0 f.track.toNat [] [] 0) tg ((s.strand p).setHead f.track x)
        { (s.core s.ctx.core).stepped f.track.toNat h (f.npos.toNat + 1) with tocc := (s.core s.ctx.core).tocc ||| written }
        (s.quad s.ctx.quad) ∧
      s.Placed u (InBurst f) dst fun e => s.bitsAt (src e) 256 := by
  have resident := head.resident
  have set := State.did_setHead (tr := f.track) resident x
  obtain ⟨mem, seals, timers⟩ := State.modSender_memory resident (·.setHead f.track x)
  generalize s.modSender (·.setHead f.track x) = t at *
  have nothing := State.Placed.nothing (done := MovedTo f 0 0) (dst := dst) (val := fun e => s.bitsAt (src e) 256) wf
    fun e ⟨_, before⟩ => by omega
  have start : s.HasMoved t p ((s.strand p).setHead f.track x) (s.core s.ctx.core) f h written src dst 0 0 0 := by
    refine ⟨?_, timers, nothing.of_mem mem seals set.epochs.1 set.epochs.2⟩
    rw [if_pos ⟨rfl, rfl⟩, BitVec.or_zero]
    exact set
  obtain ⟨did, timers', placed⟩ := State.hasMoved_eachPosition sound still moves start
  rw [if_neg (by omega)] at did
  have same := (s.core s.ctx.core).stepped_eq f.track.toNat h (f.npos.toNat + 1)
  refine (State.done_command head ran did (by rw [same]) (by rw [same])).imp fun u ⟨took, moveless, mem', seals'⟩ => ⟨?_, ?_⟩
  · rwa [moveless, timers'] at took
  · refine (placed.imp fun e => ?_).of_mem mem' seals' (took.epochs.1.trans did.epochs.1.symm)
      (took.epochs.2.trans did.epochs.2.symm)
    rw [InBurst, MovedTo]
    omega

variable (core : s.ctx.core < 2 ^ 20) (bound : (s.strand p).headOf f.track = some h) (fits : h + f.npos.toNat ≤ 1023)
  (ends : 0 ≤ (h : Int) + f.npos.toNat + f.step.toInt ∧ (h : Int) + f.npos.toNat + f.step.toInt ≤ 1023) (slot : sl.ua = false)
  (named : s.Names s.ctx.core sl.a (256 * ((f.npos.toNat + 1) * (trackSegments f).length)) 256 key)
include core bound fits ends slot named

theorem done_tblk (quiet : ∀ q, (s.quad q).deferred = []) : Done (exec (.tblk tg f sl) s) fun u =>
    { s with mem := u.mem, seals := u.seals }.Took u p (s.entry 1 0 f.track.toNat [] [] 0) tg
      ((s.strand p).setHead f.track ((h : Int) + f.npos.toNat + f.step.toInt).toNat)
      { (s.core s.ctx.core).stepped f.track.toNat h (f.npos.toNat + 1) with tocc := (s.core s.ctx.core).tocc ||| 0 }
      (s.quad s.ctx.quad) ∧
    s.Placed u (InBurst f) (burstPad f key) fun e => s.bitsAt (burstTrack f s.ctx.core h e) 256 := by
  have checked := State.burst_bound bound fits ends slot named head.resident
  refine done_burst head wf still sound (op := 4) (run := fun s => _) (move := (·.burstOut f sl key)) ?_
    (State.moves_burstOut core head.clean fits (InCabinets.of_names named) quiet)
  simp only [checked]
  rfl

theorem done_tblkw : Done (exec (.tblkw tg f sl) s) fun u =>
    { s with mem := u.mem, seals := u.seals }.Took u p (s.entry 1 0 f.track.toNat [] [] 0) tg
      ((s.strand p).setHead f.track ((h : Int) + f.npos.toNat + f.step.toInt).toNat)
      { (s.core s.ctx.core).stepped f.track.toNat h (f.npos.toNat + 1) with
        tocc := (s.core s.ctx.core).tocc ||| (1#128 <<< f.track.toNat) }
      (s.quad s.ctx.quad) ∧
    s.Placed u (InBurst f) (burstTrack f s.ctx.core h) fun e => s.bitsAt (burstPad f key e) 256 := by
  have checked := State.burst_bound bound fits ends slot named head.resident
  refine done_burst head wf still sound (op := 5) (run := fun s => _) (move := (·.burstIn f key)) ?_
    (State.moves_burstIn core head.clean fits (InCabinets.of_names named))
  simp only [checked]
  rfl

end

end Sys2Proof.Machine
end

section
/-! What the track commands leave, and the words that they move (O38). -/

namespace Sys2Proof.Machine

/-- What a burst leaves, as the statement says it: its core, the positions of the tracks, and the words moved. -/
theorem State.Took.of_burst {s u : State} {p : Place} {i : Issued} {tg : Bool} {a : Strand} {f : TrackF} {h : Nat} {x : BitVec 128}
    {q : Quad} {src dst : Nat × Nat → Nat}
    (took : { s with mem := u.mem, seals := u.seals }.Took u p i tg a
      { (s.core s.ctx.core).stepped f.track.toNat h (f.npos.toNat + 1) with tocc := x } q)
    (placed : s.Placed u (InBurst f) dst fun e => s.bitsAt (src e) 256) :
    { s with mem := u.mem, seals := u.seals }.Took u p i tg a
      { s.core s.ctx.core with
        trackPos := (u.core s.ctx.core).trackPos
        shiftct := (s.core s.ctx.core).shiftct + BitVec.ofNat 64 (dist ((s.core s.ctx.core).trackPos.get 0 f.track.toNat) h) +
          BitVec.ofNat 64 f.npos.toNat
        tocc := x } q ∧
    (∀ j, (u.core s.ctx.core).trackPos.get 0 j =
      if j = f.track.toNat then h + f.npos.toNat else (s.core s.ctx.core).trackPos.get 0 j) ∧
    (∀ g < (trackSegments f).length, ∀ i < f.npos.toNat + 1, u.bitsAt (dst (g, i)) 256 = s.bitsAt (src (g, i)) 256) ∧
    ∀ b, (∀ g < (trackSegments f).length, ∀ i < f.npos.toNat + 1, b < dst (g, i) ∨ dst (g, i) + 256 ≤ b) →
      u.bitsAt b 1 = s.bitsAt b 1 := by
  have positions : (u.core s.ctx.core).trackPos = ((s.core s.ctx.core).stepped f.track.toNat h (f.npos.toNat + 1)).trackPos :=
    took.trackPos
  rw [Core.stepped_eq, ← positions, Core.stepped_shiftct] at took
  refine ⟨took, fun j => ?_, fun g hg i hi => placed.held (g, i) ⟨hg, hi⟩, fun b out => ?_⟩
  · rw [positions, Core.stepped_trackPos]
  · rw [State.bitsAt_one, State.bitsAt_one, placed.kept b fun e ⟨seg, pos⟩ => out e.1 seg e.2 pos]

/-- Settles O38: the engine's part of each command is followed word by word and position by position, and then the command issues. -/
theorem trackCommands : Obligations.TrackCommands := by
  refine ⟨fun s p tg f sl h => ⟨fun bound still core => ⟨fun head i n which => done_seek bound still head which,
    fun least most sound => ⟨fun head => ?_, fun head wf => ?_⟩⟩, fun n shifting slips => ?_, fun free none head _ i which =>
    done_unbound free none head which⟩, ?_⟩
  · refine (done_trd bound still core sound ⟨least, most⟩ head).imp fun u ⟨v, took, held, kept⟩ => ⟨v, took, held, kept⟩
  · refine (done_twr bound still core sound ⟨least, most⟩ head wf).imp fun u ⟨took, placed⟩ =>
      ⟨took, fun j hj r hr => ?_, fun b out => ?_⟩
    · exact (placed.held j hj).trans (segmentValue_of_eq hr)
    · rw [State.bitsAt_one, State.bitsAt_one, placed.kept b out]
  · refine ⟨_, exec_trackShiftDone shifting slips, rfl, ?_⟩
    rw [State.core_modCore_self]
    rfl
  · intro s p tg f sl h key head wf quiet slot core c a k t n last next segs track pad moved bound still alive slips spine fits least most
      named
    have ended : (h : Int) + f.npos.toNat + f.step.toInt = next := by omega
    have out := done_tblk (tg := tg) head wf still ⟨alive, slips, spine⟩ core bound (by omega) (by omega) slot named quiet
    have back := done_tblkw (tg := tg) head wf still ⟨alive, slips, spine⟩ core bound (by omega) (by omega) slot named
    rw [ended] at out back
    exact ⟨out.imp fun u ⟨took, placed⟩ => took.of_burst placed, back.imp fun u ⟨took, placed⟩ => took.of_burst placed⟩

end Sys2Proof.Machine
end

section
/-! Stores anywhere in a scratchpad, its cabinet 7 included, as the hardware makes them: a home's guard of cabinet 7 is for stores of
strands (R339), and below it a write of cabinet 7 is as one of cabinets 0 to 6 (R50, R64, R168). -/

namespace Sys2Proof.Machine

/-! ## Places -/

/-- `w` bits from a physical bit up lie in the scratchpad of a quad. -/
def InScratchpad (q key w : Nat) : Prop := q < 2 ^ 33 ∧ scratchBase q ≤ key ∧ key + w ≤ scratchBase q + 2 ^ 20

theorem InCabinets.inScratchpad {q key w : Nat} (h : InCabinets q key w) : InScratchpad q key w := by
  obtain ⟨hq, low, high⟩ := h
  exact ⟨by omega, low, by omega⟩

theorem InScratchpad.mono {q key w k n : Nat} (h : InScratchpad q key w) (low : key ≤ k) (high : k + n ≤ key + w) :
    InScratchpad q k n :=
  ⟨h.1, Nat.le_trans h.2.1 low, Nat.le_trans high h.2.2⟩

section
variable {q key w : Nat} (h : InScratchpad q key w)
include h

theorem InScratchpad.real : hostBase ≤ key := by
  obtain ⟨-, low, -⟩ := h
  unfold scratchBase at low
  unfold hostBase
  omega

theorem InScratchpad.pieces : ∀ p ∈ sectorPieces key w, InScratchpad q p.key p.width :=
  fun p hp => h.mono ((consecutive_sectorPieces key w).bounds.2 p hp).1 ((consecutive_sectorPieces key w).bounds.2 p hp).2

end

/-- A piece of some bits in a scratchpad stands on no track. -/
theorem InScratchpad.trackOf {q key w : Nat} (h : InScratchpad q key w) (pos : 0 < w) : trackOf key = none := by
  obtain ⟨hq, low, high⟩ := h
  unfold scratchBase at low high
  rw [Machine.trackOf, if_neg]
  unfold trackBase
  omega

/-- The words of an access of a scratchpad are words of it. -/
theorem InScratchpad.word {q key w : Nat} (h : InScratchpad q key w) (pos : 0 < w) {g : Nat} (hg : g ∈ groupsOf key w) :
    scratchQuad (64 * g) = some q := by
  obtain ⟨hq, low, high⟩ := h
  obtain ⟨i, hi, rfl⟩ := List.mem_map.1 hg
  have inRange := List.mem_range.1 hi
  unfold scratchBase at low high
  rw [Machine.scratchQuad, if_pos (by unfold scratchBase trackBase; omega)]
  congr 1
  unfold scratchBase
  omega

/-- Each sector of some bits has some of them. -/
theorem width_pos_of_mem_sectorPieces {key w : Nat} (pos : 0 < w) {p : Part} (h : p ∈ sectorPieces key w) : 0 < p.width := by
  rw [sectorPieces_eq, List.mem_map] at h
  obtain ⟨i, hi, rfl⟩ := h
  have inRange := List.mem_range.1 hi
  simp only [pieceIn]
  omega

/-! ## Quiet stores -/

/-- Nothing but memory and the seals of its sectors differs, and what was on the agenda is there still. -/
structure State.Quiet (s t : State) : Prop where
  frame : t = { s with mem := t.mem, seals := t.seals, agenda := t.agenda }
  agenda : s.agenda <+: t.agenda

theorem State.Quiet.refl (s : State) : s.Quiet s := ⟨rfl, List.prefix_refl _⟩

theorem State.Quiet.trans {s t u : State} (h : s.Quiet t) (k : t.Quiet u) : s.Quiet u :=
  ⟨k.frame.trans (by rw [h.frame]), h.agenda.trans k.agenda⟩

theorem State.quiet_post (s : State) (i : Instr) : s.Quiet (s.post i) := ⟨rfl, List.prefix_append _ _⟩

theorem State.quiet_watchQueues (s : State) (q word : Nat) : s.Quiet (s.watchQueues q word) := by
  have posts {α : Type} (f : α → Instr) (s : State) (l : List α) : s.Quiet (l.foldl (fun s a => s.post (f a)) s) := by
    induction l generalizing s with
    | nil => exact .refl s
    | cons a l ih => exact (s.quiet_post _).trans (ih _)
  simp only [State.watchQueues]
  split
  · exact .refl s
  · exact (posts _ s _).trans (posts _ _ _)

theorem State.quiet_wakeWords {s : State} {q : Nat} {words : List Nat} (own : ∀ w ∈ words, scratchQuad (64 * w) = some q)
    (quiet : (s.quad q).deferred = []) : s.Quiet (s.wakeWords words) := by
  induction words generalizing s with
  | nil => exact .refl s
  | cons w words ih =>
    have same : s.wake q w = s := by simp [State.wake, quiet]
    have next : s.wakeWords (w :: words) = (s.watchQueues q w).wakeWords words := by
      rw [State.wakeWords, List.foldl_cons, own w List.mem_cons_self]
      simp only [same]
      rfl
    have shown := s.quiet_watchQueues q w
    rw [next]
    exact shown.trans (ih (fun v hv => own v (List.mem_cons_of_mem _ hv)) (by rw [shown.frame]; exact quiet))

/-- Bits of a scratchpad have been written; where nothing waits in its quad, nothing else differs. -/
structure State.Puts (s t : State) (q key stop v : Nat) : Prop where
  writes : s.Writes t q key stop v
  still : (s.quad q).deferred = [] → s.Quiet t

theorem State.Puts.trans {s t u : State} {q key w stop v : Nat} (h : s.Puts t q key (key + w) v)
    (g : t.Puts u q (key + w) stop (v / 2 ^ w)) (le : key + w ≤ stop) : s.Puts u q key stop v :=
  ⟨h.writes.trans g.writes le, fun quiet => (h.still quiet).trans (g.still (h.writes.quiet quiet).2)⟩

variable {s : State} {q : Nat} (who : Who)

theorem State.storeSector_scratchpad (clean : s.bad = []) {p : Part} (inside : InScratchpad q p.key p.width) (pos : 0 < p.width)
    (v : Nat) : s.storeSector who [(p, v)] = (s.setBitsAt p.key p.width v).wakeWritten [(p, v)] := by
  have track := inside.trackOf pos
  have touched : s.touchTrack who p.key true = s := by rw [State.touchTrack, track]
  have alive : s.onDeadTrack p.key = false := by rw [State.onDeadTrack, track]
  have spine (t : State) : t.meetSpine who [p] = t := by
    simp only [State.meetSpine, State.spineLost, List.flatMap_cons, List.flatMap_nil, track, List.append_nil, List.eraseDups_nil,
      List.foldl_nil]
  simp only [State.storeSector, touched, State.writeHome, alive, State.putBits, List.foldl_cons, List.foldl_nil, List.map_cons,
    List.map_nil, State.meetBad_clean who clean, spine]
  rfl

theorem State.puts_storeSector (wf : s.MemoryWf) (clean : s.bad = []) {p : Part} (inside : InScratchpad q p.key p.width)
    (pos : 0 < p.width) (v : Nat) : s.Puts (s.storeSector who [(p, v)]) q p.key (p.key + p.width) v := by
  rw [State.storeSector_scratchpad who clean inside pos]
  have frame := s.setBitsAt_frame p.key p.width v
  have wf' := memoryWf_setBitsAt wf p.key p.width v
  have bits := State.bit_setBitsAt wf inside.real p.width v
  generalize s.setBitsAt p.key p.width v = t at frame wf' bits ⊢
  have quads : t.quad = s.quad := by rw [frame]; rfl
  have served := t.served_wakeWritten [(p, v)]
  have words : ∀ g ∈ ([(p, v)].flatMap fun e => groupsOf e.1.key e.1.width).eraseDups, scratchQuad (64 * g) = some q := by
    intro g hg
    exact inside.word pos (by simpa using List.mem_eraseDups.1 hg)
  refine ⟨⟨State.MemoryOnly.trans ⟨by rw [frame], fun r => by rw [quads]⟩ served.only, memoryWf_of_mem_eq wf' served.mem,
    fun k => by rw [served.bit, bits], fun quiet => ?_⟩, fun quiet => ?_⟩
  · obtain ⟨full, waits⟩ := t.wakeWords_quiet words (by rw [quads, quiet])
    exact ⟨full.trans (by rw [frame]), waits⟩
  · have put : s.Quiet t := ⟨by rw [frame], by rw [frame]⟩
    exact put.trans (State.quiet_wakeWords words (by rw [quads, quiet]))

theorem State.puts_pieces (wf : s.MemoryWf) (clean : s.bad = []) {l : List Part} {key stop : Nat} (run : Consecutive key stop l)
    (inside : ∀ p ∈ l, InScratchpad q p.key p.width) (pos : ∀ p ∈ l, 0 < p.width) (v : Nat) :
    s.Puts ((spread v l).foldl (fun s e => s.storeSector who [e]) s) q key stop v := by
  induction l generalizing s key v with
  | nil =>
    obtain rfl : key = stop := run
    exact ⟨.nothing wf _ _, fun _ => .refl s⟩
  | cons p l ih =>
    obtain ⟨rfl, rest⟩ := run
    obtain ⟨written, quiet⟩ := State.puts_storeSector who wf clean (inside p List.mem_cons_self) (pos p List.mem_cons_self)
      (v % 2 ^ p.width)
    have first : s.Puts (s.storeSector who [(p, v % 2 ^ p.width)]) q p.key (p.key + p.width) v := ⟨written.mod, quiet⟩
    exact first.trans (ih written.wf (written.clean clean) rest (fun r hr => inside r (List.mem_cons_of_mem _ hr))
      (fun r hr => pos r (List.mem_cons_of_mem _ hr)) _) rest.bounds.1

/-- A store at a scratchpad's home writes its bits there. -/
theorem State.puts_homeStore (wf : s.MemoryWf) (clean : s.bad = []) {key w : Nat} (inside : InScratchpad q key w) (pos : 0 < w)
    (v : Nat) : s.Puts (s.homeStore who key w v) q key (key + w) v :=
  State.puts_pieces who wf clean (consecutive_sectorPieces key w) inside.pieces (fun _ => width_pos_of_mem_sectorPieces pos) v

end Sys2Proof.Machine
end

section
/-! Accesses that the hardware of a core makes at words of its own quad (R95, R105, R314): each reaches its bits, reads them as they are, and
changes nothing beyond them but what waking the requests that wait on them does. -/

namespace Sys2Proof.Machine

variable {s : State} {core : Nat} {a : Word} {w align key : Nat}

theorem State.Names.quad_lt (h : s.Names core a w align key) : quadOf core < 2 ^ 18 := by
  obtain ⟨x, y, off, hx, hy, -, own, -⟩ := h
  have cx : coreX (coreId x y) = x := by unfold coreX coreId; omega
  have cy : coreY (coreId x y) = y := by unfold coreY coreId; omega
  rw [← own, quadOf, cx, cy]
  omega

theorem State.Names.within (h : s.Names core a w align key) : InCabinets (quadOf core) key w := by
  have small := h.quad_lt
  obtain ⟨x, y, off, hx, hy, -, own, hoff, fits, multiple, ha, rfl⟩ := h
  exact ⟨small, by omega, by omega⟩

/-- A place is named by the shape of the partition alone. -/
theorem State.Names.of_inside {t : State} (h : s.Names core a w align key) (same : t.part.inside = s.part.inside) :
    t.Names core a w align key := by
  unfold State.Names
  rw [same]
  exact h

/-- Where an access of named bits leads, whoever makes it. -/
theorem State.Names.located (h : s.Names core a w align key) {n m : Nat} (fits : n ≤ w) (multiple : m ∣ align)
    (plain : packedWidth n = false) (c : Nat) (user scalar : Bool) (acc : Access) :
    s.locate c user scalar acc a n m = .ok [⟨key, n⟩] (.scratch (quadOf core)) := by
  obtain ⟨x, y, off, hx, hy, inside, own, hoff, room, aligned', ha, rfl⟩ := h
  have sp : space a = 0 := by rw [space_eq]; omega
  have fx : meshX a = x := by rw [meshX_eq]; omega
  have fy : meshY a = y := by rw [meshY_eq]; omega
  have fl : meshLayer a = 0 := by rw [meshLayer_eq]; omega
  have fm : meshMbz a = 0 := by rw [meshMbz_eq]; omega
  have fo : meshOff a = off := by rw [meshOff_eq]; omega
  have shared : inCabinet7 0 off = false := by simp [inCabinet7]; omega
  have fine : aligned off n m = true := by
    have := Nat.mod_eq_zero_of_dvd (multiple.trans (Nat.dvd_of_mod_eq_zero aligned'))
    simp [aligned, this]
  have good : checkOffset 0 0 off n m = none := by
    simp only [checkOffset, fine, if_true]
    rw [if_neg (by omega), if_neg (by omega)]
    rfl
  have whole : splitParts off n = [(0, n)] := by simp [splitParts, plain]
  simp only [State.locate, sp, locateMesh, fx, fy, fl, fm, fo, shared, inside, good, meshPlace, own, whole, Bool.and_false,
    Bool.not_true, Bool.false_eq_true, if_false, if_true, List.map_cons, List.map_nil, Nat.add_zero]

theorem State.Names.space (h : s.Names core a w align key) : space a = 0 := by
  obtain ⟨x, y, off, hx, hy, -, -, hoff, -, -, ha, -⟩ := h
  rw [space_eq]
  omega

/-- No peer is asked about a word of the module. -/
theorem State.Names.peerRefuses (h : s.Names core a w align key) (t : State) (n : Nat) : t.peerRefuses a [⟨key, n⟩] = false := by
  have below := h.within.below_peers
  have sp := h.space
  simp [State.peerRefuses, State.peerRefusesPart, sp, Nat.not_le.2 below]

theorem State.partsAt_single (s : State) (key n : Nat) : s.partsAt [⟨key, n⟩] = s.bitsAt key n := by
  simp [State.partsAt, joinPieces]

theorem State.noteTraffic_own (s : State) (core : Nat) : s.noteTraffic core (.scratch (quadOf core)) = s := by
  simp [State.noteTraffic, Home.own]

theorem State.storeParts_single (s : State) (who : Who) (v key n : Nat) : s.storeParts who v [⟨key, n⟩] = s.homeStore who key n v := rfl

section
variable (h : s.Names core a w align key) {n m : Nat} (fits : n ≤ w) (multiple : m ∣ align) (plain : packedWidth n = false)
include h fits multiple plain

theorem State.Names.peek : s.peek core a n m = some (s.bitsAt key n) := by
  simp only [State.peek, h.located fits multiple plain, h.peerRefuses, State.partsAt_single]
  rfl

theorem State.Names.poke (v : Nat) : s.poke core a n m v = some (s.homeStore (.hardware core) key n v) := by
  simp only [State.poke, h.located fits multiple plain, h.peerRefuses, State.noteTraffic_own, State.storeParts_single]
  rfl

theorem State.Names.meetAt (clean : s.bad = []) (who : Who) : s.meetAt who a n m = s := by
  simp only [State.meetAt, h.located fits multiple plain, State.meetParts_clean who clean]

end

end Sys2Proof.Machine
end

section
/-! Words of a scratchpad as addresses lead to them, through each space that reaches one (R48, R56, R59). -/

namespace Sys2Proof.Machine

theorem locateMesh_aligned {p : Partition} {user : Bool} {a issued : Word} {key q : Nat}
    (found : locateMesh p user a 64 64 issued = .ok [⟨key, 64⟩] (.scratch q)) : key % 64 = 0 := by
  unfold locateMesh at found
  split at found
  · cases found
  split at found
  · cases found
  split at found
  · cases found
  · rename_i good
    simp only [splitParts, packedWidth, meshPlace] at found
    split at found
    · simp only [Nat.reduceBEq, Bool.or_self, Bool.false_and, Bool.false_eq_true, if_false, List.map_cons, List.map_nil,
        Nat.add_zero, Found.ok.injEq, List.cons.injEq, Part.mk.injEq, and_true] at found
      have multiple : meshOff a % 64 = 0 := by
        by_contra odd
        have bad : aligned (meshOff a) 64 64 = false := by simp [aligned, packedWidth, odd]
        simp only [checkOffset, bad] at good
        split at good
        · cases good
        · split at good
          · cases good
          · simp at good
      unfold scratchBase at found
      omega
    · simp at found

theorem locateMesh_congr {p p' : Partition} (same : p'.inside = p.inside) (user : Bool) (a : Word) (w align : Nat) (issued : Word) :
    locateMesh p' user a w align issued = locateMesh p user a w align issued := by
  unfold locateMesh
  rw [same]

/-- A virtual address leads to no scratchpad (R328). -/
theorem locateVirtual_ne_scratch {translate : Nat → Walk} {acc : Access} {user : Bool} {a : Word} {w align : Nat} {ps : List Part}
    {q : Nat} : locateVirtual translate acc user a w align ≠ .ok ps (.scratch q) := by
  have leaf (e : Word) (bits va : Nat) : (leafPlace e bits va).2 ≠ .scratch q := by
    unfold leafPlace
    split <;> simp
  have part (b : Word) (n : Nat) (qs : List Part) : translatePart translate acc user b n ≠ .ok qs (.scratch q) := by
    unfold translatePart
    dsimp only
    by_cases fields : b.extractLsb' 51 10 ≠ 0
    · rw [if_pos fields]
      exact Found.noConfusion
    · rw [if_neg fields]
      split
      · exact Found.noConfusion
      · exact Found.noConfusion
      · split
        · exact fun e => leaf _ _ _ (Found.ok.inj e).2
        · exact Found.noConfusion
  unfold locateVirtual
  dsimp only
  split
  · exact Found.noConfusion
  split
  · exact Found.noConfusion
  · refine List.foldlRecOn (motive := fun r : Found => ∀ ps, r ≠ .ok ps (.scratch q)) _ _
      (fun _ e => Home.noConfusion (Found.ok.inj e).2) (fun r none o _ qs => ?_) ps
    split
    · split
      · rename_i found
        exact fun e => part _ _ _ (found.trans (by rw [(Found.ok.inj e).2]))
      · rename_i other
        exact fun e => other _ _ e
    · exact none qs

theorem locateRegister_ne_scratch {p : Partition} {user scalar : Bool} {a : Word} {w : Nat} {ps : List Part} {q : Nat} :
    locateRegister p user scalar a w ≠ .ok ps (.scratch q) := by
  intro found
  unfold locateRegister at found
  repeat' split at found
  all_goals cases found

section
variable {s : State} {c : Nat} {user : Bool} {acc : Access} {a : Word} {q : Nat}

/-- An access of 64 bits that leads to a scratchpad is at one of its words. -/
theorem State.locate_aligned {key : Nat} (found : s.locate c user false acc a 64 64 = .ok [⟨key, 64⟩] (.scratch q)) :
    key % 64 = 0 := by
  unfold State.locate at found
  split at found
  case h_1 => exact locateMesh_aligned found
  case h_2 => exact absurd found locateVirtual_ne_scratch
  case h_3 =>
    split at found
    · cases found
    · split at found
      · exact locateMesh_aligned found
      · cases found
  case h_4 => exact absurd found locateRegister_ne_scratch
  case h_5 =>
    unfold State.locatePeer at found
    dsimp only at found
    split at found
    · exact locateMesh_aligned found
    · split at found
      · cases found
      · split at found
        · cases found
        · split at found <;> cases found
  case h_6 => cases found

/-- The way to a scratchpad depends on the partition's shape and the module's number alone. -/
theorem State.locate_scratch_congr {t : State} {ps : List Part} {w align : Nat} (inside : t.part.inside = s.part.inside)
    (modid : t.modid = s.modid) (found : s.locate c user false acc a w align = .ok ps (.scratch q)) :
    t.locate c user false acc a w align = .ok ps (.scratch q) := by
  have mesh := locateMesh_congr inside
  unfold State.locate at found ⊢
  split at found
  case h_1 => rw [mesh, found]
  case h_2 => exact absurd found locateVirtual_ne_scratch
  case h_3 =>
    have resolve : resolveRel t.part c a = resolveRel s.part c a := by unfold resolveRel; rw [inside]
    rw [resolve]
    simp only [mesh, found]
  case h_4 => exact absurd found locateRegister_ne_scratch
  case h_5 =>
    unfold State.locatePeer at found ⊢
    dsimp only at found ⊢
    rw [modid]
    split at found
    · rw [mesh, if_pos ‹_›, found]
    · split at found
      · cases found
      · split at found
        · cases found
        · split at found <;> cases found
  case h_6 => cases found

end

end Sys2Proof.Machine
end

section
/-! O23 holds. HANGW names a word of a scratchpad, cabinet 7 included; the hang trap puts 1 there. -/

namespace Sys2Proof.Machine

/-- A physical bit of a scratchpad, by its quad. -/
theorem inScratchpad_of_word {key : Nat} (low : scratchBase 0 ≤ key) (high : key < trackBase 0) (word : key % 64 = 0) :
    InScratchpad ((key - scratchBase 0) / 2 ^ 20) key 64 := by
  unfold scratchBase trackBase at *
  unfold InScratchpad scratchBase
  omega

/-- A PUT at an empty word of a scratchpad, where nothing waits. -/
theorem State.putWord_scratchpad {s : State} {q key : Nat} (who : Who) (inside : InScratchpad q key 64) (wf : s.MemoryWf)
    (clean : s.bad = []) (quiet : (s.quad q).deferred = []) (empty : key / 64 ∉ s.full) (v : Nat) :
    ∃ t, s.putWord who key v = (t, true) ∧ (s.fill key).Quiet t ∧ (s.fill key).Writes t q key (key + 64) v := by
  have put := State.puts_homeStore (s := s.fill key) who wf clean inside (by decide) v
  refine ⟨_, ?_, put.still quiet, put.writes⟩
  have none : s.isFull key = false := by simpa [State.isFull] using empty
  simp [State.putWord, none]

theorem mem_sortedInsert (l : List Nat) (k j : Nat) : j ∈ sortedInsert l k ↔ j = k ∨ j ∈ l := by
  induction l with
  | nil => simp [sortedInsert]
  | cons a r ih =>
    unfold sortedInsert
    split
    · simp
    · split
      · rename_i same
        simp [same]
      · simp only [List.mem_cons, ih]
        tauto

/-- Settles O23: the trap value is PUT to the word that HANGW names. -/
theorem hangTrapSignals : Obligations.HangTrapSignals := by
  unfold Obligations.HangTrapSignals
  intro s l key q hung nobuf word wf clean located low high empty quiet
  have inside := inScratchpad_of_word low high (State.locate_aligned located)
  obtain ⟨r, hr⟩ : ∃ r, r = s.modPart fun p => { p with reported := l } := ⟨_, rfl⟩
  have found : r.locate 0 false false .atomic s.part.hangw 64 64 = .ok [⟨key, 64⟩] (.scratch q) := by
    rw [hr]
    exact State.locate_scratch_congr (s := s) rfl rfl located
  obtain ⟨t, put, still, written⟩ := State.putWord_scratchpad (s := r) (.hardware 0) inside (by rw [hr]; exact wf)
    (by rw [hr]; exact clean) (by rw [hr]; exact quiet _) (by rw [hr]; exact empty) 1
  have next : exec .hangTrap s = .next t := by
    have hangw : r.part.hangw = s.part.hangw := by rw [hr]; rfl
    have unsnapped : r.snapshot l = r := by rw [State.snapshot, if_pos (by rw [hr]; exact nobuf)]
    have signalled : r.signal none 1 = t := by
      simp only [State.signal, hangw, word, if_false, State.putAt, found]
      rw [show (1 : Word).toNat = 1 from rfl, put]
    show execHangTrap s = _
    simp only [execHangTrap, hung, ← hr, hangw, word, if_false, unsnapped, signalled]
  refine ⟨t, next, ?_, ?_, ?_, ?_⟩
  · have before (k : Nat) : (r.fill key).bit k = s.bit k := State.bit_of_mem (by rw [hr]; rfl) (by rw [hr]; rfl) (by rw [hr]; rfl) (by rw [hr]; rfl) k
    exact written.stored.congr before fun _ => rfl
  · rw [still.frame]
    exact (mem_sortedInsert _ _ _).2 (.inl rfl)
  · rw [still.frame, hr]; rfl
  · rw [still.frame, hr]; rfl

end Sys2Proof.Machine
end

section
/-! O21 holds. A payload is copied out of the scratchpad at issue, waits in its route's buffer for its slot, flies, and lands (R113, R114). -/

namespace Sys2Proof.Machine

variable {s : State}

theorem State.find_setRoute (s : State) (id : Nat) (r : Route) : (s.setRoute id r).part.routes.find id = some r :=
  Tbl.find_set_self s.part.routes id r

theorem State.timed_after {u : State} (now : u.now = s.now) (n : Nat) (i : Instr) : s.Timed (u.after n i) n i := by
  rw [State.Timed, State.after_timers, now]
  exact mem_insertTimer _ _ _

/-- The frame in which a payload leaves is the first from the one asked for whose slot has not passed (R113). -/
theorem frameFor_first (slot t f : Nat) :
    f ≤ frameFor slot t f ∧ t ≤ 1024 * frameFor slot t f + slot ∧
    (∀ h, f ≤ h → h < frameFor slot t f → 1024 * h + slot < t) ∧ (frameFor slot t f = f ↔ t ≤ 1024 * f + slot) := by
  unfold frameFor
  split
  · exact ⟨Nat.le_refl _, ‹_›, fun h _ _ => by omega, by simpa⟩
  · exact ⟨by omega, by omega, fun h _ _ => by omega, by omega⟩

theorem State.Names.payload {a : Word} {w key n : Nat} (h : s.Names s.cur a w 256 key) (fits : 256 * n ≤ w)
    (plain : packedWidth (256 * n) = false) : s.payload a n = .ok [⟨key, 256 * n⟩] (.scratch (quadOf s.cur)) := by
  simp [State.payload, h.located fits (dvd_refl 256) plain, h.space]

theorem State.frameBase_eq (s : State) (r : Route) {rel : Nat} (based : s.frameBase r = some rel) : (s.frameBase r).getD 0 = rel := by
  rw [based, Option.getD_some]

section
variable {id : BitVec 8} {rs1 rs2 : Reg} {r : Route} {rel key : Nat} (found : s.part.routes.find id.toNat = some r)
include found

/-- SXMIT of one beat where the buffer is free (R113, R180). -/
theorem State.exec_sxmit (based : s.frameBase r = some rel) (src : r.decl.src = s.cur) (empty : r.buffer = none)
    (free : r.freeAt ≤ s.now) (one : r.decl.beats = 1) (clean : s.bad = []) (names : s.Names s.cur (s.reg rs1) 256 256 key) :
    let f := (s.reg rs2).toNat
    let g := frameFor r.decl.slot (s.now - rel) f
    let due := rel + 1024 * g + r.decl.slot
    exec (.sxmit id rs1 rs2) s = .next (((s.setRoute id.toNat { r with
        buffer := some [BitVec.ofNat 256 (s.bitsAt key 256)], leave := g, freeAt := due + 1
        misses := if s.now - rel ≤ 1024 * f + r.decl.slot then r.misses else r.misses + 1 }).after
      (due - s.now) (.routeSlotInject id)).resume.advance) := by
  have beats : ((s.part.routes.find id.toNat).map fun r => r.decl.beats).getD 1 = 1 := by rw [found]; exact one
  have located := names.payload (n := 1) (Nat.le_refl _) rfl
  have route : s.routeAt id.toNat s.cur true = some r := by simp [State.routeAt, found, src]
  have loaded := State.loadParts_scratch (ps := [⟨key, 256⟩]) (.strand s.cur (s.strand s.here).sfp) clean
    (fun p hp => by rw [List.mem_singleton.1 hp]; exact names.within)
  have ready : ¬ (r.buffer.isSome = true ∨ s.now < r.freeAt) := by simp [empty]; omega
  show execSxmit id rs1 rs2 s = _
  simp only [execSxmit, beats, located, route, based, ready, if_false, Nat.mul_one, loaded, State.partsAt_single, List.range_one,
    List.map_cons, List.map_nil, Nat.mul_zero, Nat.pow_zero, Nat.div_one]

/-- In its slot a payload leaves its buffer (R113). -/
theorem State.exec_routeSlotInject (based : s.frameBase r = some rel) {b : List Wide} (held : r.buffer = some b)
    (due : rel + 1024 * r.leave + r.decl.slot ≤ s.now) :
    exec (.routeSlotInject id) s = .next ((s.setRoute id.toNat { r with
        buffer := none, flying := r.flying ++ [(r.detoured, b)], freeAt := s.now + r.decl.beats }).after
      (r.latency + r.decl.beats - 1) (.routeLand id)).traffic := by
  show execRouteSlotInject id s = _
  simp only [execRouteSlotInject, found, held, s.frameBase_eq r based, Nat.not_lt.2 due, if_false]

/-- The oldest payload in flight, of one beat, is written to the landing buffer (R113, R362). -/
theorem State.exec_routeLand {dynamic : Bool} {w : Wide} {rest : List (Bool × List Wide)} (flying : r.flying = (dynamic, [w]) :: rest) :
    exec (.routeLand id) s = .next ((s.homeStore (.hardware r.decl.dst) (scratchBase (quadOf r.decl.dst) + r.decl.land) 256
      w.toNat).setRoute id.toNat { r with
        flying := rest, arrivals := r.arrivals + 1, misses := if dynamic then r.misses + 1 else r.misses }) := by
  show execRouteLand id s = _
  simp only [execRouteLand, found, flying, List.foldl_cons, List.foldl_nil, Nat.mul_zero, Nat.add_zero]

/-- SXWAIT goes on where the count has come (R114). -/
theorem State.exec_sxwait (dst : r.decl.dst = s.cur) (come : (r.arrivals - (s.reg rs1).extractLsb' 0 32).toNat < 2 ^ 31) :
    exec (.sxwait id rs1) s = .next s.resume.advance := by
  have route : s.routeAt id.toNat s.cur false = some r := by simp [State.routeAt, found, dst]
  show execSxwait id rs1 s = _
  simp only [execSxwait, route, come, if_true]

end

/-- The landing buffer of a route lies in its destination's scratchpad. -/
theorem landing_inScratchpad {dst land : Nat} (core : dst < 2 ^ 20) (place : land < 7 * 2 ^ 17) :
    InScratchpad (quadOf dst) (scratchBase (quadOf dst) + land) 256 := by
  unfold InScratchpad quadOf coreX coreY
  omega

/-- Settles O21: each step of a payload's way, from the equation of its form. -/
theorem routesCarryPayloads : Obligations.RoutesCarryPayloads := by
  unfold Obligations.RoutesCarryPayloads
  intro s id rs1 rs2 r rel key found based past _ clean running f due
  refine ⟨fun src empty free one names => ?_, fun b held due => ?_, fun dynamic w rest flying wf place core still => ?_,
    fun dst come => ?_⟩
  · obtain ⟨later, unpassed, first, same⟩ := frameFor_first r.decl.slot (s.now - rel) (s.reg rs2).toNat
    refine ⟨_, State.exec_sxmit found based src empty free one clean names, _, later, by show s.now ≤ rel + _ + _; omega, fun h low high => ?_, ?_, ?_, ?_⟩
    · have := first h low high
      show rel + _ + _ < s.now
      omega
    · simp only [← same]
      split <;> exact State.find_setRoute _ _ _
    · exact State.timed_after rfl _ _
    · exact State.qwait_reached running
  · refine ⟨_, State.exec_routeSlotInject found based held due, State.find_setRoute _ _ _, State.timed_after rfl _ _, rfl⟩
  · have put := State.puts_homeStore (.hardware r.decl.dst) wf clean (landing_inScratchpad core place) (by decide) w.toNat
    refine ⟨_, State.exec_routeLand found flying, put.writes.stored.congr (fun _ => rfl) fun k => State.bit_modPart _ _ k, ?_⟩
    rw [State.find_setRoute]
    cases dynamic <;> rfl
  · exact ⟨_, State.exec_sxwait found dst come, State.qwait_reached running⟩

end Sys2Proof.Machine
end

section
/-! Changes of one bank made one after the other are one change, so an instruction that goes on, or that passes a suspension point and goes
on, is one change of the executing bank (R97, R136). -/

namespace Sys2Proof.Machine

theorem Tbl.set_set {α : Type} (t : Tbl α) (k : Nat) (v w : α) : (Tbl.set t k v).set k w = Tbl.set t k w := by
  induction t with
  | nil => simp [Tbl.set]
  | cons e r ih =>
    obtain ⟨j, x⟩ := e
    by_cases below : k < j
    · simp [Tbl.set, below]
    · by_cases same : j = k
      · simp [Tbl.set, same]
      · simp [Tbl.set, below, same, ih]

variable (s : State)

theorem State.setBank_setBank (p : Place) (b b' : Bank) : (s.setBank p b).setBank p b' = s.setBank p b' := by
  simp only [State.setBank, State.modCore, State.core_setCore_self, Vector.set_set]
  exact congrArg (fun t => { s with cores := t }) (Tbl.set_set ..)

theorem State.modBank_modBank (p : Place) (f g : Bank → Bank) : (s.modBank p f).modBank p g = s.modBank p fun b => g (f b) := by
  rw [State.modBank, State.bank_modBank_self, State.modBank, State.setBank_setBank]
  rfl

/-- A bank whose strand runs and has gone past its instruction. -/
def Bank.goOn (b : Bank) : Bank := { b with status := .running, strand := { b.strand with pc := b.strand.pc + 32 } }

/-- A bank whose strand runs and has passed a suspension point at its instruction. -/
def Bank.passOn (b : Bank) : Bank := { b with status := .running, strand := { b.strand.pass with pc := b.strand.pc + 32 } }

theorem State.advance_modBank (f : Bank → Bank) : (s.modBank s.here f).advance =
    s.modBank s.here fun b => { f b with strand := { (f b).strand with pc := (f b).strand.pc + 32 } } := by
  rw [State.advance, State.setPc, State.here_modBank, State.modStrand, State.modBank_modBank, State.pc, State.here_modBank, State.strand,
    State.bank_modBank_self]
  rfl

theorem State.goOn_modBank (f : Bank → Bank) : (s.modBank s.here f).resume.advance = s.modBank s.here fun b => (f b).goOn := by
  rw [State.resume, State.setStatus, State.here_modBank, State.modBank_modBank, State.advance_modBank]
  rfl

theorem State.passHere_advance_modBank (f : Bank → Bank) :
    (s.modBank s.here f).passHere.advance = s.modBank s.here fun b => (f b).passOn := by
  rw [State.passHere, State.resume, State.setStatus, State.here_modBank, State.modBank_modBank, State.modStrand, State.modBank_modBank,
    State.advance_modBank]
  rfl

theorem Strand.reg_pass (a : Strand) (r : Reg) : a.pass.reg r = a.kept r := by
  have named (n : Nat) (h : n < 32) (at' : r.toNat = n) : r = BitVec.ofNat 5 n := BitVec.eq_of_toNat_eq (by simp [at']; omega)
  by_cases handed : 10 ≤ r.toNat ∧ r.toNat ≤ 13
  · rw [Strand.kept, if_pos handed]
    obtain e | e | e | e : r.toNat = 10 ∨ r.toNat = 11 ∨ r.toNat = 12 ∨ r.toNat = 13 := by omega
    all_goals
      rw [named _ (by omega) e]
      rfl
  · rw [Strand.kept, if_neg handed, Strand.reg]
    split
    · rfl
    · have ne (n : Nat) (h : 10 ≤ n ∧ n ≤ 13) : n ≠ r.toFin.val := fun e => handed (by rw [e] at h; exact h)
      simp only [Strand.pass, Fin.getElem_fin, Vector.getElem_set_ne _ _ (ne 13 (by decide)), Vector.getElem_set_ne _ _ (ne 12 (by decide)),
        Vector.getElem_set_ne _ _ (ne 11 (by decide)), Vector.getElem_set_ne _ _ (ne 10 (by decide)), Strand.reset, Vector.getElem_replicate]

theorem Bank.passed_passOn (b : Bank) : b.strand.Passed b.passOn.strand b.strand.kept :=
  ⟨rfl, fun r => b.strand.reg_pass r⟩

end Sys2Proof.Machine
end

section
/-! Barrier channels: the phase that BPEND records, and what a release leaves of the channels, the banks and memory (R108, R109). -/

namespace Sys2Proof.Machine

/-! ## BPEND (R109) -/

theorem nibble_recordPhase (bpend : Word) (phase : Nat) {ch : Nat} (hch : ch < 16) : nibble (recordPhase bpend ch phase) ch = 8 + phase % 8 := by
  have value : nibble (recordPhase bpend ch phase) ch = nibble (BitVec.ofNat 64 ((8 + phase % 8) * 2 ^ (4 * ch))) ch :=
    nibble_testBit _ _ _ fun i hi => by
      rw [recordPhase, getLsbD_takeNibble _ _ _ _ (by omega), if_pos (by omega)]
  rw [value, nibble, toNat_extractLsb', BitVec.toNat_ofNat]
  have small : (8 + phase % 8) * 2 ^ (4 * ch) < 2 ^ 64 := by
    calc (8 + phase % 8) * 2 ^ (4 * ch) < 2 ^ 4 * 2 ^ (4 * ch) := Nat.mul_lt_mul_of_pos_right (by omega) (Nat.two_pow_pos _)
      _ = 2 ^ (4 + 4 * ch) := (Nat.pow_add 2 4 (4 * ch)).symm
      _ ≤ 2 ^ 64 := Nat.pow_le_pow_right (by omega) (by omega)
  rw [Nat.mod_eq_of_lt small, Nat.mul_div_cancel _ (Nat.two_pow_pos _)]
  omega

theorem nibble_recordPhase_ne (bpend : Word) (phase : Nat) {ch k : Nat} (hk : k < 16) (other : k ≠ ch) :
    nibble (recordPhase bpend ch phase) k = nibble bpend k :=
  nibble_testBit _ _ _ fun i hi => by
    rw [recordPhase, getLsbD_takeNibble _ _ _ _ (by omega), if_neg (by omega)]

/-- BPEND without the mark that a phase of a channel is recorded. -/
def forgetPhase (bpend : Word) (ch : Nat) : Word := bpend &&& ~~~((8#64) <<< (4 * ch))

theorem getLsbD_forgetPhase (bpend : Word) (ch : Nat) {i : Nat} (hi : i < 64) :
    (forgetPhase bpend ch).getLsbD i = (bpend.getLsbD i && !decide (i = 4 * ch + 3)) := by
  have mark : (8#64 <<< (4 * ch)).getLsbD i = decide (i = 4 * ch + 3) := by
    have eight (j : Nat) : (8#64).getLsbD j = decide (j = 3) := by
      rw [BitVec.getLsbD_ofNat, show (8 : Nat) = 2 ^ 3 from rfl, Nat.testBit_two_pow]
      by_cases h : j = 3 <;> simp [h, eq_comm]
    rw [BitVec.getLsbD_shiftLeft, eight]
    by_cases low : i < 4 * ch
    · simp [hi, low]
      omega
    · simp only [hi, low, decide_true, decide_false, Bool.not_false, Bool.true_and]
      exact decide_eq_decide.2 (by omega)
  rw [forgetPhase, BitVec.getLsbD_and, BitVec.getLsbD_not, mark]
  simp [hi]

theorem nibble_lt_eight_iff (w : Word) (ch : Nat) : nibble w ch < 8 ↔ w.getLsbD (4 * ch + 3) = false := by
  rw [nibble, toNat_extractLsb', BitVec.getLsbD, Nat.testBit_eq_decide_div_mod_eq, Nat.pow_add, ← Nat.div_div_eq_div_mul]
  simp only [decide_eq_false_iff_not]
  omega

theorem nibble_forgetPhase_lt (bpend : Word) {ch : Nat} (hch : ch < 16) : nibble (forgetPhase bpend ch) ch < 8 := by
  rw [nibble_lt_eight_iff, getLsbD_forgetPhase _ _ (by omega)]
  simp

theorem nibble_forgetPhase_ne (bpend : Word) {ch k : Nat} (hk : k < 16) (other : k ≠ ch) :
    nibble (forgetPhase bpend ch) k = nibble bpend k :=
  nibble_testBit _ _ _ fun i hi => by
    rw [getLsbD_forgetPhase _ _ (by omega), decide_eq_false (by omega)]
    simp

/-- A recorded phase that has been released is not awaited. -/
theorem State.phaseAwaited_of_released {s : State} {a : Strand} {ch : Nat} (released : nibble a.bpend ch < 8 ∨
    ∃ n, a.joined.find ch = some n ∧ n % 8 = nibble a.bpend ch % 8 ∧ n < (s.channel ch).phase) : s.phaseAwaited a ch = false := by
  obtain none | ⟨n, joined, same, past⟩ := released
  · have unmarked := (nibble_lt_eight_iff _ _).1 none
    simp [State.phaseAwaited, recordedPhase, unmarked]
  · simp only [State.phaseAwaited, recordedPhase, joined, same, if_true]
    split
    · simp [past]
    · rfl


/-! ## BARR and BWAIT (R109, R179) -/

variable (s : State)

theorem Tbl.get_count (t : Tbl Nat) (ch k : Nat) : (Tbl.set t ch (t.get 0 ch + 1)).get 0 k = t.get 0 k + if k = ch then 1 else 0 := by
  rw [Tbl.get_set]
  split
  · next same => rw [same]
  · rfl

/-- A bank that has gone on past a BARR of a channel in a phase. -/
def Bank.arrive (ch phase : Nat) (b : Bank) : Bank :=
  Bank.goOn { b with strand := { b.strand with bpend := recordPhase b.strand.bpend ch phase, joined := b.strand.joined.set ch phase } }

/-- A core's arrival counted (R108). -/
def State.countArrival (s : State) (ch : Nat) : State :=
  s.modCore s.cur fun k => { k with arrivals := k.arrivals.set ch (k.arrivals.get 0 ch + 1) }

theorem State.here_countArrival (ch : Nat) : (s.countArrival ch).here = s.here := by
  rw [State.countArrival, State.here, State.here, State.modCore_cur, State.core_modCore_self]

theorem State.bank_countArrival (ch : Nat) (p : Place) : (s.countArrival ch).bank p = s.bank p :=
  s.bank_modCore_banks s.cur (by rfl) p

theorem State.core_countArrival (ch : Nat) : (s.countArrival ch).core s.cur =
    { s.core s.cur with arrivals := (s.core s.cur).arrivals.set ch ((s.core s.cur).arrivals.get 0 ch + 1) } :=
  s.core_modCore_self s.cur _

/-- The state in which a BARR of a channel goes on, but for the release that it may have set. -/
def State.arrive (s : State) (ch : Nat) : State :=
  (s.countArrival ch).modBank s.here (Bank.arrive ch (s.channel ch).phase)

theorem State.barr_arrives (c : BitVec 4) (member : s.channelOk s.cur c.toNat = true) (free : s.barrWaits c.toNat = false) :
    ∃ l, s.barr c = { s.arrive c.toNat with timers := l } := by
  have counted : ((s.countArrival c.toNat).modStrand (s.countArrival c.toNat).here fun st =>
      { st with bpend := recordPhase st.bpend c.toNat ((s.countArrival c.toNat).channel c.toNat).phase,
                joined := st.joined.set c.toNat ((s.countArrival c.toNat).channel c.toNat).phase }).resume.advance = s.arrive c.toNat := by
    rw [State.modStrand, State.goOn_modBank, State.here_countArrival]
    rfl
  have taken : s.barr c = if (s.arrive c.toNat).phaseOver c.toNat &&
      !((s.arrive c.toNat).timers.any fun e => decide (e.2 = .barrierRelease c)) then
        (s.arrive c.toNat).after ((s.arrive c.toNat).releaseLatency c.toNat) (.barrierRelease c) else s.arrive c.toNat := by
    rw [← counted, State.barr, member, free]
    rfl
  rw [taken]
  split
  · exact ⟨_, rfl⟩
  · exact ⟨_, rfl⟩

/-- What a BARR that does not wait leaves (R108, R109). -/
theorem State.barr_spec (c : BitVec 4) (member : s.channelOk s.cur c.toNat = true) (free : s.barrWaits c.toNat = false)
    (running : (s.bank s.here).status = .running) {t : State} (done : t = s.barr c) : let ch := c.toNat
    let a := s.strand s.here
    let phase := (s.channel ch).phase
    t.core s.cur = { s.core s.cur with banks := (t.core s.cur).banks, arrivals := (t.core s.cur).arrivals } ∧
    (∀ k, (t.core s.cur).arrivals.get 0 k = (s.core s.cur).arrivals.get 0 k + if k = ch then 1 else 0) ∧
    t.bank s.here = { s.bank s.here with strand :=
      { a with pc := a.pc + 32, bpend := (t.strand s.here).bpend, joined := a.joined.set ch phase } } ∧
    nibble (t.strand s.here).bpend ch = 8 + phase % 8 ∧
    (∀ k < 16, k ≠ ch → nibble (t.strand s.here).bpend k = nibble a.bpend k) ∧
    (∀ q, q ≠ s.here → t.bank q = s.bank q) ∧ t = { s with cores := t.cores, timers := t.timers } := by
  intro ch a phase
  obtain ⟨l, arrived⟩ := s.barr_arrives c member free
  rw [arrived] at done
  have cores (k : Nat) : t.core k = (s.arrive ch).core k := by rw [done]; rfl
  have banks (q : Place) : t.bank q = (s.arrive ch).bank q := by rw [done]; rfl
  have core : t.core s.cur = { s.core s.cur with
      arrivals := (s.core s.cur).arrivals.set ch ((s.core s.cur).arrivals.get 0 ch + 1)
      banks := (s.core s.cur).banks.set s.here.bank ((s.bank s.here).arrive ch phase) } := by
    rw [cores, State.arrive, State.modBank, State.bank_countArrival]
    exact (State.core_modCore_self ..).trans (congrArg
      (fun k : Core => { k with banks := k.banks.set s.here.bank ((s.bank s.here).arrive ch phase) }) (s.core_countArrival ch))
  have bank : t.bank s.here = (s.bank s.here).arrive ch phase := by
    rw [banks, State.arrive, State.bank_modBank_self, State.bank_countArrival]
  have strand : (t.strand s.here).bpend = recordPhase a.bpend ch phase := by rw [State.strand, bank]; rfl
  refine ⟨by rw [core], fun k => ?_, ?_, ?_, fun k hk other => ?_, fun q other => ?_, ?_⟩
  · rw [core]
    exact Tbl.get_count ..
  · rw [strand, bank, Bank.arrive, Bank.goOn, ← running]
    rfl
  · rw [strand]
    exact nibble_recordPhase _ _ c.isLt
  · rw [strand]
    exact nibble_recordPhase_ne _ _ hk other
  · rw [banks, State.arrive, State.modBank, State.bank_setBank_ne _ _ other, State.bank_countArrival]
  · rw [done]
    rfl

/-- A bank that has passed BWAIT of a channel. -/
def Bank.passWait (ch : Nat) (b : Bank) : Bank :=
  Bank.passOn { b with strand := { b.strand with bpend := forgetPhase b.strand.bpend ch, joined := b.strand.joined.erase ch } }

theorem State.obeyMark_of_none (unmarked : (s.bank s.here).mark = none) : s.obeyMark = s := by
  rw [State.obeyMark, unmarked]
  rfl

theorem State.exec_bwait (c : BitVec 4) (member : s.channelOk s.cur c.toNat = true) (drained : s.mustDrainVectors = false)
    (undrained : s.NoDrain) (past : s.phaseAwaited (s.strand s.here) c.toNat = false) (unmarked : (s.bank s.here).mark = none) :
    exec (.bwait c) s = .next (s.modBank s.here (Bank.passWait c.toNat)) := by
  have taken : exec (.bwait c) s = .next (s.whenDrained true fun s =>
      if s.phaseAwaited (s.strand s.here) c.toNat then
        ((s.setStatus s.here (.stalled .bwait (BitVec.ofNat 64 c.toNat) 0)).beginWait s.here).switch s.cur
      else (s.modStrand s.here fun st =>
        { st with bpend := forgetPhase st.bpend c.toNat, joined := st.joined.erase c.toNat }).passOn) := by
    show execBwait c s = _
    rw [execBwait, member]
    rfl
  rw [taken, s.whenDrained_of_noDrain drained undrained, past, State.passOn, State.modStrand, State.passHere_advance_modBank,
    State.obeyMark_of_none]
  · rfl
  · rw [State.here_modBank, State.bank_modBank_self]
    exact unmarked

/-- A channel that the partition was not granted, or of which the core is no member, is a barrier fault (R108). -/
theorem State.barrier_traps (c : BitVec 4) (refused : s.channelOk s.cur c.toNat = false) {i : Instr}
    (hi : i ∈ [Instr.barrNone c, .barrNamed c, .barrAll c, .bwait c]) : exec i s = .next (s.trap .barrier s.wordHere) := by
  have barr : s.barr c = s.trap .barrier s.wordHere := by rw [State.barr, refused]; rfl
  simp only [List.mem_cons, List.not_mem_nil, or_false] at hi
  obtain rfl | rfl | rfl | rfl := hi
  · rw [← barr]
    rfl
  · rw [← barr]
    rfl
  · rw [← barr]
    rfl
  · show execBwait c s = _
    rw [execBwait, refused]
    rfl

theorem State.channelOk_iff (k ch : Nat) : s.channelOk k ch = true ↔ s.part.grant.getLsbD ch = true ∧ (s.core k).bcnt ch ≠ 0 := by
  simp [State.channelOk]

/-! ## A release (R108, R309, R382) -/

/-- Neither a channel, nor memory, nor a bank or a count of arrivals differs. -/
structure State.SameChannels (s t : State) : Prop where
  channels : t.part.channels = s.part.channels
  mem : t.mem = s.mem
  banks : ∀ c, (t.core c).banks = (s.core c).banks
  arrivals : ∀ c, (t.core c).arrivals = (s.core c).arrivals

theorem State.SameChannels.refl (s : State) : s.SameChannels s := ⟨rfl, rfl, fun _ => rfl, fun _ => rfl⟩

theorem State.SameChannels.trans {s t u : State} (h : s.SameChannels t) (k : t.SameChannels u) : s.SameChannels u :=
  ⟨k.channels.trans h.channels, k.mem.trans h.mem, fun c => (k.banks c).trans (h.banks c),
    fun c => (k.arrivals c).trans (h.arrivals c)⟩

theorem State.SameChannels.foldl {α : Type} {f : State → α → State} (each : ∀ (s : State) a, s.SameChannels (f s a)) (s : State)
    (l : List α) : s.SameChannels (l.foldl f s) := by
  induction l generalizing s with
  | nil => exact .refl s
  | cons a l ih => exact (each s a).trans (ih _)

theorem State.core_map {s t : State} {f : Core → Core} (mapped : t.cores = s.cores.map fun e => (e.1, f e.2)) (c : Nat) :
    t.core c = f (s.core c) ∨ t.core c = s.core c ∧ s.core c = .reset := by
  rw [State.core, State.core, Tbl.get_eq_find, Tbl.get_eq_find, mapped, Tbl.find_map]
  cases s.cores.find c
  · exact .inr ⟨rfl, rfl⟩
  · exact .inl rfl

/-- A core as a release leaves it: no arrival is counted, and the records that waited are runnable. -/
def Core.endPhase (k : Core) (ch now : Nat) : Core := { k with arrivals := k.arrivals.erase ch }.wakeParked ch now

/-- A channel's phase ended at every core. -/
def State.endPhase (s : State) (ch : Nat) : State :=
  { s.modPart fun p => { p with channels := p.channels.set ch ⟨(s.channel ch).phase + 1, some s.now⟩ } with
    cores := s.cores.map fun (e : Nat × Core) => (e.1, e.2.endPhase ch s.now) }

theorem State.sameChannels_adopt (ch : Nat) : s.SameChannels (s.adopt ch) := by
  have each := State.core_map (s := s) (t := s.adopt ch) (f := (·.takeChannel ch)) rfl
  refine ⟨rfl, rfl, fun c => ?_, fun c => ?_⟩
  · obtain e | ⟨e, -⟩ := each c <;> rw [e]
    rfl
  · obtain e | ⟨e, -⟩ := each c <;> rw [e]
    rfl

theorem State.sameChannels_modPart {f : Partition → Partition} (same : (f s.part).channels = s.part.channels) :
    s.SameChannels (s.modPart f) := ⟨same, rfl, fun _ => rfl, fun _ => rfl⟩

theorem State.sameChannels_adoptIdle : s.SameChannels s.adoptIdle := by
  have adopted := State.SameChannels.foldl (f := fun s ch => if s.arrived ch then s else s.adopt ch) (fun s ch => by
    split
    · exact .refl s
    · exact s.sameChannels_adopt ch) s (List.range 16)
  rw [State.adoptIdle]
  generalize (List.range 16).foldl (fun s ch => if s.arrived ch then s else s.adopt ch) s = t at adopted ⊢
  split
  · exact adopted
  · exact adopted.trans (t.sameChannels_modPart rfl)

theorem State.sameChannels_refill (l : List Nat) : s.SameChannels (s.refill l) :=
  State.SameChannels.foldl (f := fun s c => s.post (.bankFill c)) (fun _ _ => ⟨rfl, rfl, fun _ => rfl, fun _ => rfl⟩) s l

theorem State.sameChannels_holdMembers (l : List Nat) : s.SameChannels (s.holdMembers l) := by
  rw [State.holdMembers]
  dsimp only
  split
  · exact .refl s
  · refine (State.SameChannels.foldl (fun s c => ?_) s l).trans (State.SameChannels.foldl (fun s r => ?_) _ _)
    · exact ⟨rfl, rfl, fun _ => rfl, fun _ => rfl⟩
    · split
      · exact ⟨rfl, rfl, fun _ => rfl, fun _ => rfl⟩
      · exact .refl s

theorem State.exec_barrierRelease (c : BitVec 4) : exec (.barrierRelease c) s =
    .next ((((s.endPhase c.toNat).adopt c.toNat).adoptIdle.refill ((s.endPhase c.toNat).members c.toNat)).holdMembers
      (s.members c.toNat)) := by
  show execBarrierRelease c s = _
  unfold execBarrierRelease State.endPhase
  rfl

/-- What a release leaves. -/
theorem State.released (c : BitVec 4) : let ch := c.toNat
    Done (exec (.barrierRelease c) s) fun t =>
      (t.channel ch).phase = (s.channel ch).phase + 1 ∧ (t.channel ch).lastRelease = some s.now ∧
      (∀ k, k ≠ ch → t.channel k = s.channel k) ∧ (∀ k, (t.core k).arrivals.get 0 ch = 0) ∧
      (∀ p, (t.bank p).strand = (s.bank p).strand) ∧ t.mem = s.mem := by
  intro ch
  have same := ((((s.endPhase ch).sameChannels_adopt ch).trans (State.sameChannels_adoptIdle _)).trans
    (State.sameChannels_refill _ ((s.endPhase ch).members ch))).trans (State.sameChannels_holdMembers _ (s.members ch))
  refine ⟨_, s.exec_barrierRelease c, ?_⟩
  generalize ((((s.endPhase ch).adopt ch).adoptIdle.refill _).holdMembers (s.members ch)) = t at same ⊢
  obtain ⟨channels, mem, banks, arrivals⟩ := same
  have ended := State.core_map (s := s) (t := s.endPhase ch) (f := fun k => k.endPhase ch s.now) rfl
  have channel (k : Nat) : t.channel k = if k = ch then ⟨(s.channel ch).phase + 1, some s.now⟩ else s.channel k := by
    rw [State.channel, channels]
    exact Tbl.get_set ..
  refine ⟨by rw [channel, if_pos rfl], by rw [channel, if_pos rfl], fun k other => by rw [channel, if_neg other], fun k => ?_,
    fun p => ?_, mem⟩
  · rw [arrivals]
    obtain e | ⟨e, empty⟩ := ended k
    · rw [e]
      exact Tbl.get_erase_self ..
    · rw [e, empty]
      rfl
  · have bank : (t.core p.core).banks = (s.core p.core).banks := by
      rw [banks]
      obtain e | ⟨e, -⟩ := ended p.core <;> rw [e]
      rfl
    rw [State.bank, bank, State.bank]

/-- Settles O20: a BARR and a BWAIT change the executing bank, and BARR its core's count of arrivals; a release ends the phase at every core,
and what follows it changes no channel, no bank and no memory. -/
theorem barriers : Obligations.Barriers := by
  unfold Obligations.Barriers
  refine ⟨fun s c => ?_, fun s c => ⟨s.released c, fun refused handles i hi => ?_⟩⟩
  · intro ch granted member a phase
    have ok := (s.channelOk_iff s.cur ch).2 ⟨granted, member⟩
    refine ⟨fun free running i hi => ?_, fun drained none past unmarked => ?_⟩
    · have barr : exec i s = .next (s.barr c) := by
        simp only [List.mem_cons, List.not_mem_nil, or_false] at hi
        obtain rfl | rfl | rfl := hi <;> rfl
      exact ⟨_, barr, s.barr_spec c ok free running rfl⟩
    · have bank := s.bank_modBank_self s.here (Bank.passWait ch)
      have strand : (s.modBank s.here (Bank.passWait ch)).strand s.here = ((s.bank s.here).passWait ch).strand := by
        rw [State.strand, bank]
      refine ⟨_, s.exec_bwait c ok drained none (State.phaseAwaited_of_released past) unmarked, s.onlyBank_modBank _ _, ?_, ?_, ?_, ?_⟩
      · rw [strand]
        exact nibble_forgetPhase_lt _ c.isLt
      · intro k hk other
        rw [strand]
        exact nibble_forgetPhase_ne _ hk other
      · rw [strand, bank]
        rfl
      · rw [strand]
        exact Bank.passed_passOn { s.bank s.here with strand := { a with bpend := forgetPhase a.bpend ch, joined := a.joined.erase ch } }
  · refine ⟨_, s.barrier_traps c ?_ hi, s.trapped_trap handles .barrier s.wordHere⟩
    rw [← Bool.not_eq_true, s.channelOk_iff]
    rintro ⟨granted, member⟩
    obtain ungranted | outside := refused
    · rw [granted] at ungranted
      cases ungranted
    · exact member outside

end Sys2Proof.Machine
end

section
/-! SUSPEND and YIELD: the executing strand passes a suspension point and its core goes to its next ready bank (R97, R98, R99). -/

namespace Sys2Proof.Machine

variable (s : State)

theorem State.whenDrained_eq (vec : Bool) (drained : (if vec then s.mustDrainVectors else s.mustDrain) = false) (undrained : s.NoDrain)
    (f : State → State) : s.whenDrained vec f = f s := by
  have closed : (s.core s.cur).draining.contains ((s.strand s.here).sfp, vec) = false := by
    rw [List.contains_eq_mem, decide_eq_false_iff_not]
    exact fun draining => undrained _ draining rfl
  have same : s.closeDrain s.cur ((s.strand s.here).sfp, vec) = s := by
    rw [State.closeDrain, closed]
    rfl
  rw [State.whenDrained, same]
  simp only [drained]
  rfl

/-- Only the agenda is longer. -/
theorem State.seekBoundary_agenda (c : Nat) : ∃ l, s.agenda <+: l ∧ s.seekBoundary c = { s with agenda := l } := by
  rw [State.seekBoundary]
  split
  · exact ⟨_, List.prefix_append _ _, rfl⟩
  · exact ⟨_, List.prefix_refl _, rfl⟩

theorem State.core_switch (c : Nat) :
    (s.switch c).core c = { s.core c with cur := (s.core c).nextBank (s.core c).cur, guard := 0 } := s.core_modCore_self c _

theorem State.cur_switch (c : Nat) : ((s.switch c).core c).cur = ((s.switch c).core c).nextBank (s.core c).cur := by
  rw [State.core_switch]
  rfl

/-- The executing bank is changed, the agenda is `l`, and the core passes to its next ready bank (R99). -/
def State.handOn (f : Bank → Bank) (l : List Activity) : State := State.switch { s.modBank s.here f with agenda := l } s.cur

theorem State.handOn_spec (f : Bank → Bank) (l : List Activity) : let t := s.handOn f l
    t.bank s.here = f (s.bank s.here) ∧ (t.core s.cur).cur = (t.core s.cur).nextBank (s.core s.cur).cur ∧
    t = { s with cores := t.cores, agenda := t.agenda } ∧ (∀ q, q ≠ s.here → t.bank q = s.bank q) ∧ t.agenda = l := by
  intro t
  have banks (q : Place) : t.bank q = (s.modBank s.here f).bank q := State.bank_switch _ _ _
  have place : ((s.modBank s.here f).core s.cur).cur = (s.core s.cur).cur := by rw [State.core_modBank_here]
  refine ⟨?_, ?_, rfl, fun q other => ?_, rfl⟩
  · rw [banks, State.bank_modBank_self]
  · rw [← place]
    exact State.cur_switch { s.modBank s.here f with agenda := l } s.cur
  · rw [banks, State.modBank, State.bank_setBank_ne _ _ other]

/-- A bank whose strand has passed a suspension point and is left with a status. -/
def Bank.leave (st : Status) (b : Bank) : Bank := { b.passOn with status := st }

theorem State.passHere_advance : s.passHere.advance = s.modBank s.here Bank.passOn := by
  rw [State.passHere, State.resume, State.setStatus, State.modStrand, State.modBank_modBank, State.advance_modBank]
  rfl

/-- The strand is to be written back (R98). -/
theorem State.left_stopped : ∃ l, Activity.event (.recordWriteback s.here) ∈ l ∧
    ((((s.passHere.advance.setStatus s.here (.stopped false)).post (.recordWriteback s.here)).seekBoundary s.cur).switch s.cur) =
      s.handOn (Bank.leave (.stopped false)) l := by
  have one : s.passHere.advance.setStatus s.here (.stopped false) = s.modBank s.here (Bank.leave (.stopped false)) := by
    rw [State.passHere_advance, State.setStatus, State.modBank_modBank]
    rfl
  rw [one]
  obtain ⟨l, longer, e⟩ := ((s.modBank s.here (Bank.leave (.stopped false))).post (.recordWriteback s.here)).seekBoundary_agenda s.cur
  rw [e]
  exact ⟨l, longer.subset (List.mem_append_right _ (List.mem_singleton_self _)), rfl⟩

theorem State.left_running : s.passHere.advance.switch s.cur = s.handOn (Bank.leave .running) s.agenda := by
  rw [State.passHere_advance]
  rfl

theorem State.exec_suspend (untrapped : (s.strand s.here).trap = false) (drained : s.mustDrain = false) (undrained : s.NoDrain) :
    exec .suspend s = .next
      ((((s.passHere.advance.setStatus s.here (.stopped false)).post (.recordWriteback s.here)).seekBoundary s.cur).switch s.cur) := by
  have taken : exec .suspend s = .next (s.whenDrained false fun s =>
      (((s.passHere.advance.setStatus s.here (.stopped false)).post (.recordWriteback s.here)).seekBoundary s.cur).switch s.cur) := by
    show execSuspend s = _
    rw [execSuspend, untrapped]
    rfl
  rw [taken, s.whenDrained_eq false drained undrained]

theorem State.exec_yield (untrapped : (s.strand s.here).trap = false) (unmarked : (s.bank s.here).mark = none)
    (drained : s.mustDrainVectors = false) (undrained : s.NoDrain) : exec .yield s = .next (if s.wanting s.cur 0 then
      (((s.passHere.advance.setStatus s.here (.stopped false)).post (.recordWriteback s.here)).seekBoundary s.cur).switch s.cur
      else s.passHere.advance.switch s.cur) := by
  show execYield s = _
  rw [execYield, s.whenDrained_eq true drained undrained]
  simp only [untrapped, unmarked, Option.isSome_none, Bool.or_false, Bool.not_false, Bool.true_and]

/-- What a strand that leaves its bank's turn at a suspension point leaves of the state. -/
theorem State.passed_handOn (st : Status) (l : List Activity) : let t := s.handOn (Bank.leave st) l
    ((s.strand s.here).Passed (t.strand s.here) (s.strand s.here).kept ∧
      t.bank s.here = { s.bank s.here with strand := t.strand s.here, status := st } ∧
      (t.core s.cur).cur = (t.core s.cur).nextBank (s.core s.cur).cur ∧
      t = { s with cores := t.cores, agenda := t.agenda } ∧ ∀ q, q ≠ s.here → t.bank q = s.bank q) ∧ t.agenda = l := by
  intro t
  obtain ⟨own, next, rest, others, agenda⟩ := s.handOn_spec (Bank.leave st) l
  have strand : t.strand s.here = (s.bank s.here).passOn.strand := congrArg (·.strand) (show t.bank s.here = (s.bank s.here).leave st from own)
  refine ⟨⟨?_, ?_, next, rest, others⟩, agenda⟩
  · rw [strand]
    exact (s.bank s.here).passed_passOn
  · rw [strand]
    exact own

end Sys2Proof.Machine
end

section
/-! What no access of hardware to memory changes, wherever it leads and whatever it wakes, replaces or retires: the bank that a core issues
from, the tracks bound on it, the owners of the press units, and the shape of the partition. -/

namespace Sys2Proof.Machine

/-- The executing bank and the bindings of every core, the owners of press units and the partition's extent are those of `r`. -/
structure State.Fixed (r s : State) : Prop where
  place : ∀ c, (s.core c).cur = (r.core c).cur
  bound : ∀ c, (s.core c).bound = (r.core c).bound
  owners : ∀ q, (s.quad q).owners = (r.quad q).owners
  inside : s.part.inside = r.part.inside

theorem State.Fixed.refl (r : State) : r.Fixed r := ⟨fun _ => rfl, fun _ => rfl, fun _ => rfl, rfl⟩

variable {r s t : State}

theorem fixed_same (h : r.Fixed s) (cores : t.cores = s.cores) (quads : t.quads = s.quads) (part : t.part = s.part) : r.Fixed t := by
  refine ⟨fun c => ?_, fun c => ?_, fun q => ?_, by rw [part, h.inside]⟩
  · rw [State.core, cores]
    exact h.place c
  · rw [State.core, cores]
    exact h.bound c
  · rw [State.quad, quads]
    exact h.owners q

theorem fixed_foldl {α : Type} {f : State → α → State} (step : ∀ s a, r.Fixed s → r.Fixed (f s a)) (l : List α) (h : r.Fixed s) :
    r.Fixed (l.foldl f s) :=
  List.foldlRecOn (motive := r.Fixed) _ _ h fun s hs a _ => step s a hs

theorem fixed_setCore (h : r.Fixed s) {c : Nat} {k : Core} (place : k.cur = (s.core c).cur) (bound : k.bound = (s.core c).bound) :
    r.Fixed (s.setCore c k) := by
  have each (d : Nat) : ((s.setCore c k).core d).cur = (s.core d).cur ∧ ((s.setCore c k).core d).bound = (s.core d).bound := by
    by_cases same : d = c
    · rw [same, State.core_setCore_self]
      exact ⟨place, bound⟩
    · rw [State.core_setCore_ne _ _ same]
      exact ⟨rfl, rfl⟩
  exact ⟨fun d => (each d).1.trans (h.place d), fun d => (each d).2.trans (h.bound d), h.owners, h.inside⟩

theorem fixed_modCore (h : r.Fixed s) {c : Nat} {f : Core → Core} (place : (f (s.core c)).cur = (s.core c).cur)
    (bound : (f (s.core c)).bound = (s.core c).bound) : r.Fixed (s.modCore c f) := fixed_setCore h place bound

theorem fixed_modQuad (h : r.Fixed s) {q : Nat} {f : Quad → Quad} (owners : (f (s.quad q)).owners = (s.quad q).owners) :
    r.Fixed (s.modQuad q f) := by
  refine ⟨h.place, h.bound, fun d => ?_, h.inside⟩
  rw [← h.owners]
  by_cases same : d = q
  · rw [same, State.quad_modQuad_self, owners]
  · rw [State.quad_modQuad_ne _ _ same]

theorem fixed_modPart (h : r.Fixed s) {f : Partition → Partition} (inside : (f s.part).inside = s.part.inside) : r.Fixed (s.modPart f) :=
  ⟨h.place, h.bound, h.owners, inside.trans h.inside⟩

theorem fixed_modBank (h : r.Fixed s) (p : Place) (f : Bank → Bank) : r.Fixed (s.modBank p f) := fixed_setCore h rfl rfl

theorem fixed_modDie (h : r.Fixed s) (d : Nat) (f : Die → Die) : r.Fixed (s.modDie d f) := fixed_same h rfl rfl rfl

theorem fixed_post (h : r.Fixed s) (i : Instr) : r.Fixed (s.post i) := fixed_same h rfl rfl rfl

/-! ## Bits, the log, groups replaced and tracks retired -/

theorem fixed_setBitsAt (h : r.Fixed s) (key w v : Nat) : r.Fixed (s.setBitsAt key w v) := by
  rw [s.setBitsAt_frame key w v]
  exact fixed_same h rfl rfl rfl

theorem fixed_logEvent (h : r.Fixed s) (kind : Nat) (core : Option Nat) (addr detail : Word) : r.Fixed (s.logEvent kind core addr detail) := by
  have lost : r.Fixed (s.modPart fun p => { p with evlost := p.evlost + 1 }) := fixed_modPart h rfl
  rw [State.logEvent]
  split
  · exact lost
  · dsimp only
    split
    · refine fixed_modPart (fixed_setBitsAt ?_ _ _ _) ?_
      · exact fixed_same h rfl rfl rfl
      · rfl
    · exact lost

theorem fixed_countReplaced (h : r.Fixed s) (core : Option Nat) (key : Nat) : r.Fixed (s.countReplaced core key) := by
  rw [State.countReplaced]
  split
  · exact fixed_modQuad h rfl
  · exact fixed_modQuad h rfl
  · exact fixed_modDie h ..

theorem fixed_bad (h : r.Fixed s) (l : List Nat) : r.Fixed { s with bad := l } := fixed_same h rfl rfl rfl

theorem fixed_zeroBad (h : r.Fixed s) (core : Option Nat) (sel g : Nat) : r.Fixed (s.zeroBad core sel g) := by
  unfold State.zeroBad
  exact fixed_logEvent (fixed_countReplaced (fixed_bad (fixed_setBitsAt h _ _ _) _) _ _) _ _ _ _

theorem fixed_markLoss (h : r.Fixed s) (sfp : Word) : r.Fixed (s.markLoss sfp) := by
  rw [State.markLoss]
  split
  · exact fixed_modBank h ..
  · split
    · split
      · refine fixed_setBitsAt ?_ _ _ _
        split
        · exact fixed_zeroBad h ..
        · exact h
      · exact h
    · exact h

theorem fixed_lose (h : r.Fixed s) (who : Who) : r.Fixed (s.lose who) := by
  rw [State.lose]
  split
  · exact fixed_markLoss h _
  · exact h

theorem fixed_replaceGroup (h : r.Fixed s) (who : Who) (sel g : Nat) : r.Fixed (s.replaceGroup who sel g) :=
  fixed_lose (fixed_zeroBad h ..) who

theorem fixed_meetBad (h : r.Fixed s) (who : Who) (whole : Nat → Bool) (key w : Nat) : r.Fixed (s.meetBad who whole key w) := by
  rw [State.meetBad]
  split
  · exact h
  · refine fixed_foldl (fun s g hs => ?_) _ h
    split
    · exact fixed_same hs rfl rfl rfl
    · exact fixed_replaceGroup hs ..

theorem fixed_retireTrack (h : r.Fixed s) (c tr : Nat) (who : Who) : r.Fixed (s.retireTrack c tr who) := by
  have told : r.Fixed (((s.modQuad (quadOf c) fun q => { q with errq := stepField q.errq 16 8 }).lose
      ⟨none, (s.core c).bound.find tr⟩).lose who) := fixed_lose (fixed_lose (fixed_modQuad h rfl) _) _
  have cleared := fixed_same (t := State.clearTrack _ c tr) told rfl rfl rfl
  rw [State.retireTrack]
  split
  · exact fixed_logEvent (fixed_modCore told rfl rfl) ..
  · refine fixed_logEvent (fixed_modCore cleared ?_ ?_) _ _ _ _ <;> rfl

theorem fixed_checkMarks (h : r.Fixed s) (who : Who) (c tr p : Nat) : r.Fixed (s.checkMarks who c tr p) := by
  rw [State.checkMarks]
  split
  · exact h
  · dsimp only
    have erased : r.Fixed (s.modCore c fun k => { k with slips := k.slips.erase tr }) := fixed_modCore h rfl rfl
    split
    · exact erased
    · have realigned (n : Nat) := fixed_foldl (f := fun s _ => s.realign c) (fun s _ hs => fixed_modQuad hs rfl) (List.range n) erased
      split
      · exact fixed_retireTrack (realigned _) ..
      · exact realigned _

theorem Core.finishShift_cur (k : Core) (tr : Nat) : (k.finishShift tr).cur = k.cur := by
  rw [Core.finishShift]
  split <;> rfl

theorem Core.finishShift_bound (k : Core) (tr : Nat) : (k.finishShift tr).bound = k.bound := by
  rw [Core.finishShift]
  split <;> rfl

theorem fixed_touchTrack (h : r.Fixed s) (who : Who) (key : Nat) (store : Bool) : r.Fixed (s.touchTrack who key store) := by
  rw [State.touchTrack]
  split
  · exact h
  · dsimp only
    split
    · exact fixed_setCore h (Core.finishShift_cur ..) (Core.finishShift_bound ..)
    · refine fixed_checkMarks (fixed_setCore h ?_ ?_) _ _ _ _
      · exact Core.finishShift_cur ..
      · exact Core.finishShift_bound ..

theorem fixed_deadAccess (h : r.Fixed s) (who : Who) (key : Nat) : r.Fixed (s.deadAccess who key) := by
  rw [State.deadAccess]
  split
  · exact fixed_lose (fixed_modQuad h rfl) _
  · exact h

theorem fixed_meetSpine (h : r.Fixed s) (who : Who) (ps : List Part) : r.Fixed (s.meetSpine who ps) :=
  fixed_foldl (fun _ g hs => fixed_replaceGroup hs who 0 g) _ h

/-! ## Reads and writes at the home -/

theorem fixed_readSector (h : r.Fixed s) (who : Who) (ps : List Part) : r.Fixed (s.readSector who ps).2 := by
  unfold State.readSector
  split
  · exact h
  · split
    · exact fixed_deadAccess h ..
    · exact fixed_meetSpine (fixed_foldl (fun _ p hs => fixed_meetBad hs who noGroup p.key p.width) _ h) ..

theorem fixed_answer (h : r.Fixed s) (m : Msg) : r.Fixed (s.answer m) := by
  refine fixed_post ?_ _
  rw [State.keepAnswer]
  split
  · exact fixed_same h rfl rfl rfl
  · exact h

theorem fixed_wake (h : r.Fixed s) (q word : Nat) : r.Fixed (s.wake q word) := by
  have answered (l : List Msg) : r.Fixed (l.foldl State.answer s) := fixed_foldl (fun _ m hs => fixed_answer hs m) l h
  rw [State.wake]
  dsimp only
  split
  · exact h
  · split
    · split
      · refine fixed_modQuad ?_ rfl
        exact fixed_same (fixed_answer (answered _) _) rfl rfl rfl
      · exact fixed_modQuad (answered _) rfl
    · exact fixed_modQuad (answered _) rfl

theorem fixed_watchQueues (h : r.Fixed s) (q word : Nat) : r.Fixed (s.watchQueues q word) := by
  rw [State.watchQueues]
  dsimp only
  split
  · exact h
  · exact fixed_foldl (fun _ _ hs => fixed_post hs _) _ (fixed_foldl (fun _ _ hs => fixed_post hs _) _ h)

theorem fixed_wakeWords (h : r.Fixed s) (words : List Nat) : r.Fixed (s.wakeWords words) := by
  refine fixed_foldl (fun s w hs => ?_) _ h
  split
  · exact fixed_watchQueues (fixed_wake hs _ _) _ _
  · split
    · exact fixed_foldl (fun _ q hs => fixed_wake hs q w) _ hs
    · exact hs

theorem fixed_putBits (h : r.Fixed s) (who : Who) (ws : List (Part × Nat)) : r.Fixed (s.putBits who ws) :=
  fixed_foldl (fun _ e hs => fixed_setBitsAt hs e.1.key e.1.width e.2) _
    (fixed_foldl (fun _ e hs => fixed_meetBad hs who (coversGroup ws) e.1.key e.1.width) _ h)

theorem fixed_storeSector (h : r.Fixed s) (who : Who) (ws : List (Part × Nat)) : r.Fixed (s.storeSector who ws) := by
  unfold State.storeSector
  split
  · exact h
  · next p v rest =>
    have touched := fixed_touchTrack h who p.key true
    unfold State.writeHome
    dsimp only
    split
    · exact fixed_deadAccess touched ..
    · exact fixed_wakeWords (fixed_meetSpine (fixed_putBits touched ..) ..) _

theorem fixed_homeStore (h : r.Fixed s) (who : Who) (key w v : Nat) : r.Fixed (s.homeStore who key w v) :=
  fixed_foldl (fun _ e hs => fixed_storeSector hs who [e]) _ h

theorem fixed_putWord (h : r.Fixed s) (who : Who) (key v : Nat) : r.Fixed (s.putWord who key v).1 := by
  rw [State.putWord]
  split
  · exact h
  · refine fixed_homeStore ?_ _ _ _ _
    exact fixed_same h rfl rfl rfl

theorem fixed_updateAt (h : r.Fixed s) (who : Who) (addr : Word) (p : Part) (new : Nat → Option Nat) :
    r.Fixed (s.updateAt who addr p new).2 := by
  have read (store : Bool) : r.Fixed ((s.touchTrack who p.key store).readHome who p).2 :=
    fixed_readSector (fixed_touchTrack h ..) who [p]
  rw [State.updateAt]
  dsimp only
  split
  · exact read _
  · split
    · exact fixed_logEvent (read _) ..
    · split
      · exact read _
      · exact fixed_wakeWords (fixed_putBits (read _) ..) _

/-! ## The end of a leaf (R105) -/

theorem fixed_leafAdd (h : r.Fixed s) (core : Nat) (sys : Bool) (a d : Word) {x : Word} (e : s.leafAdd core sys a d = .ok (t, x)) :
    r.Fixed t := by
  rw [State.leafAdd] at e
  split at e
  · split at e
    · cases e
    · cases e
      exact fixed_updateAt h ..
  all_goals cases e

theorem fixed_leafGate (h : r.Fixed s) (core : Nat) (sys : Bool) (a : Word) : r.Fixed (s.leafGate core sys a) := by
  rw [State.leafGate]
  split
  · split
    · exact fixed_logEvent h ..
    · split
      · exact fixed_logEvent h ..
      · split
        · exact h
        · split
          · exact fixed_logEvent h ..
          · dsimp only
            split
            · exact fixed_putWord h ..
            · exact fixed_logEvent h ..
  · exact fixed_logEvent h ..
  · exact fixed_logEvent h ..

/-- The part of a leaf's end that follows JOIN (R105). -/
def State.leafDone (s : State) (core : Nat) (b : BitVec 512) : State :=
  if taskDone b = 0 then s
  else
    match s.leafAdd core (taskSys b) (taskDone b) (-1) with
    | .ok (s, d) => if d = 0 ∧ taskGate b ≠ 0 then s.leafGate core (taskSys b) (taskGate b) else s
    | .error c => s.leafLost core (taskDone b) 1 c

theorem State.leafEnd_eq (s : State) (core : Nat) (b : BitVec 512) : s.leafEnd core b =
    if taskJoin b = 0 then s.leafDone core b
    else
      match s.leafAdd core (taskSys b) (taskJoin b) (-1) with
      | .ok (s, j) => if j = 0 then s.leafDone core b else s
      | .error c => s.leafLost core (taskJoin b) 0 c := rfl

theorem fixed_leafDone (h : r.Fixed s) (core : Nat) (b : BitVec 512) : r.Fixed (s.leafDone core b) := by
  rw [State.leafDone]
  split
  · exact h
  · split
    · next added =>
      have after := fixed_leafAdd h core _ _ _ added
      split
      · exact fixed_leafGate after ..
      · exact after
    · exact fixed_logEvent h ..

theorem fixed_leafEnd (h : r.Fixed s) (core : Nat) (b : BitVec 512) : r.Fixed (s.leafEnd core b) := by
  rw [State.leafEnd_eq]
  split
  · exact fixed_leafDone h ..
  · split
    · next added =>
      have after := fixed_leafAdd h core _ _ _ added
      split
      · exact fixed_leafDone after ..
      · exact after
    · exact fixed_logEvent h ..

end Sys2Proof.Machine
end

section
/-! The end of a leaf whose words stand in the core's own quad, where nothing waits (R105): what becomes of JOIN, DONE and GATE, and that
nothing else changes. -/

namespace Sys2Proof.Machine

/-! ## States that differ in memory, full/empty bits and the count of lost events -/

/-- Nothing but memory and its seals, full/empty bits and the count of lost events differs, and what was on the agenda is there still. -/
structure State.Still (s t : State) : Prop where
  frame : t = { s with mem := t.mem, seals := t.seals, agenda := t.agenda, full := t.full, part := { s.part with evlost := t.part.evlost } }
  agenda : s.agenda <+: t.agenda

theorem State.Still.refl (s : State) : s.Still s := ⟨rfl, List.prefix_refl _⟩

theorem State.Still.trans {s t u : State} (h : s.Still t) (k : t.Still u) : s.Still u := by
  refine ⟨k.frame.trans ?_, h.agenda.trans k.agenda⟩
  rw [h.frame]

theorem State.Quiet.still {s t : State} (h : s.Quiet t) : s.Still t := by
  refine ⟨?_, h.agenda⟩
  have part : t.part = s.part := by rw [h.frame]
  have full : t.full = s.full := by rw [h.frame]
  rw [part, full]
  exact h.frame

section
variable {s t : State} (h : s.Still t)
include h

theorem State.Still.cur : t.cur = s.cur := by rw [h.frame]
theorem State.Still.core (c : Nat) : t.core c = s.core c := by rw [h.frame]; rfl
theorem State.Still.bank (p : Place) : t.bank p = s.bank p := by rw [h.frame]; rfl
theorem State.Still.here : t.here = s.here := by rw [h.frame]; rfl
theorem State.Still.quad (q : Nat) : t.quad q = s.quad q := by rw [h.frame]; rfl
theorem State.Still.bad : t.bad = s.bad := by rw [h.frame]
theorem State.Still.part : t.part = { s.part with evlost := t.part.evlost } := by rw [h.frame]
theorem State.Still.inside : t.part.inside = s.part.inside := by rw [h.frame]; rfl
theorem State.Still.evbase : t.part.evbase = s.part.evbase := by rw [h.frame]

end

/-! ## One access of the sequence -/

variable {s : State} {core : Nat} {a : Word} {key : Nat}

theorem State.Names.apart {b : Word} {k : Nat} (h : s.Names core a 64 64 key) (g : s.Names core b 64 64 k) (ne : key ≠ k) :
    key + 64 ≤ k ∨ k + 64 ≤ key := by
  obtain ⟨_, _, off, -, -, -, -, -, -, multiple, -, rfl⟩ := h
  obtain ⟨_, _, off', -, -, -, -, -, -, multiple', -, rfl⟩ := g
  omega

theorem State.NamesOwn.word (h : s.NamesOwn a 64 key) : s.Names s.cur a 64 64 key := h

theorem State.updateAt_own (clean : s.bad = []) (inside : InCabinets (quadOf core) key 64) (who : Who) (f : Nat → Nat) :
    s.updateAt who a ⟨key, 64⟩ (fun old => some (f old)) =
      (s.bitsAt key 64, s.storeSector who [(⟨key, 64⟩, f (s.bitsAt key 64) % 2 ^ 64)]) := by
  have touched (store : Bool) := s.touchTrack_scratch who (p := ⟨key, 64⟩) inside store
  have alive := s.onDeadTrack_scratch (p := ⟨key, 64⟩) inside
  have track := inside.trackOf
  have read : s.readHome who ⟨key, 64⟩ = (s.bitsAt key 64, s) := by
    rw [State.readHome, State.readSector_scratch (q := quadOf core) who clean fun p hp => by rw [List.mem_singleton.1 hp]; exact inside]
    rfl
  have spine : s.spineLost [⟨key, 64⟩] = [] := by
    simp only [State.spineLost, List.flatMap_cons, List.flatMap_nil, track, List.append_nil, List.eraseDups_nil]
  rw [State.storeSector_scratch who clean inside]
  simp only [State.updateAt, touched, read, inside.not_guarded s (by decide), alive, spine, State.putBits, List.foldl_cons, List.foldl_nil,
    State.meetBad_clean who clean]
  rfl

theorem State.leafAdd_own (names : s.Names core a 64 64 key) (clean : s.bad = []) (wf : s.MemoryWf) (sys : Bool) (d : Word) :
    ∃ t, s.leafAdd core sys a d = .ok (t, BitVec.ofNat 64 (s.bitsAt key 64) + d) ∧
      s.Puts t (quadOf core) key (key + 64) ((s.bitsAt key 64 + d.toNat) % 2 ^ 64 % 2 ^ 64) := by
  have located := names.located (le_refl _) (dvd_refl _) rfl core (!sys) false .atomic
  have refuses := names.peerRefuses s 64
  refine ⟨_, ?_, s.puts_storeSector (.hardware core) wf clean (p := ⟨key, 64⟩) names.within.inScratchpad (Nat.succ_pos 63) _⟩
  simp only [State.leafAdd, located, refuses, Bool.false_eq_true, if_false,
    State.updateAt_own clean names.within (.hardware core) fun old => (old + d.toNat) % 2 ^ 64]

/-- A PUT of 1 to a gate where nothing waits: an empty word is filled and holds 1; a full one is left, and the event lost where there is no ring. -/
theorem State.leafGate_own (names : s.Names core a 64 64 key) (clean : s.bad = []) (wf : s.MemoryWf)
    (quiet : (s.quad (quadOf core)).deferred = []) (ring : key / 64 ∉ s.full ∨ s.part.evbase >>> 9 = 0) (sys : Bool) :
    let t := s.leafGate core sys a
    s.Still t ∧ t.MemoryWf ∧ (∀ k, k < key ∨ key + 64 ≤ k → t.bit k = s.bit k) ∧
      (key / 64 ∉ s.full → t.bitsAt key 64 = 1 ∧ key / 64 ∈ t.full) ∧
      (key / 64 ∈ s.full → t.full = s.full ∧ ∀ k, t.bit k = s.bit k) := by
  intro t
  have located := names.located (le_refl _) (dvd_refl _) rfl core (!sys) false .atomic
  have refuses := names.peerRefuses s 64
  have open' := names.within.not_guarded s (by decide)
  have layer : inLayer0 a (.scratch (quadOf core)) = true := rfl
  have taken : t = if (s.putWord (.hardware core) key 1).2 then (s.putWord (.hardware core) key 1).1 else s.logEvent 0x06 (some core) a a := by
    show s.leafGate core sys a = _
    simp only [State.leafGate, located, refuses, layer, open', Bool.not_true, Bool.false_eq_true, if_false]
  by_cases full : key / 64 ∈ s.full
  · have refused : s.putWord (.hardware core) key 1 = (s, false) := by
      rw [State.putWord, State.isFull, List.contains_iff_mem.2 full]
      rfl
    have lost : s.part.evbase.toNat / 512 = 0 := by
      obtain empty | none := ring
      · exact absurd full empty
      · have := congrArg BitVec.toNat none
        rwa [BitVec.toNat_ushiftRight, Nat.shiftRight_eq_div_pow] at this
    rw [refused, State.logEvent_lost _ _ _ _ _ lost] at taken
    rw [taken]
    have bits (k : Nat) : State.bit { s with part := { s.part with evlost := s.part.evlost + 1 } } k = s.bit k :=
      State.bit_of_mem (s := s) (t := { s with part := { s.part with evlost := s.part.evlost + 1 } }) rfl rfl rfl rfl k
    exact ⟨⟨rfl, List.prefix_refl _⟩, wf, fun k _ => bits k, fun empty => absurd full empty, fun _ => ⟨rfl, bits⟩⟩
  · have done : s.putWord (.hardware core) key 1 = ((s.fill key).homeStore (.hardware core) key 64 1, true) := by
      rw [State.putWord, State.isFull, if_neg (by rw [List.contains_iff_mem]; exact full)]
    rw [done] at taken
    have puts := (s.fill key).puts_homeStore (.hardware core) wf clean names.within.inScratchpad (Nat.succ_pos 63) 1
    have filled : s.Still (s.fill key) := ⟨rfl, List.prefix_refl _⟩
    have bits (k : Nat) : (s.fill key).bit k = s.bit k := State.bit_of_mem (s := s) (t := s.fill key) rfl rfl rfl rfl k
    rw [taken]
    refine ⟨filled.trans (puts.still quiet).still, puts.writes.wf, fun k out => ?_, fun _ => ⟨puts.writes.stored.1, ?_⟩, fun f => absurd f full⟩
    · rw [if_pos rfl, puts.writes.bit, if_neg (by omega), bits]
    · rw [if_pos rfl, (puts.writes.quiet quiet).1]
      exact (mem_sortedInsert _ _ _).2 (.inl rfl)

/-! ## DONE and GATE -/

/-- Whether the end of a leaf whose DONE is reached fills its GATE. -/
def State.opensGate (s : State) (r : BitVec 512) (d g : Nat) : Prop :=
  taskDone r ≠ 0 ∧ s.bitsAt d 64 = 1 ∧ taskGate r ≠ 0 ∧ g / 64 ∉ s.full

theorem toNat_minusOne : (-1 : Word).toNat = 2 ^ 64 - 1 := rfl

theorem lessOne_eq_zero {n : Nat} (small : n < 2 ^ 64) : BitVec.ofNat 64 n + (-1 : Word) = 0 ↔ n = 1 := by
  have zero : (0 : Word).toNat = 0 := rfl
  rw [← BitVec.toNat_inj, BitVec.toNat_add, BitVec.toNat_ofNat, toNat_minusOne, zero]
  omega

variable {r : BitVec 512} {j d g : Nat}

theorem State.leafDone_own (done : taskDone r ≠ 0 → s.Names core (taskDone r) 64 64 d) (gate : taskGate r ≠ 0 → s.Names core (taskGate r) 64 64 g)
    (ne : d ≠ g) (clean : s.bad = []) (wf : s.MemoryWf) (quiet : (s.quad (quadOf core)).deferred = [])
    (ring : g / 64 ∉ s.full ∨ s.part.evbase >>> 9 = 0) : let t := s.leafDone core r
    s.Still t ∧ t.MemoryWf ∧ (∀ k, (taskDone r ≠ 0 → k < d ∨ d + 64 ≤ k) → (taskGate r ≠ 0 → k < g ∨ g + 64 ≤ k) → t.bit k = s.bit k) ∧
      (taskDone r ≠ 0 → t.bitsAt d 64 = (s.bitsAt d 64 + 2 ^ 64 - 1) % 2 ^ 64) ∧
      (taskGate r ≠ 0 → (s.opensGate r d g → t.bitsAt g 64 = 1 ∧ g / 64 ∈ t.full) ∧
        (¬ s.opensGate r d g → t.bitsAt g 64 = s.bitsAt g 64 ∧ t.full = s.full)) := by
  intro t
  by_cases none : taskDone r = 0
  · have same : t = s := if_pos none
    rw [same]
    exact ⟨.refl s, wf, fun _ _ _ => rfl, fun some => absurd none some, fun _ => ⟨fun opens => absurd none opens.1, fun _ => ⟨rfl, rfl⟩⟩⟩
  obtain ⟨u, added, puts⟩ := s.leafAdd_own (done none) clean wf (taskSys r) (-1)
  have still := (puts.still quiet).still
  have full : u.full = s.full := (puts.writes.quiet quiet).1
  have taken : t = if BitVec.ofNat 64 (s.bitsAt d 64) + -1 = 0 ∧ taskGate r ≠ 0 then u.leafGate core (taskSys r) (taskGate r) else u := by
    show s.leafDone core r = _
    rw [State.leafDone, if_neg none, added]
  have count : u.bitsAt d 64 = (s.bitsAt d 64 + 2 ^ 64 - 1) % 2 ^ 64 := by
    have stored := puts.writes.stored.1
    rw [toNat_minusOne] at stored
    omega
  have outside (k : Nat) (out : k < d ∨ d + 64 ≤ k) : u.bit k = s.bit k := by rw [puts.writes.bit, if_neg (by omega)]
  simp only [lessOne_eq_zero (s.bitsAt_lt d 64)] at taken
  have apart (some : taskGate r ≠ 0) := (done none).apart (gate some) ne
  have gateBits (some : taskGate r ≠ 0) : u.bitsAt g 64 = s.bitsAt g 64 :=
    bitsAt_congr fun k low high => outside k (by have := apart some; omega)
  by_cases reaches : s.bitsAt d 64 = 1 ∧ taskGate r ≠ 0
  · obtain ⟨one, some⟩ := reaches
    rw [if_pos ⟨one, some⟩] at taken
    obtain ⟨still', wf', out', fills, keeps⟩ := u.leafGate_own ((gate some).of_inside still.inside) (puts.writes.clean clean) puts.writes.wf
      (puts.writes.quiet quiet).2 (by rw [full, still.evbase]; exact ring) (taskSys r)
    rw [taken]
    refine ⟨still.trans still', wf', fun k outD outG => (out' k (outG some)).trans (outside k (outD none)), fun _ => ?_, fun _ => ⟨fun opens => ?_, fun shut => ?_⟩⟩
    · rw [← count]
      exact bitsAt_congr fun k low high => out' k (by have := apart some; omega)
    · exact fills (full ▸ opens.2.2.2)
    · obtain ⟨full', bits⟩ := keeps (by
        by_contra empty
        exact shut ⟨none, one, some, full ▸ empty⟩)
      exact ⟨(bitsAt_congr fun k _ _ => bits k).trans (gateBits some), full'.trans full⟩
  · rw [if_neg reaches] at taken
    rw [taken]
    exact ⟨still, puts.writes.wf, fun k out _ => outside k (out none), fun _ => count, fun some =>
      ⟨fun opens => absurd ⟨opens.2.1, some⟩ reaches, fun _ => ⟨gateBits some, full⟩⟩⟩

/-! ## The sequence -/

/-- The words of a leaf's end stand in the core's own quad, where nothing waits, and no event is logged in memory for them. -/
structure State.EndsLeaf (s : State) (r : BitVec 512) (j d g : Nat) : Prop where
  join : taskJoin r ≠ 0 → s.NamesOwn (taskJoin r) 64 j
  done : taskDone r ≠ 0 → s.NamesOwn (taskDone r) 64 d
  gate : taskGate r ≠ 0 → s.NamesOwn (taskGate r) 64 g
  apart : j ≠ d ∧ j ≠ g ∧ d ≠ g
  clean : s.bad = []
  wf : s.MemoryWf
  quiet : (s.quad (quadOf s.cur)).deferred = []
  ring : g / 64 ∉ s.full ∨ s.part.evbase >>> 9 = 0

theorem State.LeafWords.ends (h : s.LeafWords r j d g) : s.EndsLeaf r j d g := by
  obtain ⟨join, done, gate, neD, neG, ne, clean, wf, -, quiet, ring⟩ := h
  exact ⟨join, done, gate, ⟨neD, neG, ne⟩, clean, wf, quiet, ring⟩

theorem State.EndsLeaf.of_same {t : State} (h : s.EndsLeaf r j d g) (cur : t.cur = s.cur) (inside : t.part.inside = s.part.inside)
    (bad : t.bad = s.bad) (mem : t.mem = s.mem) (waits : ∀ q, (t.quad q).deferred = (s.quad q).deferred) (full : t.full = s.full)
    (evbase : t.part.evbase = s.part.evbase) : t.EndsLeaf r j d g := by
  obtain ⟨join, done, gate, apart, clean, wf, quiet, ring⟩ := h
  have named {a : Word} {k : Nat} (n : s.NamesOwn a 64 k) : t.NamesOwn a 64 k := by
    rw [State.NamesOwn, cur]
    exact State.Names.of_inside n inside
  refine ⟨fun some => named (join some), fun some => named (done some), fun some => named (gate some), apart, bad.trans clean, ?_, ?_, ?_⟩
  · rw [State.MemoryWf, mem]
    exact wf
  · rw [cur, waits]
    exact quiet
  · rw [full, evbase]
    exact ring

/-- A bit that lies in none of the words that the end of a leaf names. -/
def LeafOutside (r : BitVec 512) (j d g k : Nat) : Prop :=
  (taskJoin r ≠ 0 → k < j ∨ j + 64 ≤ k) ∧ (taskDone r ≠ 0 → k < d ∨ d + 64 ≤ k) ∧ (taskGate r ≠ 0 → k < g ∨ g + 64 ≤ k)

/-- The hardware's cabinet holds none of the words. -/
theorem State.EndsLeaf.outside (h : s.EndsLeaf r j d g) {k : Nat} (above : scratchBase (quadOf s.cur) + 7 * 2 ^ 17 ≤ k) :
    LeafOutside r j d g k := by
  have low {a : Word} {w : Nat} (names : s.NamesOwn a 64 w) : w + 64 ≤ k := Nat.le_trans names.word.within.2.2 above
  exact ⟨fun some => .inr (low (h.join some)), fun some => .inr (low (h.done some)), fun some => .inr (low (h.gate some))⟩

/-- The end of a leaf on words of the core's own quad (R105). -/
theorem State.leafEnd_own (words : s.EndsLeaf r j d g) : let t := s.leafEnd s.cur r
    s.Still t ∧ t.MemoryWf ∧ s.LeafEnded t r (s.bitsAt j 64) j d g ∧
      ∀ k, LeafOutside r j d g k → t.bit k = s.bit k := by
  intro t
  obtain ⟨join, done, gate, ⟨neD, neG, ne⟩, clean, wf, quiet, ring⟩ := words
  by_cases noJoin : taskJoin r = 0
  · have taken : t = s.leafDone s.cur r := by
      show s.leafEnd s.cur r = _
      rw [State.leafEnd_eq, if_pos noJoin]
    obtain ⟨still, wf', outside, count, gated⟩ := s.leafDone_own done gate ne clean wf quiet ring
    rw [← taken] at still wf' outside count gated
    refine ⟨still, wf', ⟨fun some => absurd noJoin some, fun some => ⟨fun _ => count some, fun notLast => absurd (.inl noJoin) notLast⟩,
      fun some => ⟨fun opens => ?_, fun shut => ?_⟩⟩, fun k out => outside k out.2.1 out.2.2⟩
    · exact (gated some).1 ⟨opens.2.1, opens.2.2.1, some, opens.2.2.2⟩
    · obtain ⟨bits, full⟩ := (gated some).2 fun opens => shut ⟨.inl noJoin, opens.1, opens.2.1, opens.2.2.2⟩
      exact ⟨bits, by rw [full]⟩
  obtain ⟨u, added, puts⟩ := s.leafAdd_own (join noJoin) clean wf (taskSys r) (-1)
  have still := (puts.still quiet).still
  have full : u.full = s.full := (puts.writes.quiet quiet).1
  have taken : t = if BitVec.ofNat 64 (s.bitsAt j 64) + -1 = 0 then u.leafDone s.cur r else u := by
    show s.leafEnd s.cur r = _
    rw [State.leafEnd_eq, if_neg noJoin, added]
  have count : u.bitsAt j 64 = (s.bitsAt j 64 + 2 ^ 64 - 1) % 2 ^ 64 := by
    have stored := puts.writes.stored.1
    rw [toNat_minusOne] at stored
    omega
  have outside (k : Nat) (out : k < j ∨ j + 64 ≤ k) : u.bit k = s.bit k := by rw [puts.writes.bit, if_neg (by omega)]
  have apartD (some : taskDone r ≠ 0) := (join noJoin).apart (done some) neD
  have apartG (some : taskGate r ≠ 0) := (join noJoin).apart (gate some) neG
  have doneBits (some : taskDone r ≠ 0) : u.bitsAt d 64 = s.bitsAt d 64 :=
    bitsAt_congr fun k low high => outside k (by have := apartD some; omega)
  have gateBits (some : taskGate r ≠ 0) : u.bitsAt g 64 = s.bitsAt g 64 :=
    bitsAt_congr fun k low high => outside k (by have := apartG some; omega)
  simp only [lessOne_eq_zero (s.bitsAt_lt j 64)] at taken
  by_cases last : s.bitsAt j 64 = 1
  · rw [if_pos last] at taken
    obtain ⟨still', wf', outside', count', gated⟩ := u.leafDone_own (fun some => (done some).of_inside still.inside)
      (fun some => (gate some).of_inside still.inside) ne (puts.writes.clean clean) puts.writes.wf (puts.writes.quiet quiet).2
      (by rw [full, still.evbase]; exact ring)
    rw [← taken] at still' wf' outside' count' gated
    refine ⟨still.trans still', wf', ⟨fun _ => ?_, fun some => ⟨fun _ => ?_, fun notLast => absurd (.inr last) notLast⟩,
      fun some => ⟨fun opens => ?_, fun shut => ?_⟩⟩, fun k out => ?_⟩
    · rw [← count]
      exact bitsAt_congr fun k low high => outside' k (fun some => by have := apartD some; omega) fun some => by have := apartG some; omega
    · rw [count' some, doneBits some]
    · exact (gated some).1 ⟨opens.2.1, (doneBits opens.2.1).trans opens.2.2.1, some, full ▸ opens.2.2.2⟩
    · obtain ⟨bits, full'⟩ := (gated some).2 fun opens =>
        shut ⟨.inr last, opens.1, (doneBits opens.1).symm.trans opens.2.1, full ▸ opens.2.2.2⟩
      exact ⟨bits.trans (gateBits some), by rw [full', full]⟩
    · exact (outside' k out.2.1 out.2.2).trans (outside k (out.1 noJoin))
  · rw [if_neg last] at taken
    have notLast : ¬ (taskJoin r = 0 ∨ s.bitsAt j 64 = 1) := fun h => h.elim noJoin last
    rw [taken]
    exact ⟨still, puts.writes.wf, ⟨fun _ => count, fun some => ⟨fun h => absurd h notLast, fun _ => doneBits some⟩,
      fun some => ⟨fun opens => absurd opens.1 notLast, fun _ => ⟨gateBits some, by rw [full]⟩⟩⟩, fun k out => outside k (out.1 noJoin)⟩

/-- What the end of a leaf is told of two states is told of all that agree with them in its words. -/
theorem State.LeafEnded.congr {s' t t' : State} {join : Nat} (h : s'.LeafEnded t' r join j d g)
    (done : taskDone r ≠ 0 → s'.bitsAt d 64 = s.bitsAt d 64) (gate : taskGate r ≠ 0 → s'.bitsAt g 64 = s.bitsAt g 64) (full : s'.full = s.full)
    (after : ∀ w ∈ [j, d, g], t.bitsAt w 64 = t'.bitsAt w 64) (full' : t.full = t'.full) : s.LeafEnded t r join j d g := by
  obtain ⟨atJoin, atDone, atGate⟩ := h
  have opens (last : Prop) : (last ∧ taskDone r ≠ 0 ∧ s.bitsAt d 64 = 1 ∧ g / 64 ∉ s.full) ↔
      (last ∧ taskDone r ≠ 0 ∧ s'.bitsAt d 64 = 1 ∧ g / 64 ∉ s'.full) := by
    rw [full]
    exact and_congr_right fun _ => and_congr_right fun some => by rw [done some]
  refine ⟨fun some => (after j (by simp)).trans (atJoin some), fun some => ?_, fun some => ?_⟩
  · rw [after d (by simp), ← done some]
    exact atDone some
  · rw [opens, after g (by simp), ← gate some, full', ← full]
    exact atGate some

end Sys2Proof.Machine
end

section
/-! EXIT and what POPT shares with it: the strand's holdings given up, its leaf ended, its frame returned (R105, R178). -/

namespace Sys2Proof.Machine

/-! ## Subscriptions (R178, R214) -/

/-- Subscriptions and the agenda are all that differ, and what was on the agenda is there still. -/
structure State.Unsubscribed (s t : State) : Prop where
  frame : t = { s with quads := t.quads, agenda := t.agenda }
  quad : ∀ q, t.quad q = { s.quad q with subs := (t.quad q).subs }
  agenda : s.agenda <+: t.agenda

theorem State.Unsubscribed.refl (s : State) : s.Unsubscribed s := ⟨rfl, fun _ => rfl, List.prefix_refl _⟩

theorem State.Unsubscribed.trans {s t u : State} (h : s.Unsubscribed t) (k : t.Unsubscribed u) : s.Unsubscribed u :=
  ⟨k.frame.trans (by rw [h.frame]), fun q => (k.quad q).trans (by rw [h.quad q]), h.agenda.trans k.agenda⟩

theorem State.Unsubscribed.foldl {α : Type} {f : State → α → State} (each : ∀ (s : State) a, s.Unsubscribed (f s a)) (s : State) (l : List α) :
    s.Unsubscribed (l.foldl f s) := by
  induction l generalizing s with
  | nil => exact .refl s
  | cons a l ih => exact (each s a).trans (ih _)

theorem State.unsubscribed_endAllSubs (s : State) (sfp : Word) : s.Unsubscribed (s.endAllSubs sfp) := by
  refine State.Unsubscribed.foldl (fun s q => ?_) s _
  rw [State.endSubs]
  refine State.Unsubscribed.trans (t := s.modQuad q fun k =>
    { k with subs := k.subs.map fun o => o.map fun u => if u.sfp = sfp then u.stop else u }) ⟨rfl, fun d => ?_, List.prefix_refl _⟩
    (State.Unsubscribed.foldl (f := fun s (m : Nat × Fin 8) => s.post (.loaderTileStart m.1 m.2))
      (fun s m => ⟨rfl, fun _ => rfl, List.prefix_append _ _⟩) _ _)
  by_cases same : d = q
  · rw [same, State.quad_modQuad_self]
  · rw [State.quad_modQuad_ne _ _ same]

/-! ## A strand's holdings (R178, R254) -/

theorem Quad.holds_freeAll (q : Quad) (sfp : Word) : (q.freeAll sfp).holds sfp = false := by
  rw [Quad.holds, List.any_eq_false]
  intro o ho
  rw [Quad.freeAll, Vector.toList_map, List.mem_map] at ho
  obtain ⟨o', -, rfl⟩ := ho
  by_cases held : o'.holder = some sfp
  · simp [held]
  · simp [held]

theorem Quad.holds_congr {q q' : Quad} (owners : q.owners = q'.owners) (sfp : Word) : q.holds sfp = q'.holds sfp := by
  rw [Quad.holds, Quad.holds, owners]

/-- A strand that ends gives up its press units, its subscriptions and its bindings (R178). -/
def State.giveUp (s : State) (p : Place) : State :=
  let sfp := (s.strand p).sfp
  (((((s.modQuad (quadOf p.core) fun q => q.freeAll sfp).endAllSubs sfp).endDrain p.core sfp).modStrand p fun a =>
    { a with binds := [], leafEnded := true }).modCore p.core fun k => { k with bound := k.bound.filter fun e => e.2 != sfp })

/-- What a strand that has given up what it held leaves. -/
structure State.GivenUp (s t : State) (p : Place) : Prop where
  frame : t = { s with cores := t.cores, quads := t.quads, agenda := t.agenda }
  agenda : s.agenda <+: t.agenda
  core : t.core p.core = { s.core p.core with
    banks := (t.core p.core).banks, bound := (s.core p.core).bound.filter fun e => e.2 != (s.strand p).sfp }
  others : ∀ c, c ≠ p.core → t.core c = s.core c
  bank : t.bank p = { s.bank p with strand := { s.strand p with binds := [], leafEnded := true } }
  banks : ∀ q, q ≠ p → t.bank q = s.bank q
  quad : ∀ q, t.quad q = { s.quad q with owners := (t.quad q).owners, subs := (t.quad q).subs }
  holds : (t.quad (quadOf p.core)).holds (s.strand p).sfp = false

theorem State.GivenUp.deferred {s t : State} {p : Place} (h : s.GivenUp t p) (q : Nat) : (t.quad q).deferred = (s.quad q).deferred := by
  rw [h.quad]

theorem State.givenUp (s : State) (p : Place) (undrained : ∀ e ∈ (s.core p.core).draining, e.1 ≠ (s.strand p).sfp) :
    s.GivenUp (s.giveUp p) p := by
  have freed (q : Nat) : (s.modQuad (quadOf p.core) fun q => q.freeAll (s.strand p).sfp).quad q =
      { s.quad q with owners := ((s.modQuad (quadOf p.core) fun q => q.freeAll (s.strand p).sfp).quad q).owners } := by
    by_cases same : q = quadOf p.core
    · rw [same, State.quad_modQuad_self]
      rfl
    · rw [State.quad_modQuad_ne _ _ same]
  have none : ((s.modQuad (quadOf p.core) fun q => q.freeAll (s.strand p).sfp).quad (quadOf p.core)).holds (s.strand p).sfp = false := by
    rw [State.quad_modQuad_self]
    exact Quad.holds_freeAll ..
  obtain ⟨frame, quad, agenda⟩ := State.unsubscribed_endAllSubs (s.modQuad (quadOf p.core) fun q => q.freeAll (s.strand p).sfp) (s.strand p).sfp
  rw [State.giveUp]
  generalize (s.modQuad (quadOf p.core) fun q => q.freeAll (s.strand p).sfp).endAllSubs (s.strand p).sfp = u at frame quad agenda ⊢
  have cores : u.cores = s.cores := by rw [frame]; rfl
  have core (c : Nat) : u.core c = s.core c := by rw [State.core, cores, State.core]
  have bank (q : Place) : u.bank q = s.bank q := by rw [State.bank, core, State.bank]
  have over' : u.endDrain p.core (s.strand p).sfp = u := by
    rw [State.endDrain, core, if_neg]
    rw [Bool.not_eq_true, List.any_eq_false]
    exact fun e he => by simpa using undrained e he
  rw [over']
  have keeps (q : Place) := State.bank_modCore_banks (u.modStrand p fun a => { a with binds := [], leafEnded := true }) p.core
    (f := fun k => { k with bound := k.bound.filter fun e => e.2 != (s.strand p).sfp }) rfl q
  refine ⟨?_, agenda, ?_, fun c other => ?_, ?_, fun q other => ?_, fun q => ?_, ?_⟩
  · rw [frame]
    rfl
  · rw [State.core_modCore_self, State.modStrand, State.modBank, State.setBank, State.core_modCore_self, core]
  · rw [State.core_modCore_ne _ _ other, State.modStrand, State.modBank, State.setBank, State.core_modCore_ne _ _ other, core]
  · rw [keeps, State.modStrand, State.bank_modBank_self, bank]
    rfl
  · rw [keeps, State.modStrand, State.modBank, State.bank_setBank_ne _ _ other, bank]
  · have owners : (u.quad q).owners = ((s.modQuad (quadOf p.core) fun q => q.freeAll (s.strand p).sfp).quad q).owners := by rw [quad]
    show u.quad q = { s.quad q with owners := (u.quad q).owners, subs := (u.quad q).subs }
    rw [owners]
    refine (quad q).trans ?_
    rw [freed]
  · show (u.quad _).holds _ = false
    rw [← none]
    exact Quad.holds_congr (by rw [quad]) _

/-! ## The frame returned (R95, R178) -/

/-- The state in which a strand that ends returns its frame: it has given up what it held, and its leaf has ended (R105). -/
def State.leafOver (s : State) (p : Place) : State :=
  if (s.strand p).leafEnded then s.giveUp p else (s.giveUp p).leafEnd p.core (s.strand p).task

/-- The frame is the head of the pool, its first word, at a physical bit, naming the old head, and the bank is free. -/
def State.vacate (s : State) (p : Place) (sfp : Word) (key : Nat) : State :=
  ((s.homeStore (.hardware p.core) key 64 (s.core p.core).fphead.toNat).modCore p.core fun k => { k with fphead := sfp >>> 9 <<< 9 }).modBank p
    fun b => { b with live := false, outcome := if b.mark.isSome then 3 else b.outcome, mark := none }

variable {s : State} {p : Place}

theorem State.GivenUp.fixed_leafOver (h : s.GivenUp (s.giveUp p) p) : (s.giveUp p).Fixed (s.leafOver p) ∧ (s.leafOver p).part.inside = s.part.inside := by
  have fixed : (s.giveUp p).Fixed (s.leafOver p) := by
    rw [State.leafOver]
    split
    · exact .refl _
    · exact fixed_leafEnd (.refl _) ..
  refine ⟨fixed, fixed.inside.trans ?_⟩
  rw [h.frame]

theorem State.endStrand_vacates (h : s.GivenUp (s.giveUp p) p) {w align key : Nat} (names : s.Names p.core (s.strand p).sfp w align key)
    (fits : 64 ≤ w) (multiple : 64 ∣ align) : s.endStrand p = ((s.leafOver p).vacate p (s.strand p).sfp key, true) := by
  have named := names.of_inside h.fixed_leafOver.2
  have returned : (s.leafOver p).giveFrame p.core (s.strand p).sfp =
      (((s.leafOver p).homeStore (.hardware p.core) key 64 ((s.leafOver p).core p.core).fphead.toNat).modCore p.core
        fun k => { k with fphead := (s.strand p).sfp >>> 9 <<< 9 }, true) := by
    rw [State.giveFrame, named.poke fits multiple rfl]
  have ended : s.endStrand p = if ((s.leafOver p).giveFrame p.core (s.strand p).sfp).2 then
      (((s.leafOver p).giveFrame p.core (s.strand p).sfp).1.modBank p fun b =>
        { b with live := false, outcome := if b.mark.isSome then 3 else b.outcome, mark := none }, true)
      else (((s.leafOver p).giveFrame p.core (s.strand p).sfp).1.doubleFault p, false) := rfl
  rw [ended, returned]
  rfl

theorem State.fixed_vacate {r : State} (h : r.Fixed s) (sfp : Word) (key : Nat) : r.Fixed (s.vacate p sfp key) :=
  fixed_modBank (fixed_modCore (fixed_homeStore h ..) rfl rfl) ..

theorem State.bank_vacate (sfp : Word) (key : Nat) : ((s.vacate p sfp key).bank p).live = false := by
  rw [State.vacate, State.bank_modBank_self]

theorem State.fphead_vacate (sfp : Word) (key : Nat) : ((s.vacate p sfp key).core p.core).fphead = sfp >>> 9 <<< 9 := by
  rw [State.vacate, State.modBank, State.setBank, State.core_modCore_self, State.core_modCore_self]

/-- A strand that has ended leaves nothing bound on its core and no press unit held, and its core would go on from the same bank. -/
theorem State.GivenUp.vacated (h : s.GivenUp (s.giveUp p) p) (key : Nat) : let v := (s.leafOver p).vacate p (s.strand p).sfp key
    (v.core p.core).cur = (s.core p.core).cur ∧ (∀ e ∈ (v.core p.core).bound, e.2 ≠ (s.strand p).sfp) ∧
      (v.quad (quadOf p.core)).holds (s.strand p).sfp = false := by
  intro v
  have fixed : (s.giveUp p).Fixed v := State.fixed_vacate h.fixed_leafOver.1 _ _
  refine ⟨?_, ?_, ?_⟩
  · rw [fixed.place, h.core]
  · rw [fixed.bound, h.core]
    exact fun e he => by simpa using (List.mem_filter.1 he).2
  · rw [← h.holds]
    exact Quad.holds_congr (fixed.owners _) _

/-! ## EXIT -/

theorem State.exec_exit (drained : s.mustDrain = false) (undrained : s.NoDrain) (free : s.leafWaits = false) {w align key : Nat}
    (names : s.Names s.cur (s.strand s.here).sfp w align key) (fits : 64 ≤ w) (multiple : 64 ∣ align) : exec .exit s =
      .next (((((s.leafOver s.here).vacate s.here (s.strand s.here).sfp key).seekBoundary s.cur).switch s.cur).post (.bankFill s.cur)) := by
  have ended := State.endStrand_vacates (s.givenUp s.here undrained) names fits multiple
  show execExit s = _
  rw [execExit, s.whenDrained_eq false drained undrained, free]
  simp only [ended]
  rfl

/-! ## The leaf's end, where its words stand in the own quad -/

/-- What a strand has given up is no memory. -/
theorem State.GivenUp.bit {u : State} (h : s.GivenUp u p) (k : Nat) : u.bit k = s.bit k := by
  refine State.bit_of_mem ?_ ?_ ?_ ?_ k <;> rw [h.frame]

theorem State.GivenUp.endsLeaf {u : State} (h : s.GivenUp u p) {r : BitVec 512} {j d g : Nat} (words : s.EndsLeaf r j d g) :
    u.EndsLeaf r j d g := by
  refine words.of_same ?_ ?_ ?_ ?_ h.deferred ?_ ?_ <;> rw [h.frame]

/-- The leaf is over already, or its end changes its words only. -/
theorem State.GivenUp.leafOver_spec (h : s.GivenUp (s.giveUp p) p) (place : p.core = s.cur) {j d g : Nat}
    (words : (s.strand p).leafEnded = true ∧ s.MemoryWf ∨ s.EndsLeaf (s.strand p).task j d g) :
    (s.giveUp p).Still (s.leafOver p) ∧ (s.leafOver p).MemoryWf ∧
      (∀ k, (s.strand p).leafEnded = true ∨ LeafOutside (s.strand p).task j d g k → (s.leafOver p).bit k = s.bit k) ∧
      ((s.strand p).leafEnded = false → s.LeafEnded (s.leafOver p) (s.strand p).task (s.bitsAt j 64) j d g) := by
  by_cases over' : (s.strand p).leafEnded = true
  · have same : s.leafOver p = s.giveUp p := if_pos over'
    have wf : s.MemoryWf := words.elim (fun w => w.2) fun w => w.wf
    rw [same]
    refine ⟨.refl _, ?_, fun k _ => h.bit k, fun pending => ?_⟩
    · rw [State.MemoryWf, h.frame]
      exact wf
    · rw [over'] at pending
      cases pending
  · have ends : s.EndsLeaf (s.strand p).task j d g := words.elim (fun w => absurd w.1 over') id
    have cur : (s.giveUp p).cur = p.core := by rw [h.frame, place]
    have next : s.leafOver p = (s.giveUp p).leafEnd (s.giveUp p).cur (s.strand p).task := by
      rw [State.leafOver, if_neg over', cur]
    obtain ⟨still, wf, ended, outside⟩ := State.leafEnd_own (h.endsLeaf ends)
    have bits (k w : Nat) : (s.giveUp p).bitsAt k w = s.bitsAt k w := bitsAt_congr fun k _ _ => h.bit k
    rw [next]
    refine ⟨still, wf, fun k out => (outside k (out.resolve_left over')).trans (h.bit k), fun _ => ?_⟩
    rw [← bits j]
    exact ended.congr (fun _ => bits ..) (fun _ => bits ..) (by rw [h.frame]) (fun _ _ => rfl) rfl

/-- A frame has been returned, its first word at physical bit `key` of a quad: that is all of memory that differs. -/
structure State.Vacated (s t : State) (p : Place) (sfp : Word) (q key : Nat) : Prop where
  frame : t = { s with
    mem := t.mem, seals := t.seals, full := t.full, filters := t.filters, quads := t.quads, agenda := t.agenda, cores := t.cores }
  quad : ∀ r, t.quad r = { s.quad r with deferred := (t.quad r).deferred }
  wf : t.MemoryWf
  word : t.bitsAt key 64 = (s.core p.core).fphead.toNat
  bit : ∀ k, k < key ∨ key + 64 ≤ k → t.bit k = s.bit k
  quiet : (s.quad q).deferred = [] → t.full = s.full ∧ (t.quad q).deferred = []
  core : t.core p.core = { s.core p.core with banks := (t.core p.core).banks, fphead := sfp >>> 9 <<< 9 }
  bank : t.bank p = { s.bank p with
    live := false, outcome := if (s.bank p).mark.isSome then 3 else (s.bank p).outcome, mark := none }

theorem State.vacated (wf : s.MemoryWf) (clean : s.bad = []) {q key : Nat} (inside : InScratchpad q key 64) (sfp : Word) :
    s.Vacated (s.vacate p sfp key) p sfp q key := by
  have puts := s.puts_homeStore (.hardware p.core) wf clean inside (Nat.succ_pos 63) (s.core p.core).fphead.toNat
  rw [State.vacate]
  generalize s.homeStore (.hardware p.core) key 64 (s.core p.core).fphead.toNat = u at puts ⊢
  obtain ⟨writes, -⟩ := puts
  obtain ⟨frame, quads⟩ := writes.only
  have bits (f : Core → Core) (g : Bank → Bank) (k : Nat) : ((u.modCore p.core f).modBank p g).bit k = u.bit k := by
    refine State.bit_of_mem ?_ ?_ ?_ ?_ k <;> rfl
  have cores (c : Nat) : u.core c = s.core c := by rw [frame]; rfl
  refine ⟨?_, quads, writes.wf, ?_, fun k out => ?_, writes.quiet, ?_, ?_⟩
  · rw [frame]
    rfl
  · rw [bitsAt_congr fun k _ _ => bits _ _ k, writes.stored.1]
    exact Nat.mod_eq_of_lt (s.core p.core).fphead.isLt
  · rw [bits, writes.bit, if_neg (by omega)]
  · rw [State.modBank, State.setBank, State.core_modCore_self, State.core_modCore_self, cores]
  · rw [State.bank_modBank_self, State.bank_modCore_banks _ _ rfl, State.bank, cores, State.bank]

/-- A strand has ended: what it held is given up, its frame, its first word at physical bit `key`, is the head of the pool, its bank is free. -/
structure State.Departed (s t : State) (p : Place) (key : Nat) : Prop where
  frame : t = { s with
    mem := t.mem, seals := t.seals, full := t.full, filters := t.filters, quads := t.quads, agenda := t.agenda, cores := t.cores
    part := { s.part with evlost := t.part.evlost } }
  quad : ∀ q, t.quad q = { s.quad q with owners := (t.quad q).owners, subs := (t.quad q).subs, deferred := (t.quad q).deferred }
  core : t.core p.core = { s.core p.core with
    banks := (t.core p.core).banks, bound := (t.core p.core).bound, fphead := (s.strand p).sfp >>> 9 <<< 9 }
  bank : t.bank p = { s.bank p with
    live := false, mark := none, outcome := (t.bank p).outcome, strand := { s.strand p with binds := [], leafEnded := true } }
  outcome : (s.bank p).mark = none → (t.bank p).outcome = (s.bank p).outcome
  wf : t.MemoryWf
  word : t.bitsAt key 64 = (s.core p.core).fphead.toNat

section
variable (h : s.GivenUp (s.giveUp p) p) (place : p.core = s.cur) {j d g : Nat}
  (words : (s.strand p).leafEnded = true ∧ s.MemoryWf ∨ s.EndsLeaf (s.strand p).task j d g) (clean : s.bad = [])
include h place words clean

theorem State.GivenUp.leafOver_vacated {q key : Nat} (inside : InScratchpad q key 64) :
    (s.leafOver p).Vacated ((s.leafOver p).vacate p (s.strand p).sfp key) p (s.strand p).sfp q key := by
  obtain ⟨still, wf, -⟩ := h.leafOver_spec place words
  refine State.vacated wf ?_ inside _
  rw [still.bad, h.frame]
  exact clean

theorem State.GivenUp.departed {q key : Nat} (inside : InScratchpad q key 64) :
    s.Departed ((s.leafOver p).vacate p (s.strand p).sfp key) p key := by
  obtain ⟨still, -⟩ := h.leafOver_spec place words
  obtain ⟨frame, quad, wf, word, -, -, core, bank⟩ := h.leafOver_vacated place words clean inside
  generalize (s.leafOver p).vacate p (s.strand p).sfp key = v at frame quad wf word core bank ⊢
  rw [still.core] at core word
  rw [still.bank, h.bank] at bank
  rw [h.core] at core word
  refine ⟨?_, fun r => ?_, ?_, ?_, ?_, wf, word⟩
  · rw [frame, still.frame, h.frame]
  · rw [quad, still.quad, h.quad]
  · rw [core]
  · rw [bank]
  · rw [bank]
    intro none
    simp only [none, Option.isSome_none]
    rfl

/-- Bits that neither the end of the leaf nor the frame's return writes. -/
theorem State.GivenUp.departed_bit {q key : Nat} (inside : InScratchpad q key 64) {k : Nat}
    (out : (s.strand p).leafEnded = true ∨ LeafOutside (s.strand p).task j d g k) (apart : k < key ∨ key + 64 ≤ k) :
    ((s.leafOver p).vacate p (s.strand p).sfp key).bit k = s.bit k := by
  obtain ⟨-, -, bits, -⟩ := h.leafOver_spec place words
  exact ((h.leafOver_vacated place words clean inside).bit k apart).trans (bits k out)

/-- The leaf of a strand that ends has ended, where the frame that it returns covers none of its words. -/
theorem State.GivenUp.departed_leaf {q key : Nat} (inside : InScratchpad q key 64) (pending : (s.strand p).leafEnded = false)
    (quiet : (s.quad q).deferred = []) (clear : LeafClear key 64 j d g) : let v := (s.leafOver p).vacate p (s.strand p).sfp key
    s.LeafEnded v (s.strand p).task (s.bitsAt j 64) j d g ∧ (v.quad q).deferred = [] := by
  obtain ⟨still, -, -, done⟩ := h.leafOver_spec place words
  have vacated := h.leafOver_vacated place words clean inside
  have waits := vacated.quiet (by rw [still.quad, h.deferred]; exact quiet)
  refine ⟨(done pending).congr (fun _ => rfl) (fun _ => rfl) rfl (fun w hw => bitsAt_congr fun k low high => vacated.bit k ?_) waits.1, waits.2⟩
  have := clear w hw
  omega

end

/-- A core passes to its next ready bank, and a free bank of it is to be filled (R99). -/
theorem State.passTurn_spec (v : State) (c : Nat) (l : List Activity) :
    let t := (State.switch { v with agenda := l } c).post (.bankFill c)
    (∀ q, t.bank q = v.bank q) ∧ t.core c = { v.core c with cur := (v.core c).nextBank (v.core c).cur, guard := 0 } ∧
      ∀ k, t.bit k = v.bit k := by
  refine ⟨fun q => State.bank_switch .., State.core_switch { v with agenda := l } c, fun k => ?_⟩
  refine State.bit_of_mem ?_ ?_ ?_ ?_ k <;> rfl

/-- Settles O16: at a suspension point the executing bank is all that changes, and the core passes on; EXIT gives up what the strand holds,
ends its leaf and returns its frame, and no access of the leaf's end, wherever it leads, changes a binding or an owner. -/
theorem leavingTheCore : Obligations.LeavingTheCore := by
  unfold Obligations.LeavingTheCore
  intro s unmarked untrapped undrained p a next passed
  refine ⟨fun drained => ?_, fun drained => ⟨fun idle => ?_, fun wanted => ?_⟩, fun key drained free names clean => ?_⟩
  · obtain ⟨l, posted, e⟩ := s.left_stopped
    obtain ⟨spec, agenda⟩ := s.passed_handOn (.stopped false) l
    refine ⟨_, (s.exec_suspend untrapped drained undrained).trans (by rw [e]), spec, ?_⟩
    rw [State.Posted, agenda]
    exact posted
  · refine ⟨_, (s.exec_yield untrapped unmarked drained undrained).trans (by rw [idle, if_neg Bool.false_ne_true, s.left_running]), ?_⟩
    exact s.passed_handOn .running s.agenda
  · obtain ⟨l, posted, e⟩ := s.left_stopped
    obtain ⟨spec, agenda⟩ := s.passed_handOn (.stopped false) l
    refine ⟨_, (s.exec_yield untrapped unmarked drained undrained).trans (by rw [wanted, if_pos rfl, e]), spec, ?_⟩
    rw [State.Posted, agenda]
    exact posted
  · have given := s.givenUp p undrained
    have named : s.Names s.cur a.sfp 64 64 key := names.word
    refine ⟨_, s.exec_exit drained undrained free named (le_refl _) (dvd_refl _), ?_⟩
    obtain ⟨place, bound, holds⟩ := given.vacated key
    have live := State.bank_vacate (s := s.leafOver p) (p := p) a.sfp key
    have fphead := State.fphead_vacate (s := s.leafOver p) (p := p) a.sfp key
    have inside : InScratchpad (quadOf p.core) key 64 := named.within.inScratchpad
    have ended : ∀ j d g, a.leafEnded = false → s.LeafWords a.task j d g → LeafClear key 64 j d g →
        s.LeafEnded ((s.leafOver p).vacate p a.sfp key) a.task (s.bitsAt j 64) j d g := by
      intro j d g pending words clear
      exact (given.departed_leaf rfl (.inr words.ends) clean inside pending words.ends.quiet clear).1
    generalize (s.leafOver p).vacate p a.sfp key = v at place bound holds live fphead ended ⊢
    obtain ⟨l, -, e⟩ := v.seekBoundary_agenda s.cur
    rw [e]
    obtain ⟨bank, core, bits⟩ := v.passTurn_spec s.cur l
    refine ⟨?_, ?_, ?_, holds, List.mem_append_right _ (List.mem_singleton_self _), ?_, fun j d g pending words clear => ?_⟩
    · rw [bank, live]
    · rw [core]
      exact fphead
    · rw [core]
      exact bound
    · show (State.core _ s.cur).cur = (State.core _ s.cur).nextBank _
      rw [core, ← show (v.core s.cur).cur = (s.core s.cur).cur from place]
      rfl
    · exact (ended j d g pending words clear).congr (fun _ => rfl) (fun _ => rfl) rfl (fun w _ => bitsAt_congr fun k _ _ => bits k) rfl

end Sys2Proof.Machine
end

section
/-! RNEXT: the next chunk of a range, or the end of its leaf and a suspension point (R97, R105, R177). -/

namespace Sys2Proof.Machine

variable (s : State)

theorem State.setReg_modBank (f : Bank → Bank) (r : Reg) (v : Word) :
    (s.modBank s.here f).setReg r v = s.modBank s.here fun b => { f b with strand := (f b).strand.setReg r v } := by
  rw [State.setReg, State.here_modBank, State.modStrand, State.modBank_modBank]

theorem State.setRegs_advance (f : Bank → Bank) (r q : Reg) (v w : Word) :
    (((s.modBank s.here f).setReg r v).setReg q w).advance = s.modBank s.here fun b =>
      { f b with strand := { ((f b).strand.setReg r v).setReg q w with pc := (f b).strand.pc + 32 } } := by
  rw [State.setReg_modBank, State.setReg_modBank, State.advance_modBank]
  simp only [Strand.pc_setReg]

/-! ## The chunk -/

theorem taskGrain_eq (r : BitVec 512) : taskGrain r = max 1 (r.toNat / 2 ^ 480) := by
  rw [taskGrain, BitVec.extractLsb'_toNat, Nat.shiftRight_eq_div_pow,
    Nat.mod_eq_of_lt (Nat.div_lt_of_lt_mul (by rw [← Nat.pow_add]; exact r.isLt))]

/-- The end of a range's next chunk: GRAIN further, or HI (R177). -/
def Strand.chunkEnd (a : Strand) : Word := BitVec.ofNat 64 (min (a.next.toNat + taskGrain a.task) a.hi.toNat)

/-- A bank whose strand has taken a chunk of its range: its first index in `rd`, its end in `re`. -/
def Bank.takeChunk (rd re : Reg) (first last : Word) (b : Bank) : Bank :=
  { b with status := .running, strand := { (({ b.strand with next := last }.setReg rd first).setReg re last) with pc := b.strand.pc + 32 } }

/-- A bank whose strand has taken its range's next chunk. -/
def Bank.nextChunk (rd re : Reg) (b : Bank) : Bank := b.takeChunk rd re b.strand.next b.strand.chunkEnd

theorem State.takeChunk_modBank (rd re : Reg) (first last : Word) :
    (((s.resume.modStrand s.here fun x => { x with next := last }).setReg rd first).setReg re last).advance =
      s.modBank s.here (Bank.takeChunk rd re first last) := by
  rw [State.resume, State.setStatus, State.modStrand, State.modBank_modBank, State.setRegs_advance]
  rfl

theorem State.exec_rnext_chunk (rd re : Reg) (left : (s.strand s.here).next.toNat < (s.strand s.here).hi.toNat) :
    exec (.rnext rd re) s = .next (s.modBank s.here (Bank.nextChunk rd re)) := by
  have chunk : (if (s.strand s.here).next.toNat + taskGrain (s.strand s.here).task < (s.strand s.here).hi.toNat then
      (s.strand s.here).next + BitVec.ofNat 64 (taskGrain (s.strand s.here).task) else (s.strand s.here).hi) = (s.strand s.here).chunkEnd := by
    rw [Strand.chunkEnd]
    split
    · rw [min_eq_left (by omega), BitVec.ofNat_add, BitVec.ofNat_toNat, BitVec.setWidth_eq]
    · rw [min_eq_right (by omega), BitVec.ofNat_toNat, BitVec.setWidth_eq]
  show execRnext rd re s = _
  rw [execRnext]
  simp only [left, if_true, chunk]
  rw [State.takeChunk_modBank]
  have same : (s.bank s.here).takeChunk rd re (s.strand s.here).next (s.strand s.here).chunkEnd = (s.bank s.here).nextChunk rd re := rfl
  rw [State.modBank, same, State.modBank]

/-! ## The empty range -/

/-- A bank whose strand has passed RNEXT of an empty range. -/
def Bank.rangeOver (rd re : Reg) (b : Bank) : Bank :=
  { b with status := .running, strand := { (({ b.strand with leafEnded := true }.pass.setReg rd b.strand.hi).setReg re b.strand.hi)
      with pc := b.strand.pc + 32 } }

theorem State.exec_rnext_over (rd re : Reg) (over' : (s.strand s.here).hi.toNat ≤ (s.strand s.here).next.toNat)
    (drained : s.mustDrainVectors = false) (undrained : s.NoDrain) (unmarked : (s.bank s.here).mark = none) (free : s.leafWaits = false)
    {t : State} (ended : t = if (s.strand s.here).leafEnded then s else s.leafEnd s.cur (s.strand s.here).task) (here : t.here = s.here)
    (bank : t.bank s.here = s.bank s.here) :
    exec (.rnext rd re) s = .next (t.modBank s.here (Bank.rangeOver rd re)) := by
  show execRnext rd re s = _
  rw [execRnext]
  simp only [if_neg (Nat.not_lt.2 over'), s.whenDrained_eq true drained undrained, free, unmarked, Option.isSome_none, Bool.false_and,
    Bool.false_eq_true, if_false]
  rw [← ended, State.passHere, State.resume, State.setStatus, State.here_modStrand, here, State.modStrand, State.modBank_modBank, ← here,
    State.modStrand, State.modBank_modBank, State.setRegs_advance, here, State.modBank, State.modBank, bank]
  rfl

/-! ## What RNEXT leaves -/

theorem State.reg_modBank (f : Bank → Bank) (r : Reg) : (s.modBank s.here f).reg r = (f (s.bank s.here)).strand.reg r := by
  rw [State.reg, State.here_modBank, State.strand, State.bank_modBank_self]

theorem State.pc_modBank (f : Bank → Bank) : (s.modBank s.here f).pc = (f (s.bank s.here)).strand.pc := by
  rw [State.pc, State.here_modBank, State.strand, State.bank_modBank_self]

theorem State.strand_modBank_self (p : Place) (f : Bank → Bank) : (s.modBank p f).strand p = (f (s.bank p)).strand := by
  rw [State.strand, State.bank_modBank_self]

theorem Strand.setRegs_eq (a : Strand) (r q : Reg) (v w : Word) :
    (a.setReg r v).setReg q w = { a with x := ((a.setReg r v).setReg q w).x } := by
  rw [Strand.setReg_eq (a.setReg r v) q w, Strand.setReg_eq a r v]

theorem Strand.reg_with_pc (a : Strand) (pc : Word) (r : Reg) : { a with pc := pc }.reg r = a.reg r := rfl

theorem State.chunk_spec (rd re : Reg) (running : (s.bank s.here).status = .running) : let t := s.modBank s.here (Bank.nextChunk rd re)
    let a := s.strand s.here
    s.OnlyBank t s.here ∧ t.pc = s.pc + 32 ∧ (∀ r, t.reg r = if r = re ∧ re ≠ 0 then a.chunkEnd else s.with rd a.next r) ∧
      t.bank s.here = { s.bank s.here with strand := { a with
        x := (t.strand s.here).x, pc := (t.strand s.here).pc, next := a.chunkEnd } } := by
  intro t a
  refine ⟨s.onlyBank_modBank _ _, s.pc_modBank _, fun r => ?_, ?_⟩
  · rw [State.reg_modBank, Bank.nextChunk, Bank.takeChunk, Strand.reg_with_pc, Strand.reg_setReg, Strand.reg_setReg]
    rfl
  · rw [State.strand_modBank_self, State.bank_modBank_self, Bank.nextChunk, Bank.takeChunk, Strand.setRegs_eq, running.symm]
    rfl

theorem Bank.passed_rangeOver (rd re : Reg) (b : Bank) : { b.strand with leafEnded := true }.Passed (b.rangeOver rd re).strand fun r =>
    if r ≠ 0 ∧ (r = rd ∨ r = re) then b.strand.hi else b.strand.kept r := by
  refine ⟨?_, fun r => ?_⟩
  · rw [Bank.rangeOver, Strand.setRegs_eq]
    rfl
  · have kept : { b.strand with leafEnded := true }.pass.reg r = b.strand.kept r := Strand.reg_pass _ r
    rw [Bank.rangeOver, Strand.reg_with_pc, Strand.reg_setReg, Strand.reg_setReg, kept]
    grind

theorem State.rangeOver_bank (rd re : Reg) (running : (s.bank s.here).status = .running) :
    (s.modBank s.here (Bank.rangeOver rd re)).bank s.here =
      { s.bank s.here with strand := (s.modBank s.here (Bank.rangeOver rd re)).strand s.here } := by
  rw [State.strand_modBank_self, State.bank_modBank_self, Bank.rangeOver, running.symm]

/-- What RNEXT of an empty range leaves, where the end of the leaf has changed no core. -/
theorem State.over_spec (rd re : Reg) {t : State} (running : (s.bank s.here).status = .running) (here : t.here = s.here)
    (cores : ∀ c, t.core c = s.core c) : let u := t.modBank s.here (Bank.rangeOver rd re)
    s.SameElsewhere u s.here ∧ u.bank s.here = { s.bank s.here with strand := u.strand s.here } ∧
      { s.strand s.here with leafEnded := true }.Passed (u.strand s.here) fun r =>
        if r ≠ 0 ∧ (r = rd ∨ r = re) then (s.strand s.here).hi else (s.strand s.here).kept r := by
  have banks (p : Place) : t.bank p = s.bank p := by rw [State.bank, cores, State.bank]
  obtain ⟨-, away, own, others⟩ := t.onlyBank_modBank s.here (Bank.rangeOver rd re)
  have bank := t.rangeOver_bank rd re (by rw [here, banks]; exact running)
  rw [here] at bank
  refine ⟨⟨fun c other => (away c other).trans (cores c), ?_, fun b other => (others b other).trans (banks _)⟩, ?_, ?_⟩
  · rw [own, cores]
  · rw [bank, banks]
  · rw [State.strand_modBank_self, banks]
    exact (s.bank s.here).passed_rangeOver rd re

end Sys2Proof.Machine
end

section
/-! A strand that starts: the record taken from the deque, and the frame taken from the pool (R95, R103, R106, R349). -/

namespace Sys2Proof.Machine

variable (s : State)

theorem State.modCore_modCore (c : Nat) (f g : Core → Core) : (s.modCore c f).modCore c g = s.modCore c fun k => g (f k) := by
  rw [State.modCore, State.core_modCore_self]
  exact congrArg (fun t => { s with cores := t }) (Tbl.set_set ..)

theorem State.bit_modCore (c : Nat) (f : Core → Core) (k : Nat) : (s.modCore c f).bit k = s.bit k :=
  State.bit_of_mem (s := s) (t := s.modCore c f) rfl rfl rfl rfl k

/-! ## An owner's pop (R106) -/

/-- A core whose deque has given the record that its owner takes, the newest in depth-first mode and the oldest in breadth-first mode. -/
def Core.popped (k : Core) : Core :=
  (if k.depthFirst then { k with dqn := k.dqn - 1 } else { k with dqn := k.dqn - 1, old := k.old + 1 }).afterPop

/-- The entry of a core's deque that its owner takes. -/
def Core.popEntry (k : Core) : Nat := if k.depthFirst then k.old.toNat + k.dqn.toNat - 1 else k.old.toNat

theorem State.dequePop_eq (c : Nat) (some' : 0 < (s.core c).dqn.toNat) (unspilled : (s.core c).spn = 0) :
    s.dequePop c = some (s.dequeBits c (s.core c).popEntry, s.modCore c Core.popped) := by
  have none : ¬ 0 < (s.core c).spn.toNat := by rw [unspilled]; decide
  by_cases deep : (s.core c).depthFirst = true
  · have taken : s.dequePop c = some (s.dequeBits c ((s.core c).old.toNat + (s.core c).dqn.toNat - 1),
        (s.modCore c fun k => { k with dqn := k.dqn - 1 }).modCore c Core.afterPop) := by
      simp only [State.dequePop, deep, some', decide_true, Bool.and_self, if_true]
      rfl
    rw [taken, State.modCore_modCore, State.modCore, State.modCore, Core.popped, Core.popEntry, if_pos deep, if_pos deep]
  · have wide : (s.core c).depthFirst = false := by simpa using deep
    have taken : s.dequePop c = some (s.dequeBits c (s.core c).old.toNat, (s.dropOldest c).modCore c Core.afterPop) := by
      simp only [State.dequePop, wide, Bool.false_and, Bool.false_eq_true, if_false, State.oldestTask, none, some', if_true]
      rfl
    rw [taken, State.dropOldest, State.modCore_modCore, State.modCore, State.modCore, if_neg none, Core.popped, Core.popEntry, if_neg deep,
      if_neg deep]

/-! ## A frame taken (R95) -/

theorem State.logEvent_frame (kind : Nat) (core : Option Nat) (addr detail : Word) : ∃ mem seals bad part,
    s.logEvent kind core addr detail = { s with mem := mem, seals := seals, bad := bad, part := part } := by
  rw [State.logEvent]
  split
  · exact ⟨_, _, _, _, rfl⟩
  · dsimp only
    split
    · rw [State.setBitsAt_frame]
      exact ⟨_, _, _, _, rfl⟩
    · exact ⟨_, _, _, _, rfl⟩

/-- The frame at the head of a core's pool, at physical bit `key`, has been taken. Where nothing waits in its quad and no event has been
written to memory, its bits are all of memory that differ. -/
structure State.TookFrame (s t : State) (c key : Nat) : Prop where
  frame : t = { s with
    mem := t.mem, seals := t.seals, full := t.full, filters := t.filters, quads := t.quads, agenda := t.agenda
    cores := t.cores, part := t.part, bad := t.bad }
  own : t.core c = { s.core c with fphead := BitVec.ofNat 64 (s.bitsAt key 64) >>> 9 <<< 9 }
  others : ∀ n, n ≠ c → t.core n = s.core n
  fixed : s.Fixed t
  calm : (s.quad (quadOf c)).deferred = [] → s.bitsAt key 64 / 512 ≠ 0 ∨ s.part.evbase >>> 9 = 0 →
    t.full = s.full ∧ ∀ k, k < key ∨ key + 1024 ≤ k → t.bit k = s.bit k

theorem State.takeFrame_eq {core key : Nat} (names : s.Names core ((s.core core).fphead >>> 9 <<< 9) 1024 512 key)
    (some' : (s.core core).fphead >>> 9 <<< 9 ≠ 0) (clean : s.bad = []) : s.takeFrame core =
      (let t := (s.homeStore (.hardware core) key 1024 (frameLow .reset false)).modCore core fun k =>
          { k with fphead := BitVec.ofNat 64 (s.bitsAt key 64) >>> 9 <<< 9 }
        if s.bitsAt key 64 / 512 = 0 then t.logEvent 0x0B (some core) 0 ((s.core core).fphead >>> 9 <<< 9) else t, some ((s.core core).fphead >>> 9 <<< 9)) := by
  rw [State.takeFrame]
  simp only [if_neg some', names.peek (n := 64) (m := 64) (by decide) (by decide) rfl,
    names.meetAt (n := 64) (m := 64) (by decide) (by decide) rfl clean, names.poke (n := 1024) (m := 512) (by decide) (by decide) rfl,
    Option.getD_some]

theorem State.tookFrame {core key : Nat} (names : s.Names core ((s.core core).fphead >>> 9 <<< 9) 1024 512 key)
    (some' : (s.core core).fphead >>> 9 <<< 9 ≠ 0) (clean : s.bad = []) (wf : s.MemoryWf) :
    ∃ t, s.takeFrame core = (t, some ((s.core core).fphead >>> 9 <<< 9)) ∧ s.TookFrame t core key := by
  refine ⟨_, s.takeFrame_eq names some' clean, ?_⟩
  dsimp only
  have puts := s.puts_homeStore (.hardware core) wf clean names.within.inScratchpad (by decide) (frameLow .reset false)
  have fixed := fixed_homeStore (.refl s) (.hardware core) key 1024 (frameLow .reset false)
  generalize s.homeStore (.hardware core) key 1024 (frameLow .reset false) = u at puts fixed ⊢
  obtain ⟨⟨⟨frame, -⟩, -, bit, quiet⟩, -⟩ := puts
  have cores (n : Nat) : u.core n = s.core n := by rw [frame]; rfl
  have named : s.TookFrame (u.modCore core fun k => { k with fphead := BitVec.ofNat 64 (s.bitsAt key 64) >>> 9 <<< 9 }) core key := by
    refine ⟨?_, ?_, fun n other => ?_, fixed_modCore fixed rfl rfl, fun waits _ => ⟨(quiet waits).1, fun k out => ?_⟩⟩
    · rw [frame]
      rfl
    · rw [State.core_modCore_self, cores]
    · rw [State.core_modCore_ne _ _ other, cores]
    · rw [State.bit_modCore, bit, if_neg (by omega)]
  have part : (u.modCore core fun k => { k with fphead := BitVec.ofNat 64 (s.bitsAt key 64) >>> 9 <<< 9 }).part = s.part := by
    rw [frame]
    rfl
  generalize u.modCore core (fun k => { k with fphead := BitVec.ofNat 64 (s.bitsAt key 64) >>> 9 <<< 9 }) = v at named part ⊢
  split
  · next last =>
    obtain ⟨vframe, own, others, vfixed, calm⟩ := named
    have logged := fixed_logEvent vfixed 0x0B (some core) 0 ((s.core core).fphead >>> 9 <<< 9)
    obtain ⟨mem, seals, bad, part', e⟩ := v.logEvent_frame 0x0B (some core) 0 ((s.core core).fphead >>> 9 <<< 9)
    refine ⟨?_, ?_, fun n other => ?_, logged, fun waits unlogged => ?_⟩
    · rw [e, vframe]
    · rw [e]
      exact own
    · rw [e]
      exact others n other
    · obtain ⟨full, bits⟩ := calm waits unlogged
      have none : v.part.evbase.toNat / 512 = 0 := by
        have off := congrArg BitVec.toNat (unlogged.resolve_left fun h => h last)
        rwa [BitVec.toNat_ushiftRight, Nat.shiftRight_eq_div_pow, ← part] at off
      rw [State.logEvent_lost _ _ _ _ _ none]
      refine ⟨full, fun k out => ?_⟩
      rw [← bits k out]
      exact v.bit_modPart (fun p => { p with evlost := p.evlost + 1 }) k
  · exact named

/-! ## A strand that starts (R103, R349) -/

/-- A bank in which a strand of a task starts. -/
def Bank.begin (r : BitVec 512) (frame : Word) (order : Nat) (b : Bank) : Bank :=
  { b with live := true, strand := strandOf r frame order, status := .reply .other 0 0, mark := none }

/-- The state in which a strand of a task has started in a bank, its frame taken. -/
def State.begin (s : State) (p : Place) (r : BitVec 512) (frame : Word) : State :=
  (s.bumpSeq.modBank p (Bank.begin r frame (s.seq + 1))).after 40 (.recordLoadDone p)

theorem State.startTask_eq {t : State} {p : Place} {frame : Word} (taken : s.takeFrame p.core = (t, some frame)) (r : BitVec 512) :
    s.startTask p r = (t.begin p r frame, true) := by
  rw [State.startTask, taken]
  rfl

theorem State.begin_spec (p : Place) (r : BitVec 512) (frame : Word) : let t := s.begin p r frame
    t = { s with cores := t.cores, seq := s.seq + 1, timers := t.timers } ∧ s.Timed t 40 (.recordLoadDone p) ∧
      t.bank p = (s.bank p).begin r frame (s.seq + 1) ∧ t.core p.core = { s.core p.core with banks := (t.core p.core).banks } ∧
      ∀ k, t.bit k = s.bit k := by
  refine ⟨rfl, mem_insertTimer .., s.bumpSeq.bank_modBank_self p _, ?_, fun k => ?_⟩
  · obtain ⟨-, -, own, -⟩ := s.bumpSeq.onlyBank_modBank p (Bank.begin r frame (s.seq + 1))
    exact own
  · refine State.bit_of_mem ?_ ?_ ?_ ?_ k <;> rfl

end Sys2Proof.Machine
end

section
/-! POPT: the strand ends as at EXIT, and a record of its core's deque starts in its bank (R103, R106, R176). -/

namespace Sys2Proof.Machine

/-! ## A quad that holds its starts -/

/-- Whether a core starts nothing does not depend on the press units held, on subscriptions, on the requests that wait or on the count of
lost events. -/
theorem State.holding_congr {s t : State} (part : t.part = { s.part with evlost := t.part.evlost }) (quad : ∀ q, t.quad q = { s.quad q with
    owners := (t.quad q).owners, subs := (t.quad q).subs, deferred := (t.quad q).deferred }) (c : Nat) : t.holding c = s.holding c := by
  have phys (q : Nat) : t.physId q = s.physId q := by
    simp only [State.physId, State.l2pOf]
    rw [part]
    rfl
  have voltage (q k : Nat) : t.tableVoltage q k = s.tableVoltage q k := by
    rw [State.tableVoltage, State.tableVoltage, phys, quad]
  have point (q : Nat) : t.anyPoint q = s.anyPoint q := by
    rw [State.anyPoint, State.anyPoint]
    refine congrArg (List.any _) (funext fun k => ?_)
    rw [State.pointPresent, State.pointPresent, voltage, quad]
  rw [State.holding, State.holding, State.onHold, State.onHold, State.frozen, State.frozen, point, quad, part]
  rfl

/-! ## The record that starts -/

variable {s : State}

theorem State.dequeBits_congr {t : State} (c e : Nat) (same : ∀ k, scratchBase (quadOf c) + 7 * 2 ^ 17 ≤ k → t.bit k = s.bit k) :
    t.dequeBits c e = s.dequeBits c e := by
  rw [State.dequeBits, State.dequeBits]
  refine congrArg _ (bitsAt_congr fun k low _ => same k ?_)
  rw [dequeKey, cabinet7] at low
  omega

/-- The state that EXIT leaves before the core passes on. -/
def State.vacant (s : State) (key : Nat) : State := (s.leafOver s.here).vacate s.here (s.strand s.here).sfp key

/-- POPT with a record in the deque, where the strand's frame is the only one that is asked for. -/
theorem State.exec_popt {rd : Reg} {w align key : Nat} {t : State} {frame : Word} (some' : (s.core s.cur).dqn ≠ 0) (drained : s.mustDrain = false)
    (undrained : s.NoDrain) (free : s.leafWaits = false) (names : s.Names s.cur (s.strand s.here).sfp w align key) (fits : 64 ≤ w)
    (multiple : 64 ∣ align) (starts : (s.vacant key).holding s.cur = false)
    (deque : ((s.vacant key).core s.cur).dqn = (s.core s.cur).dqn) (unspilled : ((s.vacant key).core s.cur).spn = 0)
    (taken : (s.vacant key).takeFrame s.cur = (t, some frame)) (own : t.core s.cur = { (s.vacant key).core s.cur with fphead := (t.core s.cur).fphead }) :
    exec (.popt rd) s = .next (((t.begin s.here ((s.vacant key).dequeBits s.cur ((s.vacant key).core s.cur).popEntry) frame).modCore s.cur
      Core.popped).switch s.cur) := by
  have ended := State.endStrand_vacates (s.givenUp s.here undrained) names fits multiple
  have pos : 0 < (s.core s.cur).dqn.toNat := by
    rw [Nat.pos_iff_ne_zero]
    exact fun zero => some' (BitVec.eq_of_toNat_eq zero)
  have first := (s.vacant key).dequePop_eq s.cur (by rw [deque]; exact pos) unspilled
  have started := (s.vacant key).startTask_eq (p := s.here) taken ((s.vacant key).dequeBits s.cur ((s.vacant key).core s.cur).popEntry)
  obtain ⟨-, -, -, core, -⟩ := t.begin_spec s.here ((s.vacant key).dequeBits s.cur ((s.vacant key).core s.cur).popEntry) frame
  generalize t.begin s.here ((s.vacant key).dequeBits s.cur ((s.vacant key).core s.cur).popEntry) frame = u at started core ⊢
  have dqn : (u.core s.cur).dqn = (s.core s.cur).dqn := (congrArg Core.dqn core).trans ((congrArg Core.dqn own).trans deque)
  have second := u.dequePop_eq s.cur (by rw [dqn]; exact pos) ((congrArg Core.spn core).trans ((congrArg Core.spn own).trans unspilled))
  show execPopt rd s = _
  rw [execPopt, s.whenDrained_eq false drained undrained, free]
  simp only [some', false_and, if_false, Bool.false_eq_true, ended]
  rw [← State.vacant, starts]
  simp only [Bool.false_eq_true, if_false, first, started, second]

theorem State.exec_popt_empty (rd : Reg) (empty : (s.core s.cur).dqn = 0) (unspilled : (s.core s.cur).spn = 0) :
    exec (.popt rd) s = .next (s.resume.complete rd 0) := by
  show execPopt rd s = _
  rw [execPopt]
  simp only [empty, unspilled, and_self, if_true]

theorem Core.popped_eq (k : Core) : k.popped = { k with
    dqn := k.dqn - 1, old := if k.depthFirst then k.old else k.old + 1, depthFirst := k.popped.depthFirst } := by
  rw [Core.popped]
  split <;> rfl

theorem State.Names.floor {core : Nat} {a : Word} {w key : Nat} (names : s.Names core a w 512 key) : a >>> 9 <<< 9 = a := by
  obtain ⟨x, y, off, hx, hy, -, -, -, -, multiple, ha, -⟩ := names
  rw [floor_eq]
  refine BitVec.eq_of_toNat_eq ?_
  rw [BitVec.toNat_ofNat]
  omega

/-- A core whose strand in a bank has started on a record of its deque, and that passes to its next ready bank. -/
theorem State.popped_spec (u : State) (c : Nat) : let t := (u.modCore c Core.popped).switch c
    (∀ p, t.bank p = u.bank p) ∧ (t.core c).dqn = (u.core c).dqn - 1 ∧
      (t.core c).old = (if (u.core c).depthFirst then (u.core c).old else (u.core c).old + 1) ∧ (t.core c).fphead = (u.core c).fphead ∧
      (t.core c).bound = (u.core c).bound ∧ ∀ k, t.bit k = u.bit k := by
  intro t
  have core : t.core c = { (u.core c).popped with cur := (u.core c).popped.nextBank (u.core c).popped.cur, guard := 0 } := by
    show ((u.modCore c Core.popped).switch c).core c = _
    rw [State.core_switch, State.core_modCore_self]
  refine ⟨fun p => ?_, ?_, ?_, ?_, ?_, fun k => (State.bit_modCore _ _ _ k).trans (u.bit_modCore _ _ k)⟩
  · exact (State.bank_switch ..).trans (u.bank_modCore_banks c (by rw [Core.popped_eq]) p)
  all_goals rw [core, Core.popped_eq]

/-- A strand has started on a task in a bank, its frame the head of the pool, and its core has taken the record from its deque. -/
structure State.Restarted (s t : State) (p : Place) (r : BitVec 512) (frame : Word) (key : Nat) : Prop where
  timed : s.Timed t 40 (.recordLoadDone p)
  bank : t.bank p = (s.bank p).begin r frame (s.seq + 1)
  dqn : (t.core p.core).dqn = (s.core p.core).dqn - 1
  old : (t.core p.core).old = (if (s.core p.core).depthFirst then (s.core p.core).old else (s.core p.core).old + 1)
  fphead : (t.core p.core).fphead = BitVec.ofNat 64 (s.bitsAt key 64) >>> 9 <<< 9
  bound : (t.core p.core).bound = (s.core p.core).bound
  owners : ∀ q, (t.quad q).owners = (s.quad q).owners
  calm : (s.quad (quadOf p.core)).deferred = [] → s.bitsAt key 64 / 512 ≠ 0 ∨ s.part.evbase >>> 9 = 0 →
    t.full = s.full ∧ ∀ k, k < key ∨ key + 1024 ≤ k → t.bit k = s.bit k

theorem State.restarted {p : Place} {frame : Word} {key : Nat} (r : BitVec 512) (names : s.Names p.core frame 1024 512 key)
    (head : (s.core p.core).fphead = frame) (framed : frame ≠ 0) (clean : s.bad = []) (wf : s.MemoryWf) :
    ∃ t, s.takeFrame p.core = (t, some frame) ∧ t.core p.core = { s.core p.core with fphead := (t.core p.core).fphead } ∧
      s.Restarted (((t.begin p r frame).modCore p.core Core.popped).switch p.core) p r frame key := by
  have floor : (s.core p.core).fphead >>> 9 <<< 9 = frame := by rw [head, names.floor]
  obtain ⟨t, taken, took⟩ := s.tookFrame (by rw [floor]; exact names) (by rw [floor]; exact framed) clean wf
  rw [floor] at taken
  refine ⟨t, taken, by rw [took.own], ?_⟩
  obtain ⟨uframe, timed, bank, core, bits⟩ := t.begin_spec p r frame
  obtain ⟨fbank, fdqn, fold, fhead, fbound, fbits⟩ := State.popped_spec (t.begin p r frame) p.core
  have same (q : Nat) : ((((t.begin p r frame).modCore p.core Core.popped).switch p.core).quad q).owners = (t.quad q).owners := rfl
  have full : (((t.begin p r frame).modCore p.core Core.popped).switch p.core).full = t.full := rfl
  have timers : (((t.begin p r frame).modCore p.core Core.popped).switch p.core).timers = (t.begin p r frame).timers := rfl
  generalize ((t.begin p r frame).modCore p.core Core.popped).switch p.core = f at *
  generalize t.begin p r frame = u at *
  have now : t.now = s.now := by rw [took.frame]
  have seq : t.seq = s.seq := by rw [took.frame]
  have before : t.bank p = s.bank p := by rw [State.bank, took.own, State.bank]
  refine ⟨?_, ?_, ?_, ?_, ?_, ?_, fun q => (same q).trans (took.fixed.owners q), fun waits unlogged => ?_⟩
  · rw [State.Timed, timers, ← now]
    exact timed
  · rw [fbank, bank, before, seq]
  · rw [fdqn, core, took.own]
  · rw [fold, core, took.own]
  · rw [fhead, core, took.own]
  · rw [fbound, core, took.own]
  · obtain ⟨tfull, tbits⟩ := took.calm waits unlogged
    exact ⟨full.trans tfull, fun k out => by rw [fbits, bits, tbits k out]⟩

/-- What POPT with a record in the deque leaves. -/
theorem State.popt_spec {rd : Reg} {j d g key : Nat} (some' : (s.core s.cur).dqn ≠ 0) (unspilled : (s.core s.cur).spn = 0)
    (drained : s.mustDrain = false) (undrained : s.NoDrain) (unmarked : (s.bank s.here).mark = none) (starts : s.holding s.cur = false)
    (leaf : (s.strand s.here).leafEnded = true ∨ s.LeafWords (s.strand s.here).task j d g ∧ LeafClear key 1024 j d g)
    (names : s.Names s.cur (s.strand s.here).sfp 1024 512 key) (framed : (s.strand s.here).sfp ≠ 0) (clean : s.bad = []) (wf : s.MemoryWf)
    (unlogged : (s.core s.cur).fphead >>> 9 ≠ 0 ∨ s.part.evbase >>> 9 = 0) : let a := s.strand s.here
    let k := s.core s.cur
    Done (exec (.popt rd) s) fun t => s.Timed t 40 (.recordLoadDone s.here) ∧
      t.bank s.here = { s.bank s.here with
        live := true, strand := strandOf (s.dequeBits s.cur k.popEntry) a.sfp (s.seq + 1), status := .reply .other 0 0 } ∧
      (t.core s.cur).dqn = k.dqn - 1 ∧ (t.core s.cur).old = (if k.depthFirst then k.old else k.old + 1) ∧
      (t.core s.cur).fphead = k.fphead >>> 9 <<< 9 ∧ (∀ b ∈ (t.core s.cur).bound, b.2 ≠ a.sfp) ∧
      (t.quad (quadOf s.cur)).holds a.sfp = false ∧
      (a.leafEnded = false → s.LeafEnded t a.task (s.bitsAt j 64) j d g) := by
  intro a k
  have given := s.givenUp s.here undrained
  have words : a.leafEnded = true ∧ s.MemoryWf ∨ s.EndsLeaf a.task j d g := leaf.imp (fun over' => ⟨over', wf⟩) fun words => words.1.ends
  have inside : InScratchpad (quadOf s.cur) key 64 := names.within.inScratchpad.mono (le_refl _) (by omega)
  have departed := given.departed rfl words clean inside
  have vacated := given.vacated key
  have bits (n : Nat) := given.departed_bit rfl words clean inside (k := n)
  have leafed := given.departed_leaf rfl words clean inside
  have run := fun t frame => s.exec_popt (rd := rd) (t := t) (frame := frame) some' drained undrained
    (leaf.elim (fun over' => by rw [State.leafWaits, over']; rfl) fun words => by
      obtain ⟨-, -, -, -, -, -, -, -, free, -⟩ := words.1
      rw [State.leafWaits, free, Bool.and_false]) names (by decide) (by decide)
  rw [show (s.leafOver s.here).vacate s.here (s.strand s.here).sfp key = s.vacant key from rfl] at departed vacated bits leafed
  generalize s.vacant key = v at departed vacated bits leafed run
  obtain ⟨frame, quad, core, bank, outcome, vwf, word⟩ := departed
  obtain ⟨-, bound, holds⟩ := vacated
  have vcore : v.core s.cur = { s.core s.cur with
    banks := (v.core s.cur).banks, bound := (v.core s.cur).bound, fphead := a.sfp >>> 9 <<< 9 } := core
  have inside' : v.part.inside = s.part.inside := by rw [frame]; rfl
  have bad : v.bad = [] := by rw [frame]; exact clean
  have part : v.part = { s.part with evlost := v.part.evlost } := by rw [frame]
  have deque : v.dequeBits s.cur (v.core s.cur).popEntry = s.dequeBits s.cur k.popEntry := by
    have entry : (v.core s.cur).popEntry = k.popEntry := by rw [vcore]; rfl
    rw [entry]
    refine State.dequeBits_congr _ _ fun n above => bits n (words.imp And.left fun words => words.outside above) (.inr ?_)
    have := names.within.2.2
    omega
  obtain ⟨t, taken, own, restarted⟩ := State.restarted (p := s.here) (s := v) (s.dequeBits s.cur k.popEntry) (names.of_inside inside')
    (by rw [core, names.floor]) framed bad vwf
  have done := run t a.sfp ((State.holding_congr part quad _).trans starts) (by rw [vcore]) (by rw [vcore]; exact unspilled) taken own
  rw [deque] at done
  refine ⟨_, done, ?_⟩
  obtain ⟨timed, fbank, dqn, old, fphead, fbound, owners, calm⟩ := restarted
  have now : v.now = s.now := by rw [frame]
  have seq : v.seq = s.seq := by rw [frame]
  have head : v.bitsAt key 64 = k.fphead.toNat := word
  refine ⟨?_, ?_, ?_, ?_, ?_, ?_, ?_, fun pending => ?_⟩
  · rw [State.Timed, ← now]
    exact timed
  · refine fbank.trans ?_
    rw [Bank.begin, bank, outcome unmarked, seq]
    exact congrArg (fun m => { s.bank s.here with
      live := true, strand := strandOf (s.dequeBits s.cur k.popEntry) a.sfp (s.seq + 1), status := .reply .other 0 0, mark := m }) unmarked.symm
  · have kept := congrArg (fun c : Core => c.dqn - 1) core
    exact dqn.trans kept
  · have kept := congrArg (fun c : Core => if c.depthFirst then c.old else c.old + 1) core
    exact old.trans kept
  · exact fphead.trans (by rw [head, BitVec.ofNat_toNat, BitVec.setWidth_eq])
  · exact fun b hb => bound b (fbound ▸ hb)
  · rw [← holds]
    exact Quad.holds_congr (owners _) _
  · obtain ⟨ended, clear⟩ := leaf.resolve_left (by rw [show (s.strand s.here).leafEnded = false from pending]; decide)
    have quiet : (s.quad (quadOf s.cur)).deferred = [] := ended.ends.quiet
    obtain ⟨left, waits⟩ := leafed pending quiet fun w hw => by
      have := clear w hw
      omega
    obtain ⟨full, same⟩ := calm waits (by
      rw [head, part]
      refine unlogged.imp_left fun some' none => some' (BitVec.eq_of_toNat_eq ?_)
      rw [BitVec.toNat_ushiftRight, Nat.shiftRight_eq_div_pow]
      exact none)
    refine left.congr (fun _ => rfl) (fun _ => rfl) rfl (fun w hw => bitsAt_congr fun n low high => same n ?_) full
    have := clear w hw
    omega

/-- Settles O17: an empty deque's POPT writes 0; with a record the strand ends as at EXIT, which leaves the deque as it is and its own frame at
the head of the pool for the strand that starts; RNEXT steps its range, and an empty one ends the leaf on its words alone. -/
theorem rangesAndDeques : Obligations.RangesAndDeques := by
  unfold Obligations.RangesAndDeques
  intro s rd re j d g key running a k grain e record both
  have chunk : BitVec.ofNat 64 e = a.chunkEnd := by rw [Strand.chunkEnd, taskGrain_eq]
  refine ⟨fun empty unspilled => ?_, fun some' unspilled drained undrained unmarked starts leaf names framed clean wf unlogged => ?_,
    fun left => ?_, fun over' drained undrained unmarked => ⟨fun ended => ?_, fun pending words => ?_⟩⟩
  · exact ⟨_, s.exec_popt_empty rd empty unspilled, State.Wrote.of_resume running (s.resume.wrote_complete rd 0)⟩
  · exact s.popt_spec some' unspilled drained undrained unmarked starts leaf names framed clean wf unlogged
  · obtain ⟨only, pc, regs, bank⟩ := s.chunk_spec rd re running
    rw [chunk]
    exact ⟨_, s.exec_rnext_chunk rd re left, only, pc, regs, bank⟩
  · have free : s.leafWaits = false := by rw [State.leafWaits, show (s.strand s.here).leafEnded = true from ended]; rfl
    obtain ⟨elsewhere, bank, passed⟩ := s.over_spec rd re running rfl fun _ => rfl
    refine ⟨_, s.exec_rnext_over rd re over' drained undrained unmarked free (if_pos ended).symm rfl rfl, ⟨rfl, elsewhere⟩, bank, ?_⟩
    rwa [show { s.strand s.here with leafEnded := true } = a by rw [← ended]] at passed
  · have free : s.leafWaits = false := by
      obtain ⟨-, -, -, -, -, -, -, -, free, -⟩ := words
      rw [State.leafWaits, free, Bool.and_false]
    obtain ⟨still, -, done, -⟩ := State.leafEnd_own words.ends
    obtain ⟨elsewhere, bank, passed⟩ := s.over_spec rd re running still.here still.core
    refine ⟨_, s.exec_rnext_over rd re over' drained undrained unmarked free (if_neg (by rw [show (s.strand s.here).leafEnded = false from pending]; decide)).symm
      still.here (still.bank _), elsewhere, bank, passed, ?_⟩
    exact done.congr (fun _ => rfl) (fun _ => rfl) rfl (fun w _ => bitsAt_congr fun n _ _ => State.bit_modBank _ _ _ n) rfl

end Sys2Proof.Machine
end

section
/-! The steps that bring strands to banks and take them away: a task started, a record loaded or written back, work stolen (R95 to R107, R347
to R349). -/

namespace Sys2Proof.Machine

variable {s : State}

/-! ## A strand that has come to a bank (R349, R381) -/

theorem State.entered_frame (s before : State) (c : Nat) : ∃ quads regions agenda,
    s.entered before c = { s with quads := quads, regions := regions, agenda := agenda } := by
  rw [State.entered]
  split
  · unfold State.beginStart
    dsimp only
    split
    · exact ⟨_, _, _, rfl⟩
    · exact ⟨_, _, _, rfl⟩
  · exact ⟨_, _, _, rfl⟩

theorem State.mem_timers_dropRound (s : State) (c : Nat) {n : Nat} {p : Place} (h : (n, .recordLoadDone p) ∈ s.timers) :
    (n, .recordLoadDone p) ∈ (s.dropRound c).timers :=
  List.mem_filter.2 ⟨h, by simp⟩

/-- A strand of a record runs in a bank as it starts: it issues 40 cycles later, and the core looks for more work (R103, R349). -/
def State.Starts (s : State) (p : Place) (r : BitVec 512) (frame : Word) (key : Nat) (t : State) : Prop :=
  (t.bank p).live = true ∧ (t.bank p).strand = strandOf r frame (s.seq + 1) ∧ s.Timed t 40 (.recordLoadDone p) ∧
    (t.core p.core).fphead = BitVec.ofNat 64 (s.bitsAt key 64) >>> 9 <<< 9 ∧ t.Posted (.bankFill p.core)

theorem State.starts_entered {u : State} {b : Bank} {p : Place} {r : BitVec 512} {frame : Word} {key : Nat} (before : State)
    (bank : u.bank p = b.begin r frame (s.seq + 1)) (timed : s.Timed u 40 (.recordLoadDone p))
    (fphead : (u.core p.core).fphead = BitVec.ofNat 64 (s.bitsAt key 64) >>> 9 <<< 9) :
    s.Starts p r frame key ((u.entered before p.core).post (.bankFill p.core)) := by
  obtain ⟨quads, regions, agenda, e⟩ := u.entered_frame before p.core
  rw [e]
  have same : (State.post { u with quads := quads, regions := regions, agenda := agenda } (.bankFill p.core)).bank p = u.bank p := rfl
  refine ⟨?_, ?_, timed, fphead, List.mem_append_right _ (List.mem_singleton_self _)⟩
  · rw [same, bank]
    rfl
  · rw [same, bank]
    rfl

theorem State.core_entered (u before : State) (c n : Nat) (i : Instr) : ((u.entered before c).post i).core n = u.core n := by
  obtain ⟨quads, regions, agenda, e⟩ := u.entered_frame before c
  rw [e]
  rfl

theorem State.startTask_spec {p : Place} {key : Nat} (r : BitVec 512) (names : s.Names p.core ((s.core p.core).fphead >>> 9 <<< 9) 1024 512 key)
    (framed : (s.core p.core).fphead >>> 9 <<< 9 ≠ 0) (wf : s.MemoryWf) (clean : s.bad = []) : ∃ (u : State) (b : Bank), s.startTask p r = (u, true) ∧
      u.bank p = b.begin r ((s.core p.core).fphead >>> 9 <<< 9) (s.seq + 1) ∧ s.Timed u 40 (.recordLoadDone p) ∧
      u.core p.core = { s.core p.core with
        banks := (u.core p.core).banks, fphead := BitVec.ofNat 64 (s.bitsAt key 64) >>> 9 <<< 9 } := by
  obtain ⟨t, taken, took⟩ := s.tookFrame names framed clean wf
  have started := s.startTask_eq taken r
  obtain ⟨-, timed, bank, core, -⟩ := t.begin_spec p r ((s.core p.core).fphead >>> 9 <<< 9)
  generalize t.begin p r ((s.core p.core).fphead >>> 9 <<< 9) = u at *
  have seq : t.seq = s.seq := by rw [took.frame]
  have now : t.now = s.now := by rw [took.frame]
  refine ⟨u, t.bank p, started, by rw [bank, seq], ?_, ?_⟩
  · rw [State.Timed, ← now]
    exact timed
  · rw [core, took.own]

/-! ## BANK_FILL from the deque (R101, R106) -/

theorem State.loadable_nil {c : Nat} (none : (s.core c).parked = []) : s.loadable c = [] := by
  rw [State.loadable, none]
  rfl

theorem State.bankFill_starts {c key : Nat} {b : Fin 4} (free : (s.core c).freeBank = some b) (on : (s.quad (quadOf c)).gate = .on)
    (runs : s.holding c = false) (none : (s.core c).parked = []) (wide : (s.core c).depthFirst = false) (unspilled : (s.core c).spn = 0)
    (some' : 0 < (s.core c).dqn.toNat) (framed : (s.core c).fphead >>> 9 <<< 9 ≠ 0)
    (names : s.Names c ((s.core c).fphead >>> 9 <<< 9) 1024 512 key) (wf : s.MemoryWf) (clean : s.bad = []) :
    Done (exec (.bankFill c) s) fun t => s.Starts ⟨c, b⟩ (s.dequeBits c (s.core c).old.toNat) ((s.core c).fphead >>> 9 <<< 9) key t ∧
      (t.core c).dqn = (s.core c).dqn - 1 ∧ (t.core c).old = (s.core c).old + 1 := by
  have pool : ¬ (s.core c).fphead >>> 9 = 0 := fun zero => framed (by rw [zero]; rfl)
  have first := s.dequePop_eq c some' unspilled
  have entry : (s.core c).popEntry = (s.core c).old.toNat := by rw [Core.popEntry, wide]; rfl
  rw [entry] at first
  obtain ⟨u, x, started, bank, timed, core⟩ := s.startTask_spec (p := ⟨c, b⟩) (s.dequeBits c (s.core c).old.toNat) names framed wf clean
  have ucore : u.core c = { s.core c with
    banks := (u.core c).banks, fphead := BitVec.ofNat 64 (s.bitsAt key 64) >>> 9 <<< 9 } := core
  have second := u.dequePop_eq c (by rw [ucore]; exact some') (by rw [ucore]; exact unspilled)
  have ran : exec (.bankFill c) s = .next (((((u.modCore c Core.popped).modCore c fun k => { k with stealIdle := false }).dropRound c).entered
      s c).post (.bankFill c)) := by
    show execBankFill c s = _
    rw [execBankFill]
    simp only [free, on, runs, State.loadable_nil none, bestRecord, List.foldl_nil, pool, first, started, second, bne_self_eq_false,
      Bool.false_and, Bool.false_eq_true, if_false]
  have filled : (((u.modCore c Core.popped).modCore c fun k => { k with stealIdle := false }).dropRound c).core c =
      { (u.core c).popped with stealIdle := false } := by
    show ((u.modCore c Core.popped).modCore c fun k => { k with stealIdle := false }).core c = _
    rw [State.core_modCore_self, State.core_modCore_self]
  refine ⟨_, ran, State.starts_entered (b := x) (p := ⟨c, b⟩) s ?_ ?_ ?_, ?_, ?_⟩
  · rw [← bank, State.bank, filled, Core.popped_eq, State.bank]
  · exact State.mem_timers_dropRound _ c timed
  · rw [filled, Core.popped_eq, ucore]
  · rw [State.core_entered, filled, Core.popped_eq, ucore]
  · rw [State.core_entered, filled, Core.popped_eq, ucore, wide]
    rfl

/-! ## STEAL_REPLY with a task (R107) -/

/-- A thief's round is over: its request is answered, and its round's timer is dropped (R347). -/
def State.endRound (s : State) (c : Nat) : State := (s.modCore c fun k => { k with steal := none, stealIdle := false }).dropRound c

theorem State.stealReply_starts {c key : Nat} {b : Fin 4} (r : BitVec 512) (free : (s.core c).freeBank = some b) (runs : s.holding c = false)
    (framed : (s.core c).fphead >>> 9 <<< 9 ≠ 0) (names : s.Names c ((s.core c).fphead >>> 9 <<< 9) 1024 512 key) (wf : s.MemoryWf)
    (clean : s.bad = []) : Done (exec (.stealReply c (.task r)) s) (s.Starts ⟨c, b⟩ r ((s.core c).fphead >>> 9 <<< 9) key) := by
  have own : ((s.endRound c).core c).fphead = (s.core c).fphead := by
    show ((s.modCore c fun k => { k with steal := none, stealIdle := false }).core c).fphead = _
    rw [State.core_modCore_self]
  have bits (k : Nat) : (s.endRound c).bit k = s.bit k := State.bit_of_mem (s := s) (t := s.endRound c) rfl rfl rfl rfl k
  have word : (s.endRound c).bitsAt key 64 = s.bitsAt key 64 := bitsAt_congr fun k _ _ => bits k
  obtain ⟨u, x, started, bank, timed, core⟩ := (s.endRound c).startTask_spec (p := ⟨c, b⟩) r
    (by rw [own]; exact names.of_inside (t := s.endRound c) rfl) (by rw [own]; exact framed) wf clean
  have ran : exec (.stealReply c (.task r)) s = .next ((u.entered s c).post (.bankFill c)) := by
    show execStealReply c (.task r) s = _
    rw [State.endRound] at started
    simp only [execStealReply, free, runs, Bool.false_eq_true, if_false, started]
  refine ⟨_, ran, State.starts_entered (b := x) (p := ⟨c, b⟩) s ?_ timed ?_⟩
  · rw [bank, own]
    rfl
  · rw [core, word]

/-! ## A record loaded (R96) -/

theorem State.loadDone_spec {p : Place} (live : (s.bank p).live = true) (waits : (s.bank p).status = .reply .other 0 0)
    (sound : (s.strand p).cause = 0) : Done (exec (.recordLoadDone p) s) (s.NowHolds · p (s.strand p) .running) := by
  have ran : exec (.recordLoadDone p) s = .next ((s.setStatus p .running).modStrand p fun a => { a with cause := 0 }) := by
    show execRecordLoadDone p s = _
    rw [execRecordLoadDone]
    simp only [live, waits, sound, beq_self_eq_true, Bool.and_self, if_true]
  have same : { s.strand p with cause := 0 } = s.strand p := by rw [← sound]
  refine ⟨_, ran, (s.onlyBank_modBank p _).trans (State.onlyBank_modStrand _ p _), ?_⟩
  rw [State.modStrand, State.bank_modBank_self, State.setStatus, State.bank_modBank_self]
  exact congrArg (fun a => { s.bank p with status := .running, strand := a }) same

/-! ## Waits and turns (R98, R99) -/

/-- An access reads the same where memory, the partition and the translation caches are the same. -/
theorem State.peek_congr {s t : State} (bits : ∀ k, t.bit k = s.bit k) (part : t.part = s.part) (cores : t.cores = s.cores)
    (clusters : t.clusters = s.clusters) (modid : t.modid = s.modid) (c : Nat) (a : Word) (w align : Nat) : t.peek c a w align = s.peek c a w align := by
  have read (key n : Nat) : t.bitsAt key n = s.bitsAt key n := bitsAt_congr fun k _ _ => bits k
  have walk (va : Nat) : t.walk va = s.walk va := by simp only [State.walk, read, part]
  have translation (acc : Access) (va : Nat) : t.translation c acc va = s.translation c acc va := by
    simp only [State.translation, State.core, State.cluster, cores, clusters, walk]
  have located : t.locate c false false .load a w align = s.locate c false false .load a w align := by
    simp only [State.locate, State.locatePeer, part, modid, funext (translation _)]
  have refuses (ps : List Part) : t.peerRefuses a ps = s.peerRefuses a ps := by
    simp only [State.peerRefuses, State.peerRefusesPart, part]
  simp only [State.peek, located, refuses, State.partsAt, read]

theorem State.wanting_after (n : Nat) (i : Instr) (c cycles : Nat) : (s.after n i).wanting c cycles = s.wanting c cycles := by
  have bits (k : Nat) : (s.after n i).bit k = s.bit k := State.bit_of_mem (s := s) (t := s.after n i) rfl rfl rfl rfl k
  have parked (r : Parked) : (s.after n i).parkedBits c r = s.parkedBits c r := by
    have peek := State.peek_congr (s := s) (t := s.after n i) bits rfl rfl rfl rfl
    have read (key w : Nat) : (s.after n i).bitsAt key w = s.bitsAt key w := bitsAt_congr fun k _ _ => bits k
    simp only [State.parkedBits, peek, read]
    rfl
  have loadable : (s.after n i).loadable c = s.loadable c := by
    simp only [State.loadable, parked]
    rfl
  simp only [State.wanting, loadable]
  rfl


theorem State.writebackTimeout_spec {p : Place} (live : (s.bank p).live = true) (waits : (s.bank p).status.suspended = true)
    (untrapped : (s.strand p).trap = false) : Done (exec (.waitWritebackTimeout p) s) fun t =>
      s.Timed t 1024 (.waitWritebackTimeout p) ∧ t = { s with timers := t.timers, agenda := t.agenda } ∧
      (t.Posted (.recordWriteback p) ↔ s.Posted (.recordWriteback p) ∨ s.wanting p.core 1024 = true) := by
  have ran : exec (.waitWritebackTimeout p) s = .next (if s.wanting p.core 1024 then
      (s.after 1024 (.waitWritebackTimeout p)).post (.recordWriteback p) else s.after 1024 (.waitWritebackTimeout p)) := by
    show execWaitWritebackTimeout p s = _
    rw [execWaitWritebackTimeout]
    simp only [live, waits, show (s.bank p).strand.trap = false from untrapped, Bool.and_self, if_true, Bool.not_false, Bool.and_true,
      State.wanting_after]
  refine ⟨_, ran, ?_⟩
  split
  · next wanted =>
    refine ⟨mem_insertTimer .., rfl, ?_⟩
    simp [wanted, State.Posted, State.post, State.push]
  · next idle =>
    refine ⟨mem_insertTimer .., rfl, ?_⟩
    simp [idle, State.Posted, State.after]

theorem State.guardExpiry_spec (c : Nat) : Done (exec (.issueGuardExpiry c) s) fun t => t = { s with cores := t.cores } ∧
    (t.core c).cur = (s.core c).nextBank (s.core c).cur ∧ (t.core c).guard = 0 ∧ (t.core c).banks = (s.core c).banks := by
  refine ⟨_, rfl, rfl, ?_⟩
  rw [State.core_switch]
  exact ⟨rfl, rfl, rfl⟩

/-! ## A strand written back (R94, R95, R98, R341) -/

theorem State.forSave_sfp (p : Place) : (s.forSave p).sfp = (s.strand p).sfp := by
  rw [State.forSave]
  dsimp only
  split
  · rfl
  · split <;> rfl

theorem State.parked_endDrain (v : State) (c : Nat) (sfp : Word) : ((v.endDrain c sfp).core c).parked = (v.core c).parked := by
  rw [State.endDrain]
  split
  · rw [State.core_modCore_self]
  · rfl

theorem State.bank_endDrain (v : State) (c : Nat) (sfp : Word) (p : Place) : (v.endDrain c sfp).bank p = v.bank p := by
  rw [State.endDrain]
  split
  · exact v.bank_modCore_banks c rfl p
  · rfl

/-- The bank of a strand that has been written back. -/
def Bank.saved (outcome : BitVec 2) (b : Bank) : Bank :=
  { b with live := false, outcome := if b.mark.isSome then outcome else b.outcome, mark := none }

/-- A strand's bank is free, and what its record has no room for is kept. -/
def State.keepRecorded (v : State) (p : Place) (sfp : Word) (kept : Kept) (outcome : BitVec 2) : State :=
  ((v.modPart fun t => { t with kept := t.kept.set sfp.toNat kept }).modBank p (Bank.saved outcome)).modCluster (clusterOf p.core)
    (·.forgetStrand p sfp)

theorem State.keepRecorded_spec (v : State) (p : Place) (sfp : Word) (kept : Kept) (outcome : BitVec 2) :
    let t := v.keepRecorded p sfp kept outcome
    (t.bank p).live = false ∧ (t.core p.core).parked = (v.core p.core).parked := by
  have bank := State.bank_modBank_self (v.modPart fun t => { t with kept := t.kept.set sfp.toNat kept }) p (Bank.saved outcome)
  obtain ⟨-, -, own, -⟩ := State.onlyBank_modBank (v.modPart fun t => { t with kept := t.kept.set sfp.toNat kept }) p (Bank.saved outcome)
  have listed := congrArg Core.parked own
  exact ⟨congrArg Bank.live bank, listed⟩

/-- The core of a strand that has been written back passes on (R99). -/
theorem State.leave_spec (u : State) (p : Place) (sfp : Word) :
    let t := (((u.endDrain p.core sfp).switch p.core).seekBoundary p.core).post (.bankFill p.core)
    (t.bank p).live = (u.bank p).live ∧ (t.core p.core).parked = (u.core p.core).parked := by
  intro t
  obtain ⟨l, -, e⟩ := ((u.endDrain p.core sfp).switch p.core).seekBoundary_agenda p.core
  have bank : t.bank p = ((u.endDrain p.core sfp).switch p.core).bank p := by
    show (State.post _ _).bank p = _
    rw [e]
    rfl
  have core : t.core p.core = ((u.endDrain p.core sfp).switch p.core).core p.core := by
    show (State.post _ _).core p.core = _
    rw [e]
    rfl
  refine ⟨?_, ?_⟩
  · rw [bank, State.bank_switch, State.bank_endDrain]
  · rw [core, State.core_switch]
    exact u.parked_endDrain ..

theorem State.Puts.core {t : State} {q key stop v : Nat} (h : s.Puts t q key stop v) (n : Nat) : t.core n = s.core n := by
  rw [h.writes.only.1]
  rfl

/-- A record placed in a slot of the pool. -/
theorem State.parkRecord_pool {c i : Nat} (b : BitVec 512) (r : Parked) (room : (s.core c).rln.toNat < 32)
    (slot : (s.quad (quadOf c)).freePool = some i) (small : quadOf c < 2 ^ 33) (wf : s.MemoryWf) (clean : s.bad = []) :
    ∃ t, s.parkRecord c b r = some t ∧ (t.core c).parked = (s.core c).parked ++ [{ r with place := i }] := by
  have low : i < 64 := List.mem_range.1 (List.mem_of_find?_eq_some slot)
  have inside : InScratchpad (quadOf c) (cabinet7 (quadOf c) (65536 + 512 * i)) 512 := by
    refine ⟨small, ?_, ?_⟩ <;> rw [cabinet7] <;> omega
  have taken : s.parkRecord c b r = some ((((s.modQuad (quadOf c) fun x => { x with pool := x.pool ||| (1#64 <<< i) }).modCore c fun k =>
      { k with rln := k.rln + 1, parked := k.parked ++ [{ r with place := i }] }).homeStore (.hardware c)
        (cabinet7 (quadOf c) (65536 + 512 * i)) 512 (0#64 ++ b.extractLsb' 0 448 : BitVec 512).toNat)) := by
    rw [State.parkRecord]
    simp only [room, if_true, slot, State.setParkedBits, low]
  refine ⟨_, taken, ?_⟩
  have own := State.core_modCore_self (s.modQuad (quadOf c) fun x => { x with pool := x.pool ||| (1#64 <<< i) }) c
    fun k => { k with rln := k.rln + 1, parked := k.parked ++ [{ r with place := i }] }
  have wf' : ((s.modQuad (quadOf c) fun x => { x with pool := x.pool ||| (1#64 <<< i) }).modCore c fun k =>
      { k with rln := k.rln + 1, parked := k.parked ++ [{ r with place := i }] }).MemoryWf := wf
  have clean' : ((s.modQuad (quadOf c) fun x => { x with pool := x.pool ||| (1#64 <<< i) }).modCore c fun k =>
      { k with rln := k.rln + 1, parked := k.parked ++ [{ r with place := i }] }).bad = [] := clean
  have puts := State.puts_homeStore (.hardware c) wf' clean' inside (by decide) (0#64 ++ b.extractLsb' 0 448 : BitVec 512).toNat
  rw [puts.core, own]
  rfl

theorem State.writeback_spec {p : Place} {key i : Nat} (live : (s.bank p).live = true) (untrapped : (s.strand p).trap = false)
    (stopped : (s.bank p).status = .stopped false) (idle : s.busy p.core (s.strand p).sfp = false)
    (names : s.Names p.core (s.strand p).sfp 1024 512 key) (wf : s.MemoryWf) (clean : s.bad = []) (room : (s.core p.core).rln.toNat < 32)
    (slot : (s.quad (quadOf p.core)).freePool = some i) : Done (exec (.recordWriteback p) s) fun t => (t.bank p).live = false ∧
      ∃ x ∈ (t.core p.core).parked, x.sfp = (s.strand p).sfp ∧ x.runnable = true ∧ x.place = i := by
  have saved : s.saveFrame p false = some (s.homeStore (.hardware p.core) key 1024 (frameLow (s.forSave p) (s.npend p.core (s.forSave p)))) := by
    rw [State.saveFrame]
    simp only [State.forSave_sfp, names.poke (n := 1024) (m := 512) (le_refl _) (dvd_refl _) rfl, Option.bind_some, Bool.false_eq_true, if_false]
  have puts := s.puts_homeStore (.hardware p.core) wf clean names.within.inScratchpad (by decide)
    (frameLow (s.forSave p) (s.npend p.core (s.forSave p)))
  generalize s.homeStore (.hardware p.core) key 1024 (frameLow (s.forSave p) (s.npend p.core (s.forSave p))) = u at saved puts
  obtain ⟨⟨⟨frame, quads⟩, wf', -⟩, -⟩ := puts
  have core : u.core p.core = s.core p.core := by rw [frame]; rfl
  have now : u.now = s.now := by rw [frame]
  have pool : (u.quad (quadOf p.core)).freePool = some i := by rw [← slot, Quad.freePool, quads]; rfl
  obtain ⟨v, parked, listed⟩ := u.parkRecord_pool (c := p.core) (i := i)
    (recordBits { s.forSave p with fullsave := false } (s.npend p.core { s.forSave p with fullsave := false }))
    ⟨0, (s.forSave p).sfp, true, .running, u.now⟩ (by rw [core]; exact room) pool (by have := names.quad_lt; omega) wf'
    (by rw [frame]; exact clean)
  have left : s.save p false true .running 1 = some (((((v.keepRecorded p (s.forSave p).sfp (keptOf { s.forSave p with fullsave := false }) 1).endDrain
      p.core (s.forSave p).sfp).switch p.core).seekBoundary p.core).post (.bankFill p.core)) := by
    rw [State.save]
    simp only [saved, Option.bind_some, parked, Option.map_some]
    rfl
  have ran : exec (.recordWriteback p) s = .next (s.park p false true .running) := by
    show execRecordWriteback p s = _
    rw [execRecordWriteback]
    simp only [live, show (s.bank p).strand.trap = false from untrapped, stopped, show s.busy p.core (s.bank p).strand.sfp = false from idle,
      Bool.not_true, Bool.or_self, Bool.false_eq_true, if_false, true_or, if_true]
  have parks : s.park p false true .running = ((((v.keepRecorded p (s.forSave p).sfp (keptOf { s.forSave p with fullsave := false }) 1).endDrain
      p.core (s.forSave p).sfp).switch p.core).seekBoundary p.core).post (.bankFill p.core) := by
    rw [State.park]
    simp only [Bool.false_eq_true, if_false, left]
  obtain ⟨gone, kept⟩ := v.keepRecorded_spec p (s.forSave p).sfp (keptOf { s.forSave p with fullsave := false }) 1
  obtain ⟨bank, records⟩ := (v.keepRecorded p (s.forSave p).sfp (keptOf { s.forSave p with fullsave := false }) 1).leave_spec p (s.forSave p).sfp
  refine ⟨_, ran, ?_⟩
  rw [parks]
  refine ⟨bank.trans gone, ⟨i, (s.forSave p).sfp, true, .running, u.now⟩, ?_, State.forSave_sfp p, rfl, rfl⟩
  rw [records, kept, listed]
  exact List.mem_append_right _ (List.mem_singleton_self _)

/-! ## Stealing (R107, R347, R348) -/

theorem State.stealRequest_spec {c v i : Nat} (round : (s.core c).steal = some i) (idle : s.idleCore c = true)
    (victim : (s.victims c)[i]? = some v) :
    Done (exec (.stealRequest c) s) (· = { s with agenda := s.agenda ++ [.event (.stealAnswer c v)] }) := by
  refine ⟨_, ?_, rfl⟩
  show execStealRequest c s = _
  rw [execStealRequest]
  simp only [round, idle, victim, Bool.not_true, Bool.false_eq_true, if_false]
  rfl

/-- A change of one core and of the agenda. -/
theorem State.core_changed (c : Nat) (f : Core → Core) (i : Instr) : let t := (s.modCore c f).post i
    t = { s with cores := t.cores, agenda := s.agenda ++ [.event i] } ∧ t.core c = f (s.core c) ∧ ∀ d, d ≠ c → t.core d = s.core d :=
  ⟨rfl, s.core_modCore_self c f, fun _ other => s.core_modCore_ne f other⟩

/-- A victim gives a record that is not split. -/
theorem State.execStealAnswer_whole {c v : Nat} {r : BitVec 512} (steals : (s.quad (quadOf v)).noSteal = false)
    (runs : s.frozen (quadOf v) = false)
    (found : s.takeable v c ((s.core v).spn.toNat + (s.core v).dqn.toNat) 0 = (some (0, r), s))
    (whole : splitPoint r (taskLo r) (taskHi r) = none) :
    execStealAnswer c v s = .next ((s.dropOldest v).post (.stealReply c (.task r))) := by
  rw [execStealAnswer]
  simp only [steals, runs, Bool.or_self, Bool.false_eq_true, if_false, found, whole, State.removeTask]

theorem State.stealAnswer_spec {c v : Nat} (steals : (s.quad (quadOf v)).noSteal = false) (runs : s.frozen (quadOf v) = false)
    (unspilled : (s.core v).spn = 0) (some' : 0 < (s.core v).dqn.toNat)
    (placed : s.part.placed (s.dequeBits v (s.core v).old.toNat) c = true)
    (whole : splitPoint (s.dequeBits v (s.core v).old.toNat) (taskLo (s.dequeBits v (s.core v).old.toNat))
      (taskHi (s.dequeBits v (s.core v).old.toNat)) = none) : Done (exec (.stealAnswer c v) s) fun t =>
      t = { s with cores := t.cores, agenda := s.agenda ++ [.event (.stealReply c (.task (s.dequeBits v (s.core v).old.toNat)))] } ∧
      t.core v = { s.core v with dqn := (s.core v).dqn - 1, old := (s.core v).old + 1 } ∧ ∀ d, d ≠ v → t.core d = s.core d := by
  have none : (s.core v).spn.toNat = 0 := by rw [unspilled]; rfl
  obtain ⟨n, entries⟩ : ∃ n, (s.core v).dqn.toNat = n + 1 := ⟨_, (Nat.succ_pred_eq_of_pos some').symm⟩
  have found : s.takeable v c ((s.core v).spn.toNat + (s.core v).dqn.toNat) 0 = (some (0, s.dequeBits v (s.core v).old.toNat), s) := by
    rw [none, entries, Nat.zero_add, State.takeable]
    simp only [State.taskAt, none, Nat.lt_irrefl, if_false, Nat.sub_zero, Nat.add_zero, placed, if_true]
  have dropped : s.dropOldest v = s.modCore v fun k => { k with dqn := k.dqn - 1, old := k.old + 1 } := by
    rw [State.dropOldest, State.modCore, if_neg (by omega), State.modCore]
  have ran := State.execStealAnswer_whole steals runs found whole
  rw [dropped] at ran
  obtain ⟨frame, own, others⟩ := State.core_changed (s := s) v (fun k => { k with dqn := k.dqn - 1, old := k.old + 1 })
    (.stealReply c (.task (s.dequeBits v (s.core v).old.toNat)))
  exact ⟨_, ran, frame, own, others⟩

/-- Settles O22: each step is followed through the branch that its hypotheses leave, and a frame of the pool that is taken or written changes
memory alone. -/
theorem residencySteps : Obligations.ResidencySteps := by
  unfold Obligations.ResidencySteps
  intro s c v key i b r p frame sound starts
  refine ⟨fun free on runs none wide unspilled some' framed names ok => ?_, State.loadDone_spec, fun live untrapped stopped idle names ok room slot =>
    s.writeback_spec live untrapped stopped idle names ok.1 ok.2 room slot, State.writebackTimeout_spec, State.guardExpiry_spec c, fun _ =>
    State.stealRequest_spec, State.stealAnswer_spec, ⟨_, rfl, rfl⟩, fun free runs framed names ok =>
    State.stealReply_starts r free runs framed names ok.1 ok.2, ⟨_, rfl, State.core_changed ..⟩, ⟨_, rfl, State.core_changed ..⟩⟩
  exact State.bankFill_starts free on runs none wide unspilled some' framed names ok.1 ok.2

end Sys2Proof.Machine
end

section
/-! O10 fails at the widths of class P. An atomic on 3 bits that straddle a 64-bit word has two parts at its home, of which
`State.updateAt` reads and writes the first alone; R66 has no atomic of that width, but the statement takes every width. -/

namespace Sys2Proof.Machine

/-- A partition of one quad, bit 64 of whose scratchpad is set, with a strand at an instruction whose x1 names bit 62. -/
def atomicStraddle : State :=
  let s := { State.reset with
    part := { State.reset.part with width := 2, height := 2 }
    mem := [((scratchBase 0 + 64) / 8, 1)] }
  (s.setStatus s.here .running).setReg 1 62

/-- The swap of the 3 bits for 0. -/
def swapOfZero : Instr := .amoSwap ⟨false, false, false⟩ .b3 0 0 1

theorem atomicStraddle_start :
    (atomicStraddle.bank atomicStraddle.here).status = .running ∧ atomicStraddle.bad = [] ∧ atomicStraddle.filters = [] ∧
      atomicStraddle.quads = [] ∧ Memory.wf atomicStraddle.mem = true ∧ atomicStraddle.cur = 0 ∧
      (atomicStraddle.reg 1).toNat = 62 ∧ atomicStraddle.part.inside 0 0 = true ∧ atomicStraddle.reg 0 = 0 := by
  decide +kernel

theorem atomicStraddle_issues : atomicStraddle.Issues := by
  obtain ⟨running, clean, filters, quads, -⟩ := atomicStraddle_start
  have answered (p : Nat) : atomicStraddle.filter p = [] := by
    rw [State.filter, filters]
    rfl
  have waiting (q : Nat) : (atomicStraddle.quad q).deferred = [] := by
    rw [State.quad, quads]
    rfl
  refine ⟨running, clean, ?_, ?_, ?_⟩
  · simp [State.filterRoom, answered, waiting]
  · simp [answered]
  · simp [waiting]

theorem atomicStraddle_names : atomicStraddle.NamesOwn (atomicStraddle.reg 1) 3 (scratchBase 0 + 62) := by
  obtain ⟨-, -, -, -, -, cur, address, inside, -⟩ := atomicStraddle_start
  refine ⟨0, 0, 62, by decide, by decide, inside, ?_, by decide, by decide, by decide, address, ?_⟩
  · rw [cur]
    rfl
  · rw [cur]
    rfl

/-- The bit in the second word stays. -/
theorem nextStraddled_swapOfZero : nextStraddled (exec swapOfZero atomicStraddle) = 4 := by
  decide +kernel

/-- Refutes O10: a swap of 3 bits for 0 leaves the bit of the second word. -/
theorem not_ownQuadAtomics : ¬ Obligations.OwnQuadAtomics := by
  unfold Obligations.OwnQuadAtomics
  intro h
  obtain ⟨-, -, -, -, wf, -, -, -, zero⟩ := atomicStraddle_start
  obtain ⟨-, -, -, -, -, -, -, -, swapped, -⟩ :=
    h atomicStraddle ⟨false, false, false⟩ .b3 0 1 0 (scratchBase 0 + 62) atomicStraddle_issues wf atomicStraddle_names
  obtain ⟨t, step, u, ⟨-, -, stored, -⟩, rfl⟩ := swapped
  have kept := nextStraddled_swapOfZero
  rw [swapOfZero, step] at kept
  have same : (u.switch atomicStraddle.cur).bitsAt (scratchBase 0 + 62) 3 = u.bitsAt (scratchBase 0 + 62) 3 :=
    bitsAt_congr fun k _ _ => State.bit_of_mem (s := u) (t := u.switch atomicStraddle.cur) rfl rfl rfl rfl k
  have expected : u.bitsAt (scratchBase 0 + 62) 3 = 0 := by
    rw [zero] at stored
    exact stored
  exact absurd ((kept.symm.trans same).trans expected) (by decide)

end Sys2Proof.Machine
end

section
/-! Requests that the executing strand issues to its own quad's scratchpad, in every form: the home performs them once, keeps the
answer of one that carries a tag, and the core passes to its next ready bank (R99, R160, R289). -/

namespace Sys2Proof.Machine

variable {s : State} {a : Word} {n key : Nat}

/-- The request of an access of the own quad's scratchpad, of any form but CAS. -/
def State.ownRequest (s : State) (op : MemOp) (a d : Word) (rd rt : Reg) (n key : Nat) : Msg :=
  ⟨s.here, (s.strand s.here).sfp, s.seq + 1, op, scratchParts a n key, a, d, 0, rd, rt, false⟩

/-- An access of the own quad's scratchpad resolves to layer 0 (R163). -/
theorem State.access_own {w : Width} (h : OwnScratch s a (bitsOf w) key) (op : MemOp) (d : Word) (rd rt : Reg) (kind : WaitKind) :
    s.access op w a d 0 rd rt kind =
      s.bumpSeq.send (s.ownRequest op a d rd rt (bitsOf w) key) (.scratch (quadOf s.cur)) kind := by
  have near : s.noteAccess s.cur (accessOf op) s.user a = s := by simp [State.noteAccess, State.misses, h.space]
  have layer : (needsLayer0 op && !inLayer0 a (.scratch (quadOf s.cur))) = false := Bool.and_false _
  have device : s.hostDenied op w a (.scratch (quadOf s.cur)) = false := rfl
  simp only [State.access, h.located, near, layer, device]
  rfl

/-! ## At the home -/

/-- What the home finds of a request that it has not seen: no answer saved, none like it waiting, room in its filter, and no peer. -/
structure State.Unseen (s : State) (m : Msg) (q : Nat) : Prop where
  place : waitQuad m = q
  saved : ((s.filter (filterPlace m)).find? fun e => hasTag m.op && e.1 == m.src && e.2.1 == m.tag) = none
  waits : ((s.quad q).deferred.any fun e => e.src == m.src && e.tag == m.tag) = false
  room : (hasTag m.op && decide (256 ≤ s.filterLoad m)) = false
  peers : s.peerRefuses m.addr m.parts = false

theorem State.unseen_ownRequest (issues : s.Issues) (h : OwnScratch s a n key) (op : MemOp) (d : Word) (rd rt : Reg) :
    s.bumpSeq.Unseen (s.ownRequest op a d rd rt n key) (quadOf s.cur) := by
  obtain ⟨-, -, room, answered, waiting⟩ := issues
  obtain ⟨w, r, parts⟩ := head_scratchParts a n key
  have quad : waitQuad (s.ownRequest op a d rd rt n key) = quadOf s.cur := by
    simp only [waitQuad, State.ownRequest, parts, h.within.scratchQuad]
  have place : filterPlace (s.ownRequest op a d rd rt n key) = 4 * quadOf s.cur := by
    simp only [filterPlace, State.ownRequest, parts, Bool.false_eq_true, if_false, List.head?_cons, Option.map_some, Option.getD_some,
      homePlace, h.within.scratchQuad]
  refine ⟨quad, ?_, ?_, ?_, ?_⟩
  · rw [place, List.find?_eq_none]
    intro e he
    have new := answered e he
    simp only [State.ownRequest, Bool.and_eq_true, beq_iff_eq]
    exact fun old => new ⟨old.1.2, old.2⟩
  · rw [List.any_eq_false]
    intro e he
    simpa [State.ownRequest] using waiting e he
  · rw [State.filterLoad, place, quad, State.placeLoad, Bool.and_eq_false_imp]
    intro _
    rw [State.filterRoom] at room
    refine decide_eq_false (Nat.not_le.2 ?_)
    show (s.filter _).length + ((s.quad _).deferred.filter _).length < 256
    omega
  · rw [State.peerRefuses, List.any_eq_false]
    intro p hp
    have below := (h.partsWithin p hp).below_peers
    simp [State.peerRefusesPart, State.ownRequest, h.space, Nat.not_le.2 below]

theorem State.perform_answers {m : Msg} {q : Nat} (unseen : s.Unseen m q) {t : State} {ans : Answer}
    (performed : s.operate m = (t, some ans)) : s.perform m 0 = (t.keepAnswer m ans, some ans) := by
  obtain ⟨place, saved, waits, room, peers⟩ := unseen
  simp only [State.perform, saved, place, waits, room, peers, performed]
  rfl

theorem State.perform_holds {m : Msg} {q : Nat} (unseen : s.Unseen m q) {t : State} (performed : s.operate m = (t, none))
    (room : (t.quad q).deferred.length < 64) :
    s.perform m 0 = (t.modQuad q fun x => { x with deferred := x.deferred ++ [m] }, none) := by
  obtain ⟨place, saved, waits, tags, peers⟩ := unseen
  simp only [State.perform, saved, place, waits, tags, peers, performed, room]
  rfl

/-! ## At the source -/

/-- The home keeps its answer where the request carries a tag, and the source acknowledges it (R289). -/
def State.answered (s : State) (m : Msg) (ans : Answer) : State := (s.keepAnswer m ans).acknowledge m

theorem State.answered_frame (m : Msg) (ans : Answer) :
    s.answered m ans = { s with filters := (s.answered m ans).filters, agenda := (s.answered m ans).agenda } := by
  simp only [State.answered, State.acknowledge, State.keepAnswer]
  split
  · rfl
  · rfl

theorem State.answered_untagged {m : Msg} (untagged : hasTag m.op = false) (ans : Answer) : s.answered m ans = s := by
  simp only [State.answered, State.acknowledge, State.keepAnswer, untagged]
  rfl

theorem State.send_own_answer {m : Msg} (kind : WaitKind) {t : State} {ans : Answer} (waits : blocks m.op = true)
    (cur : t.cur = s.cur) (performed : s.perform m 0 = (t.keepAnswer m ans, some ans)) :
    s.send m (.scratch (quadOf s.cur)) kind = ((t.answered m ans).finish m ans).switch s.cur := by
  have own : (Home.scratch (quadOf s.cur)).own s.cur = true := beq_self_eq_true (quadOf s.cur)
  have turn : (t.keepAnswer m ans).cur = s.cur := by
    rw [← cur, State.keepAnswer]
    split <;> rfl
  simp only [State.send, own, performed, waits, turn, if_true]
  rfl

/-- A bank whose strand has its value. -/
def Bank.receive (m : Msg) (ans : Answer) (b : Bank) : Bank := { b with status := .running, strand := b.strand.takeAnswer m ans }

theorem State.finish_value {m : Msg} (v : Word) (ok : Bool) (free : suspends m.op = true →
    ((s.core m.src.core).draining.contains (m.sfp, true) = false) ∧ (s.bank m.src).mark = none) :
    s.finish m (.value v ok) = s.modBank m.src (Bank.receive m (.value v ok)) := by
  have changed : s.finish m (.value v ok) =
      let t := s.modBank m.src (Bank.receive m (.value v ok))
      let t := if suspends m.op then t.closeDrain m.src.core (m.sfp, true) else t
      if suspends m.op && (t.bank m.src).mark.isSome && !(t.strand m.src).trap then t.post (.recordWriteback m.src) else t := rfl
  rw [changed]
  by_cases plain : suspends m.op = false
  · simp only [plain]
    rfl
  · obtain ⟨undrained, unmarked⟩ := free (eq_true_of_ne_false plain)
    have closed : ((s.modBank m.src (Bank.receive m (.value v ok))).core m.src.core).draining.contains (m.sfp, true) = false := by
      rw [State.modBank, State.setBank, State.modCore, State.core_setCore_self]
      exact undrained
    have mark : ((s.modBank m.src (Bank.receive m (.value v ok))).bank m.src).mark = none := by
      rw [State.bank_modBank_self]
      exact unmarked
    simp only [State.closeDrain, closed, Bool.false_eq_true, if_false, ite_self, mark, Option.isSome_none, Bool.and_false, Bool.false_and]

/-! ## The whole access -/

/-- The executing strand has its value, the home and the source have agreed on the request, and the core is still to pass on. -/
def State.got (s t : State) (m : Msg) (v : Word) (ok : Bool) : State :=
  (t.answered m (.value v ok)).modBank s.here (Bank.receive m (.value v ok))

theorem State.got_frame (s t : State) (m : Msg) (v : Word) (ok : Bool) : s.got t m v ok = { t with
    filters := (t.answered m (.value v ok)).filters, agenda := (t.answered m (.value v ok)).agenda
    cores := (s.got t m v ok).cores } := by
  rw [State.got, State.modBank_frame, State.answered_frame m (.value v ok)]

theorem State.bit_got (s t : State) (m : Msg) (v : Word) (ok : Bool) (k : Nat) : (s.got t m v ok).bit k = t.bit k := by
  refine State.bit_of_mem ?_ ?_ ?_ ?_ k <;> rw [State.got_frame]

theorem State.quad_got (s t : State) (m : Msg) (v : Word) (ok : Bool) (q : Nat) : (s.got t m v ok).quad q = t.quad q := by
  rw [State.got_frame]
  rfl

theorem State.full_got (s t : State) (m : Msg) (v : Word) (ok : Bool) : (s.got t m v ok).full = t.full := by
  rw [State.got_frame]

theorem State.mem_got (s t : State) (m : Msg) (v : Word) (ok : Bool) :
    (s.got t m v ok).mem = t.mem ∧ (s.got t m v ok).seals = t.seals := by
  rw [State.got_frame]
  exact ⟨rfl, rfl⟩

theorem State.onlyMemory_got {t : State} (only : s.bumpSeq.MemoryOnly t) (m : Msg) (v : Word) (ok : Bool) :
    s.OnlyMemory (s.got t m v ok) := by
  obtain ⟨frame, quads⟩ := only
  refine ⟨?_, fun q => ?_⟩
  · rw [State.got_frame, frame]
    rfl
  · rw [State.quad_got]
    exact quads q

/-- A request of a form that waits for its reply, which its home answers with a value. -/
theorem State.send_own_value (issues : s.Issues) (h : OwnScratch s a n key) {op : MemOp} {d : Word} {rd rt : Reg} (kind : WaitKind)
    (waits : blocks op = true) (free : suspends op = true → s.NoDrain ∧ (s.bank s.here).mark = none) {t : State} {v : Word}
    {ok : Bool} (only : s.bumpSeq.MemoryOnly t)
    (performed : s.bumpSeq.operate (s.ownRequest op a d rd rt n key) = (t, some (.value v ok))) :
    s.bumpSeq.send (s.ownRequest op a d rd rt n key) (.scratch (quadOf s.cur)) kind =
      (s.got t (s.ownRequest op a d rd rt n key) v ok).switch s.cur := by
  obtain ⟨frame, -⟩ := only
  have answers := State.perform_answers (State.unseen_ownRequest issues h op d rd rt) performed
  have cur : t.cur = s.bumpSeq.cur := by rw [frame]
  have sent := State.send_own_answer kind (m := s.ownRequest op a d rd rt n key) waits cur answers
  refine sent.trans ?_
  rw [State.finish_value v ok fun passes => ?_]
  · rfl
  · obtain ⟨undrained, unmarked⟩ := free passes
    rw [State.answered_frame, frame]
    refine ⟨?_, unmarked⟩
    refine (List.contains_eq_mem ..).trans (decide_eq_false fun draining => undrained _ draining rfl)

/-- Where the answer only writes registers, the strand goes on. -/
theorem State.continued_got (issues : s.Issues) {t : State} (only : s.bumpSeq.MemoryOnly t) (m : Msg) (v : Word) (ok : Bool)
    (shape : (s.strand s.here).takeAnswer m (.value v ok) = { s.strand s.here with
      x := ((s.strand s.here).takeAnswer m (.value v ok)).x, pc := s.pc + 32 }) :
    s.Continued (s.got t m v ok) ((s.strand s.here).takeAnswer m (.value v ok)).reg := by
  obtain ⟨running, -⟩ := issues
  obtain ⟨frame, -⟩ := only
  exact State.continued_modBank running (by rw [State.answered_frame, frame]; rfl) (by rw [State.answered_frame, frame]; rfl)
    (f := fun st => st.takeAnswer m (.value v ok)) shape

end Sys2Proof.Machine
end

section
/-! O11 holds. TAKE, TAKE.NB, PUT, FESTAT and AWAIT on a word of the own quad where nothing waits: what the home answers, and what the
answer leaves of the strand (R97, R164 to R167). -/

namespace Sys2Proof.Machine

variable {s : State} {a : Word} {n key : Nat}

/-! ## What the home answers -/

theorem State.isFull_iff : s.isFull key = true ↔ key / 64 ∈ s.full := List.contains_iff_mem

theorem State.mem_empty (k : Nat) : k ∈ (s.empty key).full ↔ k ∈ s.full ∧ k ≠ key / 64 := by
  simp [State.empty]

theorem State.mem_fill (k : Nat) : k ∈ (s.fill key).full ↔ k ∈ s.full ∨ k = key / 64 := by
  rw [State.fill, mem_sortedInsert]
  exact or_comm

theorem head_ownRequest (s : State) (op : MemOp) (a d : Word) (rd rt : Reg) (n key : Nat) :
    (((s.ownRequest op a d rd rt n key).parts.head?.map (·.key)).getD 0) = key := by
  obtain ⟨w, r, parts⟩ := head_scratchParts a n key
  simp only [State.ownRequest, parts]
  rfl

/-- A home reads the bits of a request of the own quad. -/
theorem State.loadParts_own (clean : s.bad = []) (h : OwnScratch s a n key) (who : Who) :
    s.bumpSeq.loadParts who (scratchParts a n key) = (s.bitsAt key n, s.bumpSeq) := by
  rw [State.loadParts_scratch (s := s.bumpSeq) who clean h.partsWithin, State.partsAt_scratchParts, State.bitsAt_bumpSeq]

section
variable (clean : s.bad = []) (h : OwnScratch s a n key) (d : Word) (rd rt : Reg)
include clean h

theorem State.operate_take_full {op : MemOp} (form : op = .take ∨ op = .takeNb) (full : key / 64 ∈ s.full) :
    s.bumpSeq.operate (s.ownRequest op a d rd rt n key) =
      (s.bumpSeq.empty key, some (.value (BitVec.ofNat 64 (s.bitsAt key n)) true)) := by
  have isFull : s.bumpSeq.isFull key = true := State.isFull_iff.2 full
  have read := State.loadParts_own clean h (whoOf (s.ownRequest op a d rd rt n key))
  obtain rfl | rfl := form
  all_goals
    simp only [State.operate, head_ownRequest, isFull, if_true]
    rw [State.ownRequest] at read ⊢
    rw [read]

theorem State.operate_await {c : AwaitCmp} (holds : awaitCond c n (s.bitsAt key n) (d.toNat % 2 ^ n) = true) :
    s.bumpSeq.operate (s.ownRequest (.await c) a d rd rt n key) =
      (s.bumpSeq, some (.value (BitVec.ofNat 64 (s.bitsAt key n)) true)) := by
  have read := State.loadParts_own clean h (whoOf (s.ownRequest (.await c) a d rd rt n key))
  have width : partsWidth (s.ownRequest (.await c) a d rd rt n key).parts = n := partsWidth_scratchParts a n key
  simp only [State.operate, width]
  rw [State.ownRequest] at read ⊢
  simp only [read, holds, if_true]

end

theorem State.operate_take_empty (d : Word) (rd rt : Reg) (empty : key / 64 ∉ s.full) :
    s.bumpSeq.operate (s.ownRequest .take a d rd rt n key) = (s.bumpSeq, none) := by
  have isFull : s.bumpSeq.isFull key = false := eq_false_of_ne_true fun full => empty (State.isFull_iff.1 full)
  simp only [State.operate, head_ownRequest, isFull]
  rfl

theorem State.operate_takeNb_empty (d : Word) (rd rt : Reg) (empty : key / 64 ∉ s.full) :
    s.bumpSeq.operate (s.ownRequest .takeNb a d rd rt n key) = (s.bumpSeq, some (.value 0 false)) := by
  have isFull : s.bumpSeq.isFull key = false := eq_false_of_ne_true fun full => empty (State.isFull_iff.1 full)
  simp only [State.operate, head_ownRequest, isFull]
  rfl

theorem State.operate_festat (d : Word) (rd rt : Reg) : s.bumpSeq.operate (s.ownRequest .festat a d rd rt n key) =
    (s.bumpSeq, some (.value (if key / 64 ∈ s.full then 1 else 0) true)) := by
  have isFull : s.bumpSeq.isFull key = decide (key / 64 ∈ s.full) := List.contains_eq_mem ..
  simp only [State.operate, head_ownRequest, isFull, decide_eq_true_eq]
  rfl

section
variable (h : OwnScratch s a n key) (pos : 0 < n) (d : Word) (rd rt : Reg)
include h pos

theorem State.operate_put_full (full : key / 64 ∈ s.full) :
    s.bumpSeq.operate (s.ownRequest .put a d rd rt n key) = (s.bumpSeq, some .putOnFull) := by
  have isFull : s.bumpSeq.isFull key = true := State.isFull_iff.2 full
  have open' : s.bumpSeq.guarded key = false := h.within.not_guarded _ pos
  simp only [State.operate, head_ownRequest, isFull, open']
  rfl

theorem State.operate_put_empty (empty : key / 64 ∉ s.full) : s.bumpSeq.operate (s.ownRequest .put a d rd rt n key) =
    ((s.bumpSeq.fill key).storeParts (whoOf (s.ownRequest .put a d rd rt n key)) (d.toNat % 2 ^ n) (scratchParts a n key),
      some (.value 0 true)) := by
  have isFull : s.bumpSeq.isFull key = false := eq_false_of_ne_true fun full => empty (State.isFull_iff.1 full)
  have open' : s.bumpSeq.guarded key = false := h.within.not_guarded _ pos
  have width : partsWidth (s.ownRequest .put a d rd rt n key).parts = n := partsWidth_scratchParts a n key
  simp only [State.operate, head_ownRequest, isFull, open', width]
  rfl

end

/-! ## What the answer leaves -/

/-- A strand that has passed a suspension point with a value written. -/
theorem Strand.takeAnswer_suspends (st : Strand) {op : MemOp} (form : suspends op = true) (d : Word) (rd rt : Reg) (v : Word) (ok : Bool) :
    st.takeAnswer (s.ownRequest op a d rd rt n key) (.value v ok) = { st.pass with pc := st.pc + 32 }.setReg rd v := by
  cases op with
  | take => rfl
  | await c => rfl
  | load signed => exact absurd form (by simp [suspends])
  | _ => exact absurd form (by simp [suspends])

theorem Strand.passed_setReg (st : Strand) (rd : Reg) (v : Word) :
    st.Passed ({ st.pass with pc := st.pc + 32 }.setReg rd v) fun r => if r = rd ∧ rd ≠ 0 then v else st.kept r := by
  refine ⟨?_, fun r => ?_⟩
  · rw [Strand.setReg_eq]
    rfl
  · rw [Strand.reg_setReg]
    exact congrArg _ (st.reg_pass r)

theorem State.strand_got (issues : s.Issues) {t : State} (only : s.bumpSeq.MemoryOnly t) (m : Msg) (v : Word) (ok : Bool) :
    (s.got t m v ok).here = s.here ∧ s.SameElsewhere (s.got t m v ok) s.here ∧
      (s.got t m v ok).bank s.here = { s.bank s.here with strand := (s.strand s.here).takeAnswer m (.value v ok) } := by
  obtain ⟨running, -⟩ := issues
  obtain ⟨frame, -⟩ := only
  have core (c : Nat) : (t.answered m (.value v ok)).core c = s.core c := by
    rw [State.answered_frame, frame]
    rfl
  have bank (p : Place) : (t.answered m (.value v ok)).bank p = s.bank p := by
    rw [State.answered_frame, frame]
    rfl
  obtain ⟨-, others, same, banks⟩ :=
    (t.answered m (.value v ok)).onlyBank_modBank s.here (Bank.receive m (.value v ok))
  refine ⟨?_, ⟨fun c hc => (others c hc).trans (core c), ?_, fun b hb => (banks b hb).trans (bank _)⟩, ?_⟩
  · rw [State.got, State.here_modBank, State.answered_frame, frame]
    rfl
  · rw [core] at same
    exact same
  · rw [State.got, State.bank_modBank_self, bank, Bank.receive, ← running]
    rfl

/-- TAKE and AWAIT, answered: the strand passes a suspension point with its value (R97). -/
theorem State.passed_got (issues : s.Issues) {t : State} (only : s.bumpSeq.MemoryOnly t) (mem : t.mem = s.mem) (seals : t.seals = s.seals)
    {op : MemOp} (form : suspends op = true) (d : Word) (rd : Reg) (v : Word) :
    let u := s.got t (s.ownRequest op a d rd 0 n key) v true
    s.SameElsewhere u s.here ∧ u.pc = s.pc + 32 ∧ (u.mem = s.mem ∧ u.seals = s.seals ∧ s.OnlyMemory u) ∧
      (∀ r, u.reg r = if r = rd ∧ rd ≠ 0 then v else (s.strand s.here).kept r) ∧
      u.bank s.here = { s.bank s.here with strand := { s.strand s.here with
        x := (u.strand s.here).x, v := Vector.replicate 32 0, pc := (u.strand s.here).pc } } := by
  intro u
  obtain ⟨here, elsewhere, bank⟩ := State.strand_got issues only (s.ownRequest op a d rd 0 n key) v true
  obtain ⟨sameMem, sameSeals⟩ := State.mem_got s t (s.ownRequest op a d rd 0 n key) v true
  have passed := (s.strand s.here).passed_setReg rd v
  rw [← Strand.takeAnswer_suspends (s := s) (a := a) (n := n) (key := key) _ form d rd 0 v true] at passed
  have strand : u.strand s.here = (s.strand s.here).takeAnswer (s.ownRequest op a d rd 0 n key) (.value v true) :=
    congrArg (·.strand) bank
  rw [← strand] at passed
  obtain ⟨shape, regs⟩ := passed
  refine ⟨elsewhere, ?_, ⟨sameMem.trans mem, sameSeals.trans seals, State.onlyMemory_got only _ v true⟩, fun r => ?_, ?_⟩
  · show (u.strand u.here).pc = _
    rw [here, shape]
    rfl
  · show (u.strand u.here).reg r = _
    rw [here]
    exact regs r
  · refine bank.trans (congrArg (fun st => { s.bank s.here with strand := st }) (strand.symm.trans (shape.trans ?_)))
    rw [shape]

/-- A fault of a strand that has been set to run, as it did. -/
theorem State.trapped_setStatus (running : (s.bank s.here).status = .running) (handles : s.Handles) (f : Flt) :
    s.Trapped ((s.setStatus s.here .running).trapAt s.here f) f.cause.code f.tval := by
  have here : (s.setStatus s.here .running).here = s.here := State.here_modBank ..
  have bank : (s.setStatus s.here .running).bank s.here = s.bank s.here := by
    rw [State.setStatus, State.bank_modBank_self, ← running]
  have core : (s.setStatus s.here .running).core s.cur =
      { s.core s.cur with banks := ((s.setStatus s.here .running).core s.cur).banks } :=
    (s.onlyBank_modBank s.here _).2.2.1
  have enters : (s.setStatus s.here .running).Handles := by
    rw [State.Handles, State.strand, here, bank]
    exact handles
  obtain ⟨only, entered⟩ := State.trapped_trapAt _ enters f
  rw [here] at only entered
  refine ⟨(s.onlyBank_modBank s.here _).trans only, entered.trans ?_⟩
  have pc : (s.setStatus s.here .running).pc = s.pc := by rw [State.pc, State.strand, here, bank]; rfl
  have tvec : ((s.setStatus s.here .running).core (s.setStatus s.here .running).cur).tvec = (s.core s.cur).tvec := by
    have tvec := congrArg Core.tvec core
    exact tvec
  rw [bank, pc, tvec]
  simp only [State.strand, bank]

/-- The put-on-full fault is taken by the strand that waits for no reply (R165). -/
theorem State.send_put_full (issues : s.Issues) (handles : s.Handles) (h : OwnScratch s a n key) (pos : 0 < n) (d : Word)
    (full : key / 64 ∈ s.full) : s.Passes
      (fun t => { s with seq := t.seq, agenda := t.agenda, filters := t.filters }.Trapped t 0x0A a)
      (s.bumpSeq.send (s.ownRequest .put a d 0 0 n key) (.scratch (quadOf s.cur)) .other) := by
  have ⟨running, _⟩ := issues
  have answers := State.perform_answers (State.unseen_ownRequest issues h .put d 0 0) (State.operate_put_full h pos d 0 0 full)
  have sent := State.send_own_answer .other (m := s.ownRequest .put a d 0 0 n key) rfl rfl answers
  obtain ⟨t, ht⟩ : ∃ t, t = s.bumpSeq.answered (s.ownRequest .put a d 0 0 n key) .putOnFull := ⟨_, rfl⟩
  have same : t = { s with seq := t.seq, agenda := t.agenda, filters := t.filters } := by
    rw [ht, State.answered_frame]
    rfl
  have bank : t.bank = s.bank := by rw [same]; rfl
  have here : t.here = s.here := by rw [same]; rfl
  have trapped := State.trapped_setStatus (s := t) (by rw [bank, here, running])
    (by rw [State.Handles, State.strand, bank, here]; exact handles) ⟨.putOnFull, a⟩
  refine ⟨_, ?_, sent⟩
  rw [← ht]
  have fault : t.finish (s.ownRequest .put a d 0 0 n key) .putOnFull = (t.setStatus t.here .running).trapAt t.here ⟨.putOnFull, a⟩ := by
    rw [here]
    rfl
  rw [fault]
  generalize (t.setStatus t.here .running).trapAt t.here ⟨.putOnFull, a⟩ = u at trapped
  have frame : u = { t with cores := u.cores } := trapped.1.1
  have base : { s with seq := u.seq, agenda := u.agenda, filters := u.filters } = t := by
    rw [frame]
    exact same.symm
  show ({ s with seq := u.seq, agenda := u.agenda, filters := u.filters } : State).Trapped u 0x0A a
  rw [base]
  exact trapped

/-- A PUT to an empty word writes the bits and fills the word (R165). -/
theorem State.send_put_empty (issues : s.Issues) (wf : s.MemoryWf) (h : OwnScratch s a n key) (pos : 0 < n)
    (quiet : (s.quad (quadOf s.cur)).deferred = []) (d : Word) (empty : key / 64 ∉ s.full) : s.Passes
      (fun t => s.Continued t s.reg ∧ s.OnlyMemory t ∧ s.Stored t key n d.toNat ∧ ∀ k, k ∈ t.full ↔ k ∈ s.full ∨ k = key / 64)
      (s.bumpSeq.send (s.ownRequest .put a d 0 0 n key) (.scratch (quadOf s.cur)) .other) := by
  have ⟨_, clean, _⟩ := issues
  have performed := State.operate_put_empty h pos d 0 0 empty
  generalize hu : (s.bumpSeq.fill key).storeParts _ _ _ = u at performed
  have written : (s.bumpSeq.fill key).Writes u (quadOf s.cur) key (key + n) d.toNat := by
    rw [← hu]
    exact (State.writes_storeParts (s := s.bumpSeq.fill key) _ wf clean (consecutive_scratchParts a n key) h.partsWithin _).mod
  obtain ⟨full, -⟩ := written.quiet quiet
  have only : s.bumpSeq.MemoryOnly u := by
    obtain ⟨frame, quads⟩ := written.only
    exact ⟨frame, quads⟩
  refine ⟨_, ⟨State.continued_got issues only (s.ownRequest .put a d 0 0 n key) 0 true rfl, State.onlyMemory_got only _ 0 true, ?_, fun k => ?_⟩,
    State.send_own_value issues h .other rfl (fun passes => absurd passes (by simp [suspends])) only performed⟩
  · exact written.stored.congr
      (fun k => State.bit_of_mem (s := s) (t := s.bumpSeq.fill key) rfl rfl rfl rfl k) (State.bit_got s u _ 0 true)
  · rw [State.full_got, full, State.mem_fill]
    rfl

/-- An access that leaves memory as it was and answers with a value. -/
theorem State.send_own_reads (issues : s.Issues) (h : OwnScratch s a n key) {op : MemOp} {rd rt : Reg} (waits : blocks op = true)
    (free : suspends op = false) {t : State} {v : Word} {ok : Bool} (only : s.bumpSeq.MemoryOnly t) (mem : t.mem = s.mem)
    (seals : t.seals = s.seals) (performed : s.bumpSeq.operate (s.ownRequest op a 0 rd rt n key) = (t, some (.value v ok)))
    (shape : (s.strand s.here).takeAnswer (s.ownRequest op a 0 rd rt n key) (.value v ok) = { s.strand s.here with
      x := ((s.strand s.here).takeAnswer (s.ownRequest op a 0 rd rt n key) (.value v ok)).x, pc := s.pc + 32 }) :
    s.Passes (fun u => s.Continued u ((s.strand s.here).takeAnswer (s.ownRequest op a 0 rd rt n key) (.value v ok)).reg ∧
      (u.mem = s.mem ∧ u.seals = s.seals ∧ s.OnlyMemory u) ∧ u.full = t.full)
      (s.bumpSeq.send (s.ownRequest op a 0 rd rt n key) (.scratch (quadOf s.cur)) .other) := by
  obtain ⟨sameMem, sameSeals⟩ := State.mem_got s t (s.ownRequest op a 0 rd rt n key) v ok
  exact ⟨_, ⟨State.continued_got issues only _ v ok shape, ⟨sameMem.trans mem, sameSeals.trans seals, State.onlyMemory_got only _ v ok⟩,
    State.full_got s t _ v ok⟩,
    State.send_own_value issues h .other waits (fun passes => absurd passes (by simp [free])) only performed⟩

/-- FESTAT reads the full/empty bit and leaves no trace at the home (R166). -/
theorem State.send_festat (issues : s.Issues) (h : OwnScratch s a n key) (rd : Reg) : s.Passes
    (fun t => { s with seq := t.seq }.Wrote t rd (if key / 64 ∈ s.full then 1 else 0))
    (s.bumpSeq.send (s.ownRequest .festat a 0 rd 0 n key) (.scratch (quadOf s.cur)) .other) := by
  have performed := State.operate_festat (s := s) (a := a) (n := n) (key := key) 0 rd 0
  generalize (if key / 64 ∈ s.full then (1 : Word) else 0) = v at performed ⊢
  have only : s.bumpSeq.MemoryOnly s.bumpSeq := .refl _
  obtain ⟨-, regs, pc, bank⟩ := State.continued_got issues only (s.ownRequest .festat a 0 rd 0 n key) v true (by
    rw [show (s.strand s.here).takeAnswer (s.ownRequest .festat a 0 rd 0 n key) (.value v true) =
      { s.strand s.here with pc := s.pc + 32 }.setReg rd v from rfl, Strand.setReg_eq])
  refine ⟨_, ⟨?_, fun r => (regs r).trans ?_, pc, bank⟩,
    State.send_own_value issues h .other rfl (fun passes => absurd passes (by simp [suspends])) only performed⟩
  · rw [State.got, State.answered_untagged rfl]
    exact s.bumpSeq.onlyBank_modBank _ _
  · exact Strand.reg_setReg { s.strand s.here with pc := s.pc + 32 } rd r v

/-- TAKE.NB writes the value and then whether the word was full (R164). -/
theorem Strand.reg_takeNb (st : Strand) (d : Word) (rd rt : Reg) (v : Word) (ok : Bool) :
    let b := st.takeAnswer (s.ownRequest .takeNb a d rd rt n key) (.value v ok)
    b = { st with x := b.x, pc := st.pc + 32 } ∧
      ∀ r, b.reg r = if r = rt ∧ rt ≠ 0 then flag ok else if r = rd ∧ rd ≠ 0 then v else st.reg r := by
  have result : st.takeAnswer (s.ownRequest .takeNb a d rd rt n key) (.value v ok) =
    ({ st with pc := st.pc + 32 }.setReg rd v).setReg rt (flag ok) := rfl
  simp only [result]
  refine ⟨?_, fun r => ?_⟩
  · rw [Strand.setReg_eq, Strand.setReg_eq]
  · rw [Strand.reg_setReg, Strand.reg_setReg]
    rfl

theorem awaitCond_iff (c : AwaitCmp) (v d : Nat) (hv : v < 2 ^ n) : awaitCond c n v (d % 2 ^ n) = true ↔
    match c with
    | .eq => BitVec.ofNat n v = BitVec.ofNat n d
    | .ne => BitVec.ofNat n v ≠ BitVec.ofNat n d
    | .geu => (BitVec.ofNat n d).toNat ≤ (BitVec.ofNat n v).toNat
    | .ges => (BitVec.ofNat n d).toInt ≤ (BitVec.ofNat n v).toInt := by
  have low : (BitVec.ofNat n v).toNat = v := Nat.mod_eq_of_lt hv
  have same : BitVec.ofNat n v = BitVec.ofNat n d ↔ v = d % 2 ^ n := by
    rw [← BitVec.toNat_inj, low, BitVec.toNat_ofNat]
  have reduced : BitVec.ofNat n (d % 2 ^ n) = BitVec.ofNat n d := BitVec.eq_of_toNat_eq (by simp)
  cases c with
  | eq => simp [awaitCond, same]
  | ne => simp [awaitCond, same]
  | geu => simp [awaitCond, low]
  | ges => simp [awaitCond, reduced]

/-- Settles O11: the home of the own quad answers each form at once, and only TAKE, TAKE.NB and PUT change its word. -/
theorem fullEmptyWords : Obligations.FullEmptyWords := by
  unfold Obligations.FullEmptyWords
  intro s o w aq c rd rt rs1 rs2 key issues wf names one quiet vectors undrained unmarked n v d x kept sameBits emptied passed holds
  have own : OwnScratch s (s.reg rs1) n key := ownScratch_of_namesOwn names
  have ⟨_, clean, _⟩ := issues
  have pos : 0 < n := by
    show 0 < bitsOf w
    cases w <;> decide
  have emptiedOnly : s.bumpSeq.MemoryOnly (s.bumpSeq.empty key) := (s.bumpSeq.served_empty key).only
  have same : s.bumpSeq.MemoryOnly s.bumpSeq := .refl _
  have free (b : Bool) : b = true → s.NoDrain ∧ (s.bank s.here).mark = none := fun _ => ⟨undrained, unmarked⟩
  have festat (is64 : n = 64) : exec (.festat rd rs1) s =
      .next (s.bumpSeq.send (s.ownRequest .festat (s.reg rs1) 0 rd 0 n key) (.scratch (quadOf s.cur)) .other) := by
    have b64 : w = .b64 := by
      revert is64
      show bitsOf w = 64 → w = .b64
      cases w <;> decide
    subst b64
    exact congrArg Host.Outcome.next (State.access_own own .festat 0 rd 0 .other)
  have takeNb : exec (.takeNb o w rd rt rs1) s =
      .next (s.bumpSeq.send (s.ownRequest .takeNb (s.reg rs1) 0 rd rt n key) (.scratch (quadOf s.cur)) .other) :=
    congrArg Host.Outcome.next (State.access_own own .takeNb 0 rd rt .other)
  have put : exec (.put o w rs2 rs1) s =
      .next (s.bumpSeq.send (s.ownRequest .put (s.reg rs1) (s.reg rs2) 0 0 n key) (.scratch (quadOf s.cur)) .other) :=
    congrArg Host.Outcome.next (State.access_own own .put (s.reg rs2) 0 0 .other)
  refine ⟨fun full => ⟨?_, ?_, fun handles => ?_, fun is64 => ?_⟩, fun empty => ⟨?_, ?_, fun is64 => ?_⟩, fun hold => ?_⟩
  · have performed := State.operate_take_full clean own 0 rd 0 (.inl rfl) full
    have taken : exec (.take o w rd rs1) s = .next (s.whenDrained true fun s => s.access .take w (s.reg rs1) 0 0 rd 0 .take) := rfl
    rw [taken, s.whenDrained_eq true vectors undrained, State.access_own own,
      State.send_own_value issues own .take rfl (free _) emptiedOnly performed]
    refine ⟨_, rfl, _, ⟨State.passed_got issues emptiedOnly rfl rfl rfl 0 rd v, fun k => ?_⟩, rfl⟩
    rw [State.full_got, State.mem_empty]
    rfl
  · rw [takeNb]
    have performed := State.operate_take_full clean own 0 rd rt (.inr rfl) full
    obtain ⟨shape, regs⟩ := (s.strand s.here).reg_takeNb (s := s) (a := s.reg rs1) (n := n) (key := key) 0 rd rt v true
    obtain ⟨u, ⟨goes, bits, words⟩, next⟩ := State.send_own_reads issues own rfl rfl emptiedOnly rfl rfl performed shape
    refine ⟨_, rfl, u, ⟨(funext regs : Strand.reg _ = _) ▸ goes, bits, fun k => ?_⟩, next⟩
    rw [words, State.mem_empty]
    rfl
  · rw [put]
    exact ⟨_, rfl, State.send_put_full issues handles own pos (s.reg rs2) full⟩
  · rw [festat is64]
    have read := State.send_festat issues own rd
    rw [if_pos full] at read
    exact ⟨_, rfl, read⟩
  · rw [takeNb]
    have performed := State.operate_takeNb_empty (a := s.reg rs1) (n := n) 0 rd rt empty
    obtain ⟨shape, regs⟩ := (s.strand s.here).reg_takeNb (s := s) (a := s.reg rs1) (n := n) (key := key) 0 rd rt 0 false
    obtain ⟨u, ⟨goes, bits, words⟩, next⟩ := State.send_own_reads issues own rfl rfl same rfl rfl performed shape
    exact ⟨_, rfl, u, ⟨(funext regs : Strand.reg _ = _) ▸ goes, bits, words⟩, next⟩
  · rw [put]
    exact ⟨_, rfl, State.send_put_empty issues wf own pos quiet (s.reg rs2) empty⟩
  · rw [festat is64]
    have read := State.send_festat issues own rd
    rw [if_neg empty] at read
    exact ⟨_, rfl, read⟩
  · have cond : awaitCond c n (s.bitsAt key n) ((s.reg rs2).toNat % 2 ^ n) = true :=
      (awaitCond_iff c _ _ (s.bitsAt_lt key n)).2 hold
    have performed := State.operate_await clean own (s.reg rs2) rd 0 cond
    have taken : exec (.await c aq w rd rs2 rs1) s =
      .next (s.whenDrained true fun s => s.access (.await c) w (s.reg rs1) (s.reg rs2) 0 rd 0 .await) := rfl
    rw [taken, s.whenDrained_eq true vectors undrained, State.access_own own,
      State.send_own_value issues own .await rfl (free _) same performed]
    exact ⟨_, rfl, _, ⟨State.passed_got issues same rfl rfl rfl (s.reg rs2) rd v, State.full_got s _ _ v true⟩, rfl⟩

end Sys2Proof.Machine
end

section
/-! A task record placed in a deque, its JOIN written, and the off-core access that takes it to another quad (R175, R190, R345). -/

namespace Sys2Proof.Machine

variable {s : State}

/-! ## The off-core access (R190, R323) -/

/-- Only MSGLAT of the executing strand, the words given and the fabric's last use differ. -/
structure State.Measured (s t : State) : Prop where
  frame : t = { s with fresh := t.fresh, cores := t.cores, part := { s.part with lastTraffic := t.part.lastTraffic } }
  only : s.SameElsewhere t s.here
  bank : t.bank s.here = { s.bank s.here with strand := { s.strand s.here with msglat := (t.strand s.here).msglat } }

theorem State.Measured.refl (s : State) : s.Measured s := ⟨rfl, ⟨fun _ _ => rfl, rfl, fun _ _ => rfl⟩, rfl⟩

theorem State.measured_measure (home : Home) : s.Measured (s.measure s.here home) := by
  obtain ⟨w, f, latency⟩ : ∃ w f, s.latency s.here.core home = (w, { s with fresh := f }) := ⟨_, _, rfl⟩
  obtain ⟨t, ht⟩ : ∃ t, t = State.modStrand { s with fresh := f } s.here fun st => { st with msglat := w } := ⟨_, rfl⟩
  obtain ⟨frame, only⟩ := State.onlyBank_modStrand { s with fresh := f } s.here fun st => { st with msglat := w }
  have bank := State.bank_modBank_self { s with fresh := f } s.here fun b => { b with strand := { b.strand with msglat := w } }
  rw [← ht] at frame only
  have bank' : t.bank s.here = { s.bank s.here with strand := { s.strand s.here with msglat := w } } := by
    rw [ht]
    exact bank
  have strand : (t.strand s.here).msglat = w := congrArg (·.strand.msglat) bank'
  have noted : s.measure s.here home = t.noteTraffic s.here.core home := by rw [State.measure, latency, ht]
  have measured : s.Measured t := by
    refine ⟨?_, only, by rw [bank', strand]⟩
    rw [frame]
  rw [noted, State.noteTraffic]
  split
  · exact measured
  · obtain ⟨frame', only', bank''⟩ := measured
    refine ⟨?_, only', bank''⟩
    rw [State.traffic, State.modPart]
    rw [frame']

/-- The state in which a task is placed: an access of another quad leaves its trace (R190). -/
def State.towards (s : State) (target : Nat) : State :=
  if quadOf target = quadOf s.cur then s else s.measure s.here (.track target 0)

theorem State.measured_towards (target : Nat) : s.Measured (s.towards target) := by
  rw [State.towards]
  split
  · exact .refl s
  · exact State.measured_measure _

/-! ## The deque (R341, R345) -/

/-- A core whose deque has one record more. -/
def Core.pushed (k : Core) : Core := { k with dqn := k.dqn + 1, stealIdle := false }.afterPush

/-- The place of the next record of a core's deque. -/
def Core.tail (k : Core) : Nat := (k.old.toNat + k.dqn.toNat) % 32

/-- A record stands at the tail of a core's deque, and nothing else of memory differs. -/
structure State.Pushed (s t : State) (c : Nat) (r : BitVec 512) : Prop where
  frame : t = { s with mem := t.mem, seals := t.seals, agenda := t.agenda, timers := t.timers, cores := t.cores }
  own : t.core c = (s.core c).pushed
  others : ∀ n, n ≠ c → t.core n = s.core n
  wf : t.MemoryWf
  posted : t.Posted (.bankFill c)
  entry : t.bitsAt (dequeKey c (s.core c).tail) 512 = r.toNat
  outside : ∀ k, k < dequeKey c (s.core c).tail ∨ dequeKey c (s.core c).tail + 512 ≤ k → t.bit k = s.bit k

theorem inScratchpad_dequeKey {c : Nat} (small : quadOf c < 2 ^ 18) (k : Core) : InScratchpad (quadOf c) (dequeKey c k.tail) 512 := by
  refine ⟨by omega, ?_, ?_⟩ <;> unfold dequeKey cabinet7 Core.tail indexInQuad <;> omega

/-- A record written at the tail of a core's deque and counted there. -/
theorem State.pushed_of_puts {u : State} {c : Nat} {r : BitVec 512} (quiet : (s.quad (quadOf c)).deferred = [])
    (puts : s.Puts u (quadOf c) (dequeKey c (s.core c).tail) (dequeKey c (s.core c).tail + 512) r.toNat) :
    s.Pushed (((u.modCore c Core.pushed).dropRound c).post (.bankFill c)) c r := by
  obtain ⟨frame, -⟩ := puts.still quiet
  have bits (k : Nat) : (((u.modCore c Core.pushed).dropRound c).post (.bankFill c)).bit k = u.bit k := by
    refine State.bit_of_mem ?_ ?_ ?_ ?_ k <;> rfl
  have core (n : Nat) : u.core n = s.core n := by rw [frame]; rfl
  refine ⟨?_, ?_, fun n other => ?_, puts.writes.wf, List.mem_append_right _ (List.mem_singleton_self _), ?_, fun k out => ?_⟩
  · rw [frame]
    rfl
  · rw [← core]
    exact u.core_modCore_self c _
  · rw [← core n]
    exact u.core_modCore_ne _ other
  · exact ((bitsAt_congr fun k _ _ => bits k).trans puts.writes.stored.1).trans r.toNat_mod_cancel
  · rw [bits, puts.writes.bit, if_neg (by omega)]

theorem State.dequePush_spec {c : Nat} (r : BitVec 512) (room : (s.core c).dqn.toNat < 32) (small : quadOf c < 2 ^ 18)
    (wf : s.MemoryWf) (clean : s.bad = []) (quiet : (s.quad (quadOf c)).deferred = []) :
    ∃ t, s.dequePush c r = some t ∧ s.Pushed t c r := by
  have free : (s.core c).hasRoom = true := by rw [Core.hasRoom, decide_eq_true room, Bool.true_or]
  have puts := s.puts_homeStore (.hardware c) wf clean (inScratchpad_dequeKey small (s.core c)) (by decide) r.toNat
  refine ⟨_, ?_, State.pushed_of_puts quiet puts⟩
  rw [State.dequePush, if_neg (by simp [free]), if_pos room]
  rfl

/-! ## JOIN (R175) -/

theorem State.initJoin_own {r : BitVec 512} {j : Nat} (join : taskJoin r ≠ 0 → s.NamesOwn (taskJoin r) 64 j) (wf : s.MemoryWf)
    (clean : s.bad = []) (quiet : (s.quad (quadOf s.cur)).deferred = []) : let t := s.initJoin s.cur r
    s.Quiet t ∧ t.MemoryWf ∧ (taskJoin r ≠ 0 → t.bitsAt j 64 = 1) ∧
      ∀ k, (taskJoin r = 0 ∨ k < j ∨ j + 64 ≤ k) → t.bit k = s.bit k := by
  intro t
  by_cases none : taskJoin r = 0
  · have same : t = s := by
      show s.initJoin s.cur r = s
      rw [State.initJoin, if_pos none]
    rw [same]
    exact ⟨.refl s, wf, fun some => absurd none some, fun _ _ => rfl⟩
  have names := (join none).word
  have located := names.located (le_refl _) (dvd_refl _) rfl s.cur (!taskSys r) false .store
  have taken : t = s.homeStore (.hardware s.cur) j 64 1 := by
    show s.initJoin s.cur r = _
    rw [State.initJoin, if_neg none, located]
    simp only [names.peerRefuses, List.any_cons, List.any_nil, names.within.not_guarded s (by decide)]
    rfl
  have puts := s.puts_homeStore (.hardware s.cur) wf clean names.within.inScratchpad (by decide) 1
  rw [← taken] at puts
  refine ⟨puts.still quiet, puts.writes.wf, fun _ => puts.writes.stored.1, fun k out => ?_⟩
  rw [puts.writes.bit, if_neg (by have := out.resolve_left none; omega)]

/-! ## The task placed (R99, R175) -/

/-- A task's record stands in the deque of a core, and its JOIN holds 1; beyond them, only the trace of an off-core access differs. -/
structure State.TaskPlaced (s t : State) (c : Nat) (r : BitVec 512) (j : Nat) : Prop where
  frame : t = { s with
    mem := t.mem, seals := t.seals, agenda := t.agenda, timers := t.timers, fresh := t.fresh, cores := t.cores
    part := { s.part with lastTraffic := t.part.lastTraffic } }
  core : ∀ n, t.core n = { s.core n with
    banks := (t.core n).banks, dqn := (t.core n).dqn, stealIdle := (t.core n).stealIdle, depthFirst := (t.core n).depthFirst }
  bank : t.bank s.here = { s.bank s.here with strand := { s.strand s.here with msglat := (t.strand s.here).msglat } }
  near : quadOf c = quadOf s.cur → (t.strand s.here).msglat = (s.strand s.here).msglat
  count : (t.core c).dqn = (s.core c).dqn + 1
  wf : t.MemoryWf
  posted : t.Posted (.bankFill c)
  entry : t.bitsAt (dequeKey c (s.core c).tail) 512 = r.toNat
  join : taskJoin r ≠ 0 → t.bitsAt j 64 = 1
  outside : ∀ k, (k < dequeKey c (s.core c).tail ∨ dequeKey c (s.core c).tail + 512 ≤ k) → (taskJoin r = 0 ∨ k < j ∨ j + 64 ≤ k) →
    t.bit k = s.bit k

/-- Where one bank and its core's other registers are all that may differ, each core differs in its banks alone. -/
theorem State.SameElsewhere.core {t : State} {p : Place} (h : s.SameElsewhere t p) (n : Nat) :
    t.core n = { s.core n with banks := (t.core n).banks } := by
  obtain ⟨others, own, -⟩ := h
  by_cases at' : n = p.core
  · rw [at']
    exact own
  · rw [others n at']

theorem State.placeTask_spec {c j : Nat} {r : BitVec 512} (some' : (taskLo r).toNat < (taskHi r).toNat) (room : (s.core c).dqn.toNat < 32)
    (small : quadOf c < 2 ^ 18) (join : taskJoin r ≠ 0 → s.NamesOwn (taskJoin r) 64 j) (wf : s.MemoryWf) (clean : s.bad = [])
    (there : (s.quad (quadOf c)).deferred = []) (quiet : (s.quad (quadOf s.cur)).deferred = []) :
    ∃ t, s.placeTask c r = some t ∧ s.TaskPlaced t c r j := by
  have measured := s.measured_towards c
  have near (same : quadOf c = quadOf s.cur) : s.towards c = s := if_pos same
  have steps : s.placeTask c r = ((s.towards c).dequePush c r).map fun t => t.initJoin s.cur r := by
    rw [State.placeTask, if_neg (by omega)]
    rfl
  generalize s.towards c = u at measured near steps
  have ucore := measured.only.core
  obtain ⟨uframe, -, ubank⟩ := measured
  have tail : (u.core c).tail = (s.core c).tail := by rw [Core.tail, ucore, Core.tail]
  have ubits (k : Nat) : u.bit k = s.bit k := by refine State.bit_of_mem ?_ ?_ ?_ ?_ k <;> rw [uframe]
  have uquad : u.quad = s.quad := by rw [uframe]; rfl
  have umem : u.MemoryWf := by rw [State.MemoryWf, uframe]; exact wf
  have ubad : u.bad = [] := by rw [uframe]; exact clean
  obtain ⟨v, pushes, pushed⟩ := u.dequePush_spec r (by rw [ucore]; exact room) small umem ubad (by rw [uquad]; exact there)
  obtain ⟨vframe, own, others, vwf, posted, entry, outside⟩ := pushed
  rw [tail] at entry outside
  have vcur : v.cur = s.cur := by rw [vframe, uframe]
  have vinside : v.part.inside = s.part.inside := by rw [vframe, uframe]; rfl
  have vquad : v.quad = s.quad := by rw [← uquad, vframe]; rfl
  have vjoin (some : taskJoin r ≠ 0) : v.NamesOwn (taskJoin r) 64 j := by
    rw [State.NamesOwn, vcur]
    exact State.Names.of_inside (join some) vinside
  obtain ⟨still, wf', joined, outside'⟩ := v.initJoin_own vjoin vwf (by rw [vframe]; exact ubad) (by rw [vcur, vquad]; exact quiet)
  rw [vcur] at still wf' joined outside'
  refine ⟨v.initJoin s.cur r, by rw [steps, pushes]; rfl, ?_⟩
  generalize v.initJoin s.cur r = t at still wf' joined outside'
  have tcore (n : Nat) : t.core n = v.core n := still.still.core n
  have tbank (p : Place) : t.bank p = v.bank p := still.still.bank p
  have vbanks (n : Nat) : v.core n = { s.core n with
      banks := (v.core n).banks, dqn := (v.core n).dqn, stealIdle := (v.core n).stealIdle, depthFirst := (v.core n).depthFirst } := by
    by_cases at' : n = c
    · rw [at', own, ucore, Core.pushed, Core.afterPush]
    · rw [others n at', ucore]
  have vbank (p : Place) : v.bank p = u.bank p := by
    rw [State.bank, State.bank]
    by_cases at' : p.core = c
    · rw [at', own, Core.pushed, Core.afterPush]
    · rw [others _ at']
  have strand : t.strand s.here = u.strand s.here := congrArg (·.strand) ((tbank s.here).trans (vbank s.here))
  have apart (some : taskJoin r ≠ 0) : j + 64 ≤ dequeKey c (s.core c).tail ∨ dequeKey c (s.core c).tail + 512 ≤ j := by
    obtain ⟨-, low, high⟩ := (join some).word.within
    unfold dequeKey cabinet7 Core.tail indexInQuad
    unfold scratchBase at low high ⊢
    omega
  refine ⟨?_, fun n => ?_, ?_, fun same => ?_, ?_, wf', still.agenda.subset posted, ?_, joined, fun k out clear => ?_⟩
  · rw [still.frame, vframe, uframe]
  · rw [tcore]
    exact vbanks n
  · rw [strand, tbank, vbank]
    exact ubank
  · rw [strand, near same]
  · rw [tcore, own, ucore, Core.pushed, Core.afterPush]
  · refine Eq.trans (bitsAt_congr fun k low high => outside' k ?_) entry
    by_cases none : taskJoin r = 0
    · exact .inl none
    · exact .inr (by have := apart none; omega)
  · rw [outside' k clear, outside k out, ubits]

end Sys2Proof.Machine
end

section
/-! O18 holds. SPAWN and SPAWN.AT of a record in the own quad's scratchpad: what it is checked for, where it goes, and what becomes of one
whose interval is empty (R105, R175, R345, R346). -/

namespace Sys2Proof.Machine

variable {s : State} {a : Word} {key : Nat}

/-! ## The checks -/

/-- The record that a SPAWN reads in its own quad. -/
def State.recordAt (s : State) (key : Nat) : BitVec 512 := BitVec.ofNat 512 (s.bitsAt key 512)

theorem State.readOwn_scratch (clean : s.bad = []) {n : Nat} (own : OwnScratch s a n key) :
    (s.noteAccess s.cur .load s.user a).readOwn a (scratchParts a n key) (.scratch (quadOf s.cur)) = (s.bitsAt key n, s) := by
  have near : s.noteAccess s.cur .load s.user a = s := by simp [State.noteAccess, State.misses, own.space]
  have home : (Home.scratch (quadOf s.cur)).own s.cur = true := beq_self_eq_true (quadOf s.cur)
  have refuses : s.peerRefuses a (scratchParts a n key) = false := by
    rw [State.peerRefuses, List.any_eq_false]
    intro p hp
    have below := (own.partsWithin p hp).below_peers
    simp [State.peerRefusesPart, own.space, Nat.not_le.2 below]
  rw [near, State.readOwn]
  simp only [home, if_true, refuses, Bool.false_eq_true, if_false]
  rw [State.loadParts_scratch (s := s) _ clean own.partsWithin, State.partsAt_scratchParts]

theorem State.spawnChecked_privilege (clean : s.bad = []) (own : OwnScratch s a 512 key) (at' : Option Word) (wait : Option Reg)
    (sys : taskSys (s.recordAt key) = true) (user : s.user = true) : s.spawnChecked a at' wait = s.trap .privilege a := by
  have denied : (taskSys (s.recordAt key) && s.user) = true := by rw [sys, user]; rfl
  rw [State.recordAt] at denied
  simp only [State.spawnChecked, own.located, State.readOwn_scratch clean own, denied, if_true]

/-- A record that SPAWN may give to a core. -/
structure State.Spawnable (s : State) (at' : Option Word) (c : Nat) (r : BitVec 512) : Prop where
  allowed : taskSys r = true → s.user = false
  target : s.spawnTarget at' = some c
  reserved : r.extractLsb' 474 6 = 0
  entry : (taskEntry r).toNat % 32 = 0
  ready : s.emptyWaits r = false

theorem State.Spawnable.formed {at' : Option Word} {c : Nat} {r : BitVec 512} (h : s.Spawnable at' c r) :
    (r.extractLsb' 474 6 != 0 || (taskEntry r).extractLsb' 0 5 != 0) = false := by
  have aligned' : (taskEntry r).extractLsb' 0 5 = 0 := BitVec.eq_of_toNat_eq (by simpa using h.entry)
  simp [h.reserved, aligned']

theorem State.Spawnable.privileged {at' : Option Word} {c : Nat} {r : BitVec 512} (h : s.Spawnable at' c r) :
    (taskSys r && s.user) = false := Bool.and_eq_false_imp.2 h.allowed

theorem State.spawnChecked_places (clean : s.bad = []) (own : OwnScratch s a 512 key) {at' : Option Word} {c : Nat}
    (good : s.Spawnable at' c (s.recordAt key)) {t : State} (placed : s.placeTask c (s.recordAt key) = some t) :
    s.spawnChecked a at' none = t.resume.advance.switch s.cur := by
  have formed := good.formed
  have privileged := good.privileged
  have ready := good.ready
  rw [State.recordAt] at formed privileged ready placed
  simp only [State.spawnChecked, own.located, State.readOwn_scratch clean own, privileged, good.target, formed, ready, placed]
  rfl

/-! ## The target -/

theorem Partition.pairCore_pair (p : Partition) {x y : Nat} (hx : x < 1024) (hy : y < 1024) (inside : p.inside x y = true) :
    p.pairCore (BitVec.ofNat 64 (y * 2 ^ 32 + x)) = some (coreId x y) := by
  have pair : (BitVec.ofNat 64 (y * 2 ^ 32 + x)).toNat = y * 2 ^ 32 + x := by
    rw [BitVec.toNat_ofNat]
    omega
  generalize BitVec.ofNat 64 (y * 2 ^ 32 + x) = v at pair ⊢
  have lowX : (v.extractLsb' 0 32).toNat = x := by
    rw [toNat_extractLsb', pair]
    omega
  have lowY : (v.extractLsb' 32 32).toNat = y := by
    rw [toNat_extractLsb', pair]
    omega
  have fx : (v.extractLsb' 0 32).toInt = x := by
    rw [BitVec.toInt_eq_toNat_of_lt (by rw [lowX]; omega), lowX]
  have fy : (v.extractLsb' 32 32).toInt = y := by
    rw [BitVec.toInt_eq_toNat_of_lt (by rw [lowY]; omega), lowY]
  simp only [Partition.pairCore, fx, fy, Int.toNat_natCast, inside, if_true]
  rw [if_neg (by omega)]

theorem quadOf_coreId_lt {x y : Nat} (hx : x < 1024) (hy : y < 1024) : quadOf (coreId x y) < 2 ^ 18 := by
  have cx : coreX (coreId x y) = x := by unfold coreX coreId; omega
  have cy : coreY (coreId x y) = y := by unfold coreY coreId; omega
  rw [quadOf, cx, cy]
  omega

/-! ## The strand goes on (R99) -/

theorem State.resume_advance (s : State) : s.resume.advance = s.modBank s.here Bank.goOn := by
  rw [State.resume, State.setStatus, State.advance_modBank]
  rfl

theorem State.bit_goOn (t : State) (k : Nat) : t.resume.advance.bit k = t.bit k := by
  rw [State.resume_advance, State.bit_modBank]

/-- A core keeps its deque when its strand goes on. -/
theorem State.core_goOn (t : State) (c : Nat) : t.resume.advance.core c = { t.core c with banks := (t.resume.advance.core c).banks } := by
  rw [State.resume_advance]
  exact (t.onlyBank_modBank t.here Bank.goOn).2.core c

/-- A strand that goes on, MSGLAT perhaps written. -/
theorem State.strand_goOn {t : State} (here : t.here = s.here)
    (bank : t.bank s.here = { s.bank s.here with strand := { s.strand s.here with msglat := (t.strand s.here).msglat } }) :
    t.resume.advance.strand s.here =
      { s.strand s.here with pc := s.pc + 32, msglat := (t.resume.advance.strand s.here).msglat } ∧
    (t.resume.advance.strand s.here).msglat = (t.strand s.here).msglat := by
  have now : t.resume.advance.strand s.here = { t.strand s.here with pc := (t.strand s.here).pc + 32 } := by
    rw [State.resume_advance, State.strand, here, State.bank_modBank_self]
    rfl
  have was : t.strand s.here = { s.strand s.here with msglat := (t.strand s.here).msglat } := congrArg (·.strand) bank
  refine ⟨?_, by rw [now]⟩
  rw [now, was]
  rfl

theorem State.TaskPlaced.here {t : State} {c j : Nat} {r : BitVec 512} (h : s.TaskPlaced t c r j) : t.here = s.here := by
  have cur : t.cur = s.cur := by rw [h.frame]
  rw [State.here, State.here, cur, h.core]

/-! ## A record with an empty interval (R346) -/

theorem State.placeTask_empty {c : Nat} {r : BitVec 512} (none : (taskHi r).toNat ≤ (taskLo r).toNat) :
    s.placeTask c r = some ((s.initJoin s.cur r).leafEnd s.cur r) := by
  rw [State.placeTask, if_pos none]

/-- Its leaf ends at once, JOIN having held 1. -/
theorem State.emptyTask_spec {r : BitVec 512} {j d g : Nat} (words : s.LeafWords r j d g) :
    let t := (s.initJoin s.cur r).leafEnd s.cur r
    s.Still t ∧ s.LeafEnded t r 1 j d g := by
  have ends := words.ends
  obtain ⟨init, wf, joined, outside⟩ := s.initJoin_own ends.join ends.wf ends.clean ends.quiet
  generalize s.initJoin s.cur r = u at init wf joined outside
  have cur : u.cur = s.cur := init.still.cur
  have full : u.full = s.full := by rw [init.frame]
  have named {a : Word} {k : Nat} (n : s.NamesOwn a 64 k) : u.NamesOwn a 64 k := by
    rw [State.NamesOwn, cur]
    exact State.Names.of_inside n init.still.inside
  have kept {a : Word} {k : Nat} (n : s.NamesOwn a 64 k) (ne : j ≠ k) : u.bitsAt k 64 = s.bitsAt k 64 :=
    bitsAt_congr fun b low high => outside b (by
      by_cases none : taskJoin r = 0
      · exact .inl none
      · exact .inr (by have := (ends.join none).word.apart n.word ne; omega))
  have started : u.EndsLeaf r j d g := by
    refine ⟨fun some => named (ends.join some), fun some => named (ends.done some), fun some => named (ends.gate some), ends.apart,
      init.still.bad.trans ends.clean, wf, ?_, ?_⟩
    · rw [cur, init.still.quad]
      exact ends.quiet
    · rw [full, init.still.evbase]
      exact ends.ring
  obtain ⟨still, -, ended, -⟩ := u.leafEnd_own started
  rw [cur] at still ended
  refine ⟨init.still.trans still, ?_⟩
  have agreed : s.LeafEnded (u.leafEnd s.cur r) r (u.bitsAt j 64) j d g :=
    ended.congr (fun some => kept (ends.done some) ends.apart.1) (fun some => kept (ends.gate some) ends.apart.2.1) full (fun _ _ => rfl) rfl
  by_cases none : taskJoin r = 0
  · obtain ⟨-, atDone, atGate⟩ := agreed
    exact ⟨fun some => absurd none some, fun some => ⟨fun _ => (atDone some).1 (.inl none), fun last => absurd (.inl none) last⟩,
      fun some => ⟨fun opens => (atGate some).1 ⟨.inl none, opens.2⟩, fun shut => (atGate some).2 fun opens => shut ⟨.inl none, opens.2⟩⟩⟩
  · rw [joined none] at agreed
    exact agreed

/-! ## What a push leaves (R175, R345) -/

/-- What a SPAWN that pushes its record leaves before its core passes on. -/
theorem State.TaskPlaced.goesOn {t : State} {c j : Nat} {r : BitVec 512} (h : s.TaskPlaced t c r j) : let u := t.resume.advance
    (u.strand s.here = { s.strand s.here with pc := s.pc + 32, msglat := (u.strand s.here).msglat } ∧
      (quadOf c = quadOf s.cur → (u.strand s.here).msglat = (s.strand s.here).msglat)) ∧
    u.full = s.full ∧ (u.core c).dqn = (s.core c).dqn + 1 ∧ (u.core c).old = (s.core c).old ∧ u.Posted (.bankFill c) ∧
    u.bitsAt (dequeKey c (s.core c).tail) 512 = r.toNat ∧ (taskJoin r ≠ 0 → u.bitsAt j 64 = 1) ∧
    ∀ b, (b < dequeKey c (s.core c).tail ∨ dequeKey c (s.core c).tail + 512 ≤ b) → (taskJoin r = 0 ∨ b < j ∨ j + 64 ≤ b) →
      u.bitsAt b 1 = s.bitsAt b 1 := by
  intro u
  obtain ⟨strand, kept⟩ := State.strand_goOn h.here h.bank
  have frame : u = { t with cores := u.cores } := by
    rfl
  have bits (key w : Nat) : u.bitsAt key w = t.bitsAt key w := bitsAt_congr fun k _ _ => t.bit_goOn k
  refine ⟨⟨strand, fun same => kept.trans (h.near same)⟩, ?_, ?_, ?_, ?_, (bits _ _).trans h.entry, fun some => (bits _ _).trans (h.join some),
    fun b out clear => ?_⟩
  · rw [frame, h.frame]
  · rw [t.core_goOn, h.count]
  · rw [t.core_goOn, h.core]
  · rw [frame]
    exact h.posted
  · rw [bits, State.bitsAt_one, State.bitsAt_one, h.outside b out clear]

/-- Settles O18: the record is read in the own quad, passes its checks, and stands at the tail of its deque, or its leaf ends at once. -/
theorem spawnPushesRecord : Obligations.SpawnPushesRecord := by
  unfold Obligations.SpawnPushesRecord
  intro s rs1 rs2 key target j d g issues wf names r k dk outside aimed goesOn pushes ends
  have own : OwnScratch s (s.reg rs1) 512 key := ownScratch_of_namesOwn names
  have ⟨_, clean, _⟩ := issues
  have here : s.spawnTarget none = some s.cur := rfl
  have there (aim : aimed) : s.spawnTarget (some (s.reg rs2)) = some target := by
    obtain ⟨x, y, hx, hy, inside, rfl, pair⟩ := aim
    rw [State.spawnTarget, pair]
    exact s.part.pairCore_pair hx hy inside
  refine ⟨fun sys user handles => ⟨?_, ?_⟩, fun allowed reserved entry => ⟨fun some' room join quiet waits => ?_, fun void words => ?_⟩⟩
  · exact ⟨_, congrArg Host.Outcome.next (State.spawnChecked_privilege clean own none none sys user), State.trapped_trap _ handles .privilege _⟩
  · exact ⟨_, congrArg Host.Outcome.next (State.spawnChecked_privilege clean own (some (s.reg rs2)) none sys user), State.trapped_trap _ handles .privilege _⟩
  · have ready : s.emptyWaits r = false := by rw [State.emptyWaits, decide_eq_false (by omega), Bool.false_and]
    have done {at' : Option Word} (small : quadOf target < 2 ^ 18) (aim : s.spawnTarget at' = some target) :
        pushes (s.spawnChecked (s.reg rs1) at' none) := by
      obtain ⟨t, placed, spec⟩ := State.placeTask_spec some' room small join wf clean waits quiet
      rw [State.spawnChecked_places clean own (c := target) ⟨allowed, aim, reserved, entry, ready⟩ placed]
      exact ⟨_, spec.goesOn, rfl⟩
    refine ⟨fun at' => ⟨_, rfl, done ?_ (here.trans (congrArg some at'.symm))⟩, fun aim => ⟨_, rfl, done ?_ (there aim)⟩⟩
    · rw [at']
      exact State.Names.quad_lt names
    · obtain ⟨x, y, hx, hy, -, rfl, -⟩ := aim
      exact quadOf_coreId_lt hx hy
  · have busy : s.leafBusy s.cur r = false := words.2.2.2.2.2.2.2.2.1
    have ready : s.emptyWaits r = false := by rw [State.emptyWaits, busy, Bool.and_false]
    have done {at' : Option Word} {c : Nat} (aim : s.spawnTarget at' = some c) : ends (s.spawnChecked (s.reg rs1) at' none) := by
      rw [State.spawnChecked_places clean own (c := c) ⟨allowed, aim, reserved, entry, ready⟩ (State.placeTask_empty void)]
      show ends (((s.initJoin s.cur r).leafEnd s.cur r).resume.advance.switch s.cur)
      obtain ⟨still, ended⟩ := State.emptyTask_spec words
      generalize (s.initJoin s.cur r).leafEnd s.cur r = t at still ended
      have same : t.strand s.here = s.strand s.here := congrArg (·.strand) (still.bank s.here)
      obtain ⟨strand, kept⟩ := State.strand_goOn still.here (by rw [same, still.bank]; rfl)
      refine ⟨_, ⟨⟨strand, fun _ => kept.trans (by rw [same])⟩, fun c => ?_, ?_⟩, rfl⟩
      · rw [t.core_goOn, still.core]
        exact ⟨rfl, rfl⟩
      · refine ended.congr (fun _ => rfl) (fun _ => rfl) rfl (fun w _ => bitsAt_congr fun k _ _ => t.bit_goOn k) ?_
        rw [State.resume_advance]
        rfl
    exact ⟨⟨_, rfl, done here⟩, fun aim => ⟨_, rfl, done (there aim)⟩⟩

end Sys2Proof.Machine
end

section
/-! O19 holds. SPAWN.W and SPAWN.AT.W place their record and then take GATE, a word of the own quad: full, it is read and emptied at once;
empty, the request waits at the home and the strand at its instruction (R97, R164, R175). -/

namespace Sys2Proof.Machine

variable {s : State} {a : Word} {key : Nat}

/-! ## A request that its home holds (R98, R164, R289) -/

theorem State.beginWait_frame (t : State) (p : Place) (unmarked : (t.bank p).mark = none) :
    ∃ timers agenda, t.beginWait p = { t with timers := timers, agenda := agenda } := by
  obtain ⟨timers, armed⟩ : ∃ timers, (if t.armed p then t else t.after 1024 (.waitWritebackTimeout p)) = { t with timers := timers } := by
    split
    · exact ⟨_, rfl⟩
    · exact ⟨_, rfl⟩
  obtain ⟨l, -, sought⟩ := State.seekBoundary_agenda { t with timers := timers } p.core
  refine ⟨timers, l, ?_⟩
  rw [State.beginWait, armed, sought]
  have mark : (State.bank { t with timers := timers, agenda := l } p).mark = none := unmarked
  simp only [mark, Option.isSome_none, Bool.false_and, Bool.false_eq_true, if_false]

theorem State.armResend_frame (t : State) (m : Msg) : ∃ timers, t.armResend m = { t with timers := timers } := by
  rw [State.armResend]
  split
  · exact ⟨_, rfl⟩
  · exact ⟨_, rfl⟩

theorem State.send_own_waits {m : Msg} (kind : WaitKind) {t : State} (passes : suspends m.op = true)
    (unmarked : (t.bank m.src).mark = none) (cur : t.cur = s.cur) (performed : s.perform m 0 = (t, none)) : ∃ timers agenda,
      s.send m (.scratch (quadOf s.cur)) kind =
        State.switch { t.setStatus m.src (.reply kind m.addr m.tag) with timers := timers, agenda := agenda } s.cur := by
  have own : (Home.scratch (quadOf s.cur)).own s.cur = true := beq_self_eq_true (quadOf s.cur)
  obtain ⟨timers, arms⟩ := (t.setStatus m.src (.reply kind m.addr m.tag)).armResend_frame m
  have mark : (State.bank { t.setStatus m.src (.reply kind m.addr m.tag) with timers := timers } m.src).mark = none := by
    have held := t.bank_modBank_self m.src fun b => { b with status := .reply kind m.addr m.tag }
    exact (congrArg Bank.mark held).trans unmarked
  obtain ⟨timers', agenda, waits⟩ := State.beginWait_frame _ m.src mark
  refine ⟨timers', agenda, ?_⟩
  simp only [State.send, own, performed, passes, arms, waits, if_true]
  exact congrArg _ cur

/-! ## GATE (R163) -/

theorem scratchParts_word (a : Word) (key : Nat) : scratchParts a 64 key = [⟨key, 64⟩] := by
  simp [scratchParts, splitParts, packedWidth]

theorem State.gateFound_own {gate : Nat} (names : s.NamesOwn a 64 gate) :
    s.gateFound a = .ok [⟨gate, 64⟩] (.scratch (quadOf s.cur)) := by
  have device : s.hostDenied .take .b64 a (.scratch (quadOf s.cur)) = false := rfl
  have layer : inLayer0 a (.scratch (quadOf s.cur)) = true := rfl
  simp only [State.gateFound, names.word.located (le_refl _) (dvd_refl _) rfl, device, layer]
  rfl

theorem State.request_gate (t : State) (a : Word) (gate : Nat) (rd : Reg) :
    t.request .take [⟨gate, 64⟩] (.scratch (quadOf t.cur)) a 0 0 rd 0 .spawn =
      t.bumpSeq.send (t.ownRequest .take a 0 rd 0 64 gate) (.scratch (quadOf t.cur)) .spawn := by
  rw [State.request, State.ownRequest, scratchParts_word]
  rfl

theorem State.spawnChecked_takes (clean : s.bad = []) (own : OwnScratch s a 512 key) {at' : Option Word} {c gate : Nat}
    (good : s.Spawnable at' c (s.recordAt key)) (some' : taskGate (s.recordAt key) ≠ 0)
    (names : s.NamesOwn (taskGate (s.recordAt key)) 64 gate) {t : State} (placed : s.placeTask c (s.recordAt key) = some t) (rd : Reg) :
    s.spawnChecked a at' (some rd) =
      t.request .take [⟨gate, 64⟩] (.scratch (quadOf s.cur)) (taskGate (s.recordAt key)) 0 0 rd 0 .spawn := by
  have formed := good.formed
  have privileged := good.privileged
  have ready := good.ready
  have found := State.gateFound_own names
  rw [State.recordAt] at *
  simp only [State.spawnChecked, own.located, State.readOwn_scratch clean own, privileged, good.target, formed, ready, placed, found,
    if_neg some']
  rfl

/-! ## The state after the push -/

section
variable {t : State} {c j : Nat} {r : BitVec 512} (h : s.TaskPlaced t c r j)
include h

theorem State.TaskPlaced.cur : t.cur = s.cur := by rw [h.frame]

theorem State.TaskPlaced.quad : t.quad = s.quad := by
  rw [h.frame]
  rfl

theorem State.TaskPlaced.issues (issues : s.Issues) : t.Issues := by
  obtain ⟨running, clean, room, answered, waiting⟩ := issues
  have filter : t.filter = s.filter := by
    rw [h.frame]
    rfl
  have seq : t.seq = s.seq := by rw [h.frame]
  have fits : t.filterRoom = s.filterRoom := by
    funext q p
    rw [State.filterRoom, filter, h.quad, State.filterRoom]
  refine ⟨?_, ?_, ?_, ?_, ?_⟩
  · rw [h.here, h.bank]
    exact running
  · rw [h.frame]
    exact clean
  · rw [fits, h.cur]
    exact room
  · rw [filter, h.cur, h.here, seq]
    exact answered
  · rw [h.quad, h.cur, h.here, seq]
    exact waiting

theorem State.TaskPlaced.noDrain (undrained : s.NoDrain) : t.NoDrain := by
  have sfp : (t.strand t.here).sfp = (s.strand s.here).sfp := by
    rw [h.here]
    exact congrArg (·.strand.sfp) h.bank
  have draining : (t.core t.cur).draining = (s.core s.cur).draining := by rw [h.cur, h.core]
  rw [State.NoDrain, sfp, draining]
  exact undrained

theorem State.TaskPlaced.names {b : Word} {w k : Nat} (names : s.NamesOwn b w k) : t.NamesOwn b w k := by
  rw [State.NamesOwn, h.cur]
  refine State.Names.of_inside names ?_
  rw [h.frame]
  rfl

/-- Words of cabinets 0 to 6 read as they did. -/
theorem State.TaskPlaced.word (none : taskJoin r = 0) {b : Word} {k : Nat} (names : s.NamesOwn b 64 k) : t.bitsAt k 64 = s.bitsAt k 64 := by
  obtain ⟨-, low, high⟩ := names.word.within
  refine bitsAt_congr fun i hi hi' => h.outside i ?_ (.inl none)
  unfold dequeKey cabinet7 Core.tail indexInQuad
  unfold scratchBase at low high ⊢
  omega

end

/-! ## What GATE leaves -/

theorem State.core_switch_deque (t : State) (c n : Nat) : ((t.switch c).core n).dqn = (t.core n).dqn := by
  by_cases at' : n = c
  · rw [at', State.core_switch]
  · rw [State.switch, State.core_modCore_ne _ _ at']

theorem State.bitsAt_switch (t : State) (c key w : Nat) : (t.switch c).bitsAt key w = t.bitsAt key w :=
  bitsAt_congr fun k _ _ => State.bit_of_mem (s := t) (t := t.switch c) rfl rfl rfl rfl k

/-- GATE is full: it is read into `rd` and emptied, and the strand passes a suspension point. -/
theorem State.gate_full {t : State} (issues : t.Issues) (undrained : t.NoDrain) (unmarked : (t.bank t.here).mark = none) {gate : Nat}
    (names : t.NamesOwn a 64 gate) (full : gate / 64 ∈ t.full) (rd : Reg) :
    let u := t.request .take [⟨gate, 64⟩] (.scratch (quadOf t.cur)) a 0 0 rd 0 .spawn
    (∀ n, (u.core n).dqn = (t.core n).dqn) ∧ (∀ k w, u.bitsAt k w = t.bitsAt k w) ∧
      (t.strand t.here).Passed (u.strand t.here)
        (fun x => if x = rd ∧ rd ≠ 0 then BitVec.ofNat 64 (t.bitsAt gate 64) else (t.strand t.here).kept x) ∧
      gate / 64 ∉ u.full ∧ (u.bank t.here).status = .running := by
  have own : OwnScratch t a 64 gate := ownScratch_of_namesOwn names
  have ⟨running, clean, _⟩ := issues
  have performed := State.operate_take_full clean own 0 rd 0 (.inl rfl) full
  have only : t.bumpSeq.MemoryOnly (t.bumpSeq.empty gate) := (t.bumpSeq.served_empty gate).only
  have bits (k w : Nat) : (t.bumpSeq.empty gate).bitsAt k w = t.bitsAt k w :=
    bitsAt_congr fun k _ _ => State.bit_of_mem (s := t) (t := t.bumpSeq.empty gate) rfl rfl rfl rfl k
  obtain ⟨-, elsewhere, bank⟩ := State.strand_got issues only (t.ownRequest .take a 0 rd 0 64 gate) (BitVec.ofNat 64 (t.bitsAt gate 64)) true
  rw [t.request_gate, State.send_own_value issues own .spawn rfl (fun _ => ⟨undrained, unmarked⟩) only performed]
  dsimp only
  refine ⟨fun n => ?_, fun k w => ?_, ?_, ?_, ?_⟩
  · rw [State.core_switch_deque, elsewhere.core]
  · rw [State.bitsAt_switch]
    exact (bitsAt_congr fun k _ _ => State.bit_got t _ _ _ true k).trans (bits k w)
  · have received := congrArg (·.strand) ((State.bank_switch _ t.cur t.here).trans bank)
    have passed := (t.strand t.here).passed_setReg rd (BitVec.ofNat 64 (t.bitsAt gate 64))
    rw [← Strand.takeAnswer_suspends (s := t) (a := a) (n := 64) (key := gate) (op := .take) _ rfl 0 rd 0 _ true] at passed
    exact Eq.mpr (congrArg (fun b => (t.strand t.here).Passed b _) received) passed
  · rw [State.switch_full, State.full_got, State.mem_empty]
    exact fun still => still.2 rfl
  · rw [State.bank_switch, bank]
    exact running

/-- GATE is empty: the home holds the request, and the strand waits at its instruction. -/
theorem State.gate_empty {t : State} (issues : t.Issues) (unmarked : (t.bank t.here).mark = none) {gate : Nat}
    (names : t.NamesOwn a 64 gate) (quiet : (t.quad (quadOf t.cur)).deferred = []) (empty : gate / 64 ∉ t.full) (rd : Reg) :
    let u := t.request .take [⟨gate, 64⟩] (.scratch (quadOf t.cur)) a 0 0 rd 0 .spawn
    (∀ n, (u.core n).dqn = (t.core n).dqn) ∧ (∀ k w, u.bitsAt k w = t.bitsAt k w) ∧
      u.strand t.here = t.strand t.here ∧ (u.bank t.here).status = .reply .spawn a (t.seq + 1) ∧
      t.ownRequest .take a 0 rd 0 64 gate ∈ (u.quad (quadOf t.cur)).deferred := by
  have own : OwnScratch t a 64 gate := ownScratch_of_namesOwn names
  have unseen := State.unseen_ownRequest issues own .take 0 rd 0
  have performed := State.perform_holds unseen (State.operate_take_empty 0 rd 0 empty) (by
    show (t.quad (quadOf t.cur)).deferred.length < 64
    rw [quiet]
    decide)
  obtain ⟨v, hv⟩ : ∃ v, v = t.bumpSeq.modQuad (quadOf t.cur) fun x =>
    { x with deferred := x.deferred ++ [t.ownRequest .take a 0 rd 0 64 gate] } := ⟨_, rfl⟩
  rw [← hv] at performed
  have held : t.ownRequest .take a 0 rd 0 64 gate ∈ (v.quad (quadOf t.cur)).deferred := by
    rw [hv, State.quad_modQuad_self]
    exact List.mem_append_right _ (List.mem_singleton_self _)
  have bank : v.bank = t.bank := by
    rw [hv]
    rfl
  have core : v.core = t.core := by
    rw [hv]
    rfl
  have cur : v.cur = t.cur := by rw [hv]; rfl
  have bits (k w : Nat) : v.bitsAt k w = t.bitsAt k w := bitsAt_congr fun k _ _ => by
    refine State.bit_of_mem ?_ ?_ ?_ ?_ k <;> rw [hv] <;> rfl
  obtain ⟨timers, agenda, waits⟩ := State.send_own_waits (s := t.bumpSeq) (m := t.ownRequest .take a 0 rd 0 64 gate) .spawn rfl
    (by rw [bank]; exact unmarked) cur performed
  obtain ⟨-, elsewhere⟩ := v.onlyBank_modBank t.here fun b => { b with status := .reply .spawn a (t.seq + 1) }
  have status := v.bank_modBank_self t.here fun b => { b with status := .reply .spawn a (t.seq + 1) }
  have whole : t.request .take [⟨gate, 64⟩] (.scratch (quadOf t.cur)) a 0 0 rd 0 .spawn =
      State.switch { v.setStatus t.here (.reply .spawn a (t.seq + 1)) with timers := timers, agenda := agenda } t.cur :=
    (t.request_gate a gate rd).trans waits
  rw [whole]
  have banked : (State.switch { v.setStatus t.here (.reply .spawn a (t.seq + 1)) with timers := timers, agenda := agenda } t.cur).bank t.here =
      { t.bank t.here with status := .reply .spawn a (t.seq + 1) } := by
    rw [State.bank_switch, ← bank]
    exact status
  dsimp only
  refine ⟨fun n => ?_, fun k w => ?_, ?_, ?_, held⟩
  · rw [State.core_switch_deque, ← core]
    have kept := congrArg Core.dqn (elsewhere.core n)
    exact kept
  · rw [State.bitsAt_switch, ← bits]
    refine bitsAt_congr fun k _ _ => ?_
    refine State.bit_of_mem ?_ ?_ ?_ ?_ k <;> rfl
  · rw [State.strand, banked]
    rfl
  · rw [banked]

/-- MSGLAT of a strand that has placed a task: its own where the target is in its quad. -/
theorem State.TaskPlaced.measured {t : State} {c j : Nat} {r : BitVec 512} (h : s.TaskPlaced t c r j) {b : Strand}
    (same : b.msglat = (t.strand s.here).msglat) :
    { s.strand s.here with msglat := if quadOf c = quadOf s.cur then (s.strand s.here).msglat else b.msglat } = t.strand s.here := by
  have strand : t.strand s.here = { s.strand s.here with msglat := (t.strand s.here).msglat } := congrArg (·.strand) h.bank
  refine Eq.trans (congrArg (fun w => { s.strand s.here with msglat := w }) ?_) strand.symm
  by_cases near : quadOf c = quadOf s.cur
  · rw [if_pos near, h.near near]
  · rw [if_neg near, same]

theorem State.TaskPlaced.kept {t : State} {c j : Nat} {r : BitVec 512} (h : s.TaskPlaced t c r j) :
    (t.strand s.here).kept = (s.strand s.here).kept := by
  have strand : t.strand s.here = { s.strand s.here with msglat := (t.strand s.here).msglat } := congrArg (·.strand) h.bank
  rw [strand]
  rfl

/-- Settles O19: the record is placed as the other forms place it, and then GATE is taken, at once or by a request that its home holds. -/
theorem spawnThenTakesGate : Obligations.SpawnThenTakesGate := by
  unfold Obligations.SpawnThenTakesGate
  intro s rd rs1 rs2 key gate target issues wf vectors undrained unmarked names r gateNames some' allowed reserved entry noJoin more room there
    quiet a pushed measured does
  have own : OwnScratch s (s.reg rs1) 512 key := ownScratch_of_namesOwn names
  have ⟨_, clean, _⟩ := issues
  have ready : s.emptyWaits r = false := by rw [State.emptyWaits, decide_eq_false (by omega), Bool.false_and]
  have done {at' : Option Word} (small : quadOf target < 2 ^ 18) (aim : s.spawnTarget at' = some target) :
      does (s.spawn (s.reg rs1) at' (some rd)) := by
    obtain ⟨t, placed, spec⟩ := State.placeTask_spec more room small (j := 0) (fun join => absurd noJoin join) wf clean there quiet
    have good : s.Spawnable at' target r := ⟨allowed, aim, reserved, entry, ready⟩
    have taken : s.spawn (s.reg rs1) at' (some rd) = t.request .take [⟨gate, 64⟩] (.scratch (quadOf t.cur)) (taskGate r) 0 0 rd 0 .spawn := by
      rw [State.spawn, if_pos Option.isSome_some, s.whenDrained_eq true vectors undrained, spec.cur]
      exact State.spawnChecked_takes clean own good some' gateNames placed rd
    have full : t.full = s.full := by rw [spec.frame]
    have mark : (t.bank t.here).mark = none := by
      rw [spec.here, spec.bank]
      exact unmarked
    have word : t.bitsAt gate 64 = s.bitsAt gate 64 := spec.word noJoin gateNames
    rw [taken]
    by_cases filled : gate / 64 ∈ s.full
    · obtain ⟨count, bits, passed, emptied, running⟩ := State.gate_full (spec.issues issues) (spec.noDrain undrained) mark (spec.names gateNames)
        (full ▸ filled) rd
      rw [spec.here] at passed running
      generalize t.request .take _ _ _ _ _ _ _ _ = u at count bits passed emptied running
      refine ⟨⟨(count target).trans spec.count, (bits _ _).trans spec.entry⟩, ?_⟩
      have strand : measured u = t.strand s.here := by
        have unchanged := congrArg Strand.msglat passed.1
        exact spec.measured unchanged
      rw [if_pos filled, strand]
      refine ⟨?_, emptied, running⟩
      rw [word, spec.kept] at passed
      exact passed
    · obtain ⟨count, bits, strand, waits, held⟩ := State.gate_empty (spec.issues issues) mark (spec.names gateNames)
        (by rw [spec.quad, spec.cur]; exact quiet) (full ▸ filled) rd
      rw [spec.here] at strand waits
      generalize t.request .take _ _ _ _ _ _ _ _ = u at count bits strand waits held
      have before : measured u = t.strand s.here := spec.measured (congrArg Strand.msglat strand)
      have seq : t.seq = s.seq := by rw [spec.frame]
      refine ⟨⟨(count target).trans spec.count, (bits _ _).trans spec.entry⟩, ?_⟩
      rw [if_neg filled, before, ← seq]
      rw [spec.cur] at held
      exact ⟨strand, waits, _, held, rfl, spec.here, scratchParts_word (taskGate r) gate, rfl⟩
  refine ⟨fun at' => ⟨_, rfl, done ?_ (congrArg some at'.symm)⟩, fun x y hx hy inside at' pair => ⟨_, rfl, done ?_ ?_⟩⟩
  · rw [at']
    exact State.Names.quad_lt names
  · rw [at']
    exact quadOf_coreId_lt hx hy
  · rw [State.spawnTarget, pair, at']
    exact s.part.pairCore_pair hx hy inside

end Sys2Proof.Machine
end
